-- ==== Sys2Proof/Word.lean ====
section
/-! DEFINITION. The word types of the W25 module: bytes, registers, addresses and descriptors. -/

namespace Sys2Proof

/-- One byte. -/
abbrev Byte := BitVec 8

/-- A 32-bit register or field, and the encoding of an FP32 value. -/
abbrev W32 := BitVec 32

/-- A 64-bit word: a signal word, a stream key or counter, the local time counter. -/
abbrev W64 := BitVec 64

/-- A 128-byte descriptor (R231), little-endian: byte `o` is bits `8*o` to `8*o + 7`. -/
abbrev Desc := BitVec 1024

/-- A 64-byte line, little-endian. -/
abbrev Line := BitVec 512

end Sys2Proof
end

