-- ==== Sys2Proof/Syntax.lean ====
section
/-! DEFINITION. The commands of the block: one constructor per row of spec/opcode_table.json, with the row's operands.
A row that names a descriptor's command takes the context and the ring index of that descriptor: the descriptor itself was
copied into the hub by DESCRIPTOR_FETCH (R228). -/

namespace Sys2Proof

/-- A flit as received on a port (R287), without the fields that the row itself fixes (msg_type) or that the port checks
before delivery (link_seq, crc, R288). Its length field is the length of `data`. -/
structure Flit where
  cls     : Nat
  dst     : Nat
  src     : Nat
  epoch   : Nat
  seq     : Nat
  tag     : Nat
  address : Nat
  data    : List Byte
  deriving DecidableEq, Repr, Inhabited

/-- What an AtomicOp through the carafe aperture does (R342). -/
inductive AtomicOp where
  | fetchAdd
  | swap
  | cas
  deriving DecidableEq, Repr

/-- What an IDE_KM message does to a stream (R355, R362). -/
inductive IdeKmOp where
  | program
  | refresh
  | disable
  | setRequire (v : Bool)
  deriving DecidableEq, Repr

/-- The commands, in the order of spec/opcode_table.json. -/
inductive Instr where
  -- descriptors of the Compute class
  | matmul (ctx idx : Nat)
  | convert (ctx idx : Nat)
  | attend (ctx idx : Nat)
  | attendBwd (ctx idx : Nat)
  | fold (ctx idx : Nat)
  | scan (ctx idx : Nat)
  | eltwise (ctx idx : Nat)
  | window (ctx idx : Nat)
  | detect (ctx idx : Nat)
  -- descriptors of the Move class
  | pageMove (ctx idx : Nat)
  | tileMove (ctx idx : Nat)
  | alloc (ctx idx : Nat)
  | free (ctx idx : Nat)
  | pin (ctx idx : Nat)
  | unpin (ctx idx : Nat)
  | evict (ctx idx : Nat)
  | retire (ctx idx : Nat)
  | recall (ctx idx : Nat)
  -- descriptors of the Sequence-cache class
  | append (ctx idx : Nat)
  | tableUpdate (ctx idx : Nat)
  | verify (ctx idx : Nat)
  | prefixMatch (ctx idx : Nat)
  | fork (ctx idx : Nat)
  | prune (ctx idx : Nat)
  | promote (ctx idx : Nat)
  | park (ctx idx : Nat)
  | unpark (ctx idx : Nat)
  -- descriptors of the Collective class
  | reduce (ctx idx : Nat)
  | allReduce (ctx idx : Nat)
  | allGather (ctx idx : Nat)
  | broadcast (ctx idx : Nat)
  -- descriptors of the Control class
  | fence (ctx idx : Nat)
  | wait (ctx idx : Nat)
  | signal (ctx idx : Nat)
  | huddle (ctx idx : Nat)
  | setSwap (ctx idx : Nat)
  | take (ctx idx : Nat)
  | vote (ctx idx : Nat)
  | takeIf (ctx idx : Nat)
  | restore (ctx idx : Nat)
  | query (ctx idx : Nat)
  | digest (ctx idx : Nat)
  | check (ctx idx : Nat)
  | standby (ctx idx : Nat)
  -- the front end and the life of a command
  | doorbellPoll (ctx : Nat)
  | pollResult (ctx sqTail cqHead : Nat)
  | ringAccessError (ctx : Nat)
  | descriptorFetch (ctx : Nat) (desc : Desc)
  | commandPlace (ctx idx : Nat)
  | rowInstructionIssue (ctx idx : Nat)
  | lineArrival (q counter address : Nat) (line : Line) (poisoned : Bool)
  | tileDrain (ctx idx : Nat)
  | lookasideFill (region head token : Nat)
  | generationRetry (ctx idx : Nat)
  | haloSignalPoll (ctx idx : Nat)
  | commandCommit (ctx idx : Nat)
  | completionRecordWrite (ctx idx : Nat)
  | irqHoldoffExpiry (ctx : Nat)
  | commandKill (ctx idx : Nat)
  | contextEnable (ctx : Nat)
  | contextStop (ctx : Nat)
  | contextStopDone (ctx : Nat)
  | contextResume (ctx : Nat)
  | contextReset (ctx : Nat)
  | contextResetDone (ctx : Nat)
  | waitPoll (ctx idx : Nat)
  | waitTimeout (ctx idx : Nat)
  | huddleTimeout (huddle : Nat)
  -- residency and placement
  | contextEvict (ctx runnable : Nat)
  | markWaitTimeout (ctx : Nat)
  | contextSaveDone (ctx : Nat)
  | contextRestore (ctx : Nat)
  | contextRestoreDone (ctx : Nat)
  | placementLoop (rates : List Nat) (moves : List (Nat × Nat))
  -- dies and carafes
  | dieReset (die : Nat)
  | linkDieReset (ld : Nat)
  | carafeUncorrectable (address reason : Nat)
  | ageingPeriod
  | pageEviction (die mode sel : Nat)
  | pageRecall (page : Nat)
  | patrolScrub (die channel lines found : Nat) (periodEnd : Bool)
  | channelSubstitution (die channel cause : Nat)
  | channelSwitch (die : Nat)
  | channelRetrainDone (die : Nat) (passed : Bool)
  | channelRemap (die : Nat)
  | carafeThrottle (die layer temp : Nat)
  | retireQueuePop
  | invAll
  | branchDirEnable (lo : Nat)
  | aclLoad (ctx lo : Nat) (list : List Byte)
  -- messages of the links
  | readReq (port : Nat) (f : Flit)
  | readReply (port : Nat) (f : Flit)
  | writeData (port : Nat) (f : Flit)
  | hold (port : Nat) (f : Flit)
  | commit (port : Nat) (f : Flit)
  | ack (port : Nat) (f : Flit)
  | holdLapse (src tag : Nat)
  | collLine (port : Nat) (f : Flit)
  | collAbort (port : Nat) (f : Flit)
  | signalMsg (port : Nat) (f : Flit)
  | huddleMsg (port : Nat) (f : Flit)
  | deathNotice (port : Nat) (f : Flit)
  | present (port : Nat) (f : Flit)
  | flitReplay (port : Nat)
  | rallySlot (ld : Nat)
  | segmentDeadline (ctx idx segment : Nat)
  -- the ports and the routes
  | portEnable (port : Nat) (enable : Bool)
  | portRetrain (port : Nat)
  | portTrained (port peer : Nat)
  | portTrainingTimeout (port : Nat)
  | portRetryTimer (port : Nat)
  | replayStorm (port : Nat)
  | portLockLoss (port : Nat)
  | portRecovered (port : Nat)
  | recoveryTimeout (port : Nat)
  | unreachableTimeout (target : Nat)
  | routeStore (index : Nat)
  | routeLoad (index : Nat)
  | declareDead (target : Nat)
  | hubHeartbeatLoss
  | watchdogTimeout (byReferee : Bool)
  | baristaRestart
  -- resets and the host ports
  | powerOnReset
  | moduleReset
  | perst (port : Nat)
  | reducedFunctionReset (port : Nat)
  | powerLoss
  | pcieLinkChange (port link speed width : Nat) (flit : Bool)
  | completionTimeout (port : Nat)
  | owningPortLost
  | takeover (port : Nat)
  | handoverRequest (port : Nat)
  | apertureRead (offset size : Nat)
  | apertureWrite (offset : Nat) (data : List Byte)
  | apertureAtomic (offset size : Nat) (op : AtomicOp) (operand compare : Nat)
  | msixUnmask (vector : Nat)
  | ideKm (port stream : Nat) (op : IdeKmOp)
  | ideIntegrityFail (port stream : Nat)
  | traceEnable
  -- configuration sets
  | benchWrite (offset : Nat) (data : List Byte)
  | benchCheck
  | benchLoad (image : Option (List Byte))
  | swap
  | umpireAdmit
  | drainTimeout
  | swapPoint
  -- power and temperature
  | powerCapPeriod (watts : Nat)
  | boostStep (region : Nat)
  | voltageLoop (region : Nat) (marginLow : Bool)
  | droopStretch (region : Nat)
  | regionGate (region : Nat)
  | dieThrottleStep (die reading : Nat)
  | dieThrottleRelease (die reading : Nat)
  | thermalEmergencyEnter (sensor reading : Nat)
  | thermalEmergencyExit
  | thermalTrip (sensor reading : Nat)
  | coolantHot (reading : Nat)
  | sensorRecalibration (die sensor : Nat)
  -- standby
  | standbyQuiesced
  | standbyPowerOff
  | wakeTimer
  | standbyResume
  -- Barista's registers
  | logFlush
  | logSelect (lo : Nat)
  | calendarSet
  | fwActivate
  | cancelPending
  -- management messages: `ep` is the endpoint (0 host port A, 1 host port B, 2 sideband)
  | logRead (ep first count : Nat)
  | wake (ep : Nat)
  | setEndpointId (ep eid : Nat)
  | getEndpointId (ep : Nat)
  | getEndpointUuid (ep : Nat)
  | getMctpVersionSupport (ep msgType : Nat)
  | getMessageTypeSupport (ep : Nat)
  | getVendorDefinedMessageSupport (ep selector : Nat)
  | getTid (ep : Nat)
  | setTid (ep tid : Nat)
  | getPldmVersion (ep pldmType : Nat)
  | getPldmTypes (ep : Nat)
  | getPldmCommands (ep pldmType : Nat)
  | getPdrRepositoryInfo (ep : Nat)
  | getPdr (ep record : Nat)
  | getSensorReading (ep sensor : Nat)
  | setNumericSensorEnable (ep sensor : Nat) (enable : Bool)
  | setEventReceiver (ep receiver : Nat)
  | pollForPlatformEventMessage (ep : Nat)
  | queryDeviceIdentifiers (ep : Nat)
  | getFirmwareParameters (ep : Nat)
  | requestUpdate (ep : Nat)
  | passComponentTable (ep component : Nat)
  | updateComponent (ep component size : Nat)
  | firmwareData (ep : Nat) (data : List Byte)
  | transferComplete (ep : Nat)
  | activateFirmware (ep : Nat) (selfContained : Bool)
  | getStatus (ep : Nat)
  | cancelUpdateComponent (ep : Nat)
  | cancelUpdate (ep : Nat)
  | updateTimeout
  -- SPDM requests: `tr` is the transport (0, 1 the DOE mailboxes of ports A and B; 2, 3, 4 the MCTP endpoints)
  | getVersion (tr : Nat)
  | getCapabilities (tr : Nat)
  | negotiateAlgorithms (tr : Nat) (algorithms : List Nat)
  | getDigests (tr : Nat)
  | getCertificate (tr slot offset length : Nat)
  | challenge (tr slot : Nat) (nonce : List Byte)
  | keyExchange (tr session : Nat) (exchange : List Byte)
  | finish (tr session : Nat) (verifyData : List Byte)
  | heartbeat (tr session : Nat)
  | keyUpdate (tr session op : Nat)
  | endSession (tr session : Nat)
  | report (tr : Nat) (nonce : List Byte) (ranges : List (Nat × Nat))
  -- registers and remaining events
  | registerWrite (port offset size value : Nat)
  | scratchpadUncorrectable (q address : Nat) (accumulator : Bool)
  | dieResetDone (link : Bool) (die : Nat)
  | perstRelease (port : Nat)
  | functionReady (port : Nat)
  | startupComplete
  | transitMessage (port msgType : Nat) (f : Flit)
  | localTimeLoRead (calendar : Bool)
  | calVbatChange (inRange : Bool)
  deriving DecidableEq, Repr

end Sys2Proof
end

