-- ==== Sys2Proof/WellFormed.lean ====
section
/-! DEFINITION. When a command is well formed: every operand lies in the range that the manual gives the thing it numbers. -/

namespace Sys2Proof

/-- R24: 256 contexts. -/
def ctxOk (n : Nat) : Bool := decide (n < 256)

/-- R226: a ring index, and any other 32-bit value. -/
def idxOk (n : Nat) : Bool := decide (n < 2 ^ 32)

/-- R15: 16 compute dies, with a carafe each. -/
def dieOk (d : Nat) : Bool := decide (d < 16)

/-- R15: 8 link dies. -/
def linkDieOk (d : Nat) : Bool := decide (d < 8)

/-- R25: 64 regions. -/
def regionOk (r : Nat) : Bool := decide (r < 64)

/-- R25: 512 clusters. -/
def clusterOk (q : Nat) : Bool := decide (q < 512)

/-- R31: 64 arrival counters in a cluster. -/
def counterOk (c : Nat) : Bool := decide (c < 64)

/-- R190: a global address. -/
def addressOk (a : Nat) : Bool := decide (a < 2 ^ 64)

/-- R25: 64 channels in a carafe. -/
def channelOk (c : Nat) : Bool := decide (c < 64)

/-- R287: ports P0 to P31. -/
def portOk (p : Nat) : Bool := decide (p < 32)

/-- R342: host ports 0 (A) and 1 (B). -/
def hostPortOk (p : Nat) : Bool := decide (p < 2)

/-- R25, R190: a module identifier. -/
def moduleOk (m : Nat) : Bool := decide (m < 16384)

/-- R251: a huddle counter. -/
def huddleOk (h : Nat) : Bool := decide (h < 1024)

/-- R194: a pool page. -/
def pageOk (p : Nat) : Bool := decide (p < 2 ^ 23)

/-- R201: an interleave mode, and what it selects. -/
def modeOk (m : Nat) : Bool := decide (m ≤ 2)
def selOk (n : Nat) : Bool := decide (n < 64)

/-- R214, R215: a reason of a retirement, and a cause of a substitution. -/
def reasonOk (r : Nat) : Bool := decide (r < 8)
def causeOk (c : Nat) : Bool := decide (c < 8)

/-- R220: a layer of a carafe. -/
def layerOk (l : Nat) : Bool := decide (l < 6)

/-- R406: a sensor. -/
def sensorOk (n : Nat) : Bool := decide (n ≤ 170)

/-- A value of 16 bits, and one of 8. -/
def halfOk (n : Nat) : Bool := decide (n < 65536)
def byteOk (n : Nat) : Bool := decide (n < 256)

/-- R348: an MSI-X vector. -/
def vectorOk (v : Nat) : Bool := decide (v < 2048)

/-- R355: two streams on a port. -/
def streamOk (n : Nat) : Bool := decide (n < 2)

/-- R419: an MCTP endpoint; R431: a transport of SPDM. -/
def epOk (e : Nat) : Bool := decide (e < 3)
def transportOk (t : Nat) : Bool := decide (t < 5)

/-- R343: BAR0, its carafe aperture and its bench window. -/
def barOk (o n : Nat) : Bool := decide (o + n ≤ 2 ^ 26)
def apertureOk (o n : Nat) : Bool := decide (o + n ≤ 2 ^ 25)
def benchOk (o n : Nat) : Bool := decide (o + n ≤ 65536)

/-- R270: a rate for each region. -/
def ratesOk (rs : List Nat) : Bool := decide (rs.length = 64)

/-- R287: the widths of a flit's fields. -/
def flitOk (f : Flit) : Bool :=
  decide (f.cls < 256 ∧ f.dst < 65536 ∧ f.src < 65536 ∧ f.epoch < 65536 ∧ f.seq < 2 ^ 32 ∧ f.tag < 2 ^ 32 ∧ f.address < 2 ^ 64)
    && decide (f.data.length ≤ 256)

/-- A well-formed command. -/
def Instr.wf (i : Instr) : Bool :=
  match i with
  | .matmul ctx idx => ctxOk ctx && idxOk idx
  | .convert ctx idx => ctxOk ctx && idxOk idx
  | .attend ctx idx => ctxOk ctx && idxOk idx
  | .attendBwd ctx idx => ctxOk ctx && idxOk idx
  | .fold ctx idx => ctxOk ctx && idxOk idx
  | .scan ctx idx => ctxOk ctx && idxOk idx
  | .eltwise ctx idx => ctxOk ctx && idxOk idx
  | .window ctx idx => ctxOk ctx && idxOk idx
  | .detect ctx idx => ctxOk ctx && idxOk idx
  | .pageMove ctx idx => ctxOk ctx && idxOk idx
  | .tileMove ctx idx => ctxOk ctx && idxOk idx
  | .alloc ctx idx => ctxOk ctx && idxOk idx
  | .free ctx idx => ctxOk ctx && idxOk idx
  | .pin ctx idx => ctxOk ctx && idxOk idx
  | .unpin ctx idx => ctxOk ctx && idxOk idx
  | .evict ctx idx => ctxOk ctx && idxOk idx
  | .retire ctx idx => ctxOk ctx && idxOk idx
  | .recall ctx idx => ctxOk ctx && idxOk idx
  | .append ctx idx => ctxOk ctx && idxOk idx
  | .tableUpdate ctx idx => ctxOk ctx && idxOk idx
  | .verify ctx idx => ctxOk ctx && idxOk idx
  | .prefixMatch ctx idx => ctxOk ctx && idxOk idx
  | .fork ctx idx => ctxOk ctx && idxOk idx
  | .prune ctx idx => ctxOk ctx && idxOk idx
  | .promote ctx idx => ctxOk ctx && idxOk idx
  | .park ctx idx => ctxOk ctx && idxOk idx
  | .unpark ctx idx => ctxOk ctx && idxOk idx
  | .reduce ctx idx => ctxOk ctx && idxOk idx
  | .allReduce ctx idx => ctxOk ctx && idxOk idx
  | .allGather ctx idx => ctxOk ctx && idxOk idx
  | .broadcast ctx idx => ctxOk ctx && idxOk idx
  | .fence ctx idx => ctxOk ctx && idxOk idx
  | .wait ctx idx => ctxOk ctx && idxOk idx
  | .signal ctx idx => ctxOk ctx && idxOk idx
  | .huddle ctx idx => ctxOk ctx && idxOk idx
  | .setSwap ctx idx => ctxOk ctx && idxOk idx
  | .take ctx idx => ctxOk ctx && idxOk idx
  | .vote ctx idx => ctxOk ctx && idxOk idx
  | .takeIf ctx idx => ctxOk ctx && idxOk idx
  | .restore ctx idx => ctxOk ctx && idxOk idx
  | .query ctx idx => ctxOk ctx && idxOk idx
  | .digest ctx idx => ctxOk ctx && idxOk idx
  | .check ctx idx => ctxOk ctx && idxOk idx
  | .standby ctx idx => ctxOk ctx && idxOk idx
  | .doorbellPoll ctx => ctxOk ctx
  | .pollResult ctx sqTail cqHead => ctxOk ctx && idxOk sqTail && idxOk cqHead
  | .ringAccessError ctx => ctxOk ctx
  | .descriptorFetch ctx _ => ctxOk ctx
  | .commandPlace ctx idx => ctxOk ctx && idxOk idx
  | .rowInstructionIssue ctx idx => ctxOk ctx && idxOk idx
  | .lineArrival q counter address _ _ => clusterOk q && counterOk counter && addressOk address
  | .tileDrain ctx idx => ctxOk ctx && idxOk idx
  | .lookasideFill region head _ => regionOk region && addressOk head
  | .generationRetry ctx idx => ctxOk ctx && idxOk idx
  | .haloSignalPoll ctx idx => ctxOk ctx && idxOk idx
  | .commandCommit ctx idx => ctxOk ctx && idxOk idx
  | .completionRecordWrite ctx idx => ctxOk ctx && idxOk idx
  | .irqHoldoffExpiry ctx => ctxOk ctx
  | .commandKill ctx idx => ctxOk ctx && idxOk idx
  | .contextEnable ctx => ctxOk ctx
  | .contextStop ctx => ctxOk ctx
  | .contextStopDone ctx => ctxOk ctx
  | .contextResume ctx => ctxOk ctx
  | .contextReset ctx => ctxOk ctx
  | .contextResetDone ctx => ctxOk ctx
  | .waitPoll ctx idx => ctxOk ctx && idxOk idx
  | .waitTimeout ctx idx => ctxOk ctx && idxOk idx
  | .huddleTimeout h => huddleOk h
  | .contextEvict ctx r => ctxOk ctx && ctxOk r
  | .markWaitTimeout ctx => ctxOk ctx
  | .contextSaveDone ctx => ctxOk ctx
  | .contextRestore ctx => ctxOk ctx
  | .contextRestoreDone ctx => ctxOk ctx
  | .placementLoop rates _ => ratesOk rates
  | .dieReset die => dieOk die
  | .linkDieReset ld => linkDieOk ld
  | .carafeUncorrectable address reason => addressOk address && reasonOk reason
  | .ageingPeriod => true
  | .pageEviction die mode sel => dieOk die && modeOk mode && selOk sel
  | .pageRecall page => pageOk page
  | .patrolScrub die channel _ _ _ => dieOk die && channelOk channel
  | .channelSubstitution die channel cause => dieOk die && channelOk channel && causeOk cause
  | .channelSwitch die => dieOk die
  | .channelRetrainDone die _ => dieOk die
  | .channelRemap die => dieOk die
  | .carafeThrottle die layer temp => dieOk die && layerOk layer && halfOk temp
  | .retireQueuePop => true
  | .invAll => true
  | .branchDirEnable lo => idxOk lo
  | .aclLoad ctx lo _ => ctxOk ctx && idxOk lo
  | .readReq port f => portOk port && flitOk f
  | .readReply port f => portOk port && flitOk f
  | .writeData port f => portOk port && flitOk f
  | .hold port f => portOk port && flitOk f
  | .commit port f => portOk port && flitOk f
  | .ack port f => portOk port && flitOk f
  | .holdLapse src _ => moduleOk src
  | .collLine port f => portOk port && flitOk f
  | .collAbort port f => portOk port && flitOk f
  | .signalMsg port f => portOk port && flitOk f
  | .huddleMsg port f => portOk port && flitOk f
  | .deathNotice port f => portOk port && flitOk f
  | .present port f => portOk port && flitOk f
  | .flitReplay port => portOk port
  | .rallySlot ld => linkDieOk ld
  | .segmentDeadline ctx idx _ => ctxOk ctx && idxOk idx
  | .portEnable port _ => portOk port
  | .portRetrain port => portOk port
  | .portTrained port peer => portOk port && moduleOk peer
  | .portTrainingTimeout port => portOk port
  | .portRetryTimer port => portOk port
  | .replayStorm port => portOk port
  | .portLockLoss port => portOk port
  | .portRecovered port => portOk port
  | .recoveryTimeout port => portOk port
  | .unreachableTimeout target => moduleOk target
  | .routeStore index => moduleOk index
  | .routeLoad index => moduleOk index
  | .declareDead target => moduleOk target
  | .hubHeartbeatLoss => true
  | .watchdogTimeout _ => true
  | .baristaRestart => true
  | .powerOnReset => true
  | .moduleReset => true
  | .perst port => hostPortOk port
  | .reducedFunctionReset port => hostPortOk port
  | .powerLoss => true
  | .pcieLinkChange port _ _ _ _ => hostPortOk port
  | .completionTimeout port => hostPortOk port
  | .owningPortLost => true
  | .takeover port => hostPortOk port
  | .handoverRequest port => hostPortOk port
  | .apertureRead offset size => apertureOk offset size
  | .apertureWrite offset data => apertureOk offset data.length
  | .apertureAtomic offset size _ _ _ => apertureOk offset size
  | .msixUnmask vector => vectorOk vector
  | .ideKm port stream _ => hostPortOk port && streamOk stream
  | .ideIntegrityFail port stream => hostPortOk port && streamOk stream
  | .traceEnable => true
  | .benchWrite offset data => benchOk offset data.length
  | .benchCheck => true
  | .benchLoad _ => true
  | .swap => true
  | .umpireAdmit => true
  | .drainTimeout => true
  | .swapPoint => true
  | .powerCapPeriod _ => true
  | .boostStep region => regionOk region
  | .voltageLoop region _ => regionOk region
  | .droopStretch region => regionOk region
  | .regionGate region => regionOk region
  | .dieThrottleStep die reading => dieOk die && halfOk reading
  | .dieThrottleRelease die reading => dieOk die && halfOk reading
  | .thermalEmergencyEnter sensor reading => sensorOk sensor && halfOk reading
  | .thermalEmergencyExit => true
  | .thermalTrip sensor reading => sensorOk sensor && halfOk reading
  | .coolantHot reading => halfOk reading
  | .sensorRecalibration die sensor => dieOk die && sensorOk sensor
  | .standbyQuiesced => true
  | .standbyPowerOff => true
  | .wakeTimer => true
  | .standbyResume => true
  | .logFlush => true
  | .logSelect lo => idxOk lo
  | .calendarSet => true
  | .fwActivate => true
  | .cancelPending => true
  | .logRead ep _ _ => epOk ep
  | .wake ep => epOk ep
  | .setEndpointId ep eid => epOk ep && byteOk eid
  | .getEndpointId ep => epOk ep
  | .getEndpointUuid ep => epOk ep
  | .getMctpVersionSupport ep msgType => epOk ep && byteOk msgType
  | .getMessageTypeSupport ep => epOk ep
  | .getVendorDefinedMessageSupport ep _ => epOk ep
  | .getTid ep => epOk ep
  | .setTid ep tid => epOk ep && byteOk tid
  | .getPldmVersion ep _ => epOk ep
  | .getPldmTypes ep => epOk ep
  | .getPldmCommands ep _ => epOk ep
  | .getPdrRepositoryInfo ep => epOk ep
  | .getPdr ep _ => epOk ep
  | .getSensorReading ep sensor => epOk ep && sensorOk sensor
  | .setNumericSensorEnable ep sensor _ => epOk ep && sensorOk sensor
  | .setEventReceiver ep _ => epOk ep
  | .pollForPlatformEventMessage ep => epOk ep
  | .queryDeviceIdentifiers ep => epOk ep
  | .getFirmwareParameters ep => epOk ep
  | .requestUpdate ep => epOk ep
  | .passComponentTable ep _ => epOk ep
  | .updateComponent ep _ _ => epOk ep
  | .firmwareData ep _ => epOk ep
  | .transferComplete ep => epOk ep
  | .activateFirmware ep _ => epOk ep
  | .getStatus ep => epOk ep
  | .cancelUpdateComponent ep => epOk ep
  | .cancelUpdate ep => epOk ep
  | .updateTimeout => true
  | .getVersion tr => transportOk tr
  | .getCapabilities tr => transportOk tr
  | .negotiateAlgorithms tr _ => transportOk tr
  | .getDigests tr => transportOk tr
  | .getCertificate tr _ offset _ => transportOk tr && halfOk offset
  | .challenge tr _ _ => transportOk tr
  | .keyExchange tr _ _ => transportOk tr
  | .finish tr _ _ => transportOk tr
  | .heartbeat tr _ => transportOk tr
  | .keyUpdate tr _ _ => transportOk tr
  | .endSession tr _ => transportOk tr
  | .report tr _ _ => transportOk tr
  | .registerWrite port offset size _ => hostPortOk port && barOk offset size
  | .scratchpadUncorrectable q _ _ => clusterOk q
  | .dieResetDone _ die => dieOk die
  | .perstRelease port => hostPortOk port
  | .functionReady port => hostPortOk port
  | .startupComplete => true
  | .transitMessage port msgType f => portOk port && byteOk msgType && flitOk f
  | .localTimeLoRead _ => true
  | .calVbatChange _ => true

end Sys2Proof
end

