-- ==== Sys2Proof/Decode.lean ====
section
/-! DEFINITION. Words of commands. The rows of spec/opcode_table.json give no bits: the module takes descriptors, messages, register
accesses and events, and no table of words spells them. So no word spells a command. -/

namespace Sys2Proof

/-- The command that a word spells by the table's bits: the table gives none. -/
def decodeTableWord (_nbits _w : Nat) : Option Instr := none

end Sys2Proof
end

