-- ==== Sys2Proof/Config.lean ====
section
/-! DEFINITION. What the manual leaves open: every constant here is opaque, so that no proof can rest on a value of it.
A statement about the model holds for every value of these constants. -/

namespace Sys2Proof.Config

/-- R68: the 24-bit draw of the generator for a key and a counter. "The bits of the generator are not part of this
manual" (log entry 10). -/
opaque draw (key counter : W64) : BitVec 24

/-- R162: the value that the element-wise pipeline returns for a function code at an FP32 input, where the manual gives a
bound and no value (log entry 11). -/
opaque eltFree (code : Nat) (x : W32) : W32

/-- R4, R77: an FP32 value that the manual leaves unstated (log entry 12): the first argument says which, the list holds
what it depends on. -/
opaque unstated (which : Nat) (args : List W32) : W32

/-- R387, R434: whether a C-cycle ends in the H-cycle numbered by the local time counter. The two domains are unrelated
(R5, log entry 5). -/
opaque calEdge (localTime : W64) : Bool

/-- R205, R269, R273: a choice among `n` alternatives that the manual leaves to the module; the tag says which choice
(log entry 13). -/
opaque pick (tag n : Nat) : Nat

/-- R426: whether an SLH-DSA-SHAKE-256s signature verifies: key, message and signature bytes. The scheme is a published
standard that the manual names (log entry 14). -/
opaque slhVerify (key msg sig : List Byte) : Bool

/-- R426: the digest of grenhar_pk in the hub's mask boot code. -/
opaque maskKeyDigest : List Byte

/-- R430: the 32-byte seed derived from the hub's physical unclonable function. -/
opaque pufSeed : List Byte

/-- R431, R432: the signature, key or message bytes that a published security standard fixes and this manual does not
state: the first argument names the item (log entry 14). -/
opaque securityBytes (item : Nat) (input : List Byte) : List Byte

/-- R419, R420: the bytes of a management response that the MCTP or PLDM standard fixes and this manual does not state
(log entry 15). -/
opaque mgmtBytes (item : Nat) (input : List Nat) : List Byte

/-- R174, R41: an amount of resources that this manual leaves to the implementation; the tag says which. -/
opaque amount (tag : Nat) (args : List Nat) : Nat

/-- R249: whether the owning host's completer carries out an AtomicOp on host space (log entry 16). -/
opaque hostAtomics : Bool

end Sys2Proof.Config
end

