-- ==== Sys2Proof/Machine/State.lean ====
section
/-! DEFINITION. The state of a W25 module as plain data: every register, queue, counter, table and memory the manual gives
it, the outputs it has produced, and the queue of commands that wait. -/

namespace Sys2Proof.Machine

/-- A finite map from numbers: keys strictly rising. An absent key reads as the map's stated default. -/
abbrev AMap (α : Type) := List (Nat × α)

/-- Byte-addressed memory: addresses strictly rising, no entry of value 0, an unlisted address reads 0 (log entry 3). -/
abbrev Memory := List Host.Cell

/-- R260: the status codes. -/
inductive Status where
  | ok
  | resequencedOk
  | format
  | filterSize
  | permission
  | shapeExceedsPlan
  | state
  | generation
  | deadline
  | poison
  | moduleDead
  | killed
  deriving DecidableEq, Repr, Inhabited

/-- R237: the stages of a descriptor after its fetch. -/
inductive Stage where
  /-- copied into the hub, not validated -/
  | fetched
  /-- passed validation, resources of R68 and R126 taken -/
  | validated
  /-- placed on a cluster, or started where the command needs none -/
  | placed
  /-- issue has ended and the commit checks of the kernel have passed -/
  | issued
  /-- its writes are visible; acknowledgements of peers may be outstanding -/
  | committed
  /-- its status is decided; its record has not been written -/
  | decided
  deriving DecidableEq, Repr, Inhabited

/-- R70: a statistics buffer's contribution of one command: FP64 encodings, counts and an FP32 maximum. -/
structure Stats where
  sse         : W64 := 0
  ssqIn       : W64 := 0
  count       : W64 := 0
  saturations : W64 := 0
  nonfinite   : W64 := 0
  maxAbs      : W32 := 0
  deriving DecidableEq, Repr, Inhabited

/-- What the issue of a command has prepared for its commit: nothing of it is visible before (R47, R238). -/
structure Work where
  /-- bytes by global address -/
  writes   : List Host.Cell := []
  /-- bytes of recurrent state, addressed branch × 2 MiB + offset -/
  brWrites : List Host.Cell := []
  /-- statistics buffer address and what is added to it (R71) -/
  stats    : Option (Nat × Stats) := none
  result   : Nat := 0
  reseq    : Bool := false
  /-- row instructions issued since they were last counted (R52) -/
  rows     : Nat := 0
  deriving DecidableEq, Repr, Inhabited

/-- A collective at this member (R302 to R311). -/
structure CollRun where
  channel   : Nat
  step      : Nat
  groupId   : Nat
  portMask  : Nat
  members   : List Nat
  rank      : Nat
  /-- elements per segment and number of segments (R305) -/
  es        : Nat
  segments  : Nat
  started   : Bool := false
  /-- widened contributions held, keyed element × 16,384 + rank -/
  contribs  : AMap W32 := []
  /-- result codes held, keyed by element of dst, with the number of contributions added -/
  results   : AMap (W32 × Nat) := []
  /-- segments committed at this member -/
  committed : List Nat := []
  /-- ranks whose micro-batch is dropped (R311) -/
  dropped   : List Nat := []
  /-- members whose descriptor line has been compared (R302) -/
  compared  : List Nat := []
  /-- members that still owe an acknowledgement of result lines -/
  acksOwed  : List Nat := []
  /-- local time at which this member had sent all its lines (R310) -/
  sentAt    : W64 := 0
  deriving DecidableEq, Repr, Inhabited

/-- One descriptor in the hub (R237). -/
structure Cmd where
  ctx         : Nat
  idx         : Nat
  desc        : Desc
  stage       : Stage := .fetched
  status      : Status := .ok
  failOrder   : Nat := 0
  validated   : Bool := false
  noop        : Bool := false
  /-- killed and re-run at least once (R234) -/
  rerun       : Bool := false
  /-- the cluster q of R263 that the command is placed on, and the compute die that runs it -/
  pos         : Option Nat := none
  die         : Nat := 0
  /-- accumulator granules held, by cluster, and Q of R41 -/
  held        : List (Nat × Nat) := []
  qFree       : Nat := 0
  borrowed    : Bool := false
  borrowKills : Nat := 0
  /-- R268 -/
  epoch       : BitVec 16 := 0
  /-- failed generation attempts and the earliest time of the next (R91) -/
  attempts    : Nat := 0
  retryAt     : W64 := 0
  mismatch    : Bool := false
  /-- what a list named by the descriptor held at validation: table heads (R102, R116), branches (R139) -/
  list        : List Nat := []
  /-- generations recorded before the first page access (R91) -/
  gens        : List (Nat × Nat) := []
  /-- lead entries used of reconstructing tables, with their generation fields (R89) -/
  leadGens    : List (Nat × Nat) := []
  /-- pages resolved, as regions count them (R119) -/
  pages       : Nat := 0
  /-- stream records taken at validation: key and first counter (R68, R123) -/
  draws       : List (W64 × W64) := []
  /-- the descriptor fetched immediately before in the same ring, and the status it completed with (R308) -/
  prev        : Option Desc := none
  prevEnd     : Option Status := none
  /-- the parent's key and counter that a FORK took (R131) -/
  forkKey     : W64 := 0
  forkCtr     : W64 := 0
  validatedAt : W64 := 0
  placedAt    : W64 := 0
  decidedAt   : W64 := 0
  /-- row instructions issued, tiles drained, and open accumulator entries by output index (R38, R40) -/
  rowsIssued  : Nat := 0
  drained     : Nat := 0
  accs        : AMap W32 := []
  /-- placed beyond its group's live_budget (R279) -/
  overBudget  : Bool := false
  /-- halo rows may load (R177) -/
  haloReady   : Bool := false
  work        : Work := {}
  /-- the arrival counter bound at its cluster (R31), and the 64-byte operand lines that have not landed -/
  counter     : Option Nat := none
  await       : List Nat := []
  /-- lines of peers and of the host that have landed for reads made by address found on the way -/
  seen        : List Nat := []
  /-- what an error reply of a peer makes the command complete with (R296, R297) -/
  peerError   : Option Status := none
  /-- R297: HOLDs sent; peer pages (module, page) whose HOLD is not answered; peers whose ACK of COMMIT is outstanding -/
  holdsSent   : Bool := false
  holdsDue    : List (Nat × Nat) := []
  acksDue     : List Nat := []
  /-- WAIT: last value read; VOTE: interval_ms and M; HUDDLE: arrival sent -/
  lastValue   : W64 := 0
  arrived     : Bool := false
  /-- SNAPSHOT: reads of a peer made so far, in the order of the operation's steps -/
  turn        : Nat := 0
  coll        : Option CollRun := none
  /-- SNAPSHOT: time the TAKE began, slot chosen, new seq -/
  takeStart   : W64 := 0
  deriving DecidableEq, Repr, Inhabited

/-- R257: the states of a context. -/
inductive CtxState where
  | disabled
  | active
  | blocked
  | halted
  | resetting
  deriving DecidableEq, Repr, Inhabited

/-- R257: halt reasons. -/
inductive HaltReason where
  | none
  | stopOnError
  | stop
  | dieReset
  | ringAccess
  deriving DecidableEq, Repr, Inhabited

/-- R272: residency states. -/
inductive ResState where
  | resident
  | saving
  | swapped
  | restoring
  deriving DecidableEq, Repr, Inhabited

/-- R192: an access list entry. -/
structure AclEntry where
  base   : Nat
  limit  : Nat
  read   : Bool
  write  : Bool
  allMod : Bool
  deriving DecidableEq, Repr, Inhabited

/-- A completion record in the hub: 32 bytes little-endian (R234), without its phase. -/
abbrev Record := BitVec 256

/-- One context: its registers (R254 to R259, R283 to R286, R339, R340, R384, R385) and what the front end keeps for it. -/
structure Ctx where
  sqAddr       : W64 := 0
  cqAddr       : W64 := 0
  dbAddr       : W64 := 0
  sqLog2       : Nat := 6
  cqLog2       : Nat := 6
  /-- 0 Live, 1 Standard, 2 Bulk -/
  svc          : Nat := 1
  msixVector   : Nat := 0
  irqHoldoff   : Nat := 0
  state        : CtxState := .disabled
  haltReason   : HaltReason := .none
  haltIdx      : W32 := 0
  evt          : W32 := 0
  evtCnt       : W32 := 0
  res          : ResState := .resident
  marked       : Bool := false
  evictions    : BitVec 16 := 0
  saveLo       : W32 := 0
  saveHi       : W32 := 0
  marksLo      : W32 := 0
  marksHi      : W32 := 0
  overBudget   : BitVec 16 := 0
  overCost     : BitVec 16 := 0
  snapInt      : W32 := 0
  snapDue      : Bool := false
  snapCost     : W32 := 0
  snapMtbf     : W32 := 0
  aclLo        : W32 := 0
  aclHi        : W32 := 0
  aclAccepted  : Bool := false
  aclRefused   : Bool := false
  aclIgnored   : Bool := false
  acl          : List AclEntry := []
  poolAdmin    : Bool := false
  keyReg       : W64 := 0
  /-- stream record (R68) -/
  streamKey    : W64 := 0
  streamCtr    : W64 := 0
  /-- ring counts of the module (R226) and the host half as last polled -/
  sqHead       : W32 := 0
  cqTail       : W32 := 0
  sqTailSeen   : W32 := 0
  cqHeadSeen   : W32 := 0
  /-- poll interval I in µs, consecutive unchanged polls, a poll outstanding (R229) -/
  pollI        : Nat := 0
  idlePolls    : Nat := 0
  polling      : Bool := false
  lastPoll     : W64 := 0
  /-- the descriptor fetched last, and the status it completed with (R308) -/
  lastDesc     : Option Desc := none
  lastEnd      : Option Status := none
  /-- a stop or reset is killing the commands (R245, R246) -/
  stopping     : Bool := false
  /-- records held while ring accesses fail (R230), oldest first, with irq -/
  heldRecords  : List (Record × Bool) := []
  /-- end of the interrupt holdoff, and records written during it (R235) -/
  holdoffEnd   : W64 := 0
  irqPending   : Bool := false
  /-- scheduling: last restore or enable, last placement (R273, R274) -/
  residentAt   : W64 := 0
  lastRun      : W64 := 0
  /-- an eviction waits for a cheap point (R276) -/
  markWait     : Bool := false
  markSince    : W64 := 0
  markIndex    : Option Nat := none
  /-- the save is empty: nothing to copy back (R272) -/
  saveEmpty    : Bool := true
  /-- ranges saved at a mark, when one was used (R276) -/
  savedRanges  : Option (List (Nat × Nat)) := none
  /-- last committed TAKE: cost in H-cycles, commit time, buddy module (R325, R329) -/
  takeCost     : Option W64 := none
  takeAt       : Option W64 := none
  takeBuddy    : Nat := 0
  takeCounts   : Bool := false
  restoreAt    : Option W64 := none
  deriving DecidableEq, Repr, Inhabited

/-- R121: a branch record; an absent branch is FREE. -/
structure Branch where
  parked      : Bool := false
  trunk       : Bool := false
  ctx         : Nat := 0
  tableCount  : Nat := 0
  parent      : W32 := 0xFFFFFFFF#32
  rollout     : W32 := 0
  forkPos     : W32 := 0
  tableList   : W64 := 0
  rngKey      : W64 := 0
  rngCounter  : W64 := 0
  granules    : Nat := 0
  statePos    : Nat := 0xFFFF
  saveAddr    : W64 := 0
  deriving DecidableEq, Repr, Inhabited

/-- R194: where a pool page's contents are; an absent page is FREE. -/
inductive PageState where
  | resident
  | evicted
  | lost
  deriving DecidableEq, Repr, Inhabited

/-- A pool map entry (R194, R197). -/
structure Page where
  state   : PageState := .resident
  pinned  : Bool := false
  age     : Nat := 0
  touched : Bool := false
  slot    : Nat := 0
  deriving DecidableEq, Repr, Inhabited

/-- What a spare of a carafe does (R222). -/
inductive Spare where
  | free
  | standsFor (channel : Nat)
  | retired
  deriving DecidableEq, Repr, Inhabited

/-- The phases of a substitution, retrain or remap (R214, R217). -/
inductive SubstPhase where
  | copying
  | retraining
  | remapping
  deriving DecidableEq, Repr, Inhabited

/-- A running substitution of a carafe: the channel, the spare used, its phase and whether the channel failed. -/
structure Subst where
  channel : Nat
  spare   : Nat
  phase   : SubstPhase
  failed  : Bool
  deriving DecidableEq, Repr, Inhabited

/-- One carafe (R222, R223, R214 to R220, R401). -/
structure Carafe where
  s0         : Spare := .free
  s1         : Spare := .free
  remapped   : Option Nat := none
  failed     : Bool := false
  /-- retired frames by zone: mode, selector; at most 4,096 (R213) -/
  retired    : List (Nat × Nat) := []
  busy       : Option Subst := none
  /-- channels that wait for a substitution (R215): channel and whether it failed -/
  waiting    : List (Nat × Bool) := []
  /-- layer temperatures in 1/16 °C and the throttle step 0 to 5 (R220) -/
  throttle   : Nat := 0
  evt        : W32 := 0
  evtCnt     : W32 := 0
  /-- scrub period in seconds per channel, default 86,400, and correctable lines found in it (R401) -/
  scrub      : AMap Nat := []
  scrubFound : AMap Nat := []
  scrubLines : AMap Nat := []
  deriving DecidableEq, Repr, Inhabited

/-- An arrival counter (R31): its owner, the expected count and the lines that have landed (24 bits). -/
structure Arrival where
  ctx      : Nat
  idx      : Nat
  expected : Nat
  count    : BitVec 24
  poisoned : Bool := false
  deriving DecidableEq, Repr, Inhabited

/-- One cluster: arrival counters, the command that owns its rows, its activity counters (R52) and its retired granules. -/
structure Cluster where
  arrivals : AMap Arrival := []
  rowOwner : Option (Nat × Nat) := none
  /-- Standard commands placed since the last Bulk command (R265) -/
  bulkTurn : Nat := 0
  cnt0     : W32 := 0
  cnt1     : W32 := 0
  cnt2     : W32 := 0
  cnt3     : W32 := 0
  /-- uncorrectable errors seen per granule: accumulator granules 0 to 511, scratchpad granules from 512 -/
  errors   : AMap Nat := []
  retired  : List Nat := []
  /-- Live A-cycles declared in the current 1 ms window (R279) and the window's number -/
  liveCost : Nat := 0
  liveWin  : Nat := 0
  deriving DecidableEq, Repr, Inhabited

/-- A look-aside buffer entry (R86). -/
structure LabEntry where
  head   : Nat
  gen    : Nat
  lead   : Nat
  size   : Nat
  page   : Nat
  shared : Bool
  node   : Nat
  ref    : Bool
  deriving DecidableEq, Repr, Inhabited

/-- One region: its clock levels in MHz (R394), gating, duty, voltage, look-aside buffer and walker counters. -/
structure Region where
  boost     : Nat := 1250
  capLevel  : Nat := 1500
  throttle  : Nat := 1500
  setMhz    : Nat := 960
  effMhz    : Nat := 0
  gated     : Bool := false
  idleSince : W64 := 0
  duty      : Nat := 8
  volt      : Int := 0
  stretches : Nat := 0
  lastBoost : W64 := 0
  lab       : AMap LabEntry := []
  hand      : Nat := 0
  cntHits   : W32 := 0
  cntFills  : W32 := 0
  cntGens   : W32 := 0
  cntPages  : W32 := 0
  slow      : Bool := false
  deriving DecidableEq, Repr, Inhabited

/-- One compute die or link die: a reset in progress and the time of the last one (R20 to R22). -/
structure Die where
  resetting : Bool := false
  lastReset : Option W64 := none
  throttled : Bool := false
  /-- last step of the die thermal throttle or of its release (R397, R394) -/
  throttleAt : W64 := 0
  deriving DecidableEq, Repr, Inhabited

/-- One arrival counted by a huddle counter: its module, the tag of its HUDDLE there, and its class. -/
structure HuddleArrival where
  module : Nat
  tag    : Nat
  cls    : Nat
  deriving DecidableEq, Repr, Inhabited

/-- A huddle counter (R251). -/
structure Huddle where
  epoch        : W32 := 0
  arrivals     : List HuddleArrival := []
  participants : Nat := 0
  timeoutUs    : Nat := 0
  since        : W64 := 0
  deriving DecidableEq, Repr, Inhabited

/-- R290: the states of a port. -/
inductive PortState where
  | down
  | training
  | up
  | recovering
  | disabled
  deriving DecidableEq, Repr, Inhabited

/-- One Avtiro Link port (R314 to R316). -/
structure Port where
  enable    : Bool := true
  state     : PortState := .down
  peer      : Nat := 0
  peerValid : Bool := false
  evt       : W32 := 0
  evtCnt    : W32 := 0
  replayCnt : W32 := 0
  /-- local time of the last change of state, and replays in the current 1 ms -/
  since     : W64 := 0
  replays   : Nat := 0
  replayWin : W64 := 0
  deriving DecidableEq, Repr, Inhabited

/-- R317: a route table entry. -/
structure Route where
  mask : W32 := 0
  hop  : W32 := 0
  deriving DecidableEq, Repr, Inhabited

/-- A message with its type (R287). -/
structure Msg where
  mtype : Nat
  flit  : Flit
  deriving DecidableEq, Repr, Inhabited

/-- A peer's command with held writes or holds on this module's pages (R297). -/
structure PeerHold where
  src   : Nat
  tag   : Nat
  pages : List Nat
  data  : List Host.Cell
  since : W64
  deriving DecidableEq, Repr, Inhabited

/-- R327: a death log entry. -/
structure Death where
  module      : Nat
  incarnation : W32
  cause       : Nat
  time        : W64
  deriving DecidableEq, Repr, Inhabited

/-- A reduction channel (R301): the collectives that name it in validation order, and the steps that have ended on it with
their members: completed here, or aborted here (R302, R310). -/
structure Channel where
  queue     : List (Nat × Nat) := []
  lastSteps : List (Nat × Bool × List Nat) := []
  lastSlot  : W64 := 0
  /-- lines that arrived before their step started here (R302) -/
  held      : List Flit := []
  deriving DecidableEq, Repr, Inhabited

/-- R349: the classes of a host link. -/
inductive HostLink where
  | down
  | up
  | recovering
  | lowPower
  deriving DecidableEq, Repr, Inhabited

/-- One host port with its PCI Express function (R342 to R362). -/
structure HostPort where
  link        : HostLink := .down
  speed       : Nat := 0
  width       : Nat := 0
  flitMode    : Bool := false
  lost        : Bool := false
  evt         : W32 := 0
  evtCnt      : W32 := 0
  ready       : Bool := false
  perst       : Bool := true
  busMaster   : Bool := false
  memSpace    : Bool := false
  aspmL1      : Bool := false
  msixEnable  : Bool := false
  msixMask    : Bool := false
  /-- MSI-X table by vector: 128 bits little-endian (address, data, control); an absent entry is masked with 0 -/
  msixTable   : AMap (BitVec 128) := []
  pba         : List Nat := []
  request     : Bool := false
  /-- IDE streams with keys, and the require bit -/
  streams     : List Nat := []
  keyEpoch    : AMap Nat := []
  require     : Bool := false
  timeouts    : Nat := 0
  downSince   : Option W64 := none
  deriving DecidableEq, Repr, Inhabited

/-- A completion that a host access received. -/
inductive HostReply where
  | data (address : Nat) (bytes : List Byte) (poisoned : Bool)
  | unsupportedRequest (address : Nat)
  | completerAbort (address : Nat)
  deriving DecidableEq, Repr

/-- A substitution that has been requested (R369 to R374). -/
structure SwapReq where
  /-- the issuing context and ring index; none for a write of swap -/
  issuer   : Option (Nat × Nat)
  expect   : Nat
  admitted : Bool := false
  since    : W64 := 0
  deriving DecidableEq, Repr, Inhabited

/-- Configuration sets and their registers (R364 to R380). A set image is a sparse list of its 65,536 bytes. -/
structure CSet where
  active      : Memory := []
  bench       : Memory := []
  shadowValid : Bool := false
  pending     : Option SwapReq := none
  flashBad    : Bool := false
  checkResult : Nat := 0
  swapResult  : Nat := 0
  loadAddr    : W64 := 0
  evt         : W32 := 0
  evtCnt      : W32 := 0
  /-- CSET_ADMIN_0 to CSET_ADMIN_7 as one mask of contexts -/
  admin       : BitVec 256 := 0
  deriving DecidableEq, Repr, Inhabited

/-- The plain set-up registers: fields that software writes and that only say how the module behaves (R7, R10). -/
structure Regs where
  svcMode     : BitVec 2 := 1
  walkForce   : Bool := false
  branchDirOn : Bool := false
  branchDir   : W64 := 0
  stateCeil   : Nat := 256
  apertureLo  : BitVec 7 := 0
  apertureHi  : BitVec 7 := 0
  sysVec      : AMap W32 := []
  release     : Bool := false
  clusterSel  : BitVec 9 := 0
  traceOn     : Bool := false
  traceEvents : BitVec 6 := 0
  traceCtx    : BitVec 8 := 0
  traceFilter : Bool := false
  routeIdx    : BitVec 14 := 0
  routeData0  : W32 := 0
  routeData1  : BitVec 29 := 0
  dropMax     : Nat := 1024
  deadModule  : BitVec 14 := 0
  regionSel   : BitVec 6 := 0
  tempSel     : Nat := 0
  calSet      : W64 := 0
  logSel      : W64 := 0
  deriving DecidableEq, Repr, Inhabited

/-- R338: the watchdog pair, with HUB_RECOV_STAT, _EVT and _EVT_CNT (R341). -/
structure Recov where
  refereeHeld : Bool := false
  baristaHeld : Bool := false
  standingIn  : Bool := false
  /-- Barista is down for good or restarting -/
  baristaDown : Bool := false
  restarts    : Nat := 0
  restartLog  : List W64 := []
  logDropped  : Nat := 0
  evt         : W32 := 0
  evtCnt      : W32 := 0
  deriving DecidableEq, Repr, Inhabited

/-- Power and temperature (R389 to R406). -/
structure Power where
  emergency   : Bool := false
  coolSince   : Option W64 := none
  overBudget  : Bool := false
  tripped     : Bool := false
  coolantHot  : Bool := false
  evt         : W32 := 0
  evtCnt      : W32 := 0
  inputW      : Nat := 0
  /-- last period of the power-cap loop (R396) -/
  capAt       : W64 := 0
  /-- sensor readings in 1/16 °C (two's complement, 16 bits) by sensor number; absent: has not reported -/
  temps       : AMap (BitVec 16) := []
  /-- sensors out of service for recalibration -/
  outOfService : List Nat := []
  deriving DecidableEq, Repr, Inhabited

/-- The trace ring (R356, R363). -/
structure Trace where
  head    : W32 := 0
  dropped : W32 := 0
  records : AMap Line := []
  deriving DecidableEq, Repr, Inhabited

/-- Where start-up or standby stands (R407, R409, R414, R417). -/
inductive Phase where
  /-- no power on the dies (R449) -/
  | off
  /-- steps 1 to 8 of R407 run; `released` when t counts -/
  | startup (released : Bool)
  | running
  /-- boot failure (R409) -/
  | bootFailed
  /-- failed: death signalled, no descriptor is fetched (R22) -/
  | failed
  /-- thermal trip (R399) -/
  | tripped
  /-- hub and Barista both dead (R338): only transit is forwarded -/
  | hubDead
  deriving DecidableEq, Repr, Inhabited

/-- Where a standby stands (R414 to R417). -/
inductive StandbyStage where
  /-- steps 1 to 3: waiting for the other contexts -/
  | draining
  /-- steps 4 and 5: saves run -/
  | saving
  | asleep
  /-- entry or standby is over; held writes have not been applied yet -/
  | leaving
  deriving DecidableEq, Repr, Inhabited

/-- A standby in progress. -/
structure Standby where
  ctx       : Nat
  idx       : Nat
  stage     : StandbyStage
  wakeMs    : Nat
  enteredAt : W64 := 0
  /-- wake cause: 0 register write, 1 timer, 2 management -/
  cause     : Option Nat := none
  wakeAt    : W64 := 0
  /-- BAR0 writes held, in arrival order: port, offset, size, value -/
  held      : List (Nat × Nat × Nat × Nat) := []
  deriving DecidableEq, Repr, Inhabited

/-- R423: a log record. -/
structure LogRec where
  seq      : W64
  calStamp : W64
  time     : W64
  incarn   : W32
  source   : Nat
  severity : Nat
  code     : Nat
  unit     : Nat
  data     : Nat
  deriving DecidableEq, Repr, Inhabited

/-- A firmware bank (R424 to R428): whether it verifies, its security version, its stage digests and its configuration
section. -/
structure Bank where
  valid    : Bool := false
  secVer   : Nat := 0
  digests  : List (List Byte) := []
  section4 : Memory := []
  deriving DecidableEq, Repr, Inhabited

/-- A PLDM update in progress (R427). -/
structure Update where
  ep        : Nat
  bank      : Nat
  component : Option Nat := none
  size      : Nat := 0
  data      : List Byte := []
  /-- a slice received that the Umpire has not admitted yet -/
  slice     : Option (List Byte) := none
  lastTime  : W64 := 0
  verified  : Option Bool := none
  deriving DecidableEq, Repr, Inhabited

/-- An SPDM session (R431). -/
structure Session where
  transport   : Nat
  id          : Nat
  established : Bool := false
  keyGen      : Nat := 0
  deriving DecidableEq, Repr, Inhabited

/-- A maintenance activity (R436): rank, scope instance, request time, and what it is for. -/
structure Activity where
  rank  : Nat
  scope : Nat
  since : W64
  /-- the context and ring index that asked, or other data of the activity -/
  info  : Nat × Nat
  deriving DecidableEq, Repr, Inhabited

/-- A response or message that Barista has sent. -/
inductive MgmtOut where
  | mctp (ep item : Nat) (values : List Nat)
  | pldm (ep item : Nat) (values : List Nat)
  | pldmError (ep : Nat)
  | platformEvent (receiver sensor reading : Nat)
  | requestFirmwareData (ep offset length : Nat)
  | verifyComplete (ep : Nat) (success : Bool)
  | applyComplete (ep : Nat)
  | alreadyInUpdateMode (ep : Nat)
  | logRecords (ep : Nat) (records : List LogRec)
  | wakeAck (ep : Nat)
  | spdm (tr item : Nat) (bytes : List Byte)
  | spdmError (tr item : Nat)
  deriving DecidableEq, Repr

/-- Barista, the security block, the calendar and the Umpire (R419 to R443). -/
structure Mgmt where
  bank0        : Bank := {}
  bank1        : Bank := {}
  activeBank   : Nat := 0
  pendingBank  : Option Nat := none
  /-- the bank that the next start-up tries first because of an activation (R428) -/
  activating   : Option Nat := none
  fallback     : Bool := false
  ownerKey     : Option (List Byte) := none
  stagedOwner  : Option (List Byte) := none
  identityOk   : Bool := false
  ready        : Bool := false
  sideband     : Bool := true
  addrStrap    : Nat := 0
  calValid     : Bool := false
  calCount     : W64 := 0
  calLatch     : W32 := 0
  backupPin    : Bool := false
  /-- calendar count when neither 54 V nor the pin supplied the clock any longer (R434) -/
  lostAt       : Option W64 := none
  floor        : Nat := 0
  evt          : W32 := 0
  evtCnt       : W32 := 0
  logBuffer    : List LogRec := []
  logFlash     : List LogRec := []
  logHub       : List LogRec := []
  newestSeq    : W64 := 0
  update       : Option Update := none
  eids         : AMap Nat := []
  tid          : Nat := 0
  receiver     : Option Nat := none
  sensorsOff   : List Nat := []
  sessions     : List Session := []
  /-- SPDM negotiation reached per transport: 1 version, 2 capabilities, 3 algorithms -/
  spdmState    : AMap Nat := []
  running      : List Activity := []
  queued       : List Activity := []
  deriving DecidableEq, Repr, Inhabited

/-- A remote read outstanding: an entry of the operation tracker (R23, R203, R296). -/
structure ReadOut where
  tag    : Nat
  die    : Nat
  module : Nat
  line   : Nat
  ctx    : Nat
  idx    : Nat
  epoch  : BitVec 16
  deriving DecidableEq, Repr, Inhabited

/-- The links of the module beyond its ports: routes, sequence numbers, holds, deaths, collectives (R287 to R319). -/
structure Links where
  ports      : AMap Port := []
  routes     : AMap Route := []
  evt        : W32 := 0
  evtCnt     : W32 := 0
  lastDead   : Nat := 0
  /-- modules declared dead, with the incarnation declared -/
  dead       : AMap W32 := []
  /-- incarnation of the last PRESENT seen per module -/
  presents   : AMap W32 := []
  /-- modules treated as dead because traffic to them waited over 10 ms (R290), and when traffic began to wait -/
  unreachable : List Nat := []
  waitSince  : AMap W64 := []
  deathLog   : List Death := []
  incarnation : W32 := 0
  /-- next sequence number sent, keyed dst × 4 + class, and expected, keyed src × 4 + class (R294) -/
  seqOut     : AMap W32 := []
  seqIn      : AMap W32 := []
  /-- messages that arrived ahead of their order -/
  early      : List Msg := []
  holdsIn    : List PeerHold := []
  /-- tracker entries of remote reads (R23), and the tag of the next message that wants a reply -/
  reads      : List ReadOut := []
  nextTag    : Nat := 0
  channels   : AMap Channel := []
  /-- messages sent, oldest first, with the port, and messages that wait for a route, with the ports they may use -/
  out        : List (Nat × Msg) := []
  waiting    : List (Nat × Msg) := []
  deriving DecidableEq, Repr, Inhabited

/-- What step's free values are numbered by, and messages sent to hosts: the model's own fields. -/
structure Outputs where
  /-- MSI-X messages sent, oldest first: port and vector -/
  msix  : List (Nat × Nat) := []
  host  : List HostReply := []
  mgmt  : List MgmtOut := []
  deriving DecidableEq, Repr, Inhabited

/-- The state of the module. -/
structure State where
  /-- commands that wait, first in, first out -/
  pending    : List Instr := []
  phase      : Phase := .startup false
  localTime  : W64 := 0
  timeLatch  : W32 := 0
  /-- memory by global address (R190): own carafe and scratch, and host and peer memory as last seen or written -/
  mem        : Memory := []
  /-- poisoned lines: global address ÷ 64, strictly rising (R211) -/
  poison     : List Nat := []
  pool       : AMap Page := []
  /-- end of the last ageing period (R197) -/
  ageAt      : W64 := 0
  /-- last run of the placement loop (R270) -/
  loopAt     : W64 := 0
  carafes    : AMap Carafe := []
  retireQ    : List (Nat × Nat × Nat) := []
  retireOvf  : Bool := false
  retireOvfCnt : W32 := 0
  ctxs       : AMap Ctx := []
  cmds       : List Cmd := []
  branches   : AMap Branch := []
  /-- child numbers reserved by a FORK (R126): number, context, ring index -/
  reserved   : List (Nat × Nat × Nat) := []
  /-- recurrent state bytes: branch × 2 MiB + offset -/
  brMem      : Memory := []
  /-- branches with a poisoned line of recurrent state (R18, R32) -/
  brPoison   : List Nat := []
  clusters   : AMap Cluster := []
  regions    : AMap Region := []
  dies       : AMap Die := []
  linkDies   : AMap Die := []
  huddles    : AMap Huddle := []
  links      : Links := {}
  hostPorts  : AMap HostPort := []
  owner      : Nat := 0
  cset       : CSet := {}
  regs       : Regs := {}
  recov      : Recov := {}
  power      : Power := {}
  trace      : Trace := {}
  standby    : Option Standby := none
  mgmt       : Mgmt := {}
  out        : Outputs := {}
  deriving DecidableEq, Repr, Inhabited

/-- Why the model stops. -/
inductive Fault where
  /-- Raised by the aperture and register rows for an offset beyond the window they name: the manual gives no such
  address (R343). Safe: the model stops where no behaviour is stated. -/
  | noSuchAddress
  deriving DecidableEq, Repr

/-- Why the model gives a command no meaning. -/
inductive Refusal where
  /-- Raised by Dispatch for a row without a meaning. Safe. -/
  | notModelled (mnemonic : String)
  deriving DecidableEq, Repr

/-- R364: the fields of the default set that are not 0: header (magic, version, length), module_id 0, owning port A,
profile Hold, poll_min 2, poll_max 16, every res_ctx 0xFFFF, zone_all 186, age_period 1,000. Bytes 12 to 15 are its crc. -/
def defaultSet : Memory :=
  [(0, 0x47#8), (1, 0x48#8), (2, 0x53#8), (3, 0x43#8), (4, 0x01#8), (9, 0x10#8), (12, 0x4F#8), (13, 0x31#8), (14, 0xCF#8),
   (15, 0x6A#8), (0x43, 0x03#8), (0x44, 0x02#8),
   (0x45, 0x10#8)]
  ++ (List.range 16).flatMap (fun g => [(0x80 + 128 * g + 68, 0xFF#8), (0x80 + 128 * g + 69, 0xFF#8)])
  ++ [(0x880, 0xBA#8), (0x884, 0xE8#8), (0x885, 0x03#8)]

/-- The state right after a power-on reset, before PERST is released (R407, R412): flash holds one valid bank whose
configuration section is the default set (log entry 2). -/
def State.reset : State :=
  { cset := { active := defaultSet, bench := defaultSet }
    hostPorts := [(0, { }), (1, { })]
    mgmt := { bank0 := { valid := true, section4 := defaultSet } } }

end Sys2Proof.Machine
end

