-- ==== Sys2Proof/Machine/Ops.lean ====
section
/-! DEFINITION. The named operations over maps, memory, poisoned lines, descriptors in the hub, contexts and branches. -/

namespace Sys2Proof.Machine

/-- What a map holds at a key. -/
def aget? {α : Type} : AMap α → Nat → Option α
  | [], _ => none
  | (a, v) :: m, k => if a = k then some v else aget? m k

/-- What a map holds at a key, or the stated default of an absent key. -/
def aget {α : Type} (m : AMap α) (k : Nat) (d : α) : α := (aget? m k).getD d

/-- A map with one entry set: keys stay strictly rising. -/
def aput {α : Type} : AMap α → Nat → α → AMap α
  | [], k, v => [(k, v)]
  | (a, w) :: m, k, v =>
    if k < a then (k, v) :: (a, w) :: m
    else if k = a then (k, v) :: m
    else (a, w) :: aput m k v

/-- A map without a key. -/
def adel {α : Type} (m : AMap α) (k : Nat) : AMap α := m.filter (fun e => e.1 != k)

/-- A map with one entry changed. -/
def amod {α : Type} (m : AMap α) (k : Nat) (d : α) (f : α → α) : AMap α := aput m k (f (aget m k d))

/-! ### Memory -/

/-- One byte: an unlisted address reads 0 (R195 for the carafe; log entry 3 for the rest). -/
def mget : Memory → Nat → Byte
  | [], _ => 0
  | (a, b) :: m, k => if a = k then b else mget m k

/-- Memory with one byte set, in canonical form: a byte of 0 is not listed. -/
def mset : Memory → Nat → Byte → Memory
  | [], k, v => if v = 0 then [] else [(k, v)]
  | (a, b) :: m, k, v =>
    if k < a then (if v = 0 then (a, b) :: m else (k, v) :: (a, b) :: m)
    else if k = a then (if v = 0 then m else (k, v) :: m)
    else (a, b) :: mset m k v

/-- Every listed address exceeds `k`. -/
def Memory.above (k : Nat) (m : Memory) : Prop := ∀ c ∈ m, k < c.1

/-- The canonical form: addresses strictly rising and no listed byte equal to what an unlisted address reads. -/
def Memory.wf : Memory → Bool
  | [] => true
  | [(_, b)] => b != 0
  | (a, b) :: (a', b') :: m => b != 0 && decide (a < a') && Memory.wf ((a', b') :: m)

/-- The bytes at an address, lowest first. -/
def mread (m : Memory) (a n : Nat) : List Byte := (List.range n).map (fun i => mget m (a + i))

/-- The little-endian number that bytes spell (R4). -/
def leNat : List Byte → Nat
  | [] => 0
  | b :: bs => b.toNat + 256 * leNat bs

/-- The little-endian field of `n` bytes at an address. -/
def mnat (m : Memory) (a n : Nat) : Nat := leNat (mread m a n)

/-- The `n` bytes of a number, lowest first (R4). -/
def leBytes : Nat → Nat → List Byte
  | 0, _ => []
  | n + 1, v => BitVec.ofNat 8 v :: leBytes n (v / 256)

/-- Bytes placed at successive addresses. -/
def cellsAt : Nat → List Byte → List Host.Cell
  | _, [] => []
  | a, b :: bs => (a, b) :: cellsAt (a + 1) bs

/-- A number of `n` bytes placed at an address. -/
def cellsNat (a n v : Nat) : List Host.Cell := cellsAt a (leBytes n v)

/-- Memory with cells written, in order: the later cell wins. -/
def mapply (m : Memory) (cs : List Host.Cell) : Memory := cs.foldl (fun m c => mset m c.1 c.2) m

/-- Memory with bytes written at an address. -/
def mwrite (m : Memory) (a : Nat) (bs : List Byte) : Memory := mapply m (cellsAt a bs)

/-- The 64 bytes of a line. -/
def lineBytes (l : Line) : List Byte := leBytes 64 l.toNat

/-! ### Sorted lists of numbers: poisoned lines, retired granules -/

/-- A strictly rising list with a number added. -/
def sins : List Nat → Nat → List Nat
  | [], k => [k]
  | a :: l, k => if k < a then k :: a :: l else if k = a then a :: l else a :: sins l k

/-- A list without a number. -/
def srem (l : List Nat) (k : Nat) : List Nat := l.filter (· != k)

/-- The 64-byte lines that cells touch, each once, rising. -/
def cellLines (cs : List Host.Cell) : List Nat := cs.foldl (fun ls c => sins ls (c.1 / 64)) []

/-- Whether cells write all 64 bytes of a line. -/
def coversLine (cs : List Host.Cell) (l : Nat) : Bool :=
  (List.range 64).all (fun i => cs.any (fun c => c.1 == 64 * l + i))

/-- R211: a poisoned line stays poisoned until all 64 of its bytes are written at once. -/
def clearPoison (p : List Nat) (cs : List Host.Cell) : List Nat :=
  p.filter (fun l => !(coversLine cs l))

/-- State with cells made visible at once (R238), poison cleared under R211. -/
def storeCells (s : State) (cs : List Host.Cell) : State :=
  { s with mem := mapply s.mem cs, poison := clearPoison s.poison cs }

/-- State with lines marked poisoned. -/
def poisonLines (s : State) (ls : List Nat) : State := { s with poison := ls.foldl sins s.poison }

/-- The 64-byte lines of a byte range. -/
def linesOf (a n : Nat) : List Nat :=
  if n = 0 then [] else (List.range ((a + n - 1) / 64 - a / 64 + 1)).map (· + a / 64)

/-- The lines of several ranges, each once, rising. -/
def linesOfAll (rs : List (Nat × Nat)) : List Nat :=
  rs.foldl (fun ls r => (linesOf r.1 r.2).foldl sins ls) []

/-! ### Contexts, commands, clusters, branches -/

def ctxOf (s : State) (n : Nat) : Ctx := aget s.ctxs n {}

def setCtx (s : State) (n : Nat) (c : Ctx) : State := { s with ctxs := aput s.ctxs n c }

def modCtx (s : State) (n : Nat) (f : Ctx → Ctx) : State := setCtx s n (f (ctxOf s n))

/-- The descriptor of a context with a ring index, if the hub holds it. -/
def findCmd (s : State) (ctx idx : Nat) : Option Cmd := s.cmds.find? (fun c => c.ctx == ctx && c.idx == idx)

/-- The commands with one of them replaced. -/
def putCmd (cs : List Cmd) (c : Cmd) : List Cmd :=
  cs.map (fun x => if x.ctx = c.ctx ∧ x.idx = c.idx then c else x)

def setCmd (s : State) (c : Cmd) : State := { s with cmds := putCmd s.cmds c }

/-- The commands of a context in ring order: the hub keeps them in the order of fetch. -/
def ctxCmds (s : State) (ctx : Nat) : List Cmd := s.cmds.filter (fun c => c.ctx == ctx)

/-- The commands fetched before a command of its context (R239). -/
def earlier (s : State) (c : Cmd) : List Cmd :=
  (ctxCmds s c.ctx).takeWhile (fun x => x.idx != c.idx)

def clusterOf (s : State) (q : Nat) : Cluster := aget s.clusters q {}

def modCluster (s : State) (q : Nat) (f : Cluster → Cluster) : State :=
  { s with clusters := aput s.clusters q (f (clusterOf s q)) }

def regionOf (s : State) (r : Nat) : Region := aget s.regions r {}

def modRegion (s : State) (r : Nat) (f : Region → Region) : State :=
  { s with regions := aput s.regions r (f (regionOf s r)) }

def dieOf (s : State) (d : Nat) : Die := aget s.dies d {}

def carafeOf (s : State) (d : Nat) : Carafe := aget s.carafes d {}

/-- R120: the record of a branch; none is FREE. -/
def branchOf (s : State) (b : Nat) : Option Branch := aget? s.branches b

/-- The descriptors of a context fetched without a record (R257). -/
def inFlight (s : State) (ctx : Nat) : Nat := (ctxCmds s ctx).length

/-- A number below 2^32 as a register value. -/
def w32 (n : Nat) : W32 := BitVec.ofNat 32 n

def w64 (n : Nat) : W64 := BitVec.ofNat 64 n

/-- Bits [hi:lo] of a number. -/
def bits (v hi lo : Nat) : Nat := v / 2 ^ lo % 2 ^ (hi - lo + 1)

/-- Bit `i` of a number. -/
def bit (v i : Nat) : Bool := v.testBit i

/-- ⌈a ÷ b⌉. -/
def ceilDiv (a b : Nat) : Nat := (a + b - 1) / b

/-- a rounded up to a multiple of 64. -/
def up64 (a : Nat) : Nat := ceilDiv a 64 * 64

/-- Microseconds in H-cycles of 1.0 GHz (R388). -/
def us (n : Nat) : Nat := 1000 * n

/-- Time passed since `t0` in H-cycles: the local time counter is 64 bits wide. -/
def since (s : State) (t0 : W64) : Nat := (s.localTime - t0).toNat

end Sys2Proof.Machine
end

