-- ==== Sys2Proof/Machine/Hash.lean ====
section
/-! DEFINITION. The two public functions that the manual names by their standards and that the module computes over data it
holds: SHAKE256 (R332, R426) and the CRC-32 of IEEE 802.3 (R287, R364). -/

namespace Sys2Proof.Machine

/-! ### SHAKE256: the Keccak-f[1600] permutation with rate 136 bytes and domain bits 1111 -/

/-- Lane x + 5 y of a state of 25 lanes. -/
def lane (a : List W64) (x y : Nat) : W64 := a.getD (x % 5 + 5 * (y % 5)) 0

/-- A state given lane by lane. -/
def lanes (f : Nat → Nat → W64) : List W64 := (List.range 25).map (fun i => f (i % 5) (i / 5))

def keccakTheta (a : List W64) : List W64 :=
  let c := (List.range 5).map (fun x => lane a x 0 ^^^ lane a x 1 ^^^ lane a x 2 ^^^ lane a x 3 ^^^ lane a x 4)
  lanes (fun x y => lane a x y ^^^ c.getD ((x + 4) % 5) 0 ^^^ (c.getD ((x + 1) % 5) 0).rotateLeft 1)

/-- Rotation of lane x + 5 y. -/
def keccakOffsets : List Nat :=
  [0, 1, 62, 28, 27, 36, 44, 6, 55, 20, 3, 10, 43, 25, 39, 41, 45, 15, 21, 8, 18, 2, 61, 56, 14]

/-- Rotation of lanes and their permutation: lane (x, y) of the result is lane (x + 3 y, x), rotated. -/
def keccakRhoPi (a : List W64) : List W64 :=
  lanes (fun x y => (lane a (x + 3 * y) x).rotateLeft (keccakOffsets.getD ((x + 3 * y) % 5 + 5 * x) 0))

def keccakChi (a : List W64) : List W64 := lanes (fun x y => lane a x y ^^^ (~~~(lane a (x + 1) y) &&& lane a (x + 2) y))

def keccakConstants : List W64 :=
  [0x0000000000000001, 0x0000000000008082, 0x800000000000808A, 0x8000000080008000, 0x000000000000808B, 0x0000000080000001,
   0x8000000080008081, 0x8000000000008009, 0x000000000000008A, 0x0000000000000088, 0x0000000080008009, 0x000000008000000A]
  ++ [0x000000008000808B, 0x800000000000008B, 0x8000000000008089, 0x8000000000008003, 0x8000000000008002, 0x8000000000000080,
   0x000000000000800A, 0x800000008000000A, 0x8000000080008081, 0x8000000000008080, 0x0000000080000001, 0x8000000080008008]

def keccakIota (a : List W64) (rc : W64) : List W64 :=
  match a with
  | [] => []
  | l :: ls => (l ^^^ rc) :: ls

def keccakF (a : List W64) : List W64 :=
  keccakConstants.foldl (fun a rc => keccakIota (keccakChi (keccakRhoPi (keccakTheta a))) rc) a

/-- One block of 136 bytes taken in. -/
def absorbBlock (a : List W64) (bs : List Byte) : List W64 :=
  keccakF (lanes (fun x y => lane a x y ^^^ (if x + 5 * y < 17 then w64 (leNat ((bs.drop (8 * (x + 5 * y))).take 8)) else 0)))

/-- The message padded to whole blocks. -/
def shakePad (bs : List Byte) : List Byte :=
  let k := 136 - bs.length % 136
  if k = 1 then bs ++ [0x9F#8] else bs ++ [0x1F#8] ++ List.replicate (k - 2) 0#8 ++ [0x80#8]

def absorb : Nat → List W64 → List Byte → List W64
  | 0, a, _ => a
  | n + 1, a, bs => absorb n (absorbBlock a (bs.take 136)) (bs.drop 136)

/-- Output blocks. -/
def squeeze : Nat → List W64 → List Byte
  | 0, _ => []
  | n + 1, a => (a.take 17).flatMap (fun l => leBytes 8 l.toNat) ++ squeeze n (keccakF a)

/-- SHAKE256 of a message with n bytes of output. -/
def shake256 (bs : List Byte) (n : Nat) : List Byte :=
  let p := shakePad bs
  (squeeze (ceilDiv n 136) (absorb (p.length / 136) (List.replicate 25 0) p)).take n

/-! ### CRC-32 -/

/-- One bit of the reflected polynomial division. -/
def crcBit (c : W32) : W32 := if c.getLsbD 0 then (c >>> 1) ^^^ 0xEDB88320#32 else c >>> 1

def crcByte (c : W32) (b : Byte) : W32 :=
  let x := c ^^^ b.setWidth 32
  crcBit (crcBit (crcBit (crcBit (crcBit (crcBit (crcBit (crcBit x)))))))

/-- CRC-32, IEEE 802.3: reflected, initial value and final inversion all ones. -/
def crc32 (bs : List Byte) : W32 := ~~~(bs.foldl crcByte 0xFFFFFFFF#32)

end Sys2Proof.Machine
end

