-- ==== Sys2Proof/Machine/Numbers.lean ====
section
/-! DEFINITION. Element formats, exact values, roundings, FP32 and FP64 arithmetic, group sums and the grinder
(chapter 03). -/

namespace Sys2Proof.Machine

/-- A value of a format: a NaN, an infinity with its sign, or (−1)^neg × num ÷ den × 2^exp with a signed zero. -/
inductive FV where
  | nan
  | inf (neg : Bool)
  | fin (neg : Bool) (num den : Nat) (exp : Int)
  deriving DecidableEq, Repr, Inhabited

/-- A floating format: stored mantissa bits, exponent of the smallest subnormal, code of the largest finite magnitude,
whether infinity exists, the canonical NaN (R54), width. -/
structure Flt where
  mbits  : Nat
  emin   : Int
  maxMag : Nat
  hasInf : Bool
  nan    : Nat
  width  : Nat
  deriving DecidableEq, Repr, Inhabited

def fltFp4  : Flt := { mbits := 1, emin := -1, maxMag := 7, hasInf := false, nan := 0, width := 4 }
def fltE4m3 : Flt := { mbits := 3, emin := -9, maxMag := 0x7E, hasInf := false, nan := 0x7F, width := 8 }
def fltE5m2 : Flt := { mbits := 2, emin := -16, maxMag := 0x7B, hasInf := true, nan := 0x7E, width := 8 }
def fltBf16 : Flt := { mbits := 7, emin := -133, maxMag := 0x7F7F, hasInf := true, nan := 0x7FC0, width := 16 }
def fltFp16 : Flt := { mbits := 10, emin := -24, maxMag := 0x7BFF, hasInf := true, nan := 0x7E00, width := 16 }
def fltFp32 : Flt := { mbits := 23, emin := -149, maxMag := 0x7F7FFFFF, hasInf := true, nan := 0x7FC00000, width := 32 }
def fltFp64 : Flt :=
  { mbits := 52, emin := -1074, maxMag := 0x7FEFFFFFFFFFFFFF, hasInf := true, nan := 0x7FF8000000000000, width := 64 }

/-- The value of a float's encoding (R53, R54): code of the magnitude and sign bit above it. -/
def decodeFlt (f : Flt) (code : Nat) : FV :=
  let neg := code.testBit (f.width - 1)
  let mag := code % 2 ^ (f.width - 1)
  if mag ≤ f.maxMag then
    let e := mag / 2 ^ f.mbits
    let m := mag % 2 ^ f.mbits
    if e = 0 then .fin neg m 1 f.emin else .fin neg (m + 2 ^ f.mbits) 1 (f.emin + (e - 1 : Nat))
  else if f.hasInf && mag == f.maxMag + 1 then .inf neg
  else .nan

/-- R53: the formats by code. -/
inductive Fmt where
  | int4
  | fp4
  | int8
  | e4m3
  | e5m2
  | bf16
  | fp16
  | fp32
  deriving DecidableEq, Repr, Inhabited

/-- R53: the listed format codes. -/
def fmtOf : Nat → Option Fmt
  | 0 => some .int4
  | 1 => some .fp4
  | 2 => some .int8
  | 3 => some .e4m3
  | 4 => some .e5m2
  | 5 => some .bf16
  | 6 => some .fp16
  | 7 => some .fp32
  | _ => none

/-- The format of a code already checked; an unlisted code never reaches a use. -/
def fmtAt (code : Nat) : Fmt := (fmtOf code).getD .fp32

/-- Width in bits. -/
def Fmt.width : Fmt → Nat
  | .int4 | .fp4 => 4
  | .int8 | .e4m3 | .e5m2 => 8
  | .bf16 | .fp16 => 16
  | .fp32 => 32

/-- The floating format behind a code; integers have none. -/
def Fmt.flt : Fmt → Option Flt
  | .int4 | .int8 => none
  | .fp4 => some fltFp4
  | .e4m3 => some fltE4m3
  | .e5m2 => some fltE5m2
  | .bf16 => some fltBf16
  | .fp16 => some fltFp16
  | .fp32 => some fltFp32

/-- R26: the lane depth d of a width. -/
def Fmt.depth (f : Fmt) : Nat :=
  match f.width with
  | 4 => 64
  | 8 => 32
  | 16 => 16
  | _ => 4

/-- The bytes of n densely packed elements (R45). -/
def Fmt.bytes (f : Fmt) (n : Nat) : Nat := ceilDiv (n * f.width) 8

/-- The value of an element's encoding. -/
def decodeElt (f : Fmt) (code : Nat) : FV :=
  match f.flt with
  | some fl => decodeFlt fl code
  | none =>
    let h := 2 ^ (f.width - 1)
    if code < h then .fin false code 1 0 else .fin true (2 * h - code) 1 0

/-- Element k of a densely packed row (R45): at 4-bit, element 2q lies in bits [3:0] and 2q+1 in bits [7:4]. -/
def eltCode (m : Memory) (f : Fmt) (row k : Nat) : Nat :=
  if f.width = 4 then bits (mget m (row + k / 2)).toNat (4 * (k % 2) + 3) (4 * (k % 2))
  else mnat m (row + k * (f.width / 8)) (f.width / 8)

/-! ### Rounding -/

/-- ⌊log2 (n ÷ d)⌋ for n and d not 0. -/
def ratLog2 (n d : Nat) : Int :=
  let a := Nat.log2 n
  let b := Nat.log2 d
  if d * 2 ^ (a - b) ≤ n * 2 ^ (b - a) then (a : Int) - b else (a : Int) - b - 1

/-- n ÷ d × 2^e as an integer quotient, with n' and d' the integers so that n' ÷ d' is the value. -/
def ratScale (n d : Nat) (e : Int) : Nat × Nat :=
  if 0 ≤ e then (n * 2 ^ e.toNat, d) else (n, d * 2 ^ (-e).toNat)

/-- The grid of a float at a magnitude: exponent of its spacing with the range taken as unlimited. -/
def gridExp (f : Flt) (n d : Nat) (e : Int) : Int :=
  if n = 0 then f.emin else max (ratLog2 n d + e - f.mbits) f.emin

/-- The integer part and the exact fraction (rest, divisor) of a magnitude counted in units of 2^g. -/
def gridSplit (n d : Nat) (e g : Int) : Nat × Nat × Nat :=
  let p := ratScale n d (e - g)
  (p.1 / p.2, p.1 % p.2, p.2)

/-- Round to nearest, ties to even, of q + r ÷ d. -/
def roundNearest (q r d : Nat) : Nat := if d < 2 * r ∨ (2 * r = d ∧ q % 2 = 1) then q + 1 else q

/-- R67: stochastic rounding of ±(q + r ÷ d) with a draw: hi when the draw is below ⌊(x − lo) × 2^24 ÷ (hi − lo)⌋. -/
def roundDraw (neg : Bool) (q r d draw : Nat) : Nat :=
  if r = 0 then q
  else if neg then (if draw < (d - r) * 2 ^ 24 / d then q else q + 1)
  else (if draw < r * 2 ^ 24 / d then q + 1 else q)

/-- The code of a magnitude of m units of 2^g on a float's grid, carry included. -/
def gridCode (f : Flt) (m : Nat) (g : Int) : Nat := (g - f.emin).toNat * 2 ^ f.mbits + m

/-- The encoding with a sign. -/
def signed (f : Flt) (neg : Bool) (mag : Nat) : Nat := if neg then mag + 2 ^ (f.width - 1) else mag

/-- A value rounded once to nearest-even into an IEEE format, with overflow to infinity (R61 to R63). -/
def roundTo (f : Flt) : FV → Nat
  | .nan => f.nan
  | .inf neg => signed f neg (f.maxMag + 1)
  | .fin neg n d e =>
    let g := gridExp f n d e
    let p := gridSplit n d e g
    let c := gridCode f (roundNearest p.1 p.2.1 p.2.2) g
    if n = 0 then signed f neg 0 else signed f neg (if c ≤ f.maxMag then c else f.maxMag + 1)

/-! ### Exact arithmetic on values -/

/-- Sign, numerator and denominator of a finite value with a common power of two taken out. -/
def fvNeg : FV → FV
  | .nan => .nan
  | .inf s => .inf (!s)
  | .fin s n d e => .fin (!s) n d e

/-- The exact product; ∞ × 0 is NaN. -/
def fvMul : FV → FV → FV
  | .nan, _ => .nan
  | _, .nan => .nan
  | .inf s, .inf t => .inf (s != t)
  | .inf s, .fin t n _ _ => if n = 0 then .nan else .inf (s != t)
  | .fin s n _ _, .inf t => if n = 0 then .nan else .inf (s != t)
  | .fin s n d e, .fin t m c x => .fin (s != t) (n * m) (d * c) (e + x)

/-- The exact sum; opposite infinities give NaN; a zero sum is +0 unless both are −0 (R63). -/
def fvAdd : FV → FV → FV
  | .nan, _ => .nan
  | _, .nan => .nan
  | .inf s, .inf t => if s = t then .inf s else .nan
  | .inf s, .fin _ _ _ _ => .inf s
  | .fin _ _ _ _, .inf t => .inf t
  | .fin s n d e, .fin t m c x =>
    let g := min e x
    let a := (n * c * 2 ^ (e - g).toNat : Int) * (if s then -1 else 1)
    let b := (m * d * 2 ^ (x - g).toNat : Int) * (if t then -1 else 1)
    let r := a + b
    if r = 0 then .fin (s && t && n == 0 && m == 0) 0 1 0 else .fin (decide (r < 0)) r.natAbs (d * c) g

/-- The exact quotient; 0 ÷ 0 and ∞ ÷ ∞ give NaN, a finite value ÷ 0 gives ∞. -/
def fvDiv : FV → FV → FV
  | .nan, _ => .nan
  | _, .nan => .nan
  | .inf _, .inf _ => .nan
  | .inf s, .fin t _ _ _ => .inf (s != t)
  | .fin s _ _ _, .inf t => .fin (s != t) 0 1 0
  | .fin s n d e, .fin t m c x =>
    if m = 0 then (if n = 0 then .nan else .inf (s != t)) else .fin (s != t) (n * c) (d * m) (e - x)

/-- Whether a value is a NaN or an infinity. -/
def fvNonfinite : FV → Bool
  | .fin _ _ _ _ => false
  | _ => true

/-- The exact value 0 with a sign. -/
def fvZero (neg : Bool) : FV := .fin neg 0 1 0

/-- An integer as a value. -/
def fvInt (i : Int) : FV := .fin (decide (i < 0)) i.natAbs 1 0

/-! ### FP32 operations, each rounded once -/

def f32v (x : W32) : FV := decodeFlt fltFp32 x.toNat

/-- fp32(): one rounding to nearest-even. -/
def fp32 (v : FV) : W32 := w32 (roundTo fltFp32 v)

def fadd (a b : W32) : W32 := fp32 (fvAdd (f32v a) (f32v b))
def fsub (a b : W32) : W32 := fp32 (fvAdd (f32v a) (fvNeg (f32v b)))
def fmul (a b : W32) : W32 := fp32 (fvMul (f32v a) (f32v b))
def fdiv (a b : W32) : W32 := fp32 (fvDiv (f32v a) (f32v b))
/-- x × y + z rounded once. -/
def ffma (x y z : W32) : W32 := fp32 (fvAdd (fvMul (f32v x) (f32v y)) (f32v z))
def fneg (a : W32) : W32 := fp32 (fvNeg (f32v a))

def fpZero : W32 := 0#32
def fpOne  : W32 := 0x3F800000#32
def fpNan  : W32 := 0x7FC00000#32
def fpInf  : W32 := 0x7F800000#32
def fpNegInf : W32 := 0xFF800000#32

def fIsNan (x : W32) : Bool := f32v x == .nan

/-- The order of FP32 values other than NaN as integers, −0 just below +0. -/
def fOrd (x : W32) : Int := if x.toNat < 2 ^ 31 then x.toNat else 2 ^ 31 - 1 - (x.toNat : Int)

/-- IEEE 754 maximum: a NaN gives NaN, +0 counts above −0 (R141, R164). -/
def fmax (a b : W32) : W32 := if fIsNan a || fIsNan b then fpNan else if fOrd a < fOrd b then b else a

/-- IEEE 754 minimum. -/
def fmin (a b : W32) : W32 := if fIsNan a || fIsNan b then fpNan else if fOrd b < fOrd a then b else a

/-- IEEE 754-2019 maximumNumber: a NaN loses to a number (R71). -/
def fmaxNum (a b : W32) : W32 :=
  if fIsNan a then (if fIsNan b then fpNan else b) else if fIsNan b then a else fmax a b

/-- a < b as values: −0 equals +0, a NaN is not below anything. -/
def flt (a b : W32) : Bool :=
  if fIsNan a || fIsNan b then false
  else
    let z := fun x : W32 => if x.toNat % 2 ^ 31 = 0 then (0 : Int) else fOrd x
    decide (z a < z b)

/-- a ≤ b as values. -/
def fle (a b : W32) : Bool := !(fIsNan a || fIsNan b) && !(flt b a)

/-- |x|. -/
def fabs (x : W32) : W32 := w32 (x.toNat % 2 ^ 31)

/-- FP64 addition of encodings, one rounding to nearest-even (R69). -/
def fadd64 (a b : W64) : W64 :=
  w64 (roundTo fltFp64 (fvAdd (decodeFlt fltFp64 a.toNat) (decodeFlt fltFp64 b.toNat)))

/-! ### Scales and groups -/

/-- R56: the listed scale_cfg values. -/
def scaleCfgListed (c : Nat) : Bool := [0, 1, 2, 3, 5, 6, 7].contains c

/-- R56: the group size G; 0 without scales. -/
def groupSize (cfg : Nat) : Nat :=
  match cfg % 4 with
  | 0 => 0
  | 1 => 32
  | 2 => 64
  | _ => 128

/-- R58: bytes of a scale entry. -/
def scaleBytes (cfg : Nat) : Nat := if bit cfg 2 then 2 else 1

/-- R58: entries of one row of a scale table, for k_plan elements. -/
def scaleEntries (cfg kPlan : Nat) : Nat := ceilDiv kPlan (groupSize cfg)

/-- R58: distance between rows of a scale table. -/
def scaleLd (cfg kPlan : Nat) : Nat := up64 (scaleEntries cfg kPlan * scaleBytes cfg)

/-- R57: the value of a scale. -/
def scaleVal (cfg code : Nat) : FV :=
  if bit cfg 2 then decodeFlt fltBf16 code
  else if code = 0xFF then .nan else .fin false 1 1 ((code : Int) - 127)

/-- R58: the scale of row r and group g of a table, 1 without scales (R56). -/
def scaleAt (m : Memory) (cfg tbl kPlan r g : Nat) : FV :=
  if groupSize cfg = 0 then .fin false 1 1 0
  else scaleVal cfg (mnat m (tbl + r * scaleLd cfg kPlan + g * scaleBytes cfg) (scaleBytes cfg))

/-- The products of pairs summed in FP32 arithmetic, in order: what R60 and R62 take for a group with a NaN or an
infinity. -/
def ieeeSum (ps : List (FV × FV)) : W32 := ps.foldl (fun acc p => fadd acc (fp32 (fvMul p.1 p.2))) fpZero

/-- R60, R62: the sum of a group's products: exact, or the IEEE 754 result when a NaN or infinity takes part. An exact
zero sum is +0 (log entry 20). -/
def groupSum (ps : List (FV × FV)) : FV :=
  if ps.any (fun p => fvNonfinite p.1 || fvNonfinite p.2) then f32v (ieeeSum ps)
  else ps.foldl (fun acc p => fvAdd acc (fvMul p.1 p.2)) (fvZero false)

/-- R61, R62: the contribution of a group: S × fp32(sa × sb), rounded once. -/
def contribution (ps : List (FV × FV)) (sa sb : FV) : W32 :=
  fp32 (fvMul (groupSum ps) (f32v (fp32 (fvMul sa sb))))

/-! ### The grinder -/

/-- How the grinder counts an input (R66). -/
inductive Counted where
  | plain
  | saturated
  | nonfinite
  deriving DecidableEq, Repr

/-- What rounding the grinder applies: to nearest, or stochastic with a draw (R65, R67). -/
inductive RoundBy where
  | nearest
  | draw (r : Nat)
  deriving DecidableEq, Repr

def roundBy (b : RoundBy) (neg : Bool) (q r d : Nat) : Nat :=
  match b with
  | .nearest => roundNearest q r d
  | .draw x => roundDraw neg q r d x

/-- R66: the grinder on an exact input. -/
def grind (f : Fmt) (b : RoundBy) (x : FV) : Nat × Counted :=
  match f.flt with
  | some fl =>
    match x with
    | .nan => (fl.nan, .nonfinite)
    | .inf neg => (signed fl neg (if fl.hasInf then fl.maxMag + 1 else fl.maxMag), .nonfinite)
    | .fin neg n d e =>
      let g := gridExp fl n d e
      let p := gridSplit n d e g
      let c := gridCode fl (roundBy b neg p.1 p.2.1 p.2.2) g
      if n = 0 then (signed fl neg 0, .plain)
      else if c ≤ fl.maxMag then (signed fl neg c, .plain)
      else (signed fl neg fl.maxMag, .saturated)
  | none =>
    let h := 2 ^ (f.width - 1)
    match x with
    | .nan => (0, .nonfinite)
    | .inf neg => (if neg then h else h - 1, .nonfinite)
    | .fin neg n d e =>
      let p := gridSplit n d e 0
      let m := roundBy b neg p.1 p.2.1 p.2.2
      if neg then (if m ≤ h then ((2 * h - m) % (2 * h), .plain) else (h, .saturated))
      else (if m < h then (m, .plain) else (h - 1, .saturated))

/-! ### Statistics (R69 to R71) -/

/-- The statistics of one converted element: x the grinder input, y × s the value written. -/
def statsOf (x y s : FV) (c : Counted) : Stats :=
  match c, x with
  | .nonfinite, _ => { count := 1, nonfinite := 1 }
  | _, .fin _ n d e =>
    let err := fvAdd (fvMul y s) (fvNeg x)
    { sse := w64 (roundTo fltFp64 (fvMul err err))
      ssqIn := w64 (roundTo fltFp64 (fvMul x x))
      count := 1
      saturations := if c = .saturated then 1 else 0
      maxAbs := fp32 (.fin false n d e) }
  | _, _ => { count := 1, nonfinite := 1 }

/-- Running sums: each addend is added with one rounding (R69). -/
def statsAdd (a b : Stats) : Stats :=
  { sse := fadd64 a.sse b.sse
    ssqIn := fadd64 a.ssqIn b.ssqIn
    count := a.count + b.count
    saturations := a.saturations + b.saturations
    nonfinite := a.nonfinite + b.nonfinite
    maxAbs := fmaxNum a.maxAbs b.maxAbs }

/-- R70, R71: the statistics buffer after a command's commit, as cells. -/
def statsCells (m : Memory) (addr : Nat) (a : Stats) : List Host.Cell :=
  let old : Stats := { sse := w64 (mnat m addr 8), ssqIn := w64 (mnat m (addr + 8) 8)
                       count := w64 (mnat m (addr + 16) 8), saturations := w64 (mnat m (addr + 24) 8)
                       nonfinite := w64 (mnat m (addr + 32) 8), maxAbs := w32 (mnat m (addr + 40) 4) }
  let t := statsAdd old a
  cellsNat addr 8 t.sse.toNat ++ cellsNat (addr + 8) 8 t.ssqIn.toNat ++ cellsNat (addr + 16) 8 t.count.toNat
    ++ cellsNat (addr + 24) 8 t.saturations.toNat ++ cellsNat (addr + 32) 8 t.nonfinite.toNat
    ++ cellsNat (addr + 40) 4 t.maxAbs.toNat ++ cellsNat (addr + 44) 4 (mnat m (addr + 44) 4 + 1)
    ++ cellsNat (addr + 48) 16 0

/-! ### The element-wise functions (R162) -/

/-- Fixed point with 256 fractional bits, used to hold reference values of the functions. -/
def fx : Nat := 256

/-- An FP32 value in fixed point, toward zero; 2^-149 is a multiple of 2^-256, so this is exact. -/
def toFx : FV → Int
  | .fin neg n d e =>
    let p := ratScale n d (e + fx)
    (p.1 / p.2 : Nat) * (if neg then -1 else 1)
  | _ => 0

def fxMul (a b : Int) : Int := a * b / 2 ^ fx
def fxDiv (a b : Int) : Int := a * 2 ^ fx / b

/-- e^y for |y| ≤ ½ by the series to the term numbered by the fuel. -/
def fxExpSmall (y : Int) : Nat → Int
  | 0 => 2 ^ fx
  | n + 1 => fxExpSmall y n + ((List.range (n + 1)).foldl (fun t k => fxMul t y / (k + 1)) (2 ^ fx : Int))

/-- Repeated squaring. -/
def fxSquare : Nat → Int → Int
  | 0, y => y
  | n + 1, y => fxSquare n (fxMul y y)

/-- e^y of a fixed-point value with y ≤ 128; below −180 the result is below 2^-256. -/
def fxExp (y : Int) : Int := if y < -180 * 2 ^ fx then 0 else fxSquare 9 (fxExpSmall (y / 512) 40)

/-- ln (1 + z) for 0 ≤ z ≤ 1: 2 artanh (z ÷ (2 + z)). -/
def fxLn1p (z : Int) : Int :=
  let w := fxDiv z (2 * 2 ^ fx + z)
  let w2 := fxMul w w
  2 * ((List.range 90).foldl (fun (p : Int × Int) k => (p.1 + p.2 / (2 * k + 1), fxMul p.2 w2)) ((0 : Int), w)).1

def fxSigmoid (y : Int) : Int := fxDiv (2 ^ fx) (2 ^ fx + fxExp (-y))

def fxTanh (y : Int) : Int :=
  if 0 ≤ y then let t := fxExp (-2 * y); fxDiv (2 ^ fx - t) (2 ^ fx + t)
  else let t := fxExp (2 * y); fxDiv (t - 2 ^ fx) (2 ^ fx + t)

/-- √(2 ÷ π) in fixed point, from the first 60 decimals of the constant. -/
def fxGeluK : Int := 797884560802865355879892119868763736951717262329869315331851 * 2 ^ fx / 10 ^ 60

/-- A reference value of a function, in fixed point: within 2^-100 of the exact one where the function is not given an
exact value by R162. -/
def fxRef (code : Nat) (x : Int) : Int :=
  match code with
  | 1 => fxExp x
  | 2 => fxSigmoid x
  | 3 => fxTanh x
  | 4 => fxMul x (fxSigmoid x)
  | 5 => fxMul (x / 2) (2 ^ fx + fxTanh (fxMul fxGeluK (x + fxMul (44715 * 2 ^ fx / 1000000) (fxMul x (fxMul x x)))))
  | 6 => if 0 ≤ x then x + fxLn1p (fxExp (-x)) else fxLn1p (fxExp x)
  | _ => (2 : Int) ^ (2 * fx + fx / 2) / Nat.sqrt (x.natAbs * 2 ^ (2 * fx))

/-- R162: the bound in ulp of FP32, or 2^-148 absolute below 2^-126, or for GELU_TANH 2^-24 × |x| if larger; in fixed
point, with the reference's own error allowed for. -/
def fxBound (code : Nat) (x ref : Int) : Int :=
  let ulps : Int := match code with
    | 1 => 2
    | 2 => 3
    | 3 => 3
    | 4 => 4
    | 5 => 4
    | 6 => 3
    | _ => 1
  let a := ref.natAbs
  let rel : Int := if a < 2 ^ (fx - 126) then 2 ^ (fx - 148) else ulps * 2 ^ (Nat.log2 a - 23)
  let b := if code = 5 then max rel ((x.natAbs : Int) / 2 ^ 24) else rel
  b + 2 ^ (fx - 200)

/-- Inputs on which R162 states an exact value. -/
def eltExact (code : Nat) (x : W32) : Option W32 :=
  let v := f32v x
  match v with
  | .nan => some fpNan
  | _ =>
    let zero := x.toNat % 2 ^ 31 = 0
    match code with
    | 0 => some x
    | 1 => if zero then some fpOne else if x = fpNegInf then some fpZero
           else if x = fpInf || fle 0x42B17219#32 x then some fpInf else none
    | 2 => if zero then some 0x3F000000#32 else if x = fpNegInf then some fpZero
           else if fle 0x41900000#32 x then some fpOne else none
    | 3 => if zero then some x else if x = fpInf then some fpOne else if x = fpNegInf then some 0xBF800000#32 else none
    | 4 => if zero then some x else if x = fpInf then some fpInf else if x = fpNegInf then some 0x80000000#32 else none
    | 5 => if zero then some x else if x = fpInf then some fpInf else if x = fpNegInf then some 0x80000000#32 else none
    | 6 => if x = fpNegInf then some fpZero else if fle 0x41A00000#32 x then some x else none
    | 7 => some (fdiv fpOne x)
    | 8 => if x = 0#32 then some fpInf else if x = 0x80000000#32 then some fpNegInf
           else if x = fpInf then some fpZero else if flt x fpZero then some fpNan else none
    | _ => if flt fpZero x then some x else some fpZero

/-- R162: inputs far outside the range of the reference, whose result lies below the smallest subnormal's reach: e^x and
σ(x) for x < −104, and the tails of SILU and GELU, tend to a zero of their sign; TANH to ±1. -/
def eltTail (code : Nat) (x : W32) : Option W32 :=
  if fle x 0xC2D00000#32 then
    match code with
    | 1 | 2 | 6 => some fpZero
    | 3 => some 0xBF800000#32
    | 4 | 5 => some 0x80000000#32
    | _ => none
  else if fle 0x42D00000#32 x then
    match code with
    | 3 => some fpOne
    | 4 | 5 => some x
    | _ => none
  else none

/-- Whether an FP32 encoding lies within the bound of R162 for a function and an input that has no exact value. -/
def eltAllowed (code : Nat) (x y : W32) : Bool :=
  match eltTail code x with
  | some t =>
    match f32v y, f32v t with
    | .fin yn n d e, .fin tn m c f =>
      let a := toFx (.fin yn n d e)
      let b := toFx (.fin tn m c f)
      decide ((a - b).natAbs ≤ (fxBound code (toFx (f32v x)) b).natAbs)
    | _, _ => false
  | none =>
    match f32v y with
    | .fin yn n d e =>
      let xx := toFx (f32v x)
      let r := fxRef code xx
      decide ((toFx (.fin yn n d e) - r).natAbs ≤ (fxBound code xx r).natAbs)
    | _ => false

/-- The reference value rounded to FP32. -/
def eltRef (code : Nat) (x : W32) : W32 :=
  match eltTail code x with
  | some t => t
  | none =>
    let r := fxRef code (toFx (f32v x))
    fp32 (.fin (decide (r < 0)) r.natAbs 1 (-fx))

/-- R162: the value of an element-wise function. Where the manual gives an exact value, that one; elsewhere the free
value `Config.eltFree` if it lies within the bound, and a value within the bound otherwise (log entry 11). -/
def eltFn (code : Nat) (x : W32) : W32 :=
  match eltExact code x with
  | some y => y
  | none => if eltAllowed code x (Config.eltFree code x) then Config.eltFree code x else eltRef code x

/-- R95: exp of the element-wise pipeline. -/
def fexp (x : W32) : W32 := eltFn 1 x

end Sys2Proof.Machine
end

