-- ==== Sys2Proof/Machine/Operands.lean ====
section
/-! DEFINITION. The fields of a descriptor: the common header (R231 to R233), element rows, scale tables and batch
addressing (R43, R45, R58), and the list of checks that a validation table is. -/

namespace Sys2Proof.Machine

/-- The field of `n` bytes at byte offset `o` of a descriptor (R4, R231). -/
def fld (d : Desc) (o n : Nat) : Nat := d.toNat / 2 ^ (8 * o) % 2 ^ (8 * n)

/-- Every byte of the listed ranges (offset, length) is 0 (R11). -/
def resZero (d : Desc) (rs : List (Nat × Nat)) : Bool := rs.all (fun r => fld d r.1 r.2 == 0)

def hClass (d : Desc) : Nat := fld d 0 1
def hOp (d : Desc) : Nat := fld d 1 1
def hSvc (d : Desc) : Nat := fld d 2 1
def hFlags (d : Desc) : Nat := fld d 3 1
def hBranch (d : Desc) : Nat := fld d 4 4
def hTag (d : Desc) : Nat := fld d 8 4
def hCost (d : Desc) : Nat := fld d 12 4

/-- hdr_flags: stop_on_error, irq, span (R231). -/
def hStop (d : Desc) : Bool := bit (hFlags d) 0
def hIrq (d : Desc) : Bool := bit (hFlags d) 1
def hSpan (d : Desc) : Bool := bit (hFlags d) 2

/-- Branch number for none (R231). -/
def noBranch : Nat := 0xFFFFFFFF

/-- R232: the listed opcodes of each class. -/
def opListed (cls op : Nat) : Bool :=
  match cls with
  | 1 => decide (1 ≤ op ∧ op ≤ 9)
  | 2 => decide (1 ≤ op ∧ op ≤ 3)
  | 3 => decide (1 ≤ op ∧ op ≤ 8)
  | 4 => decide (1 ≤ op ∧ op ≤ 4)
  | 5 => decide (1 ≤ op ∧ op ≤ 7)
  | _ => false

/-- R231, R233: class, opcode, svc and hdr_flags are listed, reserved bits 0, span only with a branch. -/
def headerListed (d : Desc) : Bool :=
  opListed (hClass d) (hOp d) && decide (hSvc d ≤ 2) && decide (hFlags d < 8) && !(hSpan d && hBranch d == noBranch)

/-- Whether a row's class and opcode are the descriptor's. A class or opcode that R232 does not list belongs to no row:
any descriptor row completes it (R233, log entry 21). -/
def isOp (cls op : Nat) (d : Desc) : Bool :=
  (hClass d == cls && hOp d == op) || !(opListed (hClass d) (hOp d))

/-- R196: a POOL_OP with op code k, or with an op that is not listed. -/
def isPool (k : Nat) (d : Desc) : Bool :=
  isOp 2 3 d && (!(opListed (hClass d) (hOp d)) || fld d 16 1 == k || fld d 16 1 == 0 || decide (7 < fld d 16 1))

/-- The batch elements that a command's span covers (R123): its batch_count where its body has one, otherwise 1. -/
def batchOf (d : Desc) : Nat :=
  match hClass d, hOp d with
  | 1, 1 => fld d 32 2
  | 1, 2 => fld d 32 2
  | 1, 3 => fld d 20 2
  | 1, 4 => fld d 20 2
  | 1, 6 => fld d 32 2
  | 1, 7 => fld d 32 2
  | 1, 8 => fld d 38 2
  | 1, 9 => fld d 24 2
  | 2, 1 => fld d 24 2
  | 3, 1 => fld d 24 2
  | 3, 3 => fld d 16 2
  | 3, 4 => fld d 24 2
  | _, _ => 1

/-- R123: the branches that a header names: with span, one for each batch element. -/
def headerBranches (d : Desc) : List Nat :=
  if hBranch d = noBranch then []
  else if hSpan d then (List.range (batchOf d)).map (hBranch d + ·) else [hBranch d]

/-- One line of a validation table: order, status, and whether the descriptor passes. -/
structure Check where
  order  : Nat
  status : Status
  pass   : Bool
  deriving DecidableEq, Repr

/-- R237: the first failing check of a validation table. -/
def firstFail : List Check → Option (Nat × Status)
  | [] => none
  | c :: cs => if c.pass then firstFail cs else some (c.order, c.status)

/-- Byte addresses aligned to n. -/
def aligned (n : Nat) (as : List Nat) : Bool := as.all (fun a => a % n == 0)

/-- Address of batch element e of an operand (R43). -/
def batchAddr (base e stride : Nat) : Nat := base + e * stride * 64

/-- R45: the ranges (address, bytes) of `rows` rows of `cols` densely packed elements, row distance ld in 64-byte units. -/
def rowRanges (f : Fmt) (base rows cols ld : Nat) : List (Nat × Nat) :=
  (List.range rows).map (fun r => (base + r * ld * 64, f.bytes cols))

/-- A list over batch elements 0 to b − 1 in order. -/
def overBatch {α : Type} (b : Nat) (f : Nat → List α) : List α := (List.range b).flatMap f

/-- R58: the ranges of a scale table's entries for `rows` rows and the groups that k elements reach. -/
def scaleRanges (cfg tbl rows kPlan k : Nat) : List (Nat × Nat) :=
  if groupSize cfg = 0 then []
  else (List.range rows).map (fun r => (tbl + r * scaleLd cfg kPlan, ceilDiv k (groupSize cfg) * scaleBytes cfg))

/-- R58: the whole scale table of `rows` rows. -/
def scaleTable (cfg tbl rows kPlan : Nat) : List (Nat × Nat) :=
  if groupSize cfg = 0 then [] else [(tbl, rows * scaleLd cfg kPlan)]

/-- R56, R55: scale_cfg fits a format: scales only for 4- and 8-bit elements. -/
def scaleFits (cfg : Nat) (f : Fmt) : Bool := cfg == 0 || decide (f.width ≤ 8)

/-- An address field that must be 0 exactly when it is not used. -/
def zeroIff (a : Nat) (unused : Bool) : Bool := (a == 0) == unused

/-- The cells of one converted element written at a row: at 4-bit the other half of the byte keeps its contents or what
an earlier cell of the same row put there (R45, log entry 22). -/
def eltCells (m : Memory) (f : Fmt) (row k code : Nat) (prev : Option Byte) : List Host.Cell :=
  if f.width = 4 then
    let a := row + k / 2
    let old := (prev.getD (mget m a)).toNat
    [(a, BitVec.ofNat 8 (if k % 2 = 0 then old / 16 * 16 + code else old % 16 + 16 * code))]
  else cellsNat (row + k * (f.width / 8)) (f.width / 8) code

/-- The cells of a row of element codes from index 0 on (R45). -/
def rowCells (m : Memory) (f : Fmt) (row : Nat) : Nat → List Nat → Option Byte → List Host.Cell
  | _, [], _ => []
  | k, c :: cs, prev =>
    let out := eltCells m f row k c prev
    out ++ rowCells m f row (k + 1) cs (if k % 2 = 0 then out.head?.map Prod.snd else none)

/-- R65: the rounding of a converted element: its draw under round_mode 1. -/
def roundOf (mode : Nat) (key ctr : W64) (t : Nat) : RoundBy :=
  if mode = 0 then .nearest else .draw (Config.draw key (ctr + w64 t)).toNat

/-- R65, R68: how many draws n elements converted to a format take. -/
def drawCount (mode : Nat) (f : Fmt) (n : Nat) : Nat := if mode = 1 && f != .fp32 then n else 0

end Sys2Proof.Machine
end

