-- ==== Sys2Proof/Machine/Access.lean ====
section
/-! DEFINITION. Addresses, access lists, the fields of the active configuration set, pool pages, the interleave and replica
maps, and what a command meets when it reads and writes (chapter 08, R262 to R264). -/

namespace Sys2Proof.Machine

/-! ### Configuration set fields (R366) -/

/-- A field of a set image. -/
def setFld (m : Memory) (o n : Nat) : Nat := mnat m o n

/-- The module's own identifier. -/
def selfId (s : State) : Nat := setFld s.cset.active 0x40 2
def setPort (m : Memory) : Nat := setFld m 0x42 1
/-- The power profile in force (R389). -/
def profile (s : State) : Nat := setFld s.cset.active 0x43 1
def pollMin (s : State) : Nat := setFld s.cset.active 0x44 1
def pollMax (s : State) : Nat := setFld s.cset.active 0x45 1
def grpMask (m : Memory) (g : Nat) : Nat := setFld m (0x80 + 128 * g) 64
def grpBudget (m : Memory) (g : Nat) : Nat := setFld m (0x80 + 128 * g + 64) 4
def grpCtx (m : Memory) (g : Nat) : Nat := setFld m (0x80 + 128 * g + 68) 2
def grpFlags (m : Memory) (g : Nat) : Nat := setFld m (0x80 + 128 * g + 70) 1
def zoneAll (m : Memory) : Nat := setFld m 0x880 2
def zoneReg (m : Memory) : Nat := setFld m 0x882 2
def agePeriod (m : Memory) : Nat := setFld m 0x884 4
def evictBase (m : Memory) : Nat := setFld m 0x888 8
def evictSlots (m : Memory) : Nat := setFld m 0x890 4

/-- R201: an imap entry. -/
structure Imap where
  base  : Nat
  count : Nat
  mode  : Nat
  sel   : Nat
  mask  : Nat
  deriving DecidableEq, Repr

def imapEntry (m : Memory) (i : Nat) : Imap :=
  let o := 0x8C0 + 16 * i
  { base := setFld m o 4, count := setFld m (o + 4) 4, mode := setFld m (o + 8) 1, sel := setFld m (o + 9) 1,
    mask := setFld m (o + 10) 2 }

/-- The used entries of the interleave map. -/
def imap (m : Memory) : List Imap := ((List.range 16).map (imapEntry m)).filter (fun e => e.count != 0)

/-- R201: the entry that covers a page; an uncovered page is ALL64 with die_mask 0xFFFF. -/
def imapOf (m : Memory) (p : Nat) : Imap :=
  ((imap m).find? (fun e => decide (e.base ≤ p ∧ p < e.base + e.count))).getD
    { base := 0, count := 0, mode := 0, sel := 0, mask := 0xFFFF }

/-- The numbers of the set bits of a mask below a bound, rising. -/
def setBits (mask n : Nat) : List Nat := (List.range n).filter (fun i => mask.testBit i)

/-- R201: the home die of a page. -/
def homeDieIn (m : Memory) (p : Nat) : Nat :=
  let e := imapOf m p
  let ds := setBits e.mask 16
  if ds.length = 0 then p % 16 else ds.getD ((p - e.base) % ds.length) 0

def homeDie (s : State) (p : Nat) : Nat := homeDieIn s.cset.active p

/-- The zone of a page: its home die, mode and selector. -/
def zoneIn (m : Memory) (p : Nat) : Nat × Nat × Nat :=
  let e := imapOf m p
  (homeDieIn m p, e.mode, if e.mode = 0 then 0 else e.sel)

def zoneOf (s : State) (p : Nat) : Nat × Nat × Nat := zoneIn s.cset.active p

/-- R200: the frames of a zone by its mode. -/
def zoneFrames (m : Memory) (mode : Nat) : Nat :=
  match mode with
  | 0 => 1024 * zoneAll m
  | 1 => 256 * zoneReg m
  | _ => 16 * (186 - zoneAll m - zoneReg m)

/-- R201: the channel of a line of 256 bytes of a page. -/
def channelOf (s : State) (p l : Nat) : Nat :=
  let e := imapOf s.cset.active p
  match e.mode with
  | 0 => (l + p) % 64
  | 1 => 16 * e.sel + (l + p) % 16
  | _ => e.sel

/-- R205: an rmap entry: base, length and replicas. -/
structure Rmap where
  base     : Nat
  length   : Nat
  replicas : List Nat
  deriving DecidableEq, Repr

def rmapEntry (m : Memory) (i : Nat) : Rmap :=
  let o := 0x9C0 + 48 * i
  { base := setFld m o 8, length := setFld m (o + 8) 8,
    replicas := ((List.range 8).map (fun j => setFld m (o + 16 + 2 * j) 2)).filter (· != 0xFFFF) }

def rmap (m : Memory) : List Rmap := ((List.range 8).map (rmapEntry m)).filter (fun e => e.length != 0)

/-! ### Global addresses (R190) -/

def gaMod (a : Nat) : Nat := a / 2 ^ 50
def gaSpace (a : Nat) : Nat := a / 2 ^ 46 % 16
def gaOff (a : Nat) : Nat := a % 2 ^ 46

def isCarafe (a : Nat) : Bool := gaSpace a == 0
def isScratch (a : Nat) : Bool := gaSpace a == 1
def isHost (a : Nat) : Bool := gaSpace a == 2

/-- The cluster q of a scratch window address: 32 × die + 8 × region + cluster. -/
def scratchCluster (a : Nat) : Nat := gaOff a / 2 ^ 23

/-- A carafe address of the module itself. -/
def ownCarafe (s : State) (a : Nat) : Bool := isCarafe a && gaMod a == selfId s

/-- A carafe address of a peer. -/
def peerCarafe (s : State) (a : Nat) : Bool := isCarafe a && gaMod a != selfId s

/-- The pool page of a carafe address. -/
def pageOf (a : Nat) : Nat := gaOff a / 65536

/-- R191: an address that a descriptor may name at all. -/
def addrLegal (s : State) (a : Nat) : Bool :=
  decide (a < 2 ^ 64) &&
  match gaSpace a with
  | 0 => decide (gaOff a < 2 ^ 39)
  | 1 => decide (gaOff a < 2 ^ 32) && gaMod a == selfId s
  | 2 => gaMod a == selfId s
  | _ => false

/-! ### Access lists (R192) -/

/-- Whether an entry grants a right on one byte. -/
def aclHas (w : Bool) (a : Nat) (e : AclEntry) : Bool :=
  (if w then e.write else e.read) && gaSpace e.base == gaSpace a && (e.allMod || gaMod e.base == gaMod a)
    && decide (gaOff e.base ≤ gaOff a ∧ gaOff a ≤ gaOff e.limit)

/-- Whether the n bytes from a are covered, walking from entry to entry. -/
def aclCovers (acl : List AclEntry) (w : Bool) : Nat → Nat → Nat → Bool
  | _, _, 0 => true
  | 0, _, _ => false
  | f + 1, a, n =>
    match (acl.filter (aclHas w a)).map (fun e => gaOff e.limit + 1 - gaOff a) with
    | [] => false
    | l :: ls =>
      let k := ls.foldl max l
      if n ≤ k then true else aclCovers acl w f (a + k) (n - k)

/-- R191, R192: whether a context may access the n bytes from a. -/
def accessible (s : State) (ctx : Nat) (w : Bool) (r : Nat × Nat) : Bool :=
  r.2 == 0 || (addrLegal s r.1 && addrLegal s (r.1 + r.2 - 1) && r.1 / 2 ^ 46 == (r.1 + r.2 - 1) / 2 ^ 46
    && aclCovers (ctxOf s ctx).acl w ((ctxOf s ctx).acl.length + 1) r.1 r.2)

def readable (s : State) (ctx : Nat) (rs : List (Nat × Nat)) : Bool := rs.all (accessible s ctx false)
def writable (s : State) (ctx : Nat) (rs : List (Nat × Nat)) : Bool := rs.all (accessible s ctx true)

/-! ### Peers, replicas and pages -/

/-- R299, R290: a module that counts as dead for this module's work. -/
def isDead (s : State) (m : Nat) : Bool :=
  m != selfId s && ((aget? s.links.dead m).isSome || s.links.unreachable.contains m)

/-- R205: the modules that may serve a read of a carafe address. -/
def sources (s : State) (a : Nat) : List Nat :=
  gaMod a :: (rmap s.cset.active).flatMap (fun e => if e.base ≤ a ∧ a < e.base + e.length then e.replicas else [])

/-- R205, R206: the address that a read of a byte is served from: for carafe space, the source chosen by line address
among those not dead; none when every source is dead. -/
def servedFrom (s : State) (a : Nat) : Option Nat :=
  if isCarafe a then
    match (sources s a).filter (fun m => !(isDead s m)) with
    | [] => none
    | m :: ms => some (gaOff a + 2 ^ 50 * ((m :: ms).getD (a / 256 % (ms.length + 1)) m))
  else some a

/-- The state of a page of the own pool; none is FREE (R194). -/
def pageState (s : State) (p : Nat) : Option PageState := (aget? s.pool p).map Page.state

/-- R207, R349: host space can be reached now; never again once the owning port is lost. -/
def hostUp (s : State) : Bool := (aget s.hostPorts s.owner {}).link == .up && (aget s.hostPorts s.owner {}).busMaster
def hostLost (s : State) : Bool := (aget s.hostPorts s.owner {}).lost

/-- What a command meets at one 64-byte line. -/
inductive Meet where
  | fine
  | wait
  | fails (st : Status)
  deriving DecidableEq, Repr

/-- R192, R194, R206, R207: what a read or write of a line meets, poison apart. -/
def meetLine (s : State) (write : Bool) (a : Nat) : Meet :=
  match (if write then (if isDead s (gaMod a) && isCarafe a then none else some a) else servedFrom s a) with
  | none => .fails .moduleDead
  | some a' =>
    if ownCarafe s a' then
      match pageState s (pageOf a') with
      | none => .fails .permission
      | some .resident => .fine
      | some .evicted => .wait
      | some .lost => .fails .moduleDead
    else if isHost a' then (if hostLost s then .fails .moduleDead else if hostUp s then .fine else .wait)
    else .fine

/-- R32: whether the line that a byte address is served from is poisoned. -/
def linePoisoned (s : State) (a : Nat) : Bool :=
  match servedFrom s a with
  | some a' => s.poison.contains (a' / 64)
  | none => false

/-- R261: which of several run-time failures a command reports; a page or structure that validation could not see comes
first (log entry 23). -/
def worst : List Status → Option Status := fun l =>
  [Status.format, .permission, .poison, .moduleDead, .state, .generation, .deadline, .killed].find? (l.contains ·)

/-- What a command meets when it uses the byte ranges `used` and writes the ranges `writes`. -/
def meet (s : State) (used writes : List (Nat × Nat)) : Meet :=
  let ul := (linesOfAll used).map (· * 64)
  let ms := ul.map (meetLine s false) ++ ((linesOfAll writes).map (fun l => meetLine s true (l * 64)))
  let fs := ms.filterMap (fun m => match m with | .fails st => some st | _ => none)
  let fs := if ul.any (linePoisoned s) then Status.poison :: fs else fs
  match worst fs with
  | some st => if ms.contains .wait && st != .permission then .wait else .fails st
  | none => if ms.contains .wait then .wait else .fine

/-- The memory that a command sees over its read ranges: each byte from where it is served (R205). -/
def operandMem (s : State) (rs : List (Nat × Nat)) : Memory :=
  if (rmap s.cset.active).isEmpty then s.mem
  else rs.foldl (fun m r => (List.range r.2).foldl (fun m i =>
    match servedFrom s (r.1 + i) with
    | some a => mset m (r.1 + i) (mget s.mem a)
    | none => m) m) s.mem

/-! ### Clusters in service (R262 to R264) -/

/-- The used group whose mask names a cluster. -/
def groupOf (s : State) (q : Nat) : Option Nat :=
  (List.range 16).find? (fun g => grpCtx s.cset.active g != 0xFFFF && (grpMask s.cset.active g).testBit q)

/-- The used group that names a Live context. -/
def groupOfCtx (s : State) (ctx : Nat) : Option Nat :=
  (List.range 16).find? (fun g => grpCtx s.cset.active g == ctx)

/-- R262: whether a cluster is in service to the class of a context. -/
def inService (s : State) (ctx q : Nat) : Bool :=
  if (ctxOf s ctx).svc = 0 then
    match groupOf s q with
    | some g => grpCtx s.cset.active g == ctx
    | none => false
  else (groupOf s q).isNone

/-! ### Granules -/

/-- The target_pos encoding of R45 to the cluster number q of R263. -/
def posToQ (pos : Nat) : Nat := 32 * (pos % 16) + 8 * (pos / 16 % 4) + pos / 64 % 8

/-- The cluster number to the target_pos encoding. -/
def qToPos (q : Nat) : Nat := q / 32 + 16 * (q / 8 % 4) + 64 * (q % 8)

/-- R121: the cluster of a branch's state. -/
def branchQ (b : Branch) : Option Nat := if b.granules = 0 then none else some (posToQ b.statePos)

/-- Branch-state granules on a cluster (R130). -/
def branchGranules (s : State) (q : Nat) : Nat :=
  (s.branches.filter (fun b => !(b.2.parked) && branchQ b.2 == some q)).foldl (fun n b => n + b.2.granules) 0

/-- Branch-state granules whose context is SWAPPED: other contexts' commands may work in them (R272). -/
def lentGranules (s : State) (q : Nat) : Nat :=
  (s.branches.filter (fun b => !(b.2.parked) && branchQ b.2 == some q && (ctxOf s b.2.ctx).res == .swapped)).foldl
    (fun n b => n + b.2.granules) 0

/-- Accumulator granules of a cluster that no retirement takes. -/
def soundGranules (s : State) (q : Nat) : Nat := 512 - ((clusterOf s q).retired.filter (· < 512)).length

/-- Granules of a cluster that commands may work in (R42): none that branch state pins or that is retired. -/
def usableGranules (s : State) (q : Nat) : Nat := soundGranules s q - (branchGranules s q - lentGranules s q)

/-- Granules that a command holds on a cluster. -/
def heldOn (c : Cmd) (q : Nat) : Nat := ((c.held.filter (fun h => h.1 == q)).map Prod.snd).sum

/-- R41: the granules free to a command on a cluster. -/
def freeGranules (s : State) (q : Nat) : Nat :=
  usableGranules s q - (s.cmds.map (fun c => heldOn c q)).sum

/-- Granules of a cluster that branch state may still take (R130, R272), and those of them that are free now. -/
def stateRoom (s : State) (q : Nat) : Nat := soundGranules s q - branchGranules s q
def freeStateRoom (s : State) (q : Nat) : Nat := stateRoom s q - (s.cmds.map (fun c => heldOn c q)).sum

end Sys2Proof.Machine
end

