-- ==== Sys2Proof/Machine/Events.lean ====
section
/-! DEFINITION. What the module reports: MSI-X vectors (R348), event flags with their counters (R8), log records (R422, R423) and
trace records (R356). -/

namespace Sys2Proof.Machine

/-! ### MSI-X -/

def hostPortOf (s : State) (p : Nat) : HostPort := aget s.hostPorts p {}

def modHostPort (s : State) (p : Nat) (f : HostPort → HostPort) : State :=
  { s with hostPorts := aput s.hostPorts p (f (hostPortOf s p)) }

/-! ### Writes to BAR0 (R345, R354, R408, R416) -/

/-- The owning function takes register accesses. -/
def barOpen (s : State) : Bool :=
  (s.phase == .running || s.phase == .failed) && (hostPortOf s s.owner).ready && (hostPortOf s s.owner).memSpace

/-- R416: the first wake event of a standby counts, with its cause and its time. -/
def markWake (s : State) (b : Standby) (cause : Nat) : Standby :=
  if b.cause.isSome then b else { b with cause := some cause, wakeAt := s.localTime }

/-- R408, R416: a memory write to BAR0 of the owning function: during standby or its entry it wakes the module and is held; otherwise it
takes effect. -/
def barWrite (s : State) (offset size value : Nat) (f : State → State) : State :=
  if !(barOpen s) then s
  else
    match s.standby with
    | none => f s
    | some b => { s with standby := some { markWake s b 0 with held := b.held ++ [(s.owner, offset, size, value)] } }

/-- R415: in standby the dies have no power and the carafes are in retention. -/
def asleep (s : State) : Bool :=
  match s.standby with
  | some b => b.stage == .asleep
  | none => false

/-- A standby whose entry ends: held writes wait to be applied (R418). -/
def leaveEntry (b : Standby) : Option Standby := if b.held.isEmpty then none else some { b with stage := .leaving }

/-! ### Vectors -/

/-- The vector control mask bit of an entry; an entry never written is masked (log entry 4). -/
def vectorMasked (h : HostPort) (v : Nat) : Bool :=
  match aget? h.msixTable v with
  | some e => e.getLsbD 96
  | none => true

/-- Whether a message of a vector can be sent now. -/
def vectorOpen (h : HostPort) (v : Nat) : Bool := h.msixEnable && !h.msixMask && h.busMaster && h.link == .up && !(vectorMasked h v)

/-- R348: a vector is sent, or sets its pending bit. -/
def sendVector (s : State) (p v : Nat) : State :=
  if vectorOpen (hostPortOf s p) v then { s with out := { s.out with msix := s.out.msix ++ [(p, v)] } }
  else modHostPort s p (fun h => { h with pba := sins h.pba v })

/-- R361: an event source sends its vector where its register says so. -/
def raiseSource (s : State) (n : Nat) : State :=
  let r := aget s.regs.sysVec n 0#32
  if r.getLsbD 31 then sendVector s s.owner (bits r.toNat 10 0) else s

/-! ### Event flags (R8) -/

/-- A flag word with a flag set. -/
def withFlag (e : W32) (b : Nat) : W32 := e ||| (1#32 <<< b)

/-- R259. -/
def ctxEvent (s : State) (n b : Nat) : State :=
  let s1 := modCtx s n (fun c => { c with evt := withFlag c.evt b, evtCnt := c.evtCnt + 1 })
  sendVector s1 s1.owner (ctxOf s1 n).msixVector

/-- R223. -/
def carafeEvent (s : State) (d : Nat) : State :=
  raiseSource { s with carafes := amod s.carafes d {} (fun k => { k with evt := withFlag k.evt 0, evtCnt := k.evtCnt + 1 }) } 1

/-- R316: an event of a port. -/
def portEvent (s : State) (p b : Nat) : State :=
  raiseSource { s with links := { s.links with ports := amod s.links.ports p {} (fun x =>
    { x with evt := withFlag x.evt b, evtCnt := x.evtCnt + 1 }) } } 2

/-- R318: an event of the links. -/
def linkEvent (s : State) (b : Nat) : State :=
  raiseSource { s with links := { s.links with evt := withFlag s.links.evt b, evtCnt := s.links.evtCnt + 1 } } 2

/-- R341. -/
def recovEvent (s : State) : State :=
  raiseSource { s with recov := { s.recov with evt := withFlag s.recov.evt 0, evtCnt := s.recov.evtCnt + 1 } } 3

/-- R359, R348: an event of a host port; a reduced function sends its own vector 0. -/
def pciEvent (s : State) (p b : Nat) : State :=
  let s1 := modHostPort s p (fun h => { h with evt := withFlag h.evt b, evtCnt := h.evtCnt + 1 })
  let s2 := raiseSource s1 4
  if p = s.owner then s2 else sendVector s2 p 0

/-- R379. -/
def csetEvent (s : State) (b : Nat) : State :=
  raiseSource { s with cset := { s.cset with evt := withFlag s.cset.evt b, evtCnt := s.cset.evtCnt + 1 } } 5

/-- R439. -/
def mgmtEvent (s : State) (b : Nat) : State :=
  raiseSource { s with mgmt := { s.mgmt with evt := withFlag s.mgmt.evt b, evtCnt := s.mgmt.evtCnt + 1 } } 6

/-- R403. -/
def powerEvent (s : State) (b : Nat) : State :=
  raiseSource { s with power := { s.power with evt := withFlag s.power.evt b, evtCnt := s.power.evtCnt + 1 } } 6

/-! ### The event log (R422, R423, R338) -/

/-- The sources of R423. -/
def lsHub : Nat := 0
def lsBarista : Nat := 1
def lsReferee : Nat := 2
def lsDie : Nat := 3
def lsLinkDie : Nat := 4
def lsCarafe : Nat := 5
def lsPower : Nat := 6
def lsHostPort : Nat := 7

/-- The calendar reading as stamps hold it (R434). -/
def calStamp (s : State) : W64 := if s.mgmt.calValid then s.mgmt.calCount else 0

/-- A record made now. -/
def newRecord (s : State) (source severity code unit data : Nat) : LogRec :=
  { seq := s.mgmt.newestSeq + 1, calStamp := calStamp s, time := s.localTime, incarn := s.links.incarnation, source := source,
    severity := severity, code := code, unit := unit, data := data }

/-- R422, R338: an event is logged: in Barista's buffer of 4,096 records; in the hub, up to 1,024, while Barista is down. -/
def logEvent (s : State) (source severity code unit data : Nat) : State :=
  let r := newRecord s source severity code unit data
  if s.recov.baristaDown then
    if s.mgmt.logHub.length < 1024 then
      { s with mgmt := { s.mgmt with newestSeq := s.mgmt.newestSeq + 1, logHub := s.mgmt.logHub ++ [r] } }
    else { s with recov := { s.recov with logDropped := min 65535 (s.recov.logDropped + 1) } }
  else if s.mgmt.logBuffer.length < 4096 then
    { s with mgmt := { s.mgmt with newestSeq := s.mgmt.newestSeq + 1, logBuffer := s.mgmt.logBuffer ++ [r] } }
  else mgmtEvent s 4

/-! ### Trace records (R356, R363) -/

/-- Whether an event of a context is selected. -/
def traced (s : State) (code ctx : Nat) : Bool :=
  s.regs.traceOn && s.regs.traceEvents.getLsbD (code - 1) && (!s.regs.traceFilter || s.regs.traceCtx.toNat == ctx)

/-- R356: the record of an event of a command. -/
def traceLine (s : State) (code : Nat) (c : Cmd) (status : Nat) : Line :=
  let placed := c.pos
  BitVec.ofNat 512 (s.localTime.toNat + 2 ^ 64 * c.idx + 2 ^ 96 * c.ctx + 2 ^ 104 * code + 2 ^ 112 * status
    + 2 ^ 120 * (match placed with | some q => q / 32 | none => 0xFF)
    + 2 ^ 128 * (match placed with | some q => qToPos q | none => 0xFFFF)
    + 2 ^ 144 * hClass c.desc + 2 ^ 152 * hOp c.desc + 2 ^ 160 * hTag c.desc)

/-- The ring of 4,194,304 records. -/
def traceRing : Nat := 4194304

/-- R356: a selected event is recorded. -/
def trace (s : State) (code : Nat) (c : Cmd) (status : Nat) : State :=
  if traced s code c.ctx then
    { s with trace := { s.trace with head := s.trace.head + 1
                                     records := aput s.trace.records (s.trace.head.toNat % traceRing) (traceLine s code c status) } }
  else s

/-- R260: the codes of the statuses. -/
def statusCode : Status → Nat
  | .ok => 0x00
  | .resequencedOk => 0x01
  | .format => 0x10
  | .filterSize => 0x11
  | .permission => 0x12
  | .shapeExceedsPlan => 0x13
  | .state => 0x20
  | .generation => 0x21
  | .deadline => 0x22
  | .poison => 0x30
  | .moduleDead => 0x31
  | .killed => 0x38

end Sys2Proof.Machine
end

