-- ==== Sys2Proof/Machine/Send.lean ====
section
/-! DEFINITION. Sending messages on Avtiro Link: routes, ports and sequence numbers (R287, R290 to R294). -/

namespace Sys2Proof.Machine

/-- R287: the message types. -/
def mtReadReq : Nat := 1
def mtReadReply : Nat := 2
def mtWriteData : Nat := 3
def mtHold : Nat := 4
def mtCommit : Nat := 5
def mtAck : Nat := 6
def mtCollLine : Nat := 7
def mtCollAbort : Nat := 8
def mtSignal : Nat := 9
def mtHuddle : Nat := 10
def mtDeath : Nat := 11
def mtPresent : Nat := 12

def portOf (s : State) (p : Nat) : Port := aget s.links.ports p {}

def setPortRec (s : State) (p : Nat) (x : Port) : State := { s with links := { s.links with ports := aput s.links.ports p x } }

def portUp (s : State) (p : Nat) : Bool := (portOf s p).state == .up

/-- The UP ports of a module. -/
def upPorts (s : State) : List Nat := (List.range 32).filter (portUp s)

def routeOf (s : State) (m : Nat) : Route := aget s.links.routes m {}

/-- R292, R293: the UP ports on which a message to a module may leave, of those allowed. -/
def routePorts (s : State) (dst mask : Nat) : List Nat :=
  let r := routeOf s dst
  let ports := if bit r.hop.toNat 0 then [bits r.hop.toNat 8 4] else setBits r.mask.toNat 32
  ports.filter (fun p => portUp s p && (mask == 0 || mask.testBit p))

/-- R292: one UP port, chosen by bits [15:8] of the address modulo the number of UP ports. -/
def choosePort (ps : List Nat) (address : Nat) : Option Nat := ps[bits address 15 8 % ps.length]?

/-- The key of a sequence number. -/
def seqKey (m cls : Nat) : Nat := 4 * m + cls

/-- Puts a message on a port, or holds it until a port of its route is UP (R290). -/
def emit (s : State) (mask : Nat) (m : Msg) : State :=
  match choosePort (routePorts s m.flit.dst mask) m.flit.address with
  | some p => { s with links := { s.links with out := s.links.out ++ [(p, m)] } }
  | none =>
    { s with links :=
      { s.links with waiting := s.links.waiting ++ [(mask, m)]
                     waitSince := if (aget? s.links.waitSince m.flit.dst).isSome then s.links.waitSince
                                  else aput s.links.waitSince m.flit.dst s.localTime } }

/-- Sends a message of a class to a module, with the next sequence number (R287, R294). -/
def send (s : State) (mask mtype cls dst epoch tag address : Nat) (data : List Byte) : State :=
  let q := aget s.links.seqOut (seqKey dst cls) 0#32
  let s1 := { s with links := { s.links with seqOut := aput s.links.seqOut (seqKey dst cls) (q + 1) } }
  emit s1 mask { mtype := mtype, flit := { cls := cls, dst := dst, src := selfId s, epoch := epoch, seq := q.toNat, tag := tag,
                                            address := address, data := data } }

/-- A list of actions on the state in order. -/
def seqAll {α : Type} (s : State) (l : List α) (f : State → α → State) : State := l.foldl f s

end Sys2Proof.Machine
end

