-- ==== Sys2Proof/Machine/Reads.lean ====
section
/-! DEFINITION. The lines that a command reads from peers and from the host, its remote read requests (R203, R296), and the
tags by which replies find their commands (R287). -/

namespace Sys2Proof.Machine

/-- R287: the tag of a command's messages: its context and ring index (log entry 42). -/
def cmdTag (c : Cmd) : Nat := c.ctx + 256 * (c.idx % 2 ^ 24)

/-- The command that a reply's tag names, while its status is not decided. -/
def findTag (s : State) (tag : Nat) : Option Cmd := s.cmds.find? (fun c => cmdTag c == tag && c.stage != .decided)

/-- A 64-byte line of a peer. -/
def peerLine (s : State) (l : Nat) : Bool := peerCarafe s (64 * l)

/-- The lines of ranges that are served by a peer or the host, at the address that serves them (R205). -/
def farLines (s : State) (rs : List (Nat × Nat)) : List Nat :=
  ((linesOfAll rs).filterMap (fun l => (servedFrom s (64 * l)).map (· / 64))).filter (fun l => peerLine s l || isHost (64 * l))

/-- Whether an awaited line can still land: its page has contents, its module lives, its port is not lost. -/
def canLand (s : State) (l : Nat) : Bool :=
  if ownCarafe s (64 * l) then pageState s (pageOf (64 * l)) == some .resident || pageState s (pageOf (64 * l)) == some .evicted
  else if isHost (64 * l) then !(hostLost s)
  else !(isDead s (gaMod (64 * l)))

/-- Whether a command still awaits a line. -/
def awaits (s : State) (c : Cmd) : Bool := c.await.any (canLand s)

/-- The 256-byte lines that a command awaits from peers and has not asked for. -/
def unasked (s : State) (c : Cmd) : List Nat :=
  (((c.await.filter (peerLine s)).map (· / 4)).dedup).filter (fun l =>
    !(s.links.reads.any (fun r => r.ctx == c.ctx && r.idx == c.idx && r.epoch == c.epoch && r.line == l)))

/-- Line requests outstanding on a compute die. -/
def readsOn (s : State) (die : Nat) : Nat := (s.links.reads.filter (fun r => r.die == die)).length

/-- R203, R296: a READ_REQ of one 256-byte line, while its die has fewer than 2,048 outstanding. -/
def askLine (c : Cmd) (s : State) (l : Nat) : State :=
  if readsOn s c.die < 2048 then
    let tag := s.links.nextTag
    let s1 := { s with links :=
      { s.links with nextTag := (tag + 1) % 2 ^ 32
                     reads := s.links.reads ++ [{ tag := tag, die := c.die, module := gaMod (256 * l), line := l, ctx := c.ctx,
                                                  idx := c.idx, epoch := c.epoch }] } }
    send s1 0 mtReadReq (hSvc c.desc) (gaMod (256 * l)) c.epoch.toNat tag (256 * l) []
  else s

/-- Asks for every line that a command awaits and has not asked for, as far as R203 lets it. -/
def askLines (s : State) (c : Cmd) : State := seqAll s (unasked s c) (askLine c)

/-- Every command's further requests, after a reply has freed an entry. -/
def askAll (s : State) : State := seqAll s s.cmds askLines

/-- A command that now awaits the 64-byte lines given. -/
def awaitLines (s : State) (c : Cmd) (ls : List Nat) : State :=
  let c1 := { c with await := ls }
  askLines (setCmd s c1) c1

/-- A command that reads lines of peers or of the host which it has found on the way. -/
def fetchLines (s : State) (c : Cmd) (ls : List Nat) : State := awaitLines s { c with seen := c.seen ++ ls } ls

end Sys2Proof.Machine
end

