-- ==== Sys2Proof/Machine/Life.lean ====
section
/-! DEFINITION. The life of a command up to the end of issue (R237): the order of validation, the header's checks, the
draws taken, and the one driver that the descriptor rows share. -/

namespace Sys2Proof.Machine

/-! ### Header checks -/

/-- R233: class, opcode, svc and flags. -/
def headerCheck (d : Desc) : Check := ⟨1, .format, headerListed d⟩

/-- R233: svc is the class of the context, at the command's permission order. -/
def svcCheck (s : State) (c : Cmd) (order : Nat) : Check := ⟨order, .permission, hSvc c.desc == (ctxOf s c.ctx).svc⟩

/-- R120, R123: the checks on branch and span, which follow the svc check at the permission order (log entry 24): the
range, every branch in use, and every branch owned by the context. -/
def branchChecks (s : State) (c : Cmd) (order : Nat) : List Check :=
  let bs := headerBranches c.desc
  [⟨order, .format, bs.all (fun b => decide (b ≤ 65535))⟩,
   ⟨order, .state, bs.all (fun b => (branchOf s b).isSome)⟩,
   ⟨order, .permission, bs.all (fun b => ((branchOf s b).map Branch.ctx) == some c.ctx)⟩]

/-! ### What a command names, and the orders within a context -/

/-- The numbers that a PRUNE lists (R137). -/
def pruneList (s : State) (d : Desc) : List Nat :=
  if fld d 24 8 = 0 then (List.range (fld d 16 4)).map (fld d 20 4 + ·)
  else (List.range (fld d 16 4)).map (fun i => mnat s.mem (fld d 24 8 + 4 * i) 4)

/-- FORK, PRUNE, PROMOTE or PARK (R124). -/
def isBranchOp (d : Desc) : Bool := hClass d == 3 && decide (5 ≤ hOp d ∧ hOp d ≤ 8)

/-- A PROMOTE with prune_others (R124). -/
def promotesAll (d : Desc) : Bool := hClass d == 3 && hOp d == 7 && bit (fld d 20 1) 0

/-- R124: the branches that FORK, PRUNE, PROMOTE or PARK touches, as parent, child or subject. -/
def touches (s : State) (d : Desc) : List Nat :=
  if hClass d = 3 then
    match hOp d with
    | 5 => (if fld d 16 4 = noBranch then [] else [fld d 16 4]) ++ (List.range (fld d 24 2)).map (fld d 20 4 + ·)
    | 6 => pruneList s d
    | 7 => [fld d 16 4]
    | 8 => [fld d 16 4]
    | _ => []
  else []

/-- The branches that a command names, in its header or as its subject. -/
def names (s : State) (d : Desc) : List Nat := headerBranches d ++ touches s d

/-- R244, R248, R250, R251, R369, R414: an incomplete command that holds every later descriptor unvalidated. -/
def holdsLater (d : Desc) : Bool :=
  hStop d || (hClass d == 5 && [1, 2, 4, 5, 7].contains (hOp d))

/-- R239, R124, R244, R248 to R251: whether a fetched descriptor may be validated now: every earlier one is past
validation, none that is incomplete holds it, and no earlier branch command touches a branch that it names. -/
def mayValidate (s : State) (c : Cmd) : Bool :=
  ((ctxOf s c.ctx).state == .active || ((ctxOf s c.ctx).state == .halted && (ctxOf s c.ctx).haltReason == .ringAccess)) &&
  !((ctxOf s c.ctx).stopping) &&
  (earlier s c).all (fun x =>
    x.stage != .fetched && !(holdsLater x.desc) &&
    !(isBranchOp x.desc && (touches s x.desc).any (fun b => (names s c.desc).contains b)) &&
    !(promotesAll x.desc && !((names s c.desc).isEmpty)))

/-- Every earlier descriptor of the context has completed (R248, R249, R251, R369). -/
def earlierDone (s : State) (c : Cmd) : Bool := (earlier s c).isEmpty

/-- R124: a branch command starts only after every earlier command that names a branch it touches has completed. -/
def branchOpMayStart (s : State) (c : Cmd) : Bool :=
  (earlier s c).all (fun x =>
    if promotesAll c.desc then (names s x.desc).isEmpty
    else !((names s x.desc).any (fun b => (touches s c.desc).contains b)))

/-! ### Draws (R68, R123) -/

/-- Takes n counters of one stream record: of a branch, or of the context. -/
def takeDraw (s : State) (ctx : Nat) (b : Option Nat) (n : Nat) : State × (W64 × W64) :=
  match b with
  | some b =>
    let r := (branchOf s b).getD {}
    ({ s with branches := aput s.branches b { r with rngCounter := r.rngCounter + w64 n } }, (r.rngKey, r.rngCounter))
  | none =>
    let c := ctxOf s ctx
    (setCtx s ctx { c with streamCtr := c.streamCtr + w64 n }, (c.streamKey, c.streamCtr))

/-- Takes the ranges of a list of records in order. -/
def takeDraws : State → Nat → List (Option Nat × Nat) → State × List (W64 × W64)
  | s, _, [] => (s, [])
  | s, ctx, (b, n) :: rs =>
    let p := takeDraw s ctx b n
    let q := takeDraws p.1 ctx rs
    (q.1, p.2 :: q.2)

/-- R68, R123: the records that a command draws from, with the number of draws: n for the whole command, or with span
n ÷ batch for each batch element. -/
def drawRecords (d : Desc) (perElement batch : Nat) : List (Option Nat × Nat) :=
  if hBranch d = noBranch then [(none, batch * perElement)]
  else if hSpan d then (List.range batch).map (fun e => (some (hBranch d + e), perElement))
  else [(some (hBranch d), batch * perElement)]

/-- The rounding of an element: t counts within the batch element e of `perElement` elements (R68, R123). -/
def elementRound (c : Cmd) (mode e perElement t : Nat) : RoundBy :=
  if hSpan c.desc && hBranch c.desc != noBranch then
    let r := c.draws.getD e (0, 0)
    roundOf mode r.1 r.2 t
  else
    let r := c.draws.getD 0 (0, 0)
    roundOf mode r.1 r.2 (e * perElement + t)

/-! ### Decisions and releases -/

/-- A command whose status is decided at this time. -/
def decided (s : State) (c : Cmd) (st : Status) (order result : Nat) : Cmd :=
  { c with stage := .decided, status := st, failOrder := order, decidedAt := s.localTime, work := { result := result },
           pos := none, held := [], counter := none, await := [], accs := [], holdsDue := [], acksDue := [], coll := none }

/-- The cluster without what a command holds on it: its arrival counter and the ownership of the rows (R31, R49). -/
def freeCluster (k : Cluster) (c : Cmd) : Cluster :=
  { k with arrivals := k.arrivals.filter (fun a => !(a.2.ctx == c.ctx && a.2.idx == c.idx))
           rowOwner := if k.rowOwner = some (c.ctx, c.idx) then none else k.rowOwner }

/-- Releases what a command holds on its cluster, and notes the time for the region's gating (R390). -/
def release (s : State) (c : Cmd) : State :=
  match c.pos with
  | some q => modRegion (modCluster s q (fun k => freeCluster k c)) (q / 8) (fun r => { r with idleSince := s.localTime })
  | none => s

/-- Whether a maintenance activity is a command's own: a page retirement or a snapshot (ranks 1 and 6 of R436). -/
def activityOf (c : Cmd) (a : Activity) : Bool := (a.rank == 1 || a.rank == 6) && a.info == (c.ctx, c.idx)

/-- The Umpire without a command's own activities, running or queued (R437). -/
def dropActivities (s : State) (c : Cmd) : State :=
  { s with mgmt := { s.mgmt with running := s.mgmt.running.filter (fun a => !(activityOf c a))
                                 queued := s.mgmt.queued.filter (fun a => !(activityOf c a)) } }

/-- R126: the child numbers that a command reserved are given back, and its maintenance activities end. -/
def unreserve (s : State) (c : Cmd) : State :=
  dropActivities { s with reserved := s.reserved.filter (fun r => !(r.2.1 == c.ctx && r.2.2 == c.idx)) } c

/-- Completes a command without commit: its status is decided and its resources are released. -/
def failCmd (s : State) (c : Cmd) (st : Status) (order result : Nat) : State :=
  setCmd (unreserve (release s c) c) (decided s c st order result)

/-! ### The driver of the descriptor rows -/

/-- What issuing a command comes to: it waits, it ends with a failure status, an attempt of R91 fails, or the command
holds the work that its commit makes visible. -/
inductive RunOut where
  | wait
  | fails (st : Status)
  | again
  /-- it needs these lines of peers or of the host first -/
  | fetch (ls : List Nat)
  | done (c : Cmd)
  deriving Repr

/-- What the driver needs to know of a command. -/
structure CmdSpec where
  /-- its validation table (R237) -/
  checks : State → Cmd → List Check
  /-- a run-time extent is 0 (R241) -/
  noop   : State → Cmd → Bool
  /-- the resources taken at validation (R68, R126) -/
  take   : State → Cmd → State × Cmd
  /-- the stage at which its issue starts: placed, or validated where it needs no placement -/
  from_  : Stage
  /-- issue up to the commit checks -/
  run    : State → Cmd → RunOut
  /-- the ranges that validation reads: lists of tables or branches, a group record -/
  reads  : State → Cmd → List (Nat × Nat) := fun _ _ => []

/-- R237, stage Validate. -/
def validateCmd (sp : CmdSpec) (s0 : State) (c : Cmd) : State :=
  let s := trace s0 2 c 0
  match firstFail (sp.checks s c) with
  | some (o, st) => setCmd s (decided s c st o 0)
  | none =>
    if sp.noop s c then setCmd s { decided s c .ok 0 0 with validated := true, noop := true, validatedAt := s.localTime }
    else
      let p := sp.take s c
      setCmd p.1 { p.2 with stage := .validated, validated := true, validatedAt := s.localTime }

/-- R237: a command that may be validated. What its validation reads from a peer or the host is read first (R302, R116). -/
def validate (sp : CmdSpec) (s : State) (c : Cmd) : State :=
  if !(mayValidate s c) || awaits s c then s
  else
    match c.peerError with
    | some st => setCmd s (decided s c st 0 0)
    | none =>
      let ls := (farLines s (sp.reads s c)).filter (fun l => !(c.seen.contains l))
      if ls.isEmpty then validateCmd sp s { c with await := [], seen := [] } else fetchLines s c ls

/-- R49: whether a command may issue on the rows of its cluster. -/
def rowsFree (s : State) (c : Cmd) : Bool :=
  match c.pos with
  | some q => (clusterOf s q).rowOwner.isNone || (clusterOf s q).rowOwner == some (c.ctx, c.idx)
  | none => true

/-- A killed command that will run again (R237, R267, R268): it repeats place, issue and commit under a new epoch tag. -/
def requeued (c : Cmd) : Cmd :=
  { c with stage := .validated, rerun := true, epoch := c.epoch + 1, pos := none, held := [], counter := none, await := [],
           peerError := none, holdsSent := false, holdsDue := [], acksDue := [], rowsIssued := 0, drained := 0, accs := [],
           turn := 0, arrived := false, seen := [], haloReady := false, work := {}, gens := [], leadGens := [], borrowed := false,
           coll := c.coll.map (fun r => { r with started := false }) }

/-- R52, R356: a command is killed. -/
def noteKill (s : State) (c : Cmd) : State :=
  trace (match c.pos with | some q => modCluster s q (fun k => { k with cnt3 := k.cnt3 + 1 }) | none => s) 6 c 0

/-- R88: every look-aside entry of a table, in one region, dropped. -/
def dropTable (r : Region) (head : Nat) : Region := { r with lab := r.lab.filter (fun e => e.2.head != head) }

/-- R91: a failed attempt: the table's buffer entries of the command's region go, and the command is killed and re-run no
earlier than 2 µs later; the fourth completes with E_GENERATION. -/
def failedAttempt (s : State) (c : Cmd) : State :=
  let s1 := match c.pos with
    | some q => modRegion s (q / 8) (fun r =>
        let r' := c.list.foldl dropTable r
        { r' with cntGens := r'.cntGens + 1 })
    | none => s
  if c.attempts + 1 ≥ 4 then failCmd s1 { c with attempts := c.attempts + 1 } .generation 0 0
  else setCmd (release (noteKill s1 c) c)
    { requeued c with attempts := c.attempts + 1, mismatch := true, retryAt := s.localTime + w64 (us 2) }

/-- R52, R119: the activity counters of the cluster and the walker counters of the region after a command's issue. -/
def countRows (s : State) (c : Cmd) : State :=
  match c.pos with
  | some q =>
    modRegion (modCluster s q (fun k =>
        { k with cnt0 := k.cnt0 + w32 c.work.rows, cnt2 := k.cnt2 + (if c.work.reseq then 1 else 0) }))
      (q / 8) (fun r => { r with cntPages := r.cntPages + w32 c.pages })
  | none => s

/-- R237, stage Issue. A command issues once every operand line has arrived (R30, R31); an error reply of a peer ends it
(R296). A SCAN keeps its working granules until it commits (R151). -/
def issueCmd (sp : CmdSpec) (s : State) (c : Cmd) : State :=
  match c.peerError with
  | some st => failCmd s c st 0 0
  | none =>
    if awaits s c || !(rowsFree s c) then s
    else
      match sp.run s c with
      | .wait => s
      | .fails st => failCmd s c st 0 0
      | .again => failedAttempt s c
      | .fetch ls => fetchLines s c ls
      | .done c' =>
        setCmd (release (countRows s c') c)
          { c' with stage := .issued, await := [], counter := none, accs := []
                    seen := c'.seen.filter (fun l => !((c'.gens ++ c'.leadGens).any (fun g => g.1 / 64 == l)))
                    held := if hClass c.desc = 1 ∧ hOp c.desc = 6 then c.held else [] }

/-- A descriptor row: the next stage of the descriptor of a context with a ring index. Where the descriptor is not of
the row, or its next stage is not due, nothing changes (log entry 25). -/
def descStep (owns : Desc → Bool) (sp : CmdSpec) (ctx idx : Nat) (s : State) : State :=
  match findCmd s ctx idx with
  | none => s
  | some c =>
    if owns c.desc then
      if c.stage = .fetched then validate sp s c
      else if c.stage = sp.from_ then issueCmd sp s c
      else s
    else s

/-- Takes no resource. -/
def takeNone (s : State) (c : Cmd) : State × Cmd := (s, c)

/-- Takes the draws of a command that converts `perElement` elements in each of `batch` elements (R68). -/
def takeStream (perElement batch : Desc → Nat) (s : State) (c : Cmd) : State × Cmd :=
  let p := takeDraws s c.ctx (drawRecords c.desc (perElement c.desc) (batch c.desc))
  (p.1, { c with draws := p.2 })

end Sys2Proof.Machine
end

