-- ==== Sys2Proof/Machine/Matmul.lean ====
section
/-! DEFINITION. MATMUL: the tile menu, folding, the loop of row instructions, accumulation and drain (chapter 02, R55 to
R64, R163). -/

namespace Sys2Proof.Machine

/-- The body of a MATMUL descriptor (R45), with the addresses as global addresses. -/
structure Mm where
  m      : Nat
  n      : Nat
  k      : Nat
  mPlan  : Nat
  nPlan  : Nat
  kPlan  : Nat
  batch  : Nat
  kChunk : Nat
  shape  : Nat
  fmtA   : Nat
  fmtB   : Nat
  fmtO   : Nat
  cfg    : Nat
  round  : Nat
  epi    : Nat
  acc    : Nat
  flags  : Nat
  pos    : Nat
  a      : Nat
  b      : Nat
  c      : Nat
  sa     : Nat
  sb     : Nat
  aux    : Nat
  aLd    : Nat
  bLd    : Nat
  cLd    : Nat
  aBs    : Nat
  bBs    : Nat
  cBs    : Nat
  sBs    : Nat
  deriving Inhabited

def mmOf (d : Desc) : Mm :=
  { m := fld d 16 2, n := fld d 18 2, k := fld d 20 4, mPlan := fld d 24 2, nPlan := fld d 26 2, kPlan := fld d 28 4,
    batch := fld d 32 2, kChunk := fld d 34 2, shape := fld d 36 1, fmtA := fld d 37 1, fmtB := fld d 38 1,
    fmtO := fld d 39 1, cfg := fld d 40 1, round := fld d 41 1, epi := fld d 42 1, acc := fld d 43 1, flags := fld d 44 2,
    pos := fld d 46 2, a := fld d 48 8, b := fld d 56 8, c := fld d 64 8, sa := fld d 72 8, sb := fld d 80 8,
    aux := fld d 88 8, aLd := fld d 96 4, bLd := fld d 100 4, cLd := fld d 104 4, aBs := fld d 108 4, bBs := fld d 112 4,
    cBs := fld d 116 4, sBs := fld d 120 4 }

/-- R33: rows and columns of a menu tile, units of a cluster, and the K-chunk maximum, by shape. -/
def tileM (shape : Nat) : Nat :=
  match shape with
  | 0 => 128
  | 1 => 64
  | 2 => 256
  | _ => 32

def tileN (shape : Nat) : Nat :=
  match shape with
  | 0 => 128
  | 1 => 256
  | 2 => 64
  | _ => 128

def unitsOf (shape : Nat) : Nat := if shape = 1 then 2 else 4

def chunkMax (shape : Nat) : Nat := if shape = 3 then 512 else 16384 / tileM shape

/-- R39: the K-chunk in effect, in elements. -/
def chunkOf (x : Mm) : Nat :=
  let f := fmtAt x.fmtA
  let c := if x.kChunk = 0 then chunkMax x.shape else x.kChunk
  let fit := 524288 * 8 / (x.m * f.width)
  if x.m = 0 then c else min c fit / f.depth * f.depth

/-- The extent of a tile t of size ts over e elements (R35). -/
def tileExt (e ts t : Nat) : Nat := min ts (e - t * ts)

/-- R36: granules of a menu tile. -/
def tileGranules (m n : Nat) : Nat := ceilDiv (m * n * 4) 4096

def mmTileGranules (x : Mm) (tm tn : Nat) : Nat :=
  tileGranules (tileExt x.m (tileM x.shape) tm) (tileExt x.n (tileN x.shape) tn)

def mmTm (x : Mm) : Nat := ceilDiv x.m (tileM x.shape)
def mmTn (x : Mm) : Nat := ceilDiv x.n (tileN x.shape)

/-- Granules of the first menu tile (R42). -/
def mmFirst (x : Mm) : Nat := mmTileGranules x 0 0

/-- Granules of a whole N-tile column. -/
def mmColumn (x : Mm) (tn : Nat) : Nat := ((List.range (mmTm x)).map (fun tm => mmTileGranules x tm tn)).sum

/-- The largest count ≤ n whose first entries sum to at most q. -/
def fitCount (f : Nat → Nat) (q : Nat) : Nat → Nat
  | 0 => 0
  | n + 1 => if ((List.range (n + 1)).map f).sum ≤ q then n + 1 else fitCount f q n

/-- Runs of at most `g` consecutive numbers that cover 0 to n − 1. -/
def runsOf (n g : Nat) : List (List Nat) :=
  (List.range (ceilDiv n g)).map (fun i => (List.range (min g (n - i * g))).map (· + i * g))

/-- R41: the groups of N-tiles and M-tiles that run one after another, given Q. -/
def mmGroups (x : Mm) (q : Nat) : List (List Nat × List Nat) :=
  let all := ((List.range (mmTn x)).map (mmColumn x)).sum
  if all ≤ q then [(List.range (mmTn x), List.range (mmTm x))]
  else
    let g := fitCount (mmColumn x) q (mmTn x)
    if 0 < g then (runsOf (mmTn x) g).map (fun tns => (tns, List.range (mmTm x)))
    else
      let h := max 1 (fitCount (fun tm => mmTileGranules x tm 0) q (mmTm x))
      (List.range (mmTn x)).flatMap (fun tn => (runsOf (mmTm x) h).map (fun tms => ([tn], tms)))

/-- One row instruction: a pass of an N-tile over the run of an M-tile of a batch element (R37). -/
structure RowInstr where
  e    : Nat
  tm   : Nat
  tn   : Nat
  pass : Nat
  deriving DecidableEq, Repr, Inhabited

/-- Passes of the command (R26). -/
def mmPasses (x : Mm) : Nat := ceilDiv x.k (fmtAt x.fmtA).depth

/-- R38: the row instructions of one group in order; the units' instructions, issued in parallel, are listed unit by
unit. -/
def mmGroupRows (x : Mm) (e : Nat) (g : List Nat × List Nat) : List RowInstr :=
  let pc := max 1 (chunkOf x / (fmtAt x.fmtA).depth)
  (List.range (ceilDiv (mmPasses x) pc)).flatMap (fun kc =>
    (List.range (unitsOf x.shape)).flatMap (fun u =>
      (g.1.filter (fun tn => tn % unitsOf x.shape == u)).flatMap (fun tn =>
        (List.range (min pc (mmPasses x - kc * pc))).flatMap (fun p =>
          g.2.map (fun tm => { e := e, tm := tm, tn := tn, pass := kc * pc + p })))))

/-- All row instructions of the command in order (R38, R41, R43). -/
def mmRows (x : Mm) (q : Nat) : List RowInstr :=
  (List.range x.batch).flatMap (fun e => (mmGroups x q).flatMap (mmGroupRows x e))

/-- The groups of scales that end in a pass; without scales, or with half-pass groups, the groups of that pass
(R60, R64). -/
def groupsEnding (x : Mm) (pass : Nat) : List (Nat × Nat × Nat) :=
  let d := (fmtAt x.fmtA).depth
  let gs := if groupSize x.cfg = 0 then d else groupSize x.cfg
  let g0 := pass * d / gs
  ((List.range (max 1 (d / gs))).map (· + g0)).filterMap (fun g =>
    let last := min ((g + 1) * gs) x.k
    if g * gs < x.k ∧ (last - 1) / d = pass then some (g, g * gs, last) else none)

/-- Element values of a row of an operand from index i to j − 1. -/
def rowVals (m : Memory) (f : Fmt) (row i j : Nat) : List FV :=
  (List.range (j - i)).map (fun t => decodeElt f (eltCode m f row (i + t)))

/-- R61 to R64: what output (i, j) of element e gains in a pass, added to its accumulator. -/
def mmAccumulate (m : Memory) (x : Mm) (e i j pass : Nat) (acc : W32) : W32 :=
  let ra := batchAddr x.a e x.aBs + i * x.aLd * 64
  let rb := batchAddr x.b e x.bBs + j * x.bLd * 64
  (groupsEnding x pass).foldl (fun acc g =>
    let ps := (rowVals m (fmtAt x.fmtA) ra g.2.1 g.2.2).zip (rowVals m (fmtAt x.fmtB) rb g.2.1 g.2.2)
    let sa := scaleAt m x.cfg (batchAddr x.sa e x.sBs) x.kPlan i g.1
    let sb := scaleAt m x.cfg (batchAddr x.sb e x.sBs) x.kPlan j g.1
    fadd acc (contribution ps sa sb)) acc

/-- R45, R63: the value an accumulator starts from. -/
def mmStart (m : Memory) (x : Mm) (e i j : Nat) : W32 :=
  if x.acc = 0 then fpZero
  else fp32 (decodeElt (fmtAt x.fmtO) (eltCode m (fmtAt x.fmtO) (batchAddr x.c e x.cBs + i * x.cLd * 64) j))

/-- The key of an output in the accumulators, and its element index of R68. -/
def mmIndex (x : Mm) (e i j : Nat) : Nat := e * (x.m * x.n) + i * x.n + j

/-- The outputs of a menu tile, row by row. -/
def tileOutputs (x : Mm) (tm tn : Nat) : List (Nat × Nat) :=
  (List.range (tileExt x.m (tileM x.shape) tm)).flatMap (fun i =>
    (List.range (tileExt x.n (tileN x.shape) tn)).map (fun j => (tm * tileM x.shape + i, tn * tileN x.shape + j)))

/-- A row instruction issues: every output of its tile accumulates the pass (R37, R40). -/
def issueRow (m : Memory) (x : Mm) (accs : AMap W32) (r : RowInstr) : AMap W32 :=
  (tileOutputs x r.tm r.tn).foldl (fun accs o =>
    let key := mmIndex x r.e o.1 o.2
    aput accs key (mmAccumulate m x r.e o.1 o.2 r.pass (aget accs key (mmStart m x r.e o.1 o.2)))) accs

/-- What the drain of one converted row of outputs writes and measures: the row's address, first column, and the
accumulator values in order (R40, R66, R69, R163). -/
def drainRow (m : Memory) (f : Fmt) (epi : Nat) (rnd : Nat → RoundBy) (row j0 : Nat) (vals : List W32) :
    List Host.Cell × Stats :=
  let outs := (List.range vals.length).map (fun t =>
    let v := eltFn epi (vals.getD t 0)
    let g := grind f (rnd t) (f32v v)
    (g.1, statsOf (f32v v) (decodeElt f g.1) (.fin false 1 1 0) g.2))
  (rowCells m f row j0 (outs.map Prod.fst) none, outs.foldl (fun a o => statsAdd a o.2) {})

/-- A tile drains (R40): its cells and statistics join the command's work. -/
def drainTile (m : Memory) (x : Mm) (c : Cmd) (w : Work) (r : RowInstr) : Work :=
  (List.range (tileExt x.m (tileM x.shape) r.tm)).foldl (fun w i =>
    let row := r.tm * tileM x.shape + i
    let j0 := r.tn * tileN x.shape
    let vals := (List.range (tileExt x.n (tileN x.shape) r.tn)).map (fun j =>
      aget c.accs (mmIndex x r.e row (j0 + j)) (mmStart m x r.e row (j0 + j)))
    let p := drainRow m (fmtAt x.fmtO) x.epi (fun t => elementRound c x.round r.e (x.m * x.n) (row * x.n + j0 + t))
      (batchAddr x.c r.e x.cBs + row * x.cLd * 64) j0 vals
    { w with writes := w.writes ++ p.1
             stats := if x.aux = 0 then none else some (x.aux, statsAdd ((w.stats.map Prod.snd).getD {}) p.2) }) w

/-- The tiles in the order in which they complete: the row instructions of the last pass (R40). -/
def mmTiles (x : Mm) (q : Nat) : List RowInstr := (mmRows x q).filter (fun r => r.pass + 1 == mmPasses x)

/-- The command with its next row instruction issued. -/
def mmIssueNext (m : Memory) (x : Mm) (c : Cmd) : Cmd :=
  match (mmRows x c.qFree)[c.rowsIssued]? with
  | some r => { c with accs := issueRow m x c.accs r, rowsIssued := c.rowsIssued + 1 }
  | none => c

/-- Whether the next tile to drain has had its last pass written. -/
def mmDrainReady (x : Mm) (c : Cmd) : Bool :=
  match (mmTiles x c.qFree)[c.drained]? with
  | some r => ((mmRows x c.qFree).take c.rowsIssued).contains r
  | none => false

/-- The command with its next tile drained. -/
def mmDrainNext (m : Memory) (x : Mm) (c : Cmd) : Cmd :=
  match (mmTiles x c.qFree)[c.drained]? with
  | some r => { c with work := drainTile m x c c.work r, drained := c.drained + 1 }
  | none => c

/-- n applications. -/
def iter {α : Type} (f : α → α) : Nat → α → α
  | 0, a => a
  | n + 1, a => iter f n (f a)

/-- The command with every row instruction issued and every tile drained. -/
def mmFinish (m : Memory) (x : Mm) (c : Cmd) : Cmd :=
  let c1 := iter (mmIssueNext m x) ((mmRows x c.qFree).length - c.rowsIssued) c
  iter (mmDrainNext m x) ((mmTiles x c.qFree).length - c.drained) c1

/-- R46: a run-time extent of 0. -/
def mmNoop (x : Mm) : Bool := x.m == 0 || x.n == 0 || x.k == 0 || x.batch == 0

/-- R32: the bytes that the command uses. -/
def mmUsed (x : Mm) : List (Nat × Nat) :=
  if mmNoop x then []
  else
    (overBatch x.batch (fun e =>
      rowRanges (fmtAt x.fmtA) (batchAddr x.a e x.aBs) x.m x.k x.aLd
      ++ rowRanges (fmtAt x.fmtB) (batchAddr x.b e x.bBs) x.n x.k x.bLd
      ++ (if x.acc = 1 then rowRanges (fmtAt x.fmtO) (batchAddr x.c e x.cBs) x.m x.n x.cLd else [])
      ++ scaleRanges x.cfg (batchAddr x.sa e x.sBs) x.m x.kPlan x.k
      ++ scaleRanges x.cfg (batchAddr x.sb e x.sBs) x.n x.kPlan x.k))
    ++ (if x.aux = 0 then [] else [(x.aux, 48)])

/-- The bytes that the command writes. -/
def mmWrites (x : Mm) : List (Nat × Nat) :=
  if mmNoop x then []
  else
    (overBatch x.batch (fun e => rowRanges (fmtAt x.fmtO) (batchAddr x.c e x.cBs) x.m x.n x.cLd))
    ++ (if x.aux = 0 then [] else [(x.aux, 64)])

/-- R58: both scale tables whole, for every batch element. -/
def mmTables (x : Mm) : List (Nat × Nat) :=
  overBatch x.batch (fun e =>
    scaleTable x.cfg (batchAddr x.sa e x.sBs) x.mPlan x.kPlan ++ scaleTable x.cfg (batchAddr x.sb e x.sBs) x.nPlan x.kPlan)

/-- R46: the validation table of MATMUL. -/
def mmChecks (s : State) (c : Cmd) : List Check :=
  let d := c.desc
  let x := mmOf d
  let fa := fmtAt x.fmtA
  let fb := fmtAt x.fmtB
  [headerCheck d,
   ⟨1, .format, decide (x.shape < 4) && (fmtOf x.fmtA).isSome && (fmtOf x.fmtB).isSome && (fmtOf x.fmtO).isSome
     && scaleCfgListed x.cfg && decide (x.round ≤ 1) && decide (x.epi ≤ 9) && decide (x.acc ≤ 1) && decide (x.flags ≤ 1)
     && decide (x.pos < 512) && resZero d [(124, 4)]⟩,
   ⟨2, .format, fa.width == fb.width && scaleFits x.cfg fa && zeroIff x.sa (x.cfg == 0) && zeroIff x.sb (x.cfg == 0)⟩,
   ⟨3, .format, decide (x.m ≤ 16384 ∧ x.mPlan ≤ 16384 ∧ x.k ≤ 16777216 ∧ x.kPlan ≤ 16777216)
     && x.kChunk % fa.depth == 0 && decide (x.kChunk ≤ chunkMax x.shape)⟩,
   ⟨4, .format, aligned 64 [x.a, x.b, x.c, x.sa, x.sb, x.aux]⟩,
   ⟨5, .format, decide (up64 (fa.bytes x.kPlan) ≤ x.aLd * 64 ∧ up64 (fb.bytes x.kPlan) ≤ x.bLd * 64
     ∧ up64 ((fmtAt x.fmtO).bytes x.nPlan) ≤ x.cLd * 64)⟩,
   svcCheck s c 6] ++ branchChecks s c 6 ++
  [⟨6, .permission, readable s c.ctx (mmUsed x ++ mmTables x ++ (if x.aux = 0 || mmNoop x then [] else [(x.aux, 64)]))
     && writable s c.ctx (mmWrites x)⟩,
   ⟨7, .shapeExceedsPlan, decide (x.m ≤ x.mPlan ∧ x.n ≤ x.nPlan ∧ x.k ≤ x.kPlan)⟩,
   ⟨8, .state, !(bit x.flags 0) || (inService s c.ctx (posToQ x.pos)
     && decide (mmFirst x ≤ usableGranules s (posToQ x.pos)))⟩]

/-- R38: the issue of a MATMUL: what is left of its row instructions and drains. -/
def mmRun (s : State) (c : Cmd) : RunOut :=
  let x := mmOf c.desc
  match meet s (mmUsed x) (mmWrites x) with
  | .wait => .wait
  | .fails st => .fails st
  | .fine =>
    let c' := mmFinish (operandMem s (mmUsed x)) x c
    .done { c' with work := { c'.work with reseq := decide (1 < (mmGroups x c.qFree).length)
                                           rows := c'.rowsIssued - c.rowsIssued } }

def mmSpec : CmdSpec :=
  { checks := mmChecks
    noop := fun _ c => mmNoop (mmOf c.desc)
    take := takeStream (fun d => let x := mmOf d; drawCount x.round (fmtAt x.fmtO) (x.m * x.n)) (fun d => (mmOf d).batch)
    from_ := .placed
    run := mmRun }

/-- MATMUL (R38, R46 to R48). -/
def execMatmul (ctx idx : Nat) (s : State) : Host.Outcome State Fault Refusal :=
  .next (descStep (isOp 1 1) mmSpec ctx idx s)

/-- R41: a group starts only after the tiles of the groups before it, in its batch element, have drained. -/
def groupMayStart (x : Mm) (c : Cmd) : Bool :=
  let lens := (mmGroups x c.qFree).map (fun g => (mmGroupRows x 0 g).length)
  let inElement := c.rowsIssued % lens.sum
  let starts := (List.range lens.length).map (fun i => (lens.take i).sum)
  inElement == 0 || !(starts.contains inElement)
    || ((mmRows x c.qFree).take c.rowsIssued).countP (fun r => r.pass + 1 == mmPasses x) == c.drained

/-- ROW_INSTRUCTION_ISSUE (R30, R37): the next row instruction of a placed MATMUL whose operands have arrived. Without
operands in place the row issues nothing, and the cluster counts the waiting (R52). -/
def rowInstructionIssue (ctx idx : Nat) (s : State) : State :=
  match findCmd s ctx idx with
  | none => s
  | some c =>
    let x := mmOf c.desc
    match c.pos with
    | none => s
    | some q =>
      if !(hClass c.desc == 1 && hOp c.desc == 1) || c.stage != .placed || c.peerError.isSome then s
      else if awaits s c then modCluster s q (fun k => { k with cnt1 := k.cnt1 + 1 })
      else if !(rowsFree s c) || !(groupMayStart x c) || meet s (mmUsed x) (mmWrites x) != .fine
          || decide ((mmRows x c.qFree).length ≤ c.rowsIssued) then s
      else
        let done := decide ((mmRows x c.qFree).length = c.rowsIssued + 1)
        setCmd (modCluster s q (fun k => { k with cnt0 := k.cnt0 + 1, rowOwner := if done then none else some (ctx, idx) }))
          (mmIssueNext (operandMem s (mmUsed x)) x c)

def execRowInstructionIssue (ctx idx : Nat) (s : State) : Host.Outcome State Fault Refusal :=
  .next (rowInstructionIssue ctx idx s)

/-- TILE_DRAIN (R40): the next completed menu tile of a placed MATMUL passes through the epilogue and the grinder. -/
def tileDrain (ctx idx : Nat) (s : State) : State :=
  match findCmd s ctx idx with
  | none => s
  | some c =>
    let x := mmOf c.desc
    if hClass c.desc == 1 && hOp c.desc == 1 && c.stage == .placed && mmDrainReady x c
        && meet s (mmUsed x) (mmWrites x) == .fine
    then setCmd s (mmDrainNext (operandMem s (mmUsed x)) x c)
    else s

def execTileDrain (ctx idx : Nat) (s : State) : Host.Outcome State Fault Refusal :=
  .next (tileDrain ctx idx s)

end Sys2Proof.Machine
end

