-- ==== Sys2Proof/Machine/Eltwise.lean ====
section
/-! DEFINITION. CONVERT, ELTWISE and FOLD (R72 to R76, R140 to R142, R163 to R166). -/

namespace Sys2Proof.Machine

/-- An FP32 value as the module writes it: a NaN is canonical (R54). -/
def canon (x : W32) : W32 := fp32 (f32v x)

/-- Whether a statistics buffer is named, as the ranges it reads and writes. -/
def auxUsed (a : Nat) : List (Nat × Nat) := if a = 0 then [] else [(a, 48)]
def auxWhole (a : Nat) : List (Nat × Nat) := if a = 0 then [] else [(a, 64)]

/-- A list that a no-op leaves out (R241). -/
def skipIf {α : Type} (b : Bool) (l : List α) : List α := if b then [] else l

/-- One row of converted elements: its cells and its statistics. Each element is a grinder input, its output scale, and
the value v that the error of R69 is taken from. -/
def convertRow (m : Memory) (f : Fmt) (rnd : Nat → RoundBy) (row : Nat) (els : List (FV × FV × FV)) :
    List Host.Cell × Stats :=
  let outs := (List.range els.length).map (fun t =>
    let e := els.getD t (.nan, .nan, .nan)
    let g := grind f (rnd t) e.1
    (g.1, statsOf e.2.2 (decodeElt f g.1) e.2.1 g.2))
  (rowCells m f row 0 (outs.map Prod.fst) none, outs.foldl (fun a o => statsAdd a o.2) {})

/-- Work of a list of rows. -/
def rowsWork (aux : Nat) (rs : List (List Host.Cell × Stats)) : Work :=
  { writes := rs.flatMap Prod.fst
    stats := if aux = 0 then none else some (aux, rs.foldl (fun a r => statsAdd a r.2) {}) }

/-! ### CONVERT -/

/-- The body of a CONVERT descriptor (R72). -/
structure Cv where
  rows     : Nat
  cols     : Nat
  rowsPlan : Nat
  colsPlan : Nat
  batch    : Nat
  fmtS     : Nat
  fmtD     : Nat
  cfgS     : Nat
  cfgD     : Nat
  round    : Nat
  src      : Nat
  dst      : Nat
  srcS     : Nat
  dstS     : Nat
  aux      : Nat
  srcLd    : Nat
  dstLd    : Nat
  srcBs    : Nat
  dstBs    : Nat
  sBs      : Nat
  deriving Inhabited

def cvOf (d : Desc) : Cv :=
  { rows := fld d 16 4, cols := fld d 20 4, rowsPlan := fld d 24 4, colsPlan := fld d 28 4, batch := fld d 32 2,
    fmtS := fld d 34 1, fmtD := fld d 35 1, cfgS := fld d 36 1, cfgD := fld d 37 1, round := fld d 38 1, src := fld d 40 8,
    dst := fld d 48 8, srcS := fld d 56 8, dstS := fld d 64 8, aux := fld d 72 8, srcLd := fld d 80 4, dstLd := fld d 84 4,
    srcBs := fld d 88 4, dstBs := fld d 92 4, sBs := fld d 96 4 }

def cvNoop (x : Cv) : Bool := x.rows == 0 || x.cols == 0 || x.batch == 0

def cvUsed (x : Cv) : List (Nat × Nat) :=
  skipIf (cvNoop x) ((overBatch x.batch (fun e =>
    rowRanges (fmtAt x.fmtS) (batchAddr x.src e x.srcBs) x.rows x.cols x.srcLd
    ++ scaleRanges x.cfgS (batchAddr x.srcS e x.sBs) x.rows x.colsPlan x.cols
    ++ scaleRanges x.cfgD (batchAddr x.dstS e x.sBs) x.rows x.colsPlan x.cols)) ++ auxUsed x.aux)

def cvWrites (x : Cv) : List (Nat × Nat) :=
  skipIf (cvNoop x) ((overBatch x.batch (fun e =>
    rowRanges (fmtAt x.fmtD) (batchAddr x.dst e x.dstBs) x.rows x.cols x.dstLd)) ++ auxWhole x.aux)

def cvTables (x : Cv) : List (Nat × Nat) :=
  skipIf (cvNoop x) (overBatch x.batch (fun e =>
    scaleTable x.cfgS (batchAddr x.srcS e x.sBs) x.rowsPlan x.colsPlan
    ++ scaleTable x.cfgD (batchAddr x.dstS e x.sBs) x.rowsPlan x.colsPlan))

/-- R73. -/
def cvChecks (s : State) (c : Cmd) : List Check :=
  let d := c.desc
  let x := cvOf d
  let fs := fmtAt x.fmtS
  let fd := fmtAt x.fmtD
  [headerCheck d,
   ⟨1, .format, (fmtOf x.fmtS).isSome && (fmtOf x.fmtD).isSome && scaleCfgListed x.cfgS && scaleCfgListed x.cfgD
     && decide (x.round ≤ 1) && resZero d [(39, 1), (100, 28)]⟩,
   ⟨2, .format, scaleFits x.cfgS fs && scaleFits x.cfgD fd && zeroIff x.srcS (x.cfgS == 0) && zeroIff x.dstS (x.cfgD == 0)⟩,
   ⟨3, .format, decide (x.rows ≤ 16777216 ∧ x.rowsPlan ≤ 16777216 ∧ x.cols ≤ 16777216 ∧ x.colsPlan ≤ 16777216)⟩,
   ⟨4, .format, aligned 64 [x.src, x.dst, x.srcS, x.dstS, x.aux]⟩,
   ⟨5, .format, decide (up64 (fs.bytes x.colsPlan) ≤ x.srcLd * 64 ∧ up64 (fd.bytes x.colsPlan) ≤ x.dstLd * 64)⟩,
   svcCheck s c 6] ++ branchChecks s c 6 ++
  [⟨6, .permission, readable s c.ctx (cvUsed x ++ cvTables x ++ skipIf (cvNoop x) (auxWhole x.aux))
     && writable s c.ctx (cvWrites x)⟩,
   ⟨7, .shapeExceedsPlan, decide (x.rows ≤ x.rowsPlan ∧ x.cols ≤ x.colsPlan)⟩]

/-- R72: element (r, k) of batch element e: v, and the exact quotient that the grinder converts. -/
def cvElement (m : Memory) (x : Cv) (e r k : Nat) : FV × FV × FV :=
  let fs := fmtAt x.fmtS
  let src := decodeElt fs (eltCode m fs (batchAddr x.src e x.srcBs + r * x.srcLd * 64) k)
  let ss := scaleAt m x.cfgS (batchAddr x.srcS e x.sBs) x.colsPlan r (if groupSize x.cfgS = 0 then 0 else k / groupSize x.cfgS)
  let sd := scaleAt m x.cfgD (batchAddr x.dstS e x.sBs) x.colsPlan r (if groupSize x.cfgD = 0 then 0 else k / groupSize x.cfgD)
  let v := f32v (fp32 (fvMul src ss))
  (fvDiv v sd, sd, v)

def cvWork (m : Memory) (c : Cmd) (x : Cv) : Work :=
  rowsWork x.aux (overBatch x.batch (fun e => (List.range x.rows).map (fun r =>
    convertRow m (fmtAt x.fmtD) (fun k => elementRound c x.round e (x.rows * x.cols) (r * x.cols + k))
      (batchAddr x.dst e x.dstBs + r * x.dstLd * 64) ((List.range x.cols).map (cvElement m x e r)))))

def cvRun (s : State) (c : Cmd) : RunOut :=
  let x := cvOf c.desc
  match meet s (cvUsed x) (cvWrites x) with
  | .wait => .wait
  | .fails st => .fails st
  | .fine => .done { c with work := cvWork (operandMem s (cvUsed x)) c x }

def cvSpec : CmdSpec :=
  { checks := cvChecks
    noop := fun _ c => cvNoop (cvOf c.desc)
    take := takeStream (fun d => let x := cvOf d; drawCount x.round (fmtAt x.fmtD) (x.rows * x.cols)) (fun d => (cvOf d).batch)
    from_ := .placed
    run := cvRun }

/-- CONVERT (R72 to R74). -/
def execConvert (ctx idx : Nat) (s : State) : Host.Outcome State Fault Refusal :=
  .next (descStep (isOp 1 2) cvSpec ctx idx s)

/-! ### ELTWISE -/

/-- The body of an ELTWISE descriptor (R164). -/
structure El where
  rows     : Nat
  cols     : Nat
  rowsPlan : Nat
  colsPlan : Nat
  batch    : Nat
  op       : Nat
  fn       : Nat
  fmtI     : Nat
  fmtO     : Nat
  round    : Nat
  alpha    : W32
  beta     : W32
  x0       : Nat
  x1       : Nat
  x2       : Nat
  out      : Nat
  aux      : Nat
  inLd     : Nat
  outLd    : Nat
  inBs     : Nat
  outBs    : Nat
  deriving Inhabited

def elOf (d : Desc) : El :=
  { rows := fld d 16 4, cols := fld d 20 4, rowsPlan := fld d 24 4, colsPlan := fld d 28 4, batch := fld d 32 2,
    op := fld d 34 1, fn := fld d 35 1, fmtI := fld d 36 1, fmtO := fld d 37 1, round := fld d 38 1,
    alpha := w32 (fld d 40 4), beta := w32 (fld d 44 4), x0 := fld d 48 8, x1 := fld d 56 8, x2 := fld d 64 8,
    out := fld d 72 8, aux := fld d 80 8, inLd := fld d 88 4, outLd := fld d 92 4, inBs := fld d 96 4, outBs := fld d 100 4 }

def elNoop (x : El) : Bool := x.rows == 0 || x.cols == 0 || x.batch == 0

/-- R164: whether an operation uses x1 and x2. -/
def elUses1 (op : Nat) : Bool := op != 0
def elUses2 (op : Nat) : Bool := op == 3 || op == 5

/-- The format of x1: FP32 under COMP_ADD. -/
def elFmt1 (x : El) : Fmt := if x.op = 5 then .fp32 else fmtAt x.fmtI

def elUsed (x : El) : List (Nat × Nat) :=
  skipIf (elNoop x) ((overBatch x.batch (fun e =>
    rowRanges (fmtAt x.fmtI) (batchAddr x.x0 e x.inBs) x.rows x.cols x.inLd
    ++ (if elUses1 x.op then rowRanges (elFmt1 x) (batchAddr x.x1 e x.inBs) x.rows x.cols x.inLd else [])
    ++ (if elUses2 x.op then rowRanges (fmtAt x.fmtI) (batchAddr x.x2 e x.inBs) x.rows x.cols x.inLd else []))) ++ auxUsed x.aux)

def elWrites (x : El) : List (Nat × Nat) :=
  skipIf (elNoop x) ((overBatch x.batch (fun e =>
    rowRanges (fmtAt x.fmtO) (batchAddr x.out e x.outBs) x.rows x.cols x.outLd
    ++ (if x.op = 5 then rowRanges .bf16 (batchAddr x.x2 e x.inBs) x.rows x.cols x.inLd else []))) ++ auxWhole x.aux)

/-- BF16, FP16 or FP32. -/
def fmtWide (f : Nat) : Bool := decide (5 ≤ f ∧ f ≤ 7)

/-- R165. -/
def elChecks (s : State) (c : Cmd) : List Check :=
  let d := c.desc
  let x := elOf d
  let fi := fmtAt x.fmtI
  let fo := fmtAt x.fmtO
  [headerCheck d,
   ⟨1, .format, decide (x.op ≤ 5) && decide (x.fn ≤ 9) && fmtWide x.fmtI && fmtWide x.fmtO && decide (x.round ≤ 1)
     && resZero d [(39, 1), (104, 24)]⟩,
   ⟨2, .format, (x.fn == 0 || decide (x.op ≤ 1)) && (x.x1 == 0 || elUses1 x.op) && (x.x2 == 0 || elUses2 x.op)
     && (x.op != 5 || (x.aux == 0 && x.fmtI == 5 && x.fmtO == 5 && x.round == 0))⟩,
   ⟨3, .format, decide (x.rows ≤ 16777216 ∧ x.rowsPlan ≤ 16777216 ∧ x.cols ≤ 16777216 ∧ x.colsPlan ≤ 16777216)⟩,
   ⟨4, .format, aligned 64 [x.x0, x.x1, x.x2, x.out, x.aux]⟩,
   ⟨5, .format, decide (up64 (fi.bytes x.colsPlan) ≤ x.inLd * 64 ∧ up64 (fo.bytes x.colsPlan) ≤ x.outLd * 64)
     && (x.op != 5 || decide (up64 (4 * x.colsPlan) ≤ x.inLd * 64))⟩,
   svcCheck s c 6] ++ branchChecks s c 6 ++
  [⟨6, .permission, readable s c.ctx (elUsed x ++ skipIf (elNoop x) (auxWhole x.aux)) && writable s c.ctx (elWrites x)⟩,
   ⟨7, .shapeExceedsPlan, decide (x.rows ≤ x.rowsPlan ∧ x.cols ≤ x.colsPlan)⟩]

/-- An input element as FP32 (R54). -/
def eltIn (m : Memory) (f : Fmt) (base e bs r ld k : Nat) : W32 :=
  fp32 (decodeElt f (eltCode m f (batchAddr base e bs + r * ld * 64) k))

/-- R164: the FP32 result of an operation other than COMP_ADD. -/
def elValue (x : El) (a b c : W32) : W32 :=
  match x.op with
  | 0 => eltFn x.fn (ffma x.alpha a x.beta)
  | 1 => fmul (eltFn x.fn a) b
  | 2 => fp32 (fvAdd (fvMul (f32v x.alpha) (f32v a)) (fvMul (f32v x.beta) (f32v b)))
  | 3 => ffma a b c
  | _ => fmax a b

/-- R76: the compensated update of (w, c) by u: t, w' and c' as BF16 codes. -/
def compAdd (w c u : W32) : Nat × Nat :=
  let t := fp32 (fvAdd (fvAdd (f32v w) (f32v c)) (f32v u))
  let w' := (grind .bf16 .nearest (f32v t)).1
  let c' := if fvNonfinite (f32v t) then 0
            else (grind .bf16 .nearest (fvAdd (f32v t) (fvNeg (decodeElt .bf16 w')))).1
  (w', c')

def elWork (m : Memory) (c : Cmd) (x : El) : Work :=
  let fi := fmtAt x.fmtI
  let in0 := fun e r k => eltIn m fi x.x0 e x.inBs r x.inLd k
  let in1 := fun e r k => if elUses1 x.op then eltIn m (elFmt1 x) x.x1 e x.inBs r x.inLd k else fpZero
  let in2 := fun e r k => if elUses2 x.op then eltIn m fi x.x2 e x.inBs r x.inLd k else fpZero
  if x.op = 5 then
    { writes := overBatch x.batch (fun e => (List.range x.rows).flatMap (fun r =>
        let ps := (List.range x.cols).map (fun k => compAdd (in0 e r k) (in2 e r k) (fmul x.alpha (in1 e r k)))
        rowCells m .bf16 (batchAddr x.out e x.outBs + r * x.outLd * 64) 0 (ps.map Prod.fst) none
        ++ rowCells m .bf16 (batchAddr x.x2 e x.inBs + r * x.inLd * 64) 0 (ps.map Prod.snd) none)) }
  else
    rowsWork x.aux (overBatch x.batch (fun e => (List.range x.rows).map (fun r =>
      convertRow m (fmtAt x.fmtO) (fun k => elementRound c x.round e (x.rows * x.cols) (r * x.cols + k))
        (batchAddr x.out e x.outBs + r * x.outLd * 64)
        ((List.range x.cols).map (fun k =>
          let v := f32v (elValue x (in0 e r k) (in1 e r k) (in2 e r k))
          (v, .fin false 1 1 0, v))))))

def elRun (s : State) (c : Cmd) : RunOut :=
  let x := elOf c.desc
  match meet s (elUsed x) (elWrites x) with
  | .wait => .wait
  | .fails st => .fails st
  | .fine => .done { c with work := elWork (operandMem s (elUsed x)) c x }

def elSpec : CmdSpec :=
  { checks := elChecks
    noop := fun _ c => elNoop (elOf c.desc)
    take := takeStream (fun d => let x := elOf d; drawCount x.round (fmtAt x.fmtO) (x.rows * x.cols)) (fun d => (elOf d).batch)
    from_ := .placed
    run := elRun }

/-- ELTWISE (R164 to R166). -/
def execEltwise (ctx idx : Nat) (s : State) : Host.Outcome State Fault Refusal :=
  .next (descStep (isOp 1 7) elSpec ctx idx s)

/-! ### FOLD -/

/-- The body of a FOLD descriptor (R140). -/
structure Fo where
  rows     : Nat
  rowsPlan : Nat
  len      : Nat
  lenPlan  : Nat
  groups   : Nat
  op       : Nat
  flags    : Nat
  gamma    : W32
  inA      : Nat
  grpA     : Nat
  outA     : Nat
  inLd     : Nat
  outLd    : Nat
  deriving Inhabited

def foOf (d : Desc) : Fo :=
  { rows := fld d 16 4, rowsPlan := fld d 20 4, len := fld d 24 4, lenPlan := fld d 28 4, groups := fld d 32 4,
    op := fld d 36 1, flags := fld d 37 1, gamma := w32 (fld d 40 4), inA := fld d 48 8, grpA := fld d 56 8,
    outA := fld d 64 8, inLd := fld d 72 4, outLd := fld d 76 4 }

def foNoop (x : Fo) : Bool := x.rows == 0 || x.len == 0
def foDiscount (x : Fo) : Bool := bit x.flags 0
def foGroupBy (x : Fo) : Bool := bit x.flags 1
/-- Bytes of one output element: a pair for ARGMAX and ARGMIN (R141). -/
def foBytes (x : Fo) : Nat := if 4 ≤ x.op then 8 else 4

def foGroupRange (x : Fo) : List (Nat × Nat) := if foGroupBy x && !(foNoop x) then [(x.grpA, 4 * x.rows)] else []

/-- The group index of a row. -/
def foGroup (m : Memory) (x : Fo) (r : Nat) : Nat := if foGroupBy x then mnat m (x.grpA + 4 * r) 4 else 0

def foRow (x : Fo) (r : Nat) : Nat × Nat := (x.inA + r * x.inLd * 64, 4 * x.len)

/-- R32: a skipped row is not consumed. -/
def foUsed (m : Memory) (x : Fo) : List (Nat × Nat) :=
  foGroupRange x ++ skipIf (foNoop x)
    (((List.range x.rows).filter (fun r => decide (foGroup m x r < x.groups))).map (foRow x))

def foWrites (x : Fo) : List (Nat × Nat) :=
  skipIf (foNoop x)
    ((List.range x.groups).map (fun g => (x.outA + g * x.outLd * 64, (if foDiscount x then 1 else x.len) * foBytes x)))

/-- R142. -/
def foChecks (s : State) (c : Cmd) : List Check :=
  let d := c.desc
  let x := foOf d
  [headerCheck d,
   ⟨1, .format, decide (x.op ≤ 5) && decide (x.flags < 4) && (foDiscount x || x.gamma == 0)
     && resZero d [(38, 2), (44, 4), (80, 48)]⟩,
   ⟨2, .format, zeroIff x.grpA (!(foGroupBy x)) && (foGroupBy x || x.groups == 1)⟩,
   ⟨3, .format, decide (x.rows ≤ 65536 ∧ x.rowsPlan ≤ 65536 ∧ x.len ≤ 65536 ∧ x.lenPlan ≤ 65536 ∧ 1 ≤ x.groups ∧ x.groups ≤ 65536)⟩,
   ⟨4, .format, aligned 64 [x.inA, x.outA] && aligned 4 [x.grpA]⟩,
   ⟨5, .format, decide (up64 (4 * x.lenPlan) ≤ x.inLd * 64
     ∧ up64 ((if foDiscount x then 1 else x.lenPlan) * foBytes x) ≤ x.outLd * 64)⟩,
   svcCheck s c 6] ++ branchChecks s c 6 ++
  [⟨6, .permission, readable s c.ctx (foGroupRange x ++ skipIf (foNoop x) ((List.range x.rows).map (foRow x)))
     && writable s c.ctx (foWrites x)⟩,
   ⟨7, .shapeExceedsPlan, decide (x.rows ≤ x.rowsPlan ∧ x.len ≤ x.lenPlan)⟩]

/-- R141: the discounted value of a row of elements. -/
def foDiscounted (gamma : W32) (xs : List W32) : W32 := xs.foldr (fun x v => fadd x (fmul gamma v)) fpZero

/-- R141: the result of a group at one element position: value and row. -/
def foFold (op : Nat) (rs : List (Nat × W32)) : W32 × Nat :=
  match rs with
  | [] => (match op with
    | 0 | 1 => fpZero
    | 2 | 4 => fpNegInf
    | _ => fpInf, 0xFFFFFFFF)
  | (r, v) :: rest =>
    match op with
    | 0 => (rest.foldl (fun a p => fadd a p.2) v, r)
    | 1 => (fdiv (rest.foldl (fun a p => fadd a p.2) v) (fp32 (fvInt (rest.length + 1))), r)
    | _ =>
      let best := rest.foldl (fun a p => if op = 2 ∨ op = 4 then fmax a p.2 else fmin a p.2) v
      (best, (((r, v) :: rest).find? (fun p => p.2 == best)).elim r Prod.fst)

def foWork (m : Memory) (x : Fo) : Work :=
  let rowOf := fun r =>
    let xs := (List.range x.len).map (fun l => canon (w32 (mnat m (x.inA + r * x.inLd * 64 + 4 * l) 4)))
    if foDiscount x then [foDiscounted x.gamma xs] else xs
  let kept := (List.range x.rows).filter (fun r => decide (foGroup m x r < x.groups))
  let width := if foDiscount x then 1 else x.len
  { writes := (List.range x.groups).flatMap (fun g =>
      let rs := kept.filter (fun r => foGroup m x r == g)
      (List.range width).flatMap (fun l =>
        let v := foFold x.op (rs.map (fun r => (r, (rowOf r).getD l fpZero)))
        let a := x.outA + g * x.outLd * 64 + l * foBytes x
        cellsNat a 4 v.1.toNat ++ (if 4 ≤ x.op then cellsNat (a + 4) 4 v.2 else [])))
    result := x.rows - kept.length }

def foRun (s : State) (c : Cmd) : RunOut :=
  let x := foOf c.desc
  match meet s (foGroupRange x) (foWrites x) with
  | .wait => .wait
  | .fails st => .fails st
  | .fine =>
    let m := operandMem s (foGroupRange x)
    match meet s (foUsed m x) (foWrites x) with
    | .wait => .wait
    | .fails st => .fails st
    | .fine => .done { c with work := foWork (operandMem s (foUsed m x)) x }

def foSpec : CmdSpec :=
  { checks := foChecks
    noop := fun _ c => foNoop (foOf c.desc)
    take := takeNone
    from_ := .placed
    run := foRun }

/-- FOLD (R140 to R142). -/
def execFold (ctx idx : Nat) (s : State) : Host.Outcome State Fault Refusal :=
  .next (descStep (isOp 1 5) foSpec ctx idx s)

end Sys2Proof.Machine
end

