-- ==== Sys2Proof/Machine/Scan.lean ====
section
/-! DEFINITION. SCAN: the recurrence, the segmented scan in plain and compensated arithmetic, and where the state lives
(R149 to R161). -/

namespace Sys2Proof.Machine

/-- The body of a SCAN descriptor (R160). -/
structure Sc where
  len       : Nat
  lenPlan   : Nat
  chans     : Nat
  chansPlan : Nat
  batch     : Nat
  fmtX      : Nat
  fmtO      : Nat
  aMode     : Nat
  bMode     : Nat
  aFn       : Nat
  bFn       : Nat
  src       : Nat
  round     : Nat
  flags     : Nat
  ceiling   : W32
  x         : Nat
  a         : Nat
  b         : Nat
  out       : Nat
  reset     : Nat
  state     : Nat
  aux       : Nat
  xLd       : Nat
  outLd     : Nat
  xBs       : Nat
  outBs     : Nat
  off       : Nat
  deriving Inhabited

def scOf (d : Desc) : Sc :=
  { len := fld d 16 4, lenPlan := fld d 20 4, chans := fld d 24 4, chansPlan := fld d 28 4, batch := fld d 32 2,
    fmtX := fld d 34 1, fmtO := fld d 35 1, aMode := fld d 36 1, bMode := fld d 37 1, aFn := fld d 38 1, bFn := fld d 39 1,
    src := fld d 40 1, round := fld d 41 1, flags := fld d 42 1, ceiling := w32 (fld d 44 4), x := fld d 48 8, a := fld d 56 8,
    b := fld d 64 8, out := fld d 72 8, reset := fld d 80 8, state := fld d 88 8, aux := fld d 96 8, xLd := fld d 104 4,
    outLd := fld d 108 4, xBs := fld d 112 4, outBs := fld d 116 4, off := fld d 120 2 }

def scMarks (x : Sc) : Bool := bit x.flags 1
def scInit (x : Sc) : Bool := bit x.flags 2

/-- R153: compensated mode. -/
def scComp (x : Sc) : Bool := bit x.flags 0 || fle 0x3F7FC000#32 x.ceiling

def scNoop (x : Sc) : Bool := x.len == 0 || x.chans == 0 || x.batch == 0

/-- R150: bytes of the hi part of a state block, of a whole block, and granules of one part on a branch. -/
def scPart (x : Sc) : Nat := up64 (x.chansPlan * 4)
def scBlock (x : Sc) : Nat := 2 * scPart x
def scPartGranules (x : Sc) : Nat := ceilDiv (x.chansPlan * 4) 4096
/-- R151, R161: granules of the state range that the mode uses. -/
def scGranules (x : Sc) : Nat := if scComp x then 2 * scPartGranules x else scPartGranules x

/-- R150: the branch whose state element e uses. -/
def scBranch (c : Cmd) (e : Nat) : Nat := if hSpan c.desc then hBranch c.desc + e else hBranch c.desc

/-- Addresses of recurrent state: branch × 2 MiB + offset. -/
def brAddr (b o : Nat) : Nat := b * 2 ^ 21 + o

/-- Whether the final state is written to memory (R150). -/
def scToMem (x : Sc) : Bool := x.src == 1 || (x.src == 2 && x.state != 0)

def scUsed (x : Sc) : List (Nat × Nat) :=
  let fx := fmtAt x.fmtX
  skipIf (scNoop x) ((overBatch x.batch (fun e =>
    rowRanges fx (batchAddr x.x e x.xBs) x.len x.chans x.xLd
    ++ (if x.aMode = 0 then [(x.a, 4 * x.chans)]
        else if x.aMode = 1 then rowRanges fx (batchAddr x.a e x.xBs) x.len x.chans x.xLd else [])
    ++ (if x.bMode = 0 then [(x.b, 4 * x.chans)]
        else if x.bMode = 1 then rowRanges fx (batchAddr x.b e x.xBs) x.len x.chans x.xLd else [])
    ++ (if scMarks x then [(x.reset + e * (ceilDiv x.lenPlan 512 * 64), ceilDiv x.len 8)] else [])
    ++ (if x.src = 1 then
          [(x.state + e * scBlock x, 4 * x.chans)]
          ++ (if scComp x && !(scInit x) then [(x.state + e * scBlock x + scPart x, 4 * x.chans)] else [])
        else []))) ++ auxUsed x.aux)

def scWrites (x : Sc) : List (Nat × Nat) :=
  skipIf (scNoop x) ((overBatch x.batch (fun e =>
    rowRanges (fmtAt x.fmtO) (batchAddr x.out e x.outBs) x.len x.chans x.outLd
    ++ (if scToMem x then
          [(x.state + e * scBlock x, 4 * x.chans)]
          ++ (if scComp x then [(x.state + e * scBlock x + scPart x, 4 * x.chans)] else [])
        else []))) ++ auxWhole x.aux)

/-- R161. -/
def scChecks (s : State) (c : Cmd) : List Check :=
  let d := c.desc
  let x := scOf d
  [headerCheck d,
   ⟨1, .format, fmtWide x.fmtX && fmtWide x.fmtO && decide (x.aMode ≤ 2) && decide (x.bMode ≤ 3) && decide (x.aFn ≤ 9)
     && decide (x.bFn ≤ 9) && decide (x.src ≤ 2) && decide (x.round ≤ 1) && decide (x.flags < 8)
     && resZero d [(43, 1), (122, 6)]⟩,
   ⟨2, .format, fle fpZero x.ceiling && fle x.ceiling fpOne && (x.aFn == 0 || x.aMode == 1) && (x.bFn == 0 || x.bMode == 1)
     && zeroIff x.a (x.aMode == 2) && zeroIff x.b (decide (2 ≤ x.bMode)) && zeroIff x.reset (!(scMarks x))
     && (if x.src = 0 then x.state == 0 else (x.src == 2 || x.state != 0)) && (x.off == 0 || x.src == 0)
     && (x.src != 0 || (hBranch d != noBranch && (decide (x.batch ≤ 1) || hSpan d)))⟩,
   ⟨3, .format, decide (x.len ≤ 16777216 ∧ x.lenPlan ≤ 16777216 ∧ x.chans ≤ 524288 ∧ x.chansPlan ≤ 524288)⟩,
   ⟨4, .format, aligned 64 [x.x, x.a, x.b, x.out, x.reset, x.state, x.aux]⟩,
   ⟨5, .format, decide (up64 ((fmtAt x.fmtX).bytes x.chansPlan) ≤ x.xLd * 64
     ∧ up64 ((fmtAt x.fmtO).bytes x.chansPlan) ≤ x.outLd * 64)⟩,
   svcCheck s c 6] ++ branchChecks s c 6 ++
  [⟨6, .permission, readable s c.ctx (scUsed x ++ skipIf (scNoop x) (auxWhole x.aux)) && writable s c.ctx (scWrites x)⟩,
   ⟨7, .shapeExceedsPlan, decide (x.len ≤ x.lenPlan ∧ x.chans ≤ x.chansPlan)⟩,
   ⟨8, .state, x.src != 0 || (headerBranches d).all (fun b =>
     match branchOf s b with
     | some r => !(r.parked) && decide (x.off + scGranules x ≤ r.granules)
     | none => false)⟩]

/-! ### The segmented scan -/

/-- A double word (R155); in plain mode lo stays +0 and unused. -/
structure Dw where
  hi : W32
  lo : W32
  deriving DecidableEq, Repr, Inhabited

def dwZero : Dw := ⟨fpZero, fpZero⟩
def dwOne : Dw := ⟨fpOne, fpZero⟩

/-- R155. -/
def fastTwoSum (x y : W32) : Dw :=
  let s := fadd x y
  ⟨s, fsub y (fsub s x)⟩

def twoSum (x y : W32) : Dw :=
  let s := fadd x y
  let z := fsub s x
  ⟨s, fadd (fsub x (fsub s z)) (fsub y z)⟩

def twoProd (x y : W32) : Dw :=
  let p := fmul x y
  ⟨p, ffma x y (fneg p)⟩

def dwMul (x y : Dw) : Dw :=
  let p := twoProd x.hi y.hi
  fastTwoSum p.hi (fadd p.lo (fadd (fmul x.hi y.lo) (fmul x.lo y.hi)))

def dwAdd (x y : Dw) : Dw :=
  let s := twoSum x.hi y.hi
  fastTwoSum s.hi (fadd s.lo (fadd x.lo y.lo))

/-- An element of the network: (A, B, f). -/
structure ScanEl where
  a : Dw
  b : Dw
  f : Bool
  deriving DecidableEq, Repr, Inhabited

/-- A × B1 + B2 in the mode's arithmetic. -/
def scMulAdd (comp : Bool) (a b1 b2 : Dw) : Dw :=
  if comp then dwAdd (dwMul a b1) b2 else ⟨ffma a.hi b1.hi b2.hi, fpZero⟩

def scMul (comp : Bool) (a b : Dw) : Dw := if comp then dwMul a b else ⟨fmul a.hi b.hi, fpZero⟩

/-- R154: combine. -/
def scCombine (comp : Bool) (e2 e1 : ScanEl) : ScanEl :=
  if e2.f then e2 else ⟨scMul comp e2.a e1.a, scMulAdd comp e2.a e1.b e2.b, e1.f⟩

/-- R154: one stage of the network at distance 2^k. -/
def scStage (comp : Bool) (es : List ScanEl) (k : Nat) : List ScanEl :=
  (List.range es.length).map (fun i =>
    if 2 ^ k ≤ i then scCombine comp (es.getD i default) (es.getD (i - 2 ^ k) default) else es.getD i default)

/-- R154: the smallest power of two that is at least L, at most 128. -/
def scP (l : Nat) : Nat := if l ≤ 1 then 1 else min 128 (2 ^ (Nat.log2 (l - 1) + 1))

/-- R154: the states of one chunk from its formed elements and the incoming state. -/
def scChunk (comp : Bool) (p : Nat) (es : List ScanEl) (h : Dw) : List Dw :=
  let net := (List.range (Nat.log2 p)).foldl (scStage comp) es
  net.map (fun e => if e.f then e.b else scMulAdd comp e.a h e.b)

/-- R149: α_t. -/
def scAlpha (ceiling a : W32) : W32 :=
  if fIsNan a then fpNan
  else if fle (fabs a) ceiling then a
  else w32 ((fabs ceiling).toNat + (if a.toNat < 2 ^ 31 then 0 else 2 ^ 31))

/-- R149, R154, R155: the formed element of position t. -/
def scElement (m : Memory) (x : Sc) (e t ch : Nat) : ScanEl :=
  let fx := fmtAt x.fmtX
  let inp := fun base => fp32 (decodeElt fx (eltCode m fx (batchAddr base e x.xBs + t * x.xLd * 64) ch))
  let vec := fun base => canon (w32 (mnat m (base + 4 * ch) 4))
  let a := match x.aMode with
    | 0 => vec x.a
    | 1 => eltFn x.aFn (inp x.a)
    | _ => fpOne
  let alpha := scAlpha x.ceiling a
  let b := match x.bMode with
    | 0 => vec x.b
    | 1 => eltFn x.bFn (inp x.b)
    | 2 => fpOne
    | _ => fsub fpOne alpha
  let mark := scMarks x && (mget m (x.reset + e * (ceilDiv x.lenPlan 512 * 64) + t / 8)).toNat.testBit (t % 8)
  ⟨⟨alpha, fpZero⟩, if scComp x then twoProd b (inp x.x) else ⟨fmul b (inp x.x), fpZero⟩, mark⟩

/-- R154: the states of all positions of one channel, chunk after chunk. -/
def scChannel (m : Memory) (x : Sc) (e ch : Nat) : Nat → Nat → Dw → List Dw
  | 0, _, _ => []
  | n + 1, t0, h =>
    let p := scP x.len
    let es := (List.range p).map (fun i =>
      if t0 + i < x.len then scElement m x e (t0 + i) ch else ⟨dwOne, dwZero, false⟩)
    let hs := (scChunk (scComp x) p es h).take (x.len - t0)
    hs ++ scChannel m x e ch n (t0 + p) (hs.getLastD h)

/-- R150, R153: the incoming state of a channel. -/
def scIncoming (m br : Memory) (c : Cmd) (x : Sc) (e ch : Nat) : Dw :=
  let lo := fun w => if scComp x && !(scInit x) then w else fpZero
  match x.src with
  | 0 =>
    let base := brAddr (scBranch c e) (x.off * 4096)
    ⟨canon (w32 (mnat br (base + 4 * ch) 4)), lo (canon (w32 (mnat br (base + scPartGranules x * 4096 + 4 * ch) 4)))⟩
  | 1 =>
    let base := x.state + e * scBlock x
    ⟨canon (w32 (mnat m (base + 4 * ch) 4)), lo (canon (w32 (mnat m (base + scPart x + 4 * ch) 4)))⟩
  | _ => dwZero

/-- The value passed to the output conversion (R155). -/
def scOut (comp : Bool) (h : Dw) : W32 := if comp then fadd h.hi h.lo else h.hi

/-- The cells of a final state: hi words, and in compensated mode lo words, at two bases. -/
def scStateCells (comp : Bool) (hiBase loBase : Nat) (fin : List Dw) : List Host.Cell :=
  (List.range fin.length).flatMap (fun ch =>
    let h := fin.getD ch dwZero
    cellsNat (hiBase + 4 * ch) 4 h.hi.toNat ++ (if comp then cellsNat (loBase + 4 * ch) 4 h.lo.toNat else []))

/-- The work of one batch element: its output rows, and its final state for memory and for the branch. -/
def scElementWork (m br : Memory) (c : Cmd) (x : Sc) (e : Nat) :
    List (List Host.Cell × Stats) × List Host.Cell × List Host.Cell :=
  let comp := scComp x
  let hs := (List.range x.chans).map (fun ch =>
    let h0 := scIncoming m br c x e ch
    (scChannel m x e ch (ceilDiv x.len (scP x.len)) 0 h0, h0))
  let fin := hs.map (fun p => p.1.getLastD p.2)
  let rows := (List.range x.len).map (fun t =>
    convertRow m (fmtAt x.fmtO) (fun ch => elementRound c x.round e (x.len * x.chans) (t * x.chans + ch))
      (batchAddr x.out e x.outBs + t * x.outLd * 64)
      (hs.map (fun p => let v := f32v (scOut comp (p.1.getD t dwZero)); (v, .fin false 1 1 0, v))))
  let base := x.state + e * scBlock x
  let bb := brAddr (scBranch c e) (x.off * 4096)
  (rows, if scToMem x then scStateCells comp base (base + scPart x) fin else [],
   if x.src = 0 then scStateCells comp bb (bb + scPartGranules x * 4096) fin else [])

def scWork (m br : Memory) (c : Cmd) (x : Sc) : Work :=
  let es := (List.range x.batch).map (scElementWork m br c x)
  let w := rowsWork x.aux (es.flatMap (fun p => p.1))
  { w with writes := es.flatMap (fun p => p.1.flatMap Prod.fst ++ p.2.1), brWrites := es.flatMap (fun p => p.2.2) }

def scRun (s : State) (c : Cmd) : RunOut :=
  let x := scOf c.desc
  match meet s (scUsed x) (scWrites x) with
  | .wait => .wait
  | .fails st => .fails st
  | .fine =>
    if x.src = 0 && (headerBranches c.desc).any s.brPoison.contains then .fails .poison
    else .done { c with work := scWork (operandMem s (scUsed x)) s.brMem c x }

def scSpec : CmdSpec :=
  { checks := scChecks
    noop := fun _ c => scNoop (scOf c.desc)
    take := takeStream (fun d => let x := scOf d; drawCount x.round (fmtAt x.fmtO) (x.len * x.chans)) (fun d => (scOf d).batch)
    from_ := .placed
    run := scRun }

/-- SCAN (R149 to R161). -/
def execScan (ctx idx : Nat) (s : State) : Host.Outcome State Fault Refusal :=
  .next (descStep (isOp 1 6) scSpec ctx idx s)

end Sys2Proof.Machine
end

