-- ==== Sys2Proof/Machine/SeqTable.lean ====
section
/-! DEFINITION. The sequence cache as structures in memory: table heads, entries, pages, supplies and prefix trees, and the
operations that commits make on them (R78 to R93, R105 to R109). A command runs as one transaction: it reads memory with
its own writes applied, and nothing is visible unless the whole transaction ends well. -/

namespace Sys2Proof.Machine

/-- Why a transaction ends without commit. -/
inductive TxStop where
  | fails (st : Status)
  | wait
  | again
  | fetch (ls : List Nat)
  deriving DecidableEq, Repr

/-- A transaction: the state it reads, the context whose access list applies, memory with its own writes, the writes
newest first, the ranges it has read, and the heads acquired (R92). -/
structure Tx where
  base  : State
  ctx   : Nat
  mem   : Memory
  w     : List Host.Cell := []
  reads : List (Nat × Nat) := []
  taken : List Nat := []
  /-- lines of peers and of the host that have landed for the command -/
  seen  : List Nat := []

abbrev TxM := StateT Tx (Except TxStop)

def txStart (s : State) (c : Cmd) : Tx := { base := s, ctx := c.ctx, mem := s.mem, seen := c.seen }

/-- Lines of peers and of the host among ranges must have landed. -/
def landed (t : Tx) (rs : List (Nat × Nat)) : TxM Unit :=
  let ls := (farLines t.base rs).filter (fun l => !(t.seen.contains l))
  if ls.isEmpty then pure () else throw (TxStop.fetch ls)

def txFail {α : Type} (st : Status) : TxM α := throw (TxStop.fails st)

/-- A condition with the status of its failure. -/
def need (b : Bool) (st : Status) : TxM Unit := if b then pure () else txFail st

/-- Stops a transaction on what a read or write meets; poison is not met where the command itself has written every byte. -/
def onMeet (m : Meet) (own : Bool) : TxM Unit :=
  match m with
  | .fine => pure ()
  | .wait => throw TxStop.wait
  | .fails .poison => if own then pure () else txFail .poison
  | .fails st => txFail st

/-- Bytes as the command sees them (R192, R205, R32). -/
def rd (a n : Nat) : TxM (List Byte) := do
  let t ← get
  need (accessible t.base t.ctx false (a, n)) .permission
  landed t [(a, n)]
  onMeet (meet t.base [(a, n)] []) ((List.range n).all (fun i => t.w.any (fun c => c.1 == a + i)))
  let m := if (rmap t.base.cset.active).isEmpty then t.mem else mapply (operandMem t.base [(a, n)]) t.w.reverse
  set { t with reads := (a, n) :: t.reads }
  pure (mread m a n)

def rdNat (a n : Nat) : TxM Nat := do
  let bs ← rd a n
  pure (leNat bs)

/-- Writes that the commit makes visible. -/
def wr (a : Nat) (bs : List Byte) : TxM Unit := do
  let t ← get
  need (accessible t.base t.ctx true (a, bs.length)) .permission
  onMeet (meet t.base [] [(a, bs.length)]) false
  let cs := cellsAt a bs
  set { t with mem := mapply t.mem cs, w := cs.reverse ++ t.w }

def wrNat (a n v : Nat) : TxM Unit := wr a (leBytes n v)

/-- The word for none in node fields (R82, R105). -/
def noNode : Nat := 0xFFFFFFFF

/-! ### Table heads (R80) -/

structure Head where
  addr   : Nat
  gen    : Nat
  len    : Nat
  l1     : Nat
  supply : Nat
  tree   : Nat
  grad   : Nat
  fmt    : Nat
  cfg    : Nat
  heads  : Nat
  flags  : Nat
  dim    : Nat
  hash   : Nat
  tail   : Nat
  deriving DecidableEq, Repr, Inhabited

def Head.reconstructing (h : Head) : Bool := bit h.flags 0
def Head.chainValid (h : Head) : Bool := bit h.flags 1
def Head.w8 (h : Head) : Bool := bits h.flags 3 2 == 1

/-- The longest table (R80). -/
def maxLen : Nat := 4194304

/-- R80, R116: a head's listed encodings: a reserved or unlisted field is E_FORMAT. -/
def headListed (bs : List Byte) : Bool :=
  let n := fun o k => leNat ((bs.drop o).take k)
  n 46 2 == 0 && n 60 4 == 0 && decide (n 43 1 < 16) && decide (bits (n 43 1) 3 2 ≤ 1)
  && decide (2 ≤ n 40 1 ∧ n 40 1 ≤ 7) && scaleCfgListed (n 41 1) && scaleFits (n 41 1) (fmtAt (n 40 1))
  && decide (n 4 4 ≤ maxLen) && aligned 64 [n 8 8]

/-- Reads a table head. -/
def readHead (a : Nat) : TxM Head := do
  need (a % 64 == 0) .format
  let bs ← rd a 64
  need (headListed bs) .format
  let n := fun o k => leNat ((bs.drop o).take k)
  pure { addr := a, gen := n 0 4, len := n 4 4, l1 := n 8 8, supply := n 16 8, tree := n 24 8, grad := n 32 8, fmt := n 40 1,
         cfg := n 41 1, heads := n 42 1, flags := n 43 1, dim := n 44 2, hash := n 48 8, tail := n 56 4 }

/-- R110, R116: a table used by a sequence-cache command is in W25 format and agrees with the command's fields. -/
def headAgrees (h : Head) (heads fmt dim cfg : Nat) : Bool :=
  !(h.w8) && h.heads == heads && h.fmt == fmt && h.dim == dim && h.cfg == cfg

/-- R92: acquires a table: the generation must be the one recorded before the first page access, and even. A table already
acquired by this command has an odd generation. -/
def acquire (h : Head) (g0 : Nat) : TxM Unit := do
  let t ← get
  if t.taken.contains h.addr || h.gen % 2 == 1 || h.gen != g0 then throw TxStop.again
  else set { t with taken := h.addr :: t.taken }

/-- The generation that the commit leaves (R92). -/
def Head.newGen (h : Head) : Nat := (h.gen + 2) % 2 ^ 32

/-- Head fields that a commit writes, the generation last (R92). -/
def putHead (h : Head) : TxM Unit := do
  wrNat (h.addr + 4) 4 h.len
  wrNat (h.addr + 43) 1 h.flags
  wrNat (h.addr + 48) 8 h.hash
  wrNat (h.addr + 56) 4 h.tail
  wrNat h.addr 4 h.newGen

/-- A head with chain_valid set or cleared. -/
def Head.chain (h : Head) (v : Bool) : Head :=
  { h with flags := h.flags / 4 * 4 + (if v then 2 else 0) + h.flags % 2 }

/-! ### Table entries (R81 to R83) -/

structure Entry where
  valid  : Bool
  shared : Bool
  table  : Bool
  size   : Nat
  gen    : Nat
  node   : Nat
  addr   : Nat
  deriving DecidableEq, Repr, Inhabited

/-- R82. -/
def entryOf (v : Nat) : Entry :=
  { valid := bit v 0, shared := bit v 1, table := bit v 2, size := bits v 5 3, gen := bits v 31 16, node := bits v 63 32,
    addr := bits v 103 64 * 64 + bits v 117 104 * 2 ^ 50 }

/-- An entry as 16 bytes. -/
def entryCode (e : Entry) : Nat :=
  (if e.valid then 1 else 0) + (if e.shared then 2 else 0) + (if e.table then 4 else 0) + 8 * e.size + 2 ^ 16 * (e.gen % 2 ^ 16)
    + 2 ^ 32 * e.node + 2 ^ 64 * (e.addr % 2 ^ 46 / 64) + 2 ^ 104 * (e.addr / 2 ^ 50)

/-- R83: reads an entry; a reserved bit set is E_FORMAT. -/
def readEntry (a : Nat) : TxM Entry := do
  let v ← rdNat a 16
  need (bits v 15 6 == 0 && bits v 127 118 == 0) .format
  pure (entryOf v)

/-- R81, R82, R83: a level-1 entry. -/
def readL1 (h : Head) (i : Nat) : TxM Entry := do
  let e ← readEntry (h.l1 + 16 * i)
  need (!(e.valid) || (if e.table then e.size == 0 && e.addr % 2048 == 0 else e.size == 7)) .format
  pure e

/-- R81, R82, R83: a level-2 entry. -/
def readL2 (block j : Nat) : TxM Entry := do
  let e ← readEntry (block + 16 * j)
  need (!(e.valid) || (!(e.table) && decide (e.size ≤ 6))) .format
  pure e

/-- Tokens of a size code (R78). -/
def tokensOf (size : Nat) : Nat := 2 ^ (size + 4)

/-- A page as resolved: first token, size code, address, shared, node, generation field, address of the lead entry. -/
structure Hit where
  start  : Nat
  size   : Nat
  addr   : Nat
  shared : Bool
  node   : Nat
  gen    : Nat
  entry  : Nat
  deriving DecidableEq, Repr, Inhabited

/-- R81: resolves a token of a W25 table; none when no valid entry covers it. -/
def resolve (h : Head) (t : Nat) : TxM (Option Hit) := do
  let i := t / 2048
  let e ← readL1 h i
  if !(e.valid) then pure none
  else if !(e.table) then
    pure (some { start := 2048 * i, size := 7, addr := e.addr, shared := e.shared, node := e.node, gen := e.gen, entry := h.l1 + 16 * i })
  else
    let j := t % 2048 / 16
    let x ← readL2 e.addr j
    if !(x.valid) then pure none
    else
      let j0 := j - j % 2 ^ x.size
      let l ← readL2 e.addr j0
      need (l.valid && l.size == x.size) .format
      pure (some { start := 2048 * i + 16 * j0, size := l.size, addr := l.addr, shared := l.shared, node := l.node, gen := l.gen,
                   entry := e.addr + 16 * j0 })

/-- R90: resolves a token of a W8 table. -/
def resolveW8 (self : Nat) (h : Head) (t : Nat) : TxM (Option Hit) := do
  let a := h.l1 + 8 * (t / 256)
  let v ← rdNat a 8
  need (bits v 5 1 == 0 && bits v 63 46 == 0) .format
  if bit v 0 then
    pure (some { start := t / 256 * 256, size := 4, addr := self * 2 ^ 50 + bits v 45 6 * 64, shared := false, node := noNode,
                 gen := 0, entry := a })
  else pure none

/-! ### Pages (R79) -/

def elBytes (h : Head) : Nat := (fmtAt h.fmt).width / 8

/-- Groups along the head dimension. -/
def headGroups (h : Head) : Nat := if groupSize h.cfg = 0 then 0 else h.dim / groupSize h.cfg

def pageK (_ : Head) (size : Nat) : Nat := up64 (4 * tokensOf size)
def pageV (h : Head) (size : Nat) : Nat := up64 (pageK h size + tokensOf size * h.heads * h.dim * elBytes h)
def pageKs (h : Head) (size : Nat) : Nat := up64 (pageV h size + h.heads * h.dim * tokensOf size * elBytes h)
def pageVs (h : Head) (size : Nat) : Nat := up64 (pageKs h size + tokensOf size * h.heads * headGroups h * scaleBytes h.cfg)

/-- Addresses within a page at an address: K, V and scales of in-page index i. -/
def kAddr (h : Head) (p size i hd d : Nat) : Nat := p + pageK h size + ((i * h.heads + hd) * h.dim + d) * elBytes h
def vAddr (h : Head) (p size hd d i : Nat) : Nat := p + pageV h size + ((hd * h.dim + d) * tokensOf size + i) * elBytes h
def ksAddr (h : Head) (p size i hd g : Nat) : Nat :=
  p + pageKs h size + ((i * h.heads + hd) * headGroups h + g) * scaleBytes h.cfg
def vsAddr (h : Head) (p size i hd : Nat) : Nat := p + pageVs h size + (i * h.heads + hd) * scaleBytes h.cfg

/-- The pieces (offset, bytes) of a page that hold its first n in-page indices. -/
def pagePieces (h : Head) (size n : Nat) : List (Nat × Nat) :=
  [(0, 4 * n), (pageK h size, n * h.heads * h.dim * elBytes h)]
  ++ (List.range (h.heads * h.dim)).map (fun r => (pageV h size + r * tokensOf size * elBytes h, n * elBytes h))
  ++ (if h.cfg = 0 then []
      else [(pageKs h size, n * h.heads * headGroups h * scaleBytes h.cfg), (pageVs h size, n * h.heads * scaleBytes h.cfg)])

/-- Runs an action for every element of a list. -/
def forAll {α : Type} (f : α → TxM Unit) : List α → TxM Unit
  | [] => pure ()
  | a :: as => do
    f a
    forAll f as

/-- Copies the first n in-page indices of a page (R85). -/
def copyPage (h : Head) (src dst size n : Nat) : TxM Unit :=
  forAll (fun p => do
    let bs ← rd (src + p.1) p.2
    wr (dst + p.1) bs) (pagePieces h size n)

/-! ### The page supply (R84) -/

structure Supply where
  addr  : Nat
  stack : Nat
  cap   : Nat
  count : Nat
  size  : Nat
  lost  : Nat
  l2    : Nat
  l2Cap : Nat
  l2Cnt : Nat
  deriving DecidableEq, Repr, Inhabited

/-- R84, R93: reads a supply header; an unlisted field is E_FORMAT, a field that does not fit the rest E_STATE. -/
def readSupply (a : Nat) : TxM Supply := do
  need (a % 64 == 0) .format
  let bs ← rd a 64
  let n := fun o k => leNat ((bs.drop o).take k)
  need (n 17 3 == 0 && n 40 24 == 0 && decide (n 16 1 ≤ 7)) .format
  need (decide (n 12 4 ≤ n 8 4 ∧ n 36 4 ≤ n 32 4) && aligned 64 [n 0 8] && aligned 8 [n 24 8]) .state
  pure { addr := a, stack := n 0 8, cap := n 8 4, count := n 12 4, size := n 16 1, lost := n 20 4, l2 := n 24 8, l2Cap := n 32 4,
         l2Cnt := n 36 4 }

/-- Takes a page from the top of the page stack. -/
def popPage (a : Nat) : TxM (Nat × Nat) := do
  let x ← readSupply a
  need (x.count != 0) .state
  let p ← rdNat (x.stack + 8 * (x.count - 1)) 8
  need (p % 64 == 0) .state
  wrNat (a + 12) 4 (x.count - 1)
  pure (p, x.size)

/-- Takes a level-2 block and writes all its entries as 0. -/
def popBlock (a : Nat) : TxM Nat := do
  let x ← readSupply a
  need (x.l2Cnt != 0) .state
  let b ← rdNat (x.l2 + 8 * (x.l2Cnt - 1)) 8
  need (b % 2048 == 0) .state
  wrNat (a + 36) 4 (x.l2Cnt - 1)
  wr b (List.replicate 2048 0)
  pure b

/-- Pushes a page; into a full stack it is not kept and overflow counts it, or the command fails where `strict`. -/
def pushPage (strict : Bool) (a p : Nat) : TxM Unit := do
  let x ← readSupply a
  if x.count < x.cap then
    wrNat (x.stack + 8 * x.count) 8 p
    wrNat (a + 12) 4 (x.count + 1)
  else if strict then txFail .state
  else wrNat (a + 20) 4 (x.lost + 1)

/-- Pushes a level-2 block, likewise. -/
def pushBlock (strict : Bool) (a b : Nat) : TxM Unit := do
  let x ← readSupply a
  if x.l2Cnt < x.l2Cap then
    wrNat (x.l2 + 8 * x.l2Cnt) 8 b
    wrNat (a + 36) 4 (x.l2Cnt + 1)
  else if strict then txFail .state
  else wrNat (a + 20) 4 (x.lost + 1)

/-! ### The prefix tree (R105 to R109) -/

structure Tree where
  addr    : Nat
  seed    : Nat
  buckets : Nat
  log2    : Nat
  cap     : Nat
  nodes   : Nat
  free    : Nat
  inUse   : Nat
  dropped : Nat
  deriving DecidableEq, Repr, Inhabited

/-- R105, R93. -/
def readTree (a : Nat) : TxM Tree := do
  need (a % 64 == 0) .format
  let bs ← rd a 64
  let n := fun o k => leNat ((bs.drop o).take k)
  need (n 17 3 == 0 && n 44 20 == 0 && decide (4 ≤ n 16 1 ∧ n 16 1 ≤ 24)) .format
  need (aligned 64 [n 8 8, n 24 8] && decide (n 36 4 ≤ n 20 4)) .state
  pure { addr := a, seed := n 0 8, buckets := n 8 8, log2 := n 16 1, cap := n 20 4, nodes := n 24 8, free := n 32 4,
         inUse := n 36 4, dropped := n 40 4 }

structure Node where
  hash   : Nat
  page   : Nat
  supply : Nat
  parent : Nat
  refs   : Nat
  first  : Nat
  valid  : Nat
  size   : Nat
  flags  : Nat
  deriving DecidableEq, Repr, Inhabited

def nodeAddr (t : Tree) (n : Nat) : Nat := t.nodes + 64 * n

/-- R93: reads a node; its number must lie below node_capacity. -/
def readNode (t : Tree) (k : Nat) : TxM Node := do
  need (decide (k < t.cap)) .state
  let bs ← rd (nodeAddr t k) 64
  let n := fun o k => leNat ((bs.drop o).take k)
  need (n 40 24 == 0 && decide (n 38 1 ≤ 7) && decide (n 39 1 < 4)) .format
  pure { hash := n 0 8, page := n 8 8, supply := n 16 8, parent := n 24 4, refs := n 28 4, first := n 32 4, valid := n 36 2,
         size := n 38 1, flags := n 39 1 }

def writeNode (t : Tree) (k : Nat) (x : Node) : TxM Unit :=
  wr (nodeAddr t k) (leBytes 8 x.hash ++ leBytes 8 x.page ++ leBytes 8 x.supply ++ leBytes 4 x.parent ++ leBytes 4 x.refs
    ++ leBytes 4 x.first ++ leBytes 2 x.valid ++ leBytes 1 x.size ++ leBytes 1 x.flags)

/-- Takes a node from free_head and writes it (R111). -/
def allocNode (tree : Nat) (x : Node) : TxM Nat := do
  let t ← readTree tree
  need (t.free != noNode) .state
  need (decide (t.free < t.cap)) .state
  let nxt ← rdNat (nodeAddr t t.free + 24) 4
  wrNat (tree + 32) 4 nxt
  wrNat (tree + 36) 4 (t.inUse + 1)
  wr (nodeAddr t t.free + 40) (List.replicate 24 0)
  writeNode t t.free x
  pure t.free

/-- One more entry maps a node's page. -/
def retainNode (tree k n : Nat) : TxM Node := do
  let t ← readTree tree
  let x ← readNode t k
  wrNat (nodeAddr t k + 28) 4 (x.refs + n)
  pure { x with refs := x.refs + n }

/-- The address of the bucket of a hash. -/
def bucketAddr (t : Tree) (hash : Nat) : Nat := t.buckets + 64 * (hash % 2 ^ t.log2)

/-- The slots of a bucket: node and tag; a node beyond the array does not fit (R93). -/
def readBucket (t : Tree) (hash : Nat) : TxM (List (Nat × Nat)) := do
  let bs ← rd (bucketAddr t hash) 64
  let slots := (List.range 8).map (fun i => (leNat ((bs.drop (8 * i)).take 4), leNat ((bs.drop (8 * i + 4)).take 4)))
  need (slots.all (fun p => p.1 == noNode || decide (p.1 < t.cap))) .state
  pure slots

/-- R109: an entry that maps a page is removed: the node loses a reference, and at 0 it leaves its bucket, its page goes
to its supply, and it returns to free_head. A released node keeps its other fields (log entry 26). -/
def releaseNode (tree k : Nat) : TxM Unit := do
  let t ← readTree tree
  let x ← readNode t k
  need (x.refs != 0) .state
  wrNat (nodeAddr t k + 28) 4 (x.refs - 1)
  if x.refs = 1 then
    if bit x.flags 0 then
      let slots ← readBucket t x.hash
      match (List.range 8).find? (fun i => (slots.getD i (noNode, 0)).1 == k) with
      | some i => wrNat (bucketAddr t x.hash + 8 * i) 4 noNode
      | none => pure ()
    pushPage false x.supply x.page
    let t' ← readTree tree
    need (t'.inUse != 0) .state
    wrNat (nodeAddr t k + 24) 4 t'.free
    wrNat (tree + 32) 4 k
    wrNat (tree + 36) 4 (t'.inUse - 1)

/-- R106: the block hash, modulo 2^64. -/
def blockHash (h : W64) (tokens : List Nat) : W64 :=
  let h1 := tokens.foldl (fun (h : W64) t =>
    let h' := (h ^^^ w64 t) * 0x9E3779B97F4A7C15#64
    h' ^^^ (h' >>> 29)) h
  let h2 := h1 ^^^ w64 tokens.length
  let h3 := (h2 ^^^ (h2 >>> 32)) * 0xBF58476D1CE4E5B9#64
  h3 ^^^ (h3 >>> 29)

/-- The token identifiers of bytes. -/
def idsOf (bs : List Byte) : List Nat := (List.range (bs.length / 4)).map (fun i => leNat ((bs.drop (4 * i)).take 4))

/-- R108: the first node of a bucket, slots ascending, that confirms as the continuation of a chain. -/
def confirm (t : Tree) (hash parent size : Nat) (ids : List Nat) : List (Nat × Nat) → TxM (Option Nat)
  | [] => pure none
  | (k, tag) :: rest => do
    if k != noNode && tag == hash / 2 ^ 32 then
      let x ← readNode t k
      if x.hash == hash && bit x.flags 1 && x.size == size && x.parent == parent then
        let strip ← rd x.page (4 * ids.length)
        if idsOf strip == ids then pure (some k) else confirm t hash parent size ids rest
      else confirm t hash parent size ids rest
    else confirm t hash parent size ids rest

/-- R107: what a commit does when it fills the page `p` (address, node, size) of a table. -/
def fillPage (h : Head) (publish : Bool) (p : Hit) : TxM Head := do
  if !(h.chainValid) then pure h
  else
    let strip ← rd p.addr (4 * tokensOf p.size)
    let ids := idsOf strip
    let hash := (blockHash (w64 h.hash) ids).toNat
    let t ← readTree h.tree
    let x ← readNode t p.node
    let full := { x with hash := hash, flags := x.flags / 4 * 4 + 2 + x.flags % 2 }
    writeNode t p.node full
    if publish then
      let slots ← readBucket t hash
      let found ← confirm t hash x.parent p.size ids slots
      if found.isNone then
        match (List.range 8).find? (fun i => (slots.getD i (0, 0)).1 == noNode) with
        | some i =>
          wrNat (bucketAddr t hash + 8 * i) 8 (p.node + 2 ^ 32 * (hash / 2 ^ 32))
          writeNode t p.node { full with flags := full.flags / 2 * 2 + 1 }
        | none => wrNat (h.tree + 40) 4 (t.dropped + 1)
    pure { h with hash := hash }

/-! ### Changing a table -/

/-- Writes a page's entries: one at level 1, or 2^size of a block from its lead (R81). -/
def writeEntries (h : Head) (lead size : Nat) (e : Entry) : TxM Unit :=
  let v := entryCode { e with gen := h.newGen }
  forAll (fun i => wrNat (lead + 16 * i) 16 v) (List.range (if size = 7 then 1 else 2 ^ size))

/-- Maps a page over tokens pos to pos + T − 1: E_STATE where pos is no multiple of T, an entry is valid, or the block that
a smaller page needs is missing and `grow` does not take one from the supply (R110, R111). -/
def mapPage (h : Head) (grow : Bool) (pos size addr node : Nat) (shared : Bool) : TxM Hit := do
  need (pos % tokensOf size == 0) .state
  need (decide (pos < maxLen)) .state
  let i := pos / 2048
  let e ← readL1 h i
  let x : Entry := { valid := true, shared := shared, table := false, size := size, gen := 0, node := node, addr := addr }
  if size = 7 then
    need (!(e.valid)) .state
    writeEntries h (h.l1 + 16 * i) 7 x
    pure { start := pos, size := 7, addr := addr, shared := shared, node := node, gen := h.newGen % 2 ^ 16, entry := h.l1 + 16 * i }
  else
    need (!(e.valid && !(e.table)) && (e.valid || grow)) .state
    let block ← (if e.valid then pure e.addr else do
      let b ← popBlock h.supply
      writeEntries h (h.l1 + 16 * i) 7 { valid := true, shared := false, table := true, size := 0, gen := 0, node := noNode, addr := b }
      pure b)
    let j := pos % 2048 / 16
    forAll (fun k => do
      let y ← readL2 block (j + k)
      need (!(y.valid)) .state) (List.range (2 ^ size))
    writeEntries h (block + 16 * j) size x
    pure { start := pos, size := size, addr := addr, shared := shared, node := node, gen := h.newGen % 2 ^ 16, entry := block + 16 * j }

/-- A removed entry: not valid, with the generation of the commit (log entry 29). -/
def emptyEntry : Entry := { valid := false, shared := false, table := false, size := 0, gen := 0, node := 0, addr := 0 }

/-- R109: removes a page's entries, releases its node, and gives back a block that becomes empty. -/
def unmapPage (h : Head) (strict : Bool) (p : Hit) : TxM Unit := do
  writeEntries h p.entry p.size emptyEntry
  releaseNode h.tree p.node
  if p.size ≠ 7 then
    let l1 := h.l1 + 16 * (p.start / 2048)
    let e ← readL1 h (p.start / 2048)
    let bs ← rd e.addr 2048
    if (List.range 128).all (fun j => !(bit ((bs.getD (16 * j) 0).toNat) 0)) then
      pushBlock strict h.supply e.addr
      writeEntries h l1 7 emptyEntry

/-- R85, R129: the page as it may be written: copied first where its entry is shared or its node has several
references. `len` is the length of the writing table. -/
def ownPage (h : Head) (p : Hit) : TxM Hit := do
  let t ← readTree h.tree
  let x ← readNode t p.node
  if p.shared || decide (1 < x.refs) then
    let (a, size) ← popPage h.supply
    need (size == p.size) .state
    let inside := decide (p.start ≤ h.len ∧ h.len < p.start + tokensOf p.size)
    let n := if inside then h.len - p.start else min x.valid (tokensOf p.size)
    copyPage h p.addr a p.size n
    let k ← allocNode h.tree { hash := 0, page := a, supply := h.supply, parent := x.parent, refs := 1, first := p.start,
                               valid := n, size := p.size, flags := 0 }
    writeEntries h p.entry p.size
      { valid := true, shared := false, table := false, size := p.size, gen := 0, node := k, addr := a }
    releaseNode h.tree p.node
    pure { p with addr := a, shared := false, node := k }
  else pure p

/-- The node of the page that holds token length − 1 (R80). -/
def tailOf (h : Head) : TxM Nat := do
  if h.len = 0 then pure noNode
  else
    let p ← resolve h (h.len - 1)
    pure ((p.map Hit.node).getD noNode)

/-- R107: a table left at length 0 starts its chain again. -/
def chainAtZero (h : Head) : TxM Head := do
  if h.len = 0 then
    let t ← readTree h.tree
    pure { h.chain true with hash := t.seed, tail := noNode }
  else pure h

/-- The outcome of a transaction that ends well, as the work of a command. -/
def txWork (t : Tx) : Work := { writes := t.w.reverse }

/-- R88: a commit to tables empties their look-aside entries in every region. -/
def dropTables (s : State) (heads : List Nat) : State :=
  { s with regions := s.regions.map (fun r => (r.1, heads.foldl dropTable r.2)) }

end Sys2Proof.Machine
end

