-- ==== Sys2Proof/Machine/Attend.lean ====
section
/-! DEFINITION. The attention sequencer: ATTEND and ATTEND_BWD (R94 to R104), with candidate trees (R113). -/

namespace Sys2Proof.Machine

/-- The body of an ATTEND descriptor (R100). -/
structure At where
  rows     : Nat
  rowsPlan : Nat
  batch    : Nat
  headsQ   : Nat
  headsKv  : Nat
  dim      : Nat
  fmtQ     : Nat
  fmtKv    : Nat
  fmtO     : Nat
  cfg      : Nat
  mask     : Nat
  round    : Nat
  sm       : W32
  window   : Nat
  qPos     : Nat
  split    : Nat
  flags    : Nat
  q        : Nat
  out      : Nat
  list     : Nat
  qs       : Nat
  stats    : Nat
  aux      : Nat
  tree     : Nat
  qLd      : Nat
  outLd    : Nat
  qBs      : Nat
  outBs    : Nat
  stBs     : Nat
  deriving Inhabited

def atOf (d : Desc) : At :=
  { rows := fld d 16 2, rowsPlan := fld d 18 2, batch := fld d 20 2, headsQ := fld d 22 1, headsKv := fld d 23 1,
    dim := fld d 24 2, fmtQ := fld d 26 1, fmtKv := fld d 27 1, fmtO := fld d 28 1, cfg := fld d 29 1, mask := fld d 30 1,
    round := fld d 31 1, sm := w32 (fld d 32 4), window := fld d 36 4, qPos := fld d 40 4, split := fld d 44 1,
    flags := fld d 45 1, q := fld d 48 8, out := fld d 56 8, list := fld d 64 8, qs := fld d 72 8, stats := fld d 80 8,
    aux := fld d 88 8, tree := fld d 96 8, qLd := fld d 104 4, outLd := fld d 108 4, qBs := fld d 112 4, outBs := fld d 116 4,
    stBs := fld d 120 4 }

def atNoop (x : At) : Bool := x.rows == 0 || x.batch == 0
def atSave (x : At) : Bool := bit x.flags 0
/-- Elements of a row of Q. -/
def atCols (x : At) : Nat := x.headsQ * x.dim
/-- Groups of Q and K along the head dimension. -/
def atGroups (x : At) : Nat := if groupSize x.cfg = 0 then 0 else x.dim / groupSize x.cfg
/-- R96: where the Q scales of element e start. -/
def atQs (x : At) (e : Nat) : Nat := x.qs + e * x.rowsPlan * scaleLd x.cfg (atCols x)

/-- Rows laid out as Q is, at a base. -/
def atQRows (x : At) (base : Nat) : List (Nat × Nat) :=
  overBatch x.batch (fun e => rowRanges (fmtAt x.fmtQ) (batchAddr base e x.qBs) x.rows (atCols x) x.qLd)

def atStats (x : At) : List (Nat × Nat) :=
  overBatch x.batch (fun e => (List.range x.headsQ).map (fun h => (x.stats + e * x.stBs * 64 + h * x.rowsPlan * 8, 8 * x.rows)))

def atOut (x : At) : List (Nat × Nat) :=
  overBatch x.batch (fun e => rowRanges (fmtAt x.fmtO) (batchAddr x.out e x.outBs) x.rows (atCols x) x.outLd)

/-- What the command reads besides tables, pages and candidate sources. -/
def atUsed (bwd : Bool) (x : At) : List (Nat × Nat) :=
  skipIf (atNoop x) (atQRows x x.q ++ overBatch x.batch (fun e => scaleRanges x.cfg (atQs x e) x.rows (atCols x) (atCols x))
    ++ [(x.list, 8 * x.batch)]
    ++ (if bwd then atQRows x x.aux ++ atQRows x x.tree ++ atStats x
        else auxUsed x.aux ++ (if x.mask = 3 then [(x.tree, 128 * x.batch)] else [])))

def atWrites (bwd : Bool) (x : At) : List (Nat × Nat) :=
  skipIf (atNoop x) (atOut x ++ (if bwd then [] else auxWhole x.aux ++ (if atSave x then atStats x else [])))

/-- The table heads of a table list, read at validation (R102, R116). -/
def listRange (list n : Nat) : List (Nat × Nat) := if n = 0 then [] else [(list, 8 * n)]

/-- The heads that a list of tables names. -/
def tableList (s : State) (list batch : Nat) : List Nat :=
  (List.range batch).map (fun e => mnat (operandMem s [(list, 8 * batch)]) (list + 8 * e) 8)

/-- R102 and its changes for ATTEND_BWD (R104). -/
def atChecks (bwd : Bool) (s : State) (c : Cmd) : List Check :=
  let d := c.desc
  let x := atOf d
  let fq := fmtAt x.fmtQ
  let fk := fmtAt x.fmtKv
  let g := groupSize x.cfg
  let wide := fun f : Fmt => f.width == 8 || f.width == 16
  [headerCheck d,
   ⟨1, .format, decide (x.mask ≤ 3) && decide (x.round ≤ 1) && (fmtOf x.fmtQ).isSome && (fmtOf x.fmtKv).isSome
     && (fmtOf x.fmtO).isSome && scaleCfgListed x.cfg && decide (x.flags < 2) && resZero d [(46, 2), (124, 4)]⟩,
   ⟨2, .format, wide fq && wide fk && fq.width == fk.width && scaleFits x.cfg fk && decide (g ≤ x.dim)
     && (if x.mask = 2 then decide (1 ≤ x.window ∧ x.window ≤ maxLen) else x.window == 0)
     && zeroIff x.qs (x.cfg == 0)
     && (if bwd then !(atSave x) && decide (x.mask ≤ 2) && (x.fmtO == 5 || x.fmtO == 7) && x.stats != 0 && x.aux != 0 && x.tree != 0
         else zeroIff x.tree (x.mask != 3) && zeroIff x.stats (!(atSave x)))⟩,
   ⟨3, .format, decide (x.rows ≤ 16384 ∧ x.rowsPlan ≤ 16384 ∧ 1 ≤ x.headsQ ∧ x.headsQ ≤ 128 ∧ 1 ≤ x.headsKv ∧ x.headsKv ≤ 128)
     && x.headsQ % x.headsKv == 0 && decide (16 ≤ x.dim ∧ x.dim ≤ 256) && x.dim % 16 == 0 && (g == 0 || x.dim % g == 0)
     && decide (x.split ≤ (if bwd then 1 else 32)) && (x.mask != 3 || decide (x.rows ≤ 64 ∧ x.rowsPlan ≤ 64))⟩,
   ⟨4, .format, aligned 64 [x.q, x.out, x.list, x.qs, x.stats, x.aux, x.tree]⟩,
   ⟨5, .format, decide (up64 (fq.bytes (atCols x)) ≤ x.qLd * 64 ∧ up64 ((fmtAt x.fmtO).bytes (atCols x)) ≤ x.outLd * 64)⟩,
   svcCheck s c 6] ++ branchChecks s c 6 ++
  [⟨6, .permission, readable s c.ctx (atUsed bwd x ++ skipIf (atNoop x)
       (overBatch x.batch (fun e => scaleTable x.cfg (atQs x e) x.rowsPlan (atCols x)) ++ (if bwd then [] else auxWhole x.aux)))
     && writable s c.ctx (atWrites bwd x)
     && (atNoop x || readable s c.ctx ((tableList s x.list x.batch).map (fun h => (h, 64))))⟩,
   ⟨7, .shapeExceedsPlan, decide (x.rows ≤ x.rowsPlan)⟩]

/-! ### Pieces (R94, R99) -/

/-- R94: the rows of an element that use one kv head. -/
def atRe (x : At) : Nat := x.rows * (x.headsQ / x.headsKv)

/-- R94: the rows of the row sets of one kv head. -/
def atRowSets (x : At) : List Nat :=
  let re := atRe x
  if re = 0 then []
  else if re ≤ 256 then
    let per := 256 / re
    (List.range (ceilDiv x.batch per)).map (fun i => re * min per (x.batch - i * per))
  else (List.replicate x.batch ((List.range (ceilDiv re 256)).map (fun i => min 256 (re - i * 256)))).flatten

/-- R99: granules that a piece of mr rows holds. -/
def atPieceGranules (x : At) (mr : Nat) : Nat :=
  ceilDiv (mr * 512) 4096 + ceilDiv (mr * x.dim * 4) 4096 + ceilDiv (mr * 8) 4096

/-- The granules of every piece, in order: kv head, row set, split. -/
def atPieces (x : At) : List Nat :=
  (List.replicate x.headsKv ((atRowSets x).flatMap (fun mr => List.replicate (max 1 x.split) (atPieceGranules x mr)))).flatten

/-- The granules of the pieces that fall on each of a list of clusters, pieces dealt to the units of the clusters in turn
(log entry 30). -/
def atDeal (x : At) (qs : List Nat) : List (Nat × Nat) :=
  let ps := atPieces x
  let n := 4 * qs.length
  (List.range qs.length).map (fun i => (qs.getD i 0,
    ((List.range ps.length).filter (fun p => p % n / 4 == i)).foldl (fun a p => a + ps.getD p 0) 0))

/-- The clusters of a region in service to a context. -/
def regionClusters (s : State) (ctx r : Nat) : List Nat := ((List.range 8).map (8 * r + ·)).filter (inService s ctx)

/-! ### Keys -/

/-- R113: a tree record. -/
structure Cand where
  n      : Nat
  ld     : Nat
  k      : Nat
  v      : Nat
  ks     : Nat
  vs     : Nat
  tok    : Nat
  parent : List Nat
  deriving DecidableEq, Repr, Inhabited

/-- R113, R116: reads a tree record: a reserved or unlisted field is E_FORMAT, a parent out of order E_STATE. -/
def readCand (cfg a : Nat) : TxM Cand := do
  let bs ← rd a 128
  let n := fun o k => leNat ((bs.drop o).take k)
  need (n 1 3 == 0 && n 48 16 == 0 && decide (1 ≤ n 0 1 ∧ n 0 1 ≤ 64) && zeroIff (n 24 8) (cfg == 0) && zeroIff (n 32 8) (cfg == 0))
    .format
  let ps := (List.range (n 0 1)).map (fun c => n (64 + c) 1)
  need ((List.range ps.length).all (fun c => decide (ps.getD c 0 < c) || ps.getD c 0 == 0xFF)) .state
  pure { n := n 0 1, ld := n 4 4, k := n 8 8, v := n 16 8, ks := n 24 8, vs := n 32 8, tok := n 40 8, parent := ps }

/-- One batch element as the sequencer sees it: its table, the pages by 16-token unit, and its candidates. -/
structure AtEl where
  head : Head
  hits : AMap Hit
  cand : Option Cand
  deriving Repr, Inhabited

/-- Keys of an element: tokens below length, then candidates. -/
inductive Key where
  | tok (t : Nat)
  | cand (c : Nat)
  deriving DecidableEq, Repr, Inhabited

/-- R94: the key blocks of an element of a length. -/
def keyBlocks (len : Nat) (cand : Option Cand) : List (List Key) :=
  (List.range (ceilDiv len 128)).map (fun b => (List.range (min 128 (len - 128 * b))).map (fun i => Key.tok (128 * b + i)))
  ++ (match cand with
      | some k => [(List.range k.n).map Key.cand]
      | none => [])

/-- The ancestors of a candidate with itself (R101), parents having smaller numbers. -/
def ancestors (parent : List Nat) : Nat → Nat → List Nat
  | 0, c => [c]
  | f + 1, c => let p := parent.getD c 0xFF; if p < c then c :: ancestors parent f p else [c]

/-- R101: whether key j is visible to query row i. -/
def visible (x : At) (len : Nat) (cand : Option Cand) (i : Nat) (k : Key) : Bool :=
  let pe : Int := if x.qPos = 0xFFFFFFFF then (len : Int) - x.rows + i else x.qPos + i
  match k with
  | .tok j =>
    (match x.mask with
    | 1 => decide ((j : Int) ≤ pe)
    | 2 => decide (pe - x.window < (j : Int) ∧ (j : Int) ≤ pe)
    | _ => true)
  | .cand c => (ancestors ((cand.map Cand.parent).getD []) 64 i).contains c

/-- Element d of the key of kv head h. -/
def keyElt (m : Memory) (x : At) (el : AtEl) (h : Nat) (k : Key) (d : Nat) : FV :=
  let f := fmtAt x.fmtKv
  match k with
  | .tok t =>
    let p := (aget? el.hits (t / 16)).getD default
    decodeElt f (mnat m (kAddr el.head p.addr p.size (t - p.start) h d) (f.width / 8))
  | .cand c =>
    let r := el.cand.getD default
    decodeElt f (eltCode m f (r.k + c * r.ld * 64) (h * x.dim + d))

def keyScale (m : Memory) (x : At) (el : AtEl) (h : Nat) (k : Key) (g : Nat) : FV :=
  if groupSize x.cfg = 0 then .fin false 1 1 0
  else match k with
    | .tok t =>
      let p := (aget? el.hits (t / 16)).getD default
      scaleVal x.cfg (mnat m (ksAddr el.head p.addr p.size (t - p.start) h g) (scaleBytes x.cfg))
    | .cand c => scaleAt m x.cfg ((el.cand.getD default).ks) (x.headsKv * x.dim) c (h * atGroups x + g)

def valElt (m : Memory) (x : At) (el : AtEl) (h : Nat) (k : Key) (d : Nat) : FV :=
  let f := fmtAt x.fmtKv
  match k with
  | .tok t =>
    let p := (aget? el.hits (t / 16)).getD default
    decodeElt f (mnat m (vAddr el.head p.addr p.size h d (t - p.start)) (f.width / 8))
  | .cand c =>
    let r := el.cand.getD default
    decodeElt f (eltCode m f (r.v + c * r.ld * 64) (h * x.dim + d))

/-- The V scale of a key and head; rows of one scale per head, 64-byte aligned (R110). -/
def valScale (m : Memory) (x : At) (el : AtEl) (h : Nat) (k : Key) : FV :=
  if groupSize x.cfg = 0 then .fin false 1 1 0
  else match k with
    | .tok t =>
      let p := (aget? el.hits (t / 16)).getD default
      scaleVal x.cfg (mnat m (vsAddr el.head p.addr p.size (t - p.start) h) (scaleBytes x.cfg))
    | .cand c =>
      let b := scaleBytes x.cfg
      scaleVal x.cfg (mnat m ((el.cand.getD default).vs + c * up64 (x.headsKv * b) + h * b) b)

/-- An element of a buffer laid out as Q is. -/
def qElt (m : Memory) (x : At) (base e i h d : Nat) : FV :=
  let f := fmtAt x.fmtQ
  decodeElt f (eltCode m f (batchAddr base e x.qBs + i * x.qLd * 64) (h * x.dim + d))

/-! ### One row (R95 to R97) -/

/-- A matrix product over k elements in groups of gs, added to an accumulator in ascending order (R60 to R64). -/
def dotInto (k gs : Nat) (a b : Nat → FV) (sc : Nat → FV × FV) (acc : W32) : W32 :=
  (List.range (ceilDiv k gs)).foldl (fun acc g =>
    let ps := (List.range (min gs (k - g * gs))).map (fun t => (a (g * gs + t), b (g * gs + t)))
    fadd acc (contribution ps (sc g).1 (sc g).2)) acc

/-- s of R95 before masking. -/
def score (m : Memory) (x : At) (el : AtEl) (e i hq : Nat) (k : Key) : W32 :=
  let h := hq * x.headsKv / x.headsQ
  let gs := if groupSize x.cfg = 0 then (fmtAt x.fmtKv).depth else groupSize x.cfg
  fmul x.sm (dotInto x.dim gs (qElt m x x.q e i hq) (keyElt m x el h k)
    (fun g => (scaleAt m x.cfg (atQs x e) (atCols x) i (hq * atGroups x + g), keyScale m x el h k g)) fpZero)

/-- The running maximum, denominator and output of a row. -/
structure Soft where
  m : W32
  l : W32
  o : List W32
  deriving DecidableEq, Repr, Inhabited

def softStart (dim : Nat) : Soft := ⟨fpNegInf, fpZero, List.replicate dim fpZero⟩

/-- R96: P as the value product takes it. -/
def probElt (m : Memory) (x : At) (el : AtEl) (h : Nat) (k : Key) (p : W32) : FV :=
  if (fmtAt x.fmtKv).width = 8 then
    decodeElt .e4m3 (grind .e4m3 .nearest (f32v (fp32 (fvMul (f32v p) (valScale m x el h k))))).1
  else decodeElt .bf16 (grind .bf16 .nearest (f32v p)).1

/-- R95: one key block of one row. -/
def softBlock (m : Memory) (x : At) (el : AtEl) (e i hq : Nat) (st : Soft) (ks : List Key) : Soft :=
  let h := hq * x.headsKv / x.headsQ
  let ss := ks.map (fun k => if visible x el.head.len el.cand i k then score m x el e i hq k else fpNegInf)
  let mNew := ss.foldl fmax st.m
  if mNew = fpNegInf then st
  else
    let c := fexp (fsub st.m mNew)
    let ps := ss.map (fun s => fexp (fsub s mNew))
    let sum := match ps with
      | [] => fpZero
      | p :: rest => rest.foldl fadd p
    let pv := (List.range ks.length).map (fun t => probElt m x el h (ks.getD t default) (ps.getD t fpZero))
    let one : FV := .fin false 1 1 0
    { m := mNew, l := fadd (fmul st.l c) sum
      o := (List.range x.dim).map (fun d =>
        dotInto ks.length (fmtAt x.fmtKv).depth (fun t => pv.getD t one) (fun t => valElt m x el h (ks.getD t default) d)
          (fun _ => (one, one)) (fmul (st.o.getD d fpZero) c)) }

/-- R97: the merge of a further split. -/
def softMerge (a b : Soft) : Soft :=
  let mNew := fmax a.m b.m
  if mNew = fpNegInf then a
  else
    let c0 := fexp (fsub a.m mNew)
    let c1 := fexp (fsub b.m mNew)
    { m := mNew, l := fadd (fmul a.l c0) (fmul b.l c1)
      o := (List.range a.o.length).map (fun d => fadd (fmul (a.o.getD d fpZero) c0) (fmul (b.o.getD d fpZero) c1)) }

/-- R94: the blocks of each split. -/
def splitsOf {α : Type} (n : Nat) (bs : List α) : List (List α) :=
  (List.range n).map (fun s => (bs.drop (s * bs.length / n)).take ((s + 1) * bs.length / n - s * bs.length / n))

/-- R95, R97: one row before its output. -/
def softRow (m : Memory) (x : At) (el : AtEl) (e i hq : Nat) : Soft :=
  let parts := (splitsOf (max 1 x.split) (keyBlocks el.head.len el.cand)).map
    (fun bs => bs.foldl (softBlock m x el e i hq) (softStart x.dim))
  match parts with
  | [] => softStart x.dim
  | p :: rest => rest.foldl softMerge p

/-- R97: l is 0: the row is written as zeros, with m = −inf and l = 0. -/
def softEmpty (st : Soft) : Bool := f32v st.l == fvZero false || f32v st.l == fvZero true || st.l.toNat % 2 ^ 31 == 0

/-- R97: the codes of one row's outputs and their statistics. -/
def softOut (c : Cmd) (x : At) (e i hq : Nat) (st : Soft) : List Nat × Stats :=
  if softEmpty st then (List.replicate x.dim 0, {})
  else
    let outs := (List.range x.dim).map (fun d =>
      let v := f32v (fdiv (st.o.getD d fpZero) st.l)
      let g := grind (fmtAt x.fmtO) (elementRound c x.round e (x.rows * atCols x) ((i * x.headsQ + hq) * x.dim + d)) v
      (g.1, statsOf v (decodeElt (fmtAt x.fmtO) g.1) (.fin false 1 1 0) g.2))
    (outs.map Prod.fst, outs.foldl (fun a o => statsAdd a o.2) {})

/-- R103: where the statistics of a row lie. -/
def statAddr (x : At) (e h i : Nat) : Nat := x.stats + e * x.stBs * 64 + (h * x.rowsPlan + i) * 8

/-- The cells and statistics of one query row of one element. -/
def atRow (m : Memory) (c : Cmd) (x : At) (e : Nat) (el : AtEl) (i : Nat) : List Host.Cell × Stats :=
  let hs := (List.range x.headsQ).map (fun h => softRow m x el e i h)
  let outs := (List.range x.headsQ).map (fun h => softOut c x e i h (hs.getD h default))
  let saved := if atSave x then (List.range x.headsQ).flatMap (fun h =>
      let st := hs.getD h default
      let p := if softEmpty st then (fpNegInf, fpZero) else (st.m, st.l)
      cellsNat (statAddr x e h i) 4 p.1.toNat ++ cellsNat (statAddr x e h i + 4) 4 p.2.toNat) else []
  (rowCells m (fmtAt x.fmtO) (batchAddr x.out e x.outBs + i * x.outLd * 64) 0 (outs.flatMap Prod.fst) none ++ saved,
   outs.foldl (fun a o => statsAdd a o.2) {})

/-! ### Reading the tables -/

/-- Meets of many ranges at once, read. -/
def useAll (rs : List (Nat × Nat)) : TxM Unit := do
  let t ← get
  need (readable t.base t.ctx rs) .permission
  landed t rs
  onMeet (meet t.base rs []) false
  set { t with reads := rs ++ t.reads }

/-- R89: whether a table is resolved in per-page mode. -/
def perPage (s : State) (h : Head) : Bool := s.regs.walkForce || h.reconstructing || h.w8

/-- Resolves the 16-token units of a list below length; an unmapped token is E_STATE (R83). -/
def resolveUnits (self : Nat) (h : Head) : List Nat → TxM (AMap Hit)
  | [] => pure []
  | u :: us => do
    let p ← (if h.w8 then resolveW8 self h (16 * u) else resolve h (16 * u))
    match p with
    | none => txFail .state
    | some p =>
      let rest ← resolveUnits self h us
      pure ((u, p) :: rest)

/-- The bytes of a key's row of K and its scales, over all heads. -/
def keyRanges (h : Head) (hits : AMap Hit) (t : Nat) : List (Nat × Nat) :=
  match aget? hits (t / 16) with
  | none => []
  | some p =>
    [(kAddr h p.addr p.size (t - p.start) 0 0, h.heads * h.dim * elBytes h)]
    ++ (if h.cfg = 0 then [] else [(ksAddr h p.addr p.size (t - p.start) 0 0, h.heads * headGroups h * scaleBytes h.cfg)])

/-- The bytes of the values and scales of a unit's tokens below length. -/
def valRanges (h : Head) (hits : AMap Hit) (u : Nat) : List (Nat × Nat) :=
  match aget? hits u with
  | none => []
  | some p =>
    let n := min 16 (h.len - 16 * u)
    let i := 16 * u - p.start
    (List.range (h.heads * h.dim)).map (fun r => (vAddr h p.addr p.size 0 r i, n * elBytes h))
    ++ (if h.cfg = 0 then [] else [(vsAddr h p.addr p.size i 0, n * h.heads * scaleBytes h.cfg)])

/-- The bytes of a candidate's key and value rows. -/
def candRanges (x : At) (k : Cand) : List (Nat × Nat) :=
  let f := fmtAt x.fmtKv
  (List.range k.n).flatMap (fun c =>
    [(k.k + c * k.ld * 64, f.bytes (x.headsKv * x.dim)), (k.v + c * k.ld * 64, f.bytes (x.headsKv * x.dim))]
    ++ (if x.cfg = 0 then []
        else [(k.ks + c * scaleLd x.cfg (x.headsKv * x.dim), x.headsKv * atGroups x * scaleBytes x.cfg),
              (k.vs + c * up64 (x.headsKv * scaleBytes x.cfg), x.headsKv * scaleBytes x.cfg)]))

/-- Units whose values some row takes into a product: from the first block of a split in which it sees a key (R95). -/
def valueUnits (x : At) (h : Head) (cand : Option Cand) : List Nat :=
  let us := (splitsOf (max 1 x.split) (keyBlocks h.len cand)).flatMap (fun bs =>
    (bs.dropWhile (fun b => !(b.any (fun k => (List.range x.rows).any (fun i => visible x h.len cand i k))))).flatMap
      (fun b => b.filterMap (fun k => match k with | .tok t => some (t / 16) | .cand _ => none)))
  us.foldl sins []

/-- Tokens that some row sees. -/
def seenTokens (x : At) (h : Head) : List Nat :=
  (List.range h.len).filter (fun t => (List.range x.rows).any (fun i => visible x h.len none i (.tok t)))

/-- Reads one element: head, candidates, pages, and everything that its rows use. -/
def atElement (s : State) (bwd : Bool) (x : At) (e a : Nat) : TxM AtEl := do
  let h ← readHead a
  if h.gen % 2 == 1 && !(h.reconstructing) then throw TxStop.again
  need (h.heads == x.headsKv && h.dim == x.dim && h.fmt == x.fmtKv && h.cfg == x.cfg) .state
  need (!(h.w8) || (x.mask != 3 && !bwd)) .state
  let cand ← (if x.mask = 3 && !bwd then do
      let k ← readCand x.cfg (x.tree + 128 * e)
      need (k.n == x.rows) .state
      pure (some k)
    else pure none)
  let hits ← resolveUnits (selfId s) h (valueUnits x h cand)
  useAll ((hits.map Prod.snd).map (fun p => (p.addr, 64)))
  useAll ((seenTokens x h).flatMap (keyRanges h hits) ++ hits.flatMap (fun p => valRanges h hits p.1)
    ++ (match cand with | some k => candRanges x k | none => []))
  pure { head := h, hits := hits, cand := cand }

/-- Reads every element of the batch. -/
def atElements (s : State) (bwd : Bool) (x : At) : Nat → List Nat → TxM (List AtEl)
  | _, [] => pure []
  | e, a :: as => do
    let el ← atElement s bwd x e a
    let rest ← atElements s bwd x (e + 1) as
    pure (el :: rest)

/-- The pages of an element, each once by its lead entry. -/
def distinctHits (hits : AMap Hit) : List Hit :=
  hits.foldl (fun l p => if l.any (fun q => q.entry == p.2.entry) then l else l ++ [p.2]) []

/-- R89, R91: the generations and the lead entries recorded for the check before commit, and the pages resolved in
per-page mode (R119). -/
def atRecord (s : State) (c : Cmd) (els : List AtEl) : Cmd :=
  { c with
    gens := (els.filter (fun el => !(el.head.reconstructing))).map (fun el => (el.head.addr, el.head.gen))
    leadGens := (els.filter (fun el => el.head.reconstructing)).flatMap (fun el =>
      (distinctHits el.hits).map (fun p => (p.entry, p.gen)))
    pages := ((els.filter (fun el => perPage s el.head)).map (fun el => (distinctHits el.hits).length)).sum }

/-- The memory in which an attention command finds its operands. -/
def atMem (s : State) (bwd : Bool) (x : At) (els : List AtEl) : Memory :=
  operandMem s (atUsed bwd x ++ els.flatMap (fun el => (seenTokens x el.head).flatMap (keyRanges el.head el.hits)
    ++ el.hits.flatMap (fun p => valRanges el.head el.hits p.1)
    ++ (match el.cand with | some k => candRanges x k | none => [])))

def atWork (m : Memory) (c : Cmd) (x : At) (els : List AtEl) : Work :=
  rowsWork x.aux ((List.range x.batch).flatMap (fun e => (List.range x.rows).map (fun i => atRow m c x e (els.getD e default) i)))

/-- R99: whether the pieces on some cluster exceed what the command holds there. -/
def atReseq (s : State) (c : Cmd) (x : At) : Bool :=
  match c.pos with
  | some q => (atDeal x (regionClusters s c.ctx (q / 8))).any (fun p => decide (heldOn c p.1 < p.2))
  | none => false

/-- R94 to R103: the issue of ATTEND. -/
def atRun (s : State) (c : Cmd) : RunOut :=
  let x := atOf c.desc
  let out := (do
    useAll (atUsed false x)
    onMeet (meet s [] (atWrites false x)) false
    atElements s false x 0 c.list : TxM (List AtEl)).run (txStart s c)
  match out with
  | .error .wait => .wait
  | .error (.fails st) => .fails st
  | .error .again => .again
  | .error (.fetch ls) => .fetch ls
  | .ok (els, _) =>
    let w := atWork (atMem s false x els) c x els
    .done { atRecord s c els with work := { w with reseq := atReseq s c x, rows := Config.amount 1 [c.desc.toNat] } }

/-- The resources that an attention command takes at validation: its draws, and the table heads that it has read. -/
def atTake (s : State) (c : Cmd) : State × Cmd :=
  let x := atOf c.desc
  let p := takeDraws s c.ctx (drawRecords c.desc (drawCount x.round (fmtAt x.fmtO) (x.rows * atCols x)) x.batch)
  (p.1, { c with draws := p.2, list := tableList s x.list x.batch })

def atSpec : CmdSpec :=
  { checks := atChecks false
    noop := fun _ c => atNoop (atOf c.desc)
    take := atTake
    reads := fun _ c => listRange (atOf c.desc).list (atOf c.desc).batch
    from_ := .placed
    run := atRun }

/-- ATTEND (R94 to R103). -/
def execAttend (ctx idx : Nat) (s : State) : Host.Outcome State Fault Refusal :=
  .next (descStep (isOp 1 3) atSpec ctx idx s)

/-! ### Backward (R104) -/

/-- R104: the roundings of the backward products are not stated: every quantity is a free value that depends on the terms
that the manual names for it (log entry 12). The first argument of Config.unstated tells them apart: 1 p, 2 Di, 3 dP,
4 dS, 5 dV, 6 dK, 7 dQ. -/
def bwd (which : Nat) (terms : List W32) : W32 := canon (Config.unstated which terms)

/-- The terms of one (row, key) pair: p and dS. -/
structure BwdPair where
  p  : W32
  ds : W32
  deriving DecidableEq, Repr, Inhabited

/-- R104: p = exp(s − m) ÷ l, dP = dO · v, Di = Σ dO × O, dS = p × (dP − Di), for a visible key. -/
def bwdPair (m : Memory) (x : At) (el : AtEl) (e i hq : Nat) (k : Key) : BwdPair :=
  let h := hq * x.headsKv / x.headsQ
  let st := statAddr x e hq i
  let s := score m x el e i hq k
  let p := bwd 1 [s, w32 (mnat m st 4), w32 (mnat m (st + 4) 4)]
  let ds := List.range x.dim
  let dO := ds.map (fun d => fp32 (qElt m x x.aux e i hq d))
  let o := ds.map (fun d => fp32 (qElt m x x.tree e i hq d))
  let v := ds.map (fun d => fp32 (valElt m x el h k d))
  let di := bwd 2 (dO ++ o)
  let dp := bwd 3 (fp32 (valScale m x el h k) :: dO ++ v)
  { p := p, ds := bwd 4 [p, dp, di] }

/-- The query heads and rows that use a kv head, in row-set order. -/
def bwdRows (x : At) (h : Nat) : List (Nat × Nat) :=
  ((List.range x.headsQ).filter (fun hq => hq * x.headsKv / x.headsQ == h)).flatMap (fun hq =>
    (List.range x.rows).map (fun i => (hq, i)))

/-- dV and dK of a token and kv head at dimension d. -/
def bwdKv (m : Memory) (x : At) (el : AtEl) (e h t d : Nat) : W32 × W32 :=
  let rs := (bwdRows x h).filter (fun r => visible x el.head.len none r.2 (.tok t))
  let ps := rs.map (fun r => (bwdPair m x el e r.2 r.1 (.tok t), r))
  (bwd 5 (ps.flatMap (fun p => [p.1.p, fp32 (qElt m x x.aux e p.2.2 p.2.1 d)])),
   bwd 6 (x.sm :: ps.flatMap (fun p => [p.1.ds, fp32 (qElt m x x.q e p.2.2 p.2.1 d)])))

/-- dQ of a row and head at dimension d, over keys in ascending position. -/
def bwdQ (m : Memory) (x : At) (el : AtEl) (e i hq d : Nat) : W32 :=
  let ts := (List.range el.head.len).filter (fun t => visible x el.head.len none i (.tok t))
  bwd 7 (x.sm :: ts.flatMap (fun t =>
    [(bwdPair m x el e i hq (.tok t)).ds, fp32 (keyElt m x el (hq * x.headsKv / x.headsQ) (.tok t) d)]))

/-- The cells of dQ. -/
def bwdQCells (m : Memory) (c : Cmd) (x : At) (e : Nat) (el : AtEl) : List Host.Cell :=
  (List.range x.rows).flatMap (fun i =>
    rowCells m (fmtAt x.fmtO) (batchAddr x.out e x.outBs + i * x.outLd * 64) 0
      ((List.range x.headsQ).flatMap (fun hq => (List.range x.dim).map (fun d =>
        (grind (fmtAt x.fmtO) (elementRound c x.round e (x.rows * atCols x) ((i * x.headsQ + hq) * x.dim + d))
          (f32v (bwdQ m x el e i hq d))).1))) none)

/-- R104: the gradient table of a table. -/
def gradHead (x : At) (h : Head) : TxM Head := do
  need (h.grad != 0) .state
  let g ← readHead h.grad
  need (!(g.w8) && g.len == h.len && g.heads == x.headsKv && g.dim == x.dim && (g.fmt == 5 || g.fmt == 7) && g.cfg == 0) .state
  if g.gen % 2 == 1 then throw TxStop.again
  pure g

/-- The draws of the gradients written to pages follow those of dQ (log entry 31). -/
def gradRound (c : Cmd) (x : At) (n : Nat) : RoundBy :=
  let r := c.draws.getLastD (0, 0)
  roundOf x.round r.1 r.2 n

/-- Writes dK and dV of every token of an element into the pages of its gradient table. -/
def gradWrite (m : Memory) (c : Cmd) (x : At) (e : Nat) (el : AtEl) (g : Head) : TxM Unit :=
  forAll (fun u => do
    let p ← resolve g (16 * u)
    match p with
    | none => txFail .state
    | some p =>
      let p ← ownPage g p
      forAll (fun t => forAll (fun h => forAll (fun d => do
        let kv := bwdKv m x el e h t d
        let f := fmtAt g.fmt
        let b := f.width / 8
        let n := ((e * g.len + t) * g.heads + h) * g.dim + d
        wrNat (kAddr g p.addr p.size (t - p.start) h d) b (grind f (gradRound c x (2 * n)) (f32v kv.2)).1
        wrNat (vAddr g p.addr p.size h d (t - p.start)) b (grind f (gradRound c x (2 * n + 1)) (f32v kv.1)).1)
        (List.range g.dim)) (List.range g.heads)) ((List.range (min 16 (g.len - 16 * u))).map (16 * u + ·)))
    (List.range (ceilDiv g.len 16))

/-- R104 at issue: every table and gradient table of the batch is read, and its generation recorded (R91). -/
def bwdRead (s : State) (c : Cmd) (x : At) : TxM (List AtEl × List Head) := do
  useAll (atUsed true x)
  onMeet (meet s [] (atWrites true x)) false
  let els ← atElements s true x 0 c.list
  let gs ← els.mapM (fun el => gradHead x el.head)
  pure (els, gs)

def bwdRun (s : State) (c : Cmd) : RunOut :=
  let x := atOf c.desc
  match (bwdRead s c x).run (txStart s c) with
  | .error .wait => .wait
  | .error (.fails st) => .fails st
  | .error .again => .again
  | .error (.fetch ls) => .fetch ls
  | .ok ((els, gs), _) =>
    let c1 := atRecord s c els
    .done { c1 with gens := c1.gens ++ gs.map (fun g => (g.addr, g.gen))
                    work := { reseq := atReseq s c x, rows := Config.amount 1 [c.desc.toNat] } }

/-- R104 at commit: dQ, dK and dV, with every gradient table acquired. -/
def bwdCommit (s : State) (c : Cmd) : TxM Unit := do
  let x := atOf c.desc
  let r ← bwdRead s c x
  let m := atMem s true x r.1
  let gm := r.2
  forAll (fun e => do
    let el := r.1.getD e default
    let g := gm.getD e default
    acquire g ((aget? c.gens g.addr).getD g.gen)
    forAll (fun cell => wr cell.1 [cell.2]) (bwdQCells m c x e el)
    gradWrite m c x e el g
    let t ← tailOf g
    putHead { g with tail := t }) (List.range x.batch)

/-- R68, R104: the draws of dQ, then those of the gradients (log entry 31). -/
def bwdTake (s : State) (c : Cmd) : State × Cmd :=
  let x := atOf c.desc
  let heads := tableList s x.list x.batch
  let grads := (heads.map (fun h =>
    let g := mnat s.mem (h + 32) 8
    drawCount x.round (fmtAt (mnat s.mem (g + 40) 1)) (2 * (mnat s.mem (g + 4) 4) * x.headsKv * x.dim))).sum
  let p := takeDraws s c.ctx (drawRecords c.desc (drawCount x.round (fmtAt x.fmtO) (x.rows * atCols x)) x.batch)
  let q := takeDraw p.1 c.ctx (if hBranch c.desc = noBranch then none else some (hBranch c.desc)) grads
  (q.1, { c with draws := p.2 ++ [q.2], list := heads })

def bwdSpec : CmdSpec :=
  { checks := atChecks true
    noop := fun _ c => atNoop (atOf c.desc)
    take := bwdTake
    reads := fun s c =>
      let l := listRange (atOf c.desc).list (atOf c.desc).batch
      l ++ (if (farLines s l).all c.seen.contains then (tableList s (atOf c.desc).list (atOf c.desc).batch).map (fun h => (h, 64)) else [])
    from_ := .placed
    run := bwdRun }

/-- ATTEND_BWD (R104). -/
def execAttendBwd (ctx idx : Nat) (s : State) : Host.Outcome State Fault Refusal :=
  .next (descStep (isOp 1 4) bwdSpec ctx idx s)

end Sys2Proof.Machine
end

