-- ==== Sys2Proof/Machine/SeqCache.lean ====
section
/-! DEFINITION. APPEND, TABLE_UPDATE, PREFIX_MATCH and VERIFY (R110 to R117). At issue each records the generations of its
tables (R91); at commit the whole command runs as one transaction over what it finds (R92). -/

namespace Sys2Proof.Machine

/-! ### Recording generations -/

/-- R91: the generation of a table before its first page access; an odd one fails the attempt. -/
def firstRead (agrees : Head → Bool) (a : Nat) : TxM (Nat × Nat) := do
  let h ← readHead a
  need (agrees h) .state
  if h.gen % 2 == 1 then throw TxStop.again
  pure (a, h.gen)

/-- The issue of a sequence-cache command: its sources are readable, and the generations of its tables recorded. -/
def seqIssue (s : State) (c : Cmd) (used writes : List (Nat × Nat)) (agrees : Head → Bool) (heads : List Nat) : RunOut :=
  let out := (do
    useAll used
    onMeet (meet s [] writes) false
    heads.mapM (firstRead agrees) : TxM (List (Nat × Nat))).run (txStart s c)
  match out with
  | .error .wait => .wait
  | .error (.fails st) => .fails st
  | .error .again => .again
  | .error (.fetch ls) => .fetch ls
  | .ok (gs, _) => .done { c with gens := gs }

/-- The generation that a command recorded for a table. -/
def genOf (c : Cmd) (h : Head) : Nat := (aget? c.gens h.addr).getD h.gen

/-- A table that is read and not written: its generation is still the one recorded (R91). -/
def unchanged (c : Cmd) (h : Head) : TxM Unit := if h.gen != genOf c h then throw TxStop.again else pure ()

/-- Runs an action over list elements with a running sum. -/
def sumOver (f : Nat → Nat → TxM Nat) : Nat → List Nat → TxM Nat
  | _, [] => pure 0
  | e, a :: as => do
    let n ← f e a
    let rest ← sumOver f (e + 1) as
    pure (n + rest)

/-! ### APPEND -/

/-- The body of an APPEND descriptor (R110). -/
structure Ap where
  n     : Nat
  plan  : Nat
  batch : Nat
  heads : Nat
  fmt   : Nat
  dim   : Nat
  cfg   : Nat
  flags : Nat
  list  : Nat
  k     : Nat
  v     : Nat
  tok   : Nat
  ks    : Nat
  vs    : Nat
  kLd   : Nat
  vLd   : Nat
  kBs   : Nat
  vBs   : Nat
  tokBs : Nat
  sBs   : Nat
  deriving Inhabited

def apOf (d : Desc) : Ap :=
  { n := fld d 16 4, plan := fld d 20 4, batch := fld d 24 2, heads := fld d 26 1, fmt := fld d 27 1, dim := fld d 28 2,
    cfg := fld d 30 1, flags := fld d 31 1, list := fld d 32 8, k := fld d 40 8, v := fld d 48 8, tok := fld d 56 8,
    ks := fld d 64 8, vs := fld d 72 8, kLd := fld d 80 4, vLd := fld d 84 4, kBs := fld d 88 4, vBs := fld d 92 4,
    tokBs := fld d 96 4, sBs := fld d 100 4 }

def apNoop (x : Ap) : Bool := x.n == 0 || x.batch == 0

/-- Where the pieces of one token's source lie: identifier, K row, V row, K scales, V scales. -/
structure Src where
  id : Nat
  k  : Nat
  v  : Nat
  ks : Nat
  vs : Nat
  deriving Inhabited

def apSrc (x : Ap) (e i : Nat) : Src :=
  { id := x.tok + e * x.tokBs * 64 + 4 * i, k := batchAddr x.k e x.kBs + i * x.kLd * 64, v := batchAddr x.v e x.vBs + i * x.vLd * 64,
    ks := batchAddr x.ks e x.sBs + i * scaleLd x.cfg (x.heads * x.dim),
    vs := batchAddr x.vs e x.sBs + i * up64 (x.heads * scaleBytes x.cfg) }

/-- Bytes of a row of keys or values, of its K scales and of its V scales. -/
def kvBytes (fmt heads dim : Nat) : Nat := (fmtAt fmt).bytes (heads * dim)
def ksBytes (cfg heads dim : Nat) : Nat := if groupSize cfg = 0 then 0 else heads * (dim / groupSize cfg) * scaleBytes cfg
def vsBytes (cfg heads : Nat) : Nat := if groupSize cfg = 0 then 0 else heads * scaleBytes cfg

def apUsed (x : Ap) : List (Nat × Nat) :=
  skipIf (apNoop x) ((x.list, 8 * x.batch) :: overBatch x.batch (fun e => (List.range x.n).flatMap (fun i =>
    let p := apSrc x e i
    [(p.id, 4), (p.k, kvBytes x.fmt x.heads x.dim), (p.v, kvBytes x.fmt x.heads x.dim)]
    ++ (if x.cfg = 0 then [] else [(p.ks, ksBytes x.cfg x.heads x.dim), (p.vs, vsBytes x.cfg x.heads)]))))

/-- R80, R116: the listed element formats of a table. -/
def kvListed (fmt cfg : Nat) : Bool := decide (2 ≤ fmt ∧ fmt ≤ 7) && scaleCfgListed cfg

/-- R116, order 2: heads_kv, head_dim and kv_scale_cfg. -/
def kvRanges (fmt heads dim cfg : Nat) : Bool :=
  decide (1 ≤ heads ∧ heads ≤ 128 ∧ 16 ≤ dim ∧ dim ≤ 256) && dim % 16 == 0 && (groupSize cfg == 0 || dim % groupSize cfg == 0)
    && scaleFits cfg (fmtAt fmt)

/-- The heads of a list, as ranges. -/
def headRanges (s : State) (list batch : Nat) : List (Nat × Nat) := (tableList s list batch).map (fun h => (h, 64))

/-- R116. -/
def apChecks (s : State) (c : Cmd) : List Check :=
  let d := c.desc
  let x := apOf d
  let hs := skipIf (apNoop x) (headRanges s x.list x.batch)
  [headerCheck d,
   ⟨1, .format, decide (x.flags < 2) && kvListed x.fmt x.cfg && resZero d [(104, 24)]⟩,
   ⟨2, .format, decide (x.n ≤ maxLen ∧ x.plan ≤ maxLen) && kvRanges x.fmt x.heads x.dim x.cfg && zeroIff x.ks (x.cfg == 0)
     && zeroIff x.vs (x.cfg == 0)⟩,
   ⟨3, .format, aligned 64 [x.list, x.k, x.v, x.tok, x.ks, x.vs]⟩,
   ⟨4, .format, decide (up64 (kvBytes x.fmt x.heads x.dim) ≤ x.kLd * 64 ∧ up64 (kvBytes x.fmt x.heads x.dim) ≤ x.vLd * 64)⟩,
   svcCheck s c 5] ++ branchChecks s c 5 ++
  [⟨5, .permission, readable s c.ctx (apUsed x ++ hs) && writable s c.ctx hs⟩,
   ⟨6, .shapeExceedsPlan, decide (x.n ≤ x.plan)⟩]

/-- Step 3 of R110: a token is written at an in-page index. -/
def writeToken (h : Head) (p : Hit) (i : Nat) (src : Src) : TxM Unit := do
  let id ← rd src.id 4
  wr (p.addr + 4 * i) id
  let k ← rd src.k (kvBytes h.fmt h.heads h.dim)
  wr (kAddr h p.addr p.size i 0 0) k
  let v ← rd src.v (kvBytes h.fmt h.heads h.dim)
  let b := elBytes h
  forAll (fun r => wr (vAddr h p.addr p.size 0 r i) ((v.drop (r * b)).take b)) (List.range (h.heads * h.dim))
  if h.cfg ≠ 0 then
    let ks ← rd src.ks (ksBytes h.cfg h.heads h.dim)
    wr (ksAddr h p.addr p.size i 0 0) ks
    let vs ← rd src.vs (vsBytes h.cfg h.heads)
    wr (vsAddr h p.addr p.size i 0) vs

/-- R110, steps 1 to 3, R107: one token is appended. -/
def appendToken (publish : Bool) (h : Head) (src : Src) : TxM Head := do
  need (decide (h.len < maxLen)) .state
  let found ← resolve h h.len
  let p ← (match found with
    | some p => ownPage h p
    | none => do
      let (a, size) ← popPage h.supply
      let k ← allocNode h.tree { hash := 0, page := a, supply := h.supply, parent := h.tail, refs := 1, first := h.len, valid := 0,
                                 size := size, flags := 0 }
      mapPage h true h.len size a k false)
  let i := h.len - p.start
  writeToken h p i src
  let t ← readTree h.tree
  let x ← readNode t p.node
  writeNode t p.node { x with valid := max x.valid (i + 1) }
  let h' := { h with len := h.len + 1, tail := p.node }
  if i + 1 = tokensOf p.size then fillPage h' publish p else pure h'

/-- Appends tokens in order. -/
def appendAll (publish : Bool) : Head → List Src → TxM Head
  | h, [] => pure h
  | h, src :: rest => do
    let h' ← appendToken publish h src
    appendAll publish h' rest

/-- R110: one table grows. -/
def apElement (c : Cmd) (x : Ap) (e a : Nat) : TxM Nat := do
  let h ← readHead a
  need (headAgrees h x.heads x.fmt x.dim x.cfg) .state
  acquire h (genOf c h)
  let h' ← appendAll (bit x.flags 0) h ((List.range x.n).map (apSrc x e))
  putHead { h' with gen := h.gen }
  pure 0

/-- The commit of APPEND. -/
def apCommit (c : Cmd) : TxM Nat := let x := apOf c.desc; sumOver (apElement c x) 0 c.list

def apSpec : CmdSpec :=
  { checks := apChecks
    noop := fun _ c => apNoop (apOf c.desc)
    take := fun s c => let x := apOf c.desc; (s, { c with list := tableList s x.list x.batch })
    reads := fun _ c => let x := apOf c.desc; listRange x.list x.batch
    from_ := .placed
    run := fun s c => let x := apOf c.desc
      seqIssue s c (apUsed x) (c.list.map (fun h => (h, 64))) (fun h => headAgrees h x.heads x.fmt x.dim x.cfg) c.list }

/-- APPEND (R110). -/
def execAppend (ctx idx : Nat) (s : State) : Host.Outcome State Fault Refusal :=
  .next (descStep (isOp 3 1) apSpec ctx idx s)

/-! ### TABLE_UPDATE -/

/-- The body of a TABLE_UPDATE descriptor (R111). -/
structure Tu where
  n     : Nat
  table : Nat
  ops   : Nat
  deriving Inhabited

def tuOf (d : Desc) : Tu := { n := fld d 16 4, table := fld d 24 8, ops := fld d 32 8 }

def tuUsed (x : Tu) : List (Nat × Nat) := if x.n = 0 then [] else [(x.ops, 32 * x.n)]

/-- R116. -/
def tuChecks (s : State) (c : Cmd) : List Check :=
  let d := c.desc
  let x := tuOf d
  [headerCheck d,
   ⟨1, .format, resZero d [(20, 4), (40, 88)]⟩,
   ⟨2, .format, decide (x.n ≤ 65536)⟩,
   ⟨3, .format, aligned 64 [x.table] && aligned 32 [x.ops]⟩,
   svcCheck s c 5] ++ branchChecks s c 5 ++
  [⟨5, .permission, x.n == 0 || (readable s c.ctx ((x.table, 64) :: tuUsed x) && writable s c.ctx [(x.table, 64)])⟩]

/-- An operation record (R111). -/
structure Op where
  op     : Nat
  size   : Nat
  flags  : Nat
  expect : Nat
  pos    : Nat
  node   : Nat
  addr   : Nat
  deriving Inhabited

/-- R111: reads a record; a malformed one is E_FORMAT. -/
def readOp (a : Nat) : TxM Op := do
  let bs ← rd a 32
  let n := fun o k => leNat ((bs.drop o).take k)
  let x : Op := { op := n 0 1, size := n 1 1, flags := n 2 1, expect := n 4 2, pos := n 8 4, node := n 12 4, addr := n 16 8 }
  need (n 3 1 == 0 && n 6 2 == 0 && n 24 8 == 0 && decide (x.flags < 4) && decide (x.size ≤ 7) && decide (1 ≤ x.op ∧ x.op ≤ 6)
    && (match x.op with
        | 1 | 4 => x.addr % 64 == 0
        | 5 | 6 => x.addr % 2048 == 0
        | _ => true)
    && (match x.op with
        | 3 => decide (x.pos ≤ maxLen)
        | 1 | 2 | 6 => decide (x.pos < maxLen)
        | _ => true)) .format
  pure x

/-- The generation field of the lead entry at a position (R111, check_gen). -/
def leadGen (h : Head) (op : Op) : TxM Nat := do
  let e ← readL1 h (op.pos / 2048)
  if e.valid && e.table && op.op != 6 then
    let j := op.pos % 2048 / 16
    let x ← readL2 e.addr j
    if x.valid then
      let l ← readL2 e.addr (j - j % 2 ^ x.size)
      pure l.gen
    else pure x.gen
  else pure e.gen

/-- R83: an address that an operation names lies in the space the context may access. -/
def mayName (w : Bool) (a n : Nat) : TxM Unit := do
  let t ← get
  need (accessible t.base t.ctx w (a, n)) .permission

/-- MAP: the node of the page. -/
def mapNode (h : Head) (op : Op) : TxM (Nat × Bool) := do
  if op.node = noNode then
    let prev ← (if op.pos = 0 then pure none else resolve h (op.pos - 1))
    let k ← allocNode h.tree { hash := 0, page := op.addr, supply := h.supply, parent := (prev.map Hit.node).getD noNode, refs := 1,
                               first := op.pos, valid := tokensOf op.size, size := op.size, flags := 0 }
    pure (k, false)
  else
    let x ← retainNode h.tree op.node 1
    need (x.page == op.addr && x.size == op.size) .state
    pure (op.node, decide (1 < x.refs))

/-- R111: one operation. -/
def applyOp (h : Head) (op : Op) : TxM Head := do
  if bit op.flags 1 && decide (op.pos < maxLen) then
    let g ← leadGen h op
    need (g == op.expect) .generation
  match op.op with
  | 1 =>
    mayName false op.addr 64
    need (op.pos % tokensOf op.size == 0) .state
    let (k, multi) ← mapNode h op
    let _ ← mapPage h false op.pos op.size op.addr k (bit op.flags 0 || multi)
    pure h
  | 2 =>
    let p ← resolve h op.pos
    match p with
    | some p =>
      need (p.start == op.pos && p.size == op.size) .state
      unmapPage h false p
      pure h
    | none => txFail .state
  | 3 =>
    forAll (fun u => do
      let p ← resolve h (16 * u)
      need p.isSome .state) (List.range (ceilDiv op.pos 16))
    pure { h with len := op.pos }
  | 4 =>
    mayName false op.addr 64
    pushPage true h.supply op.addr
    pure h
  | 5 =>
    mayName true op.addr 2048
    pushBlock true h.supply op.addr
    pure h
  | _ =>
    need (op.pos % 2048 == 0) .state
    let e ← readL1 h (op.pos / 2048)
    need (!(e.valid)) .state
    let b ← (if op.addr = 0 then popBlock h.supply else do
      mayName true op.addr 2048
      pure op.addr)
    writeEntries h (h.l1 + 16 * (op.pos / 2048)) 7
      { valid := true, shared := false, table := true, size := 0, gen := 0, node := noNode, addr := b }
    pure h

def applyOps : Head → List Op → TxM Head
  | h, [] => pure h
  | h, op :: rest => do
    let h' ← applyOp h op
    applyOps h' rest

/-- The commit of TABLE_UPDATE: all operations or none. -/
def tuCommit (c : Cmd) : TxM Nat := do
  let x := tuOf c.desc
  let h ← readHead x.table
  need (!(h.w8)) .state
  acquire h (genOf c h)
  let ops ← (List.range x.n).mapM (fun i => readOp (x.ops + 32 * i))
  let h1 ← applyOps h ops
  let t ← tailOf h1
  let h2 := { h1 with tail := t }
  let h3 := if ops.any (fun op => decide (op.op ≤ 3)) then h2.chain false else h2
  let h4 ← chainAtZero h3
  putHead { h4 with gen := h.gen }
  pure 0

def tuSpec : CmdSpec :=
  { checks := tuChecks
    noop := fun _ c => (tuOf c.desc).n == 0
    take := fun s c => (s, { c with list := [(tuOf c.desc).table] })
    from_ := .placed
    run := fun s c => let x := tuOf c.desc
      seqIssue s c (tuUsed x) [(x.table, 64)] (fun h => !(h.w8)) [x.table] }

/-- TABLE_UPDATE (R111). -/
def execTableUpdate (ctx idx : Nat) (s : State) : Host.Outcome State Fault Refusal :=
  .next (descStep (isOp 3 2) tuSpec ctx idx s)

/-! ### VERIFY -/

/-- The body of a VERIFY descriptor (R115). -/
structure Vf where
  batch : Nat
  heads : Nat
  fmt   : Nat
  dim   : Nat
  cfg   : Nat
  flags : Nat
  list  : Nat
  tree  : Nat
  tgt   : Nat
  res   : Nat
  tgtBs : Nat
  deriving Inhabited

def vfOf (d : Desc) : Vf :=
  { batch := fld d 16 2, heads := fld d 18 1, fmt := fld d 19 1, dim := fld d 20 2, cfg := fld d 22 1, flags := fld d 23 1,
    list := fld d 24 8, tree := fld d 32 8, tgt := fld d 40 8, res := fld d 48 8, tgtBs := fld d 56 4 }

def vfUsed (x : Vf) : List (Nat × Nat) :=
  if x.batch = 0 then []
  else [(x.list, 8 * x.batch), (x.tree, 128 * x.batch)] ++ (List.range x.batch).map (fun e => (x.tgt + e * x.tgtBs * 64, 260))

def vfWrites (x : Vf) : List (Nat × Nat) := if x.batch = 0 then [] else [(x.res, 8 * x.batch)]

/-- R116. -/
def vfChecks (s : State) (c : Cmd) : List Check :=
  let d := c.desc
  let x := vfOf d
  let hs := skipIf (x.batch == 0) (headRanges s x.list x.batch)
  [headerCheck d,
   ⟨1, .format, decide (x.flags < 2) && kvListed x.fmt x.cfg && resZero d [(60, 68)]⟩,
   ⟨2, .format, kvRanges x.fmt x.heads x.dim x.cfg⟩,
   ⟨3, .format, aligned 64 [x.list, x.tree, x.tgt, x.res]⟩,
   svcCheck s c 5] ++ branchChecks s c 5 ++
  [⟨5, .permission, readable s c.ctx (vfUsed x ++ hs) && writable s c.ctx (vfWrites x ++ hs)⟩]

/-- R114: the accepted candidates in path order, and expect at the stop. -/
def acceptPath (k : Cand) (toks tgt : List Nat) : Nat → Nat → Nat → List Nat × Nat
  | 0, _, expect => ([], expect)
  | f + 1, node, expect =>
    match (List.range k.n).find? (fun c => k.parent.getD c 0xFF == node && toks.getD c 0 == expect) with
    | none => ([], expect)
    | some c => let r := acceptPath k toks tgt f c (tgt.getD c 0); (c :: r.1, r.2)

/-- Where a candidate's source lies (R113). -/
def candSrc (x : Vf) (k : Cand) (c : Nat) : Src :=
  { id := k.tok + 4 * c, k := k.k + c * k.ld * 64, v := k.v + c * k.ld * 64, ks := k.ks + c * scaleLd x.cfg (x.heads * x.dim),
    vs := k.vs + c * up64 (x.heads * scaleBytes x.cfg) }

/-- R114: one element is verified; with a = 0 its table is not written. -/
def vfElement (c : Cmd) (x : Vf) (e a : Nat) : TxM Nat := do
  let h ← readHead a
  need (headAgrees h x.heads x.fmt x.dim x.cfg) .state
  unchanged c h
  let k ← readCand x.cfg (x.tree + 128 * e)
  let toks ← rd k.tok (4 * k.n)
  let tgt ← rd (x.tgt + e * x.tgtBs * 64) 260
  let ts := idsOf tgt
  let r := acceptPath k (idsOf toks) (ts.drop 1) (k.n + 1) 0xFF (ts.getD 0 0)
  if !(r.1.isEmpty) then
    acquire h (genOf c h)
    let h' ← appendAll (bit x.flags 0) h (r.1.map (candSrc x k))
    putHead { h' with gen := h.gen }
  wrNat (x.res + 8 * e) 4 r.1.length
  wrNat (x.res + 8 * e + 4) 4 r.2
  pure r.1.length

def vfCommit (c : Cmd) : TxM Nat := let x := vfOf c.desc; sumOver (vfElement c x) 0 c.list

def vfSpec : CmdSpec :=
  { checks := vfChecks
    noop := fun _ c => (vfOf c.desc).batch == 0
    take := fun s c => let x := vfOf c.desc; (s, { c with list := tableList s x.list x.batch })
    reads := fun _ c => let x := vfOf c.desc; listRange x.list x.batch
    from_ := .placed
    run := fun s c => let x := vfOf c.desc
      seqIssue s c (vfUsed x) (vfWrites x) (fun h => headAgrees h x.heads x.fmt x.dim x.cfg) c.list }

/-- VERIFY (R113 to R115). -/
def execVerify (ctx idx : Nat) (s : State) : Host.Outcome State Fault Refusal :=
  .next (descStep (isOp 3 3) vfSpec ctx idx s)

/-! ### PREFIX_MATCH -/

/-- The body of a PREFIX_MATCH descriptor (R112). -/
structure Pm where
  n     : Nat
  plan  : Nat
  batch : Nat
  size  : Nat
  list  : Nat
  tok   : Nat
  tokBs : Nat
  res   : Nat
  deriving Inhabited

def pmOf (d : Desc) : Pm :=
  { n := fld d 16 4, plan := fld d 20 4, batch := fld d 24 2, size := fld d 26 1, list := fld d 32 8, tok := fld d 40 8,
    tokBs := fld d 48 4, res := fld d 56 8 }

def pmNoop (x : Pm) : Bool := x.n == 0 || x.batch == 0

def pmUsed (x : Pm) : List (Nat × Nat) :=
  skipIf (pmNoop x) ((x.list, 8 * x.batch) :: (List.range x.batch).map (fun e => (x.tok + e * x.tokBs * 64, 4 * x.n)))

def pmWrites (x : Pm) : List (Nat × Nat) := skipIf (pmNoop x) [(x.res, 4 * x.batch)]

/-- R116. -/
def pmChecks (s : State) (c : Cmd) : List Check :=
  let d := c.desc
  let x := pmOf d
  let hs := skipIf (pmNoop x) (headRanges s x.list x.batch)
  [headerCheck d,
   ⟨1, .format, resZero d [(27, 5), (52, 4), (64, 64)]⟩,
   ⟨2, .format, decide (x.n ≤ maxLen ∧ x.plan ≤ maxLen ∧ x.size ≤ 7)⟩,
   ⟨3, .format, aligned 64 [x.list, x.tok, x.res]⟩,
   svcCheck s c 5] ++ branchChecks s c 5 ++
  [⟨5, .permission, readable s c.ctx (pmUsed x ++ hs) && writable s c.ctx (pmWrites x ++ hs)⟩,
   ⟨6, .shapeExceedsPlan, decide (x.n ≤ x.plan)⟩]

/-- R112: extends a table while full blocks of tokens remain and confirm. -/
def matchPages (x : Pm) : Nat → Head → List Nat → TxM Head
  | 0, h, _ => pure h
  | f + 1, h, ids => do
    let t := tokensOf x.size
    if ids.length < t then pure h
    else
      let blk := ids.take t
      let hash := (blockHash (w64 h.hash) blk).toNat
      let tr ← readTree h.tree
      let slots ← readBucket tr hash
      let found ← confirm tr hash h.tail x.size blk slots
      match found with
      | none => pure h
      | some k =>
        let n ← retainNode h.tree k 1
        let _ ← mapPage h true h.len x.size n.page k true
        matchPages x f { h with len := h.len + t, hash := hash, tail := k } (ids.drop t)

def pmElement (c : Cmd) (x : Pm) (e a : Nat) : TxM Nat := do
  let h ← readHead a
  need (!(h.w8) && h.chainValid && h.len % tokensOf x.size == 0) .state
  unchanged c h
  let bs ← rd (x.tok + e * x.tokBs * 64) (4 * x.n)
  let h' ← matchPages x (x.n / tokensOf x.size + 1) h (idsOf bs)
  if h'.len ≠ h.len then
    acquire h (genOf c h)
    putHead { h' with gen := h.gen }
  wrNat (x.res + 4 * e) 4 (h'.len - h.len)
  pure (h'.len - h.len)

def pmCommit (c : Cmd) : TxM Nat := let x := pmOf c.desc; sumOver (pmElement c x) 0 c.list

def pmSpec : CmdSpec :=
  { checks := pmChecks
    noop := fun _ c => pmNoop (pmOf c.desc)
    take := fun s c => let x := pmOf c.desc; (s, { c with list := tableList s x.list x.batch })
    reads := fun _ c => let x := pmOf c.desc; listRange x.list x.batch
    from_ := .placed
    run := fun s c => let x := pmOf c.desc
      seqIssue s c (pmUsed x) (pmWrites x)
        (fun h => !(h.w8) && h.chainValid && h.len % tokensOf x.size == 0) c.list }

/-- PREFIX_MATCH (R112). -/
def execPrefixMatch (ctx idx : Nat) (s : State) : Host.Outcome State Fault Refusal :=
  .next (descStep (isOp 3 4) pmSpec ctx idx s)

end Sys2Proof.Machine
end

