-- ==== Sys2Proof/Machine/Rollout.lean ====
section
/-! DEFINITION. Branches: FORK, PRUNE, PROMOTE, PARK and UNPARK (R120 to R139), and the branch directory (R122, R147). -/

namespace Sys2Proof.Machine

/-! ### What a commit does to branch records -/

/-- A change that a commit makes to the branch records and their recurrent state. -/
inductive BrOp where
  /-- the record of a branch is written -/
  | put (b : Nat) (r : Branch)
  /-- the branch becomes FREE and its state is gone -/
  | free (b : Nat)
  /-- the state of a branch is a copy of another's -/
  | copy (src dst : Nat)
  /-- the state of a branch is these bytes -/
  | fill (b : Nat) (bytes : List Byte)
  /-- the state of a branch leaves its granules -/
  | clear (b : Nat)
  deriving DecidableEq, Repr

/-- The recurrent state of a branch, as cells from offset 0. -/
def brState (m : Memory) (b : Nat) : List Host.Cell :=
  (m.filter (fun c => c.1 / 2 ^ 21 == b)).map (fun c => (c.1 % 2 ^ 21, c.2))

/-- Recurrent state without a branch. -/
def brClear (m : Memory) (b : Nat) : Memory := m.filter (fun c => c.1 / 2 ^ 21 != b)

def applyBr (s : State) : BrOp → State
  | .put b r => { s with branches := aput s.branches b r }
  | .free b => { s with branches := adel s.branches b, brMem := brClear s.brMem b, brPoison := srem s.brPoison b }
  | .copy src dst =>
    { s with brMem := mapply (brClear s.brMem dst) ((brState s.brMem src).map (fun c => (brAddr dst c.1, c.2)))
             brPoison := srem s.brPoison dst }
  | .fill b bytes => { s with brMem := mapply (brClear s.brMem b) (cellsAt (brAddr b 0) bytes), brPoison := srem s.brPoison b }
  | .clear b => { s with brMem := brClear s.brMem b, brPoison := srem s.brPoison b }

/-- R121: a record as 64 bytes; a FREE record is zeros (log entry 32). -/
def recordBytes (r : Option Branch) : List Byte :=
  match r with
  | none => List.replicate 64 0
  | some r =>
    leBytes 1 (if r.parked then 2 else 1) ++ leBytes 1 (if r.trunk then 1 else 0) ++ leBytes 1 r.ctx ++ leBytes 1 r.tableCount
    ++ leBytes 4 r.parent.toNat ++ leBytes 4 r.rollout.toNat ++ leBytes 4 r.forkPos.toNat ++ leBytes 8 r.tableList.toNat
    ++ leBytes 8 r.rngKey.toNat ++ leBytes 8 r.rngCounter.toNat ++ leBytes 2 r.granules ++ leBytes 2 r.statePos
    ++ leBytes 4 0 ++ leBytes 8 r.saveAddr.toNat ++ leBytes 8 0

/-- R122: mirrors records to the directory while it is enabled. -/
def mirror (s : State) (bs : List Nat) : State :=
  if s.regs.branchDirOn then
    storeCells s (bs.flatMap (fun b => cellsAt (s.regs.branchDir.toNat + 64 * b) (recordBytes (branchOf s b))))
  else s

/-- The branch that an operation changes, when it changes a record. -/
def brOpNumber : BrOp → Option Nat
  | .put b _ => some b
  | .free b => some b
  | _ => none

/-- Applies the branch operations of a commit, then mirrors the records they change. -/
def applyBrs (s : State) (ops : List BrOp) : State := mirror (ops.foldl applyBr s) (ops.filterMap brOpNumber)

/-! ### Placement of branch state (R130) -/

/-- R130: whether a cluster can ever take g more granules of branch state beside `extra` already promised on it. -/
def stateFits (s : State) (ctx q g extra : Nat) : Bool :=
  inService s ctx q && decide (branchGranules s q + extra + g ≤ s.regs.stateCeil)
    && decide (extra + g ≤ stateRoom s q)

/-- The promises on a cluster in a placement under way. -/
def promised (ps : List Nat) (q g : Nat) : Nat := (ps.filter (· == q)).length * g

/-- R130: the first cluster of a die at or after the cursor that takes g granules. -/
def findCluster (s : State) (ctx die cursor g : Nat) (ps : List Nat) : Option Nat :=
  ((List.range 32).map (fun i => 32 * die + (cursor + i) % 32)).find? (fun q => stateFits s ctx q g (promised ps q g))

/-- R130: the clusters of n children in order, with one cursor per die. -/
def placeChildren (s : State) (ctx q0 spread g : Nat) : Nat → Nat → AMap Nat → List Nat → Option (List Nat)
  | 0, _, _, ps => some ps
  | n + 1, i, cursors, ps =>
    let die := (q0 / 32 + i % spread) % 16
    match findCluster s ctx die (aget cursors die (q0 % 32)) g ps with
    | none => none
    | some q => placeChildren s ctx q0 spread g n (i + 1) (aput cursors die ((q % 32 + 1) % 32)) (ps ++ [q])

/-- R130: the commit waits while granules that meet the conditions are held by commands in flight. -/
def granulesFree (s : State) (ps : List Nat) (g : Nat) : Bool :=
  ps.all (fun q => decide (promised ps q g ≤ freeStateRoom s q))

/-! ### FORK -/

/-- The body of a FORK descriptor (R133). -/
structure Fk where
  parent   : Nat
  first    : Nat
  n        : Nat
  flags    : Nat
  spread   : Nat
  pos      : Nat
  list     : Nat
  tables   : Nat
  granules : Nat
  target   : Nat
  key      : Nat
  deriving Inhabited

def fkOf (d : Desc) : Fk :=
  { parent := fld d 16 4, first := fld d 20 4, n := fld d 24 2, flags := fld d 26 1, spread := fld d 27 1, pos := fld d 28 4,
    list := fld d 32 8, tables := fld d 40 1, granules := fld d 42 2, target := fld d 44 2, key := fld d 48 8 }

def fkRoot (x : Fk) : Bool := x.parent == noBranch

/-- Tables of each child. -/
def fkTables (s : State) (x : Fk) : Nat := if fkRoot x then x.tables else ((branchOf s x.parent).map Branch.tableCount).getD 0

def fkUsed (s : State) (x : Fk) : List (Nat × Nat) := if x.n = 0 then [] else [(x.list, 8 * (x.n * fkTables s x))]

/-- R134. -/
def fkChecks (s : State) (c : Cmd) : List Check :=
  let d := c.desc
  let x := fkOf d
  let heads := if x.n = 0 then [] else headRanges s x.list (x.n * fkTables s x)
  [headerCheck d,
   ⟨1, .format, decide (x.flags < 2) && decide (1 ≤ x.spread ∧ x.spread ≤ 16) && resZero d [(41, 1), (46, 2), (56, 72)]
     && (if fkRoot x then decide (1 ≤ x.tables ∧ x.tables ≤ 64 ∧ x.granules ≤ 512 ∧ x.target < 512 ∧ x.n ≤ 1) && x.spread == 1
         else x.tables == 0 && x.granules == 0 && x.target == 0 && x.key == 0)⟩,
   ⟨2, .format, decide (x.n ≤ 4096 ∧ x.first ≤ 65535 ∧ x.first + x.n ≤ 65536) && (fkRoot x || decide (x.parent ≤ 65535))⟩,
   ⟨3, .format, aligned 64 [x.list]⟩,
   svcCheck s c 4] ++ branchChecks s c 4 ++
  [⟨4, .permission, (fkRoot x || (match branchOf s x.parent with | some r => r.ctx == c.ctx | none => true))
     && readable s c.ctx (fkUsed s x ++ heads) && writable s c.ctx heads⟩,
   ⟨5, .state, ((List.range x.n).map (x.first + ·)).all (fun b =>
     (branchOf s b).isNone && s.reserved.all (fun r => r.1 != b))⟩]

/-- R126, R131: reserves the child numbers and takes the key counters. -/
def fkTake (s : State) (c : Cmd) : State × Cmd :=
  let x := fkOf c.desc
  let c1 := { c with list := tableList s x.list (x.n * fkTables s x) }
  let s1 := { s with reserved := s.reserved ++ (List.range x.n).map (fun i => (x.first + i, c.ctx, c.idx)) }
  match fkRoot x, branchOf s x.parent with
  | false, some r =>
    ({ s1 with branches := aput s1.branches x.parent { r with rngCounter := r.rngCounter + w64 x.n } },
     { c1 with forkKey := r.rngKey, forkCtr := r.rngCounter })
  | _, _ => (s1, c1)

/-- R131. -/
def childKey (kp x : W64) : W64 :=
  let h := kp ^^^ ((x + 1) * 0x94D049BB133111EB#64)
  let h := (h ^^^ (h >>> 30)) * 0xBF58476D1CE4E5B9#64
  let h := (h ^^^ (h >>> 27)) * 0x94D049BB133111EB#64
  h ^^^ (h >>> 31)

/-- The tables of a branch (R121). -/
def branchTables (r : Branch) : TxM (List Nat) := do
  let bs ← rd r.tableList.toNat (8 * r.tableCount)
  pure ((List.range r.tableCount).map (fun j => leNat ((bs.drop (8 * j)).take 8)))

/-- R128: what FORK reads of a child head: generation, length and level-1 array. -/
structure Child where
  addr : Nat
  gen  : Nat
  l1   : Nat
  deriving Inhabited

def readChild (a : Nat) : TxM Child := do
  need (a % 64 == 0) .format
  let bs ← rd a 64
  let n := fun o k => leNat ((bs.drop o).take k)
  need (n 8 8 % 64 == 0) .format
  need (n 0 4 % 2 == 0 && n 4 4 == 0) .state
  pure { addr := a, gen := n 0 4, l1 := n 8 8 }

/-- The pages of a level-2 block that hold a token below an in-block bound, lead by lead; a valid entry that is no lead of
its page where a lead is due is E_FORMAT (R83). -/
def blockPages (block bound : Nat) : Nat → Nat → TxM (List (Nat × Entry))
  | 0, _ => pure []
  | f + 1, j => do
    if 128 ≤ j || bound ≤ 16 * j then pure []
    else
      let e ← readL2 block j
      if e.valid then
        need (j % 2 ^ e.size == 0) .format
        let rest ← blockPages block bound f (j + 2 ^ e.size)
        pure ((j, e) :: rest)
      else blockPages block bound f (j + 1)

/-- R127: one child table is a copy of the parent's below p. `gain` is added to the reference counts: n_children with the
first child, 0 with the others. -/
def copyTable (p gain : Nat) (h : Head) (g0 a : Nat) : TxM Unit := do
  let k ← readChild a
  let child : Head := { h with addr := a, gen := k.gen, l1 := k.l1, len := p, grad := 0, flags := h.flags / 2 % 2 * 2 }
  acquire child g0
  forAll (fun i => do
    let e ← readL1 h i
    if !(e.valid) then writeEntries child (k.l1 + 16 * i) 7 emptyEntry
    else if !(e.table) then
      if gain ≠ 0 then let _ ← retainNode h.tree e.node gain
      writeEntries child (k.l1 + 16 * i) 7 { e with shared := true }
    else
      let b ← popBlock h.supply
      let ps ← blockPages e.addr (p - 2048 * i) 129 0
      forAll (fun q => do
        if gain ≠ 0 then let _ ← retainNode h.tree q.2.node gain
        writeEntries child (b + 16 * q.1) q.2.size { q.2 with shared := true }) ps
      writeEntries child (k.l1 + 16 * i) 7 { e with addr := b, node := noNode })
    (List.range (ceilDiv p 2048))
  wrNat (a + 16) 8 h.supply
  wrNat (a + 24) 8 h.tree
  wrNat (a + 32) 8 0
  wrNat (a + 40) 1 h.fmt
  wrNat (a + 41) 1 h.cfg
  wrNat (a + 42) 1 h.heads
  wrNat (a + 44) 2 h.dim
  let t ← (if p = 0 then pure noNode else do
    let q ← resolve h (p - 1)
    pure ((q.map Hit.node).getD noNode))
  if p = 0 then
    let c ← chainAtZero child
    putHead c
  else if p = h.len then putHead { child with tail := t }
  else
    let old ← rdNat (a + 48) 8
    putHead { child.chain false with tail := t, hash := old }

/-- The tables of a FORK's parent as read under R91: addresses and heads. -/
def parentHeads (r : Branch) : TxM (List Head) := do
  let ts ← branchTables r
  let hs ← ts.mapM readHead
  need (hs.all (fun h => !(h.w8) && !(h.reconstructing))) .state
  pure hs

/-- R127: p. -/
def forkPoint (x : Fk) (hs : List Head) : Nat :=
  if x.pos = 0xFFFFFFFF then ((hs.map Head.len).min?).getD 0 else x.pos

/-- The issue of a FORK: the parent's tables are read and every generation recorded. -/
def fkRun (s : State) (c : Cmd) : RunOut :=
  let x := fkOf c.desc
  let out := (if fkRoot x then pure [] else do
    match branchOf s x.parent with
    | none => txFail .state
    | some r =>
      need (!(r.parked)) .state
      useAll (fkUsed s x)
      let hs ← parentHeads r
      need (hs.all (fun h => decide (forkPoint x hs ≤ h.len))) .state
      if hs.any (fun h => h.gen % 2 == 1) then throw TxStop.again
      let ks ← c.list.mapM readChild
      pure (hs.map (fun h => (h.addr, h.gen)) ++ ks.map (fun k => (k.addr, k.gen))) : TxM (List (Nat × Nat))).run (txStart s c)
  match out with
  | .error .wait => .wait
  | .error (.fails st) => .fails st
  | .error .again => .again
  | .error (.fetch ls) => .fetch ls
  | .ok (gs, _) => .done { c with gens := gs }

/-- The clusters of the children, or of a root: E_STATE where the conditions of R130 fail, waiting where granules are held. -/
def fkClusters (s : State) (c : Cmd) (x : Fk) (r : Option Branch) : TxM (List Nat) :=
  match r with
  | none =>
    if x.granules = 0 then pure []
    else do
      need (stateFits s c.ctx (posToQ x.target) x.granules 0) .state
      if granulesFree s [posToQ x.target] x.granules then pure [posToQ x.target] else throw TxStop.wait
  | some r =>
    if r.granules = 0 then pure []
    else
      match placeChildren s c.ctx (posToQ r.statePos) x.spread r.granules x.n 0 [] [] with
      | none => txFail .state
      | some ps => if granulesFree s ps r.granules then pure ps else throw TxStop.wait

/-- The commit of a FORK (R126, R132). -/
def fkCommit (s : State) (c : Cmd) : TxM (Nat × List BrOp) := do
  let x := fkOf c.desc
  if fkRoot x then
    let qs ← fkClusters s c x none
    let r : Branch :=
      { trunk := true, ctx := c.ctx, tableCount := x.tables, rollout := w32 x.first,
        forkPos := w32 (Config.amount 2 [c.desc.toNat]), tableList := w64 x.list, rngKey := w64 x.key,
        granules := x.granules, statePos := (qs.head?.map qToPos).getD 0xFFFF }
    pure (x.n, [.clear x.first, .put x.first r])
  else
    match branchOf s x.parent with
    | none => txFail .state
    | some r =>
      need (!(r.parked)) .state
      let hs ← parentHeads r
      let p := forkPoint x hs
      need (hs.all (fun h => decide (p ≤ h.len))) .state
      forAll (unchanged c) hs
      forAll (fun i => forAll (fun j => do
        let h := hs.getD j default
        let a := c.list.getD (i * r.tableCount + j) 0
        copyTable p (if i = 0 then x.n else 0) h ((aget? c.gens a).getD 1) a) (List.range r.tableCount)) (List.range x.n)
      need (bit x.flags 0 || r.granules == 0 || !(s.brPoison.contains x.parent)) .poison
      let qs ← fkClusters s c x (some r)
      pure (x.n, (List.range x.n).flatMap (fun i =>
        let b := x.first + i
        [(if bit x.flags 0 || r.granules == 0 then BrOp.clear b else BrOp.copy x.parent b),
         BrOp.put b { ctx := r.ctx, tableCount := r.tableCount, parent := w32 x.parent, rollout := r.rollout, forkPos := w32 p,
                      tableList := w64 (x.list + 8 * i * r.tableCount), rngKey := childKey c.forkKey (c.forkCtr + w64 i),
                      granules := r.granules, statePos := (qs[i]?.map qToPos).getD 0xFFFF }]))

def fkSpec : CmdSpec :=
  { checks := fkChecks
    noop := fun _ c => (fkOf c.desc).n == 0
    take := fkTake
    reads := fun s c => fkUsed s (fkOf c.desc)
    from_ := .placed
    run := fkRun }

/-- FORK (R126 to R135). -/
def execFork (ctx idx : Nat) (s : State) : Host.Outcome State Fault Refusal :=
  .next (descStep (isOp 3 5) fkSpec ctx idx s)

/-! ### PRUNE -/

/-- The body of a PRUNE descriptor (R137). -/
structure Pn where
  count : Nat
  first : Nat
  list  : Nat
  deriving Inhabited

def pnOf (d : Desc) : Pn := { count := fld d 16 4, first := fld d 20 4, list := fld d 24 8 }

/-- R139. -/
def pnChecks (s : State) (c : Cmd) : List Check :=
  let d := c.desc
  let x := pnOf d
  let bs := if x.count ≤ 4096 then pruneList s d else []
  [headerCheck d,
   ⟨1, .format, resZero d [(32, 96)]⟩,
   ⟨2, .format, decide (x.count ≤ 4096) && (x.list != 0 || decide (x.first + x.count ≤ 65536)) && bs.all (fun b => decide (b ≤ 65535))⟩,
   ⟨3, .format, aligned 4 [x.list]⟩,
   svcCheck s c 4] ++ branchChecks s c 4 ++
  [⟨4, .permission, bs.all (fun b => match branchOf s b with | some r => r.ctx == c.ctx | none => true)
     && (x.list == 0 || readable s c.ctx [(x.list, 4 * x.count)])⟩]

/-- R137, steps 1 to 3: one table is emptied. -/
def pruneTable (c : Cmd) (a : Nat) : TxM Unit := do
  let h ← readHead a
  need (!(h.w8)) .state
  acquire h (genOf c h)
  let bs ← rd h.l1 32768
  let raw := fun i => leNat ((bs.drop (16 * i)).take 16)
  let nonzero := (List.range 2048).filter (fun i => raw i != 0)
  forAll (fun i => do
    let e ← readL1 h i
    if e.valid && e.table then
      let ps ← blockPages e.addr 2048 129 0
      forAll (fun q => do
        writeEntries h (e.addr + 16 * q.1) q.2.size emptyEntry
        releaseNode h.tree q.2.node) ps
      pushBlock true h.supply e.addr
    else if e.valid then releaseNode h.tree e.node) (nonzero.filter (fun i => bit (raw i) 0))
  forAll (fun i => wrNat (h.l1 + 16 * i) 16 0) nonzero
  let h' ← chainAtZero { h with len := 0 }
  putHead h'

/-- R137: the branches of a list are pruned, all or none. -/
def pruneAll (s : State) (c : Cmd) (bs : List Nat) : TxM (List BrOp) := do
  forAll (fun b => match branchOf s b with
    | none => txFail .state
    | some r => do
      let ts ← branchTables r
      forAll (pruneTable c) ts) bs
  pure (bs.map BrOp.free)

/-- The tables of branches with their generations, for the record of R91. -/
def branchGens (s : State) (bs : List Nat) : TxM (List (Nat × Nat)) := do
  let ls ← bs.mapM (fun b => match branchOf s b with
    | none => txFail .state
    | some r => do
      let ts ← branchTables r
      ts.mapM (firstRead (fun h => !(h.w8))))
  pure ls.flatten

def pnRun (s : State) (c : Cmd) : RunOut :=
  let out := (do
    need (c.list.all (fun b => (branchOf s b).isSome) && c.list.dedup.length == c.list.length) .state
    branchGens s c.list : TxM (List (Nat × Nat))).run (txStart s c)
  match out with
  | .error .wait => .wait
  | .error (.fails st) => .fails st
  | .error .again => .again
  | .error (.fetch ls) => .fetch ls
  | .ok (gs, _) => .done { c with gens := gs }

/-- The commit of a PRUNE. -/
def pnCommit (s : State) (c : Cmd) : TxM (Nat × List BrOp) := do
  let ops ← pruneAll s c c.list
  pure (c.list.length, ops)

def pnSpec : CmdSpec :=
  { checks := pnChecks
    noop := fun _ c => (pnOf c.desc).count == 0
    take := fun s c => (s, { c with list := pruneList s c.desc })
    reads := fun _ c => if fld c.desc 24 8 = 0 then [] else [(fld c.desc 24 8, 4 * fld c.desc 16 4)]
    from_ := .placed
    run := pnRun }

/-- PRUNE (R137). -/
def execPrune (ctx idx : Nat) (s : State) : Host.Outcome State Fault Refusal :=
  .next (descStep (isOp 3 6) pnSpec ctx idx s)

/-! ### PROMOTE -/

def prBranch (d : Desc) : Nat := fld d 16 4
def prFlags (d : Desc) : Nat := fld d 20 1

/-- R120, R139: a branch that is not FREE is owned by the context. -/
def ownedOrFree (s : State) (ctx b : Nat) : Bool :=
  match branchOf s b with
  | some r => r.ctx == ctx
  | none => true

/-- R139. -/
def prChecks (s : State) (c : Cmd) : List Check :=
  let d := c.desc
  [headerCheck d,
   ⟨1, .format, decide (prFlags d < 4) && prFlags d != 2 && resZero d [(21, 107)]⟩,
   ⟨2, .format, decide (prBranch d ≤ 65535)⟩,
   svcCheck s c 4] ++ branchChecks s c 4 ++
  [⟨4, .permission, ownedOrFree s c.ctx (prBranch d)⟩]

/-- R138: the other branches of the context in the rollout of b. -/
def prOthers (s : State) (ctx b : Nat) (r : Branch) : List Nat :=
  (s.branches.filter (fun e => e.2.ctx == ctx && e.2.rollout == r.rollout && e.1 != b)).map Prod.fst

/-- R138: the old trunk of the rollout of b. -/
def prTrunk (s : State) (ctx : Nat) (r : Branch) : Option (Nat × Branch) :=
  s.branches.find? (fun e => e.2.ctx == ctx && e.2.rollout == r.rollout && e.2.trunk)

def prRun (s : State) (c : Cmd) : RunOut :=
  let b := prBranch c.desc
  let out := (do
    match branchOf s b with
    | none => txFail .state
    | some r =>
      need (!(r.parked)) .state
      let others := if bit (prFlags c.desc) 0 then prOthers s c.ctx b r else []
      let gs ← branchGens s others
      pure (gs, others) : TxM (List (Nat × Nat) × List Nat)).run (txStart s c)
  match out with
  | .error .wait => .wait
  | .error (.fails st) => .fails st
  | .error .again => .again
  | .error (.fetch ls) => .fetch ls
  | .ok ((gs, others), _) => .done { c with gens := gs, list := others }

/-- The commit of a PROMOTE. -/
def prCommit (s : State) (c : Cmd) : TxM (Nat × List BrOp) := do
  let b := prBranch c.desc
  match branchOf s b with
  | none => txFail .state
  | some r =>
    let prunes ← pruneAll s c c.list
    let old := prTrunk s c.ctx r
    let r' := if r.trunk then r else { r with trunk := true, parent := 0xFFFFFFFF#32 }
    let demote := match old with
      | some (t, q) => if t = b then [] else [BrOp.put t { q with trunk := false }]
      | none => []
    let moves := match old with
      | some (t, _) => if t ≠ b && bit (prFlags c.desc) 1 then [BrOp.copy b t, BrOp.put t r', BrOp.free b] else [BrOp.put b r']
      | none => [BrOp.put b r']
    pure (c.list.length, demote ++ prunes ++ moves)

def prSpec : CmdSpec :=
  { checks := prChecks
    noop := fun _ _ => false
    take := takeNone
    from_ := .placed
    run := prRun }

/-- PROMOTE (R138). -/
def execPromote (ctx idx : Nat) (s : State) : Host.Outcome State Fault Refusal :=
  .next (descStep (isOp 3 7) prSpec ctx idx s)

/-! ### PARK and UNPARK -/

def pkBranch (d : Desc) : Nat := fld d 16 4
def pkFlags (d : Desc) : Nat := fld d 20 1
def pkSave (d : Desc) : Nat := fld d 24 8
def pkUnpark (d : Desc) : Bool := bit (pkFlags d) 0

/-- The range of a save. -/
def saveRange (s : State) (d : Desc) : List (Nat × Nat) :=
  match branchOf s (pkBranch d) with
  | some r => if r.granules = 0 then [] else [(pkSave d, r.granules * 4096)]
  | none => []

/-- R139. -/
def pkChecks (s : State) (c : Cmd) : List Check :=
  let d := c.desc
  [headerCheck d,
   ⟨1, .format, decide (pkFlags d < 2) && resZero d [(21, 3), (32, 96)]⟩,
   ⟨2, .format, decide (pkBranch d ≤ 65535)⟩,
   ⟨3, .format, if pkUnpark d then pkSave d == 0 else aligned 64 [pkSave d]⟩,
   svcCheck s c 4] ++ branchChecks s c 4 ++
  [⟨4, .permission, ownedOrFree s c.ctx (pkBranch d)
     && (pkUnpark d || ((saveRange s d).all (fun r => isCarafe r.1) && writable s c.ctx (saveRange s d)))⟩]

/-- The issue of a PARK or UNPARK: the branch is in the state that R136 requires. -/
def pkRun (unpark : Bool) (s : State) (c : Cmd) : RunOut :=
  match branchOf s (pkBranch c.desc) with
  | none => .fails .state
  | some r =>
    if r.parked != unpark then .fails .state
    else
      match meet s (if unpark && r.granules != 0 then [(r.saveAddr.toNat, r.granules * 4096)] else [])
          (if unpark then [] else saveRange s c.desc) with
      | .wait => .wait
      | .fails st => .fails st
      | .fine => .done c

/-- The commit of a PARK (R136). -/
def parkCommit (s : State) (c : Cmd) : TxM (Nat × List BrOp) := do
  let b := pkBranch c.desc
  match branchOf s b with
  | none => txFail .state
  | some r =>
    if r.granules = 0 then pure (0, [.put b { r with parked := true }])
    else
      need (!(s.brPoison.contains b)) .poison
      wr (pkSave c.desc) (mread s.brMem (brAddr b 0) (r.granules * 4096))
      pure (0, [.clear b, .put b { r with parked := true, saveAddr := w64 (pkSave c.desc) }])

/-- The commit of an UNPARK (R136, R130 with D = 1). -/
def unparkCommit (s : State) (c : Cmd) : TxM (Nat × List BrOp) := do
  let b := pkBranch c.desc
  match branchOf s b with
  | none => txFail .state
  | some r =>
    if r.granules = 0 then pure (0, [.put b { r with parked := false }])
    else
      match placeChildren s c.ctx (posToQ r.statePos) 1 r.granules 1 0 [] [] with
      | none => txFail .state
      | some ps =>
        if granulesFree s ps r.granules then
          let bytes ← rd r.saveAddr.toNat (r.granules * 4096)
          pure (0, [.fill b bytes,
            .put b { r with parked := false, saveAddr := 0, statePos := (ps.head?.map qToPos).getD r.statePos }])
        else throw TxStop.wait

def pkSpec (unpark : Bool) : CmdSpec :=
  { checks := pkChecks
    noop := fun _ _ => false
    take := takeNone
    from_ := .placed
    run := pkRun unpark }

/-- The descriptors of opcode 0x08 that a row owns: its direction, or an unlisted park_flags byte. -/
def isPark (unpark : Bool) (d : Desc) : Bool :=
  isOp 3 8 d && (!(opListed (hClass d) (hOp d)) || decide (2 ≤ pkFlags d) || pkUnpark d == unpark)

/-- PARK (R136). -/
def execPark (ctx idx : Nat) (s : State) : Host.Outcome State Fault Refusal :=
  .next (descStep (isPark false) (pkSpec false) ctx idx s)

/-- UNPARK (R136). -/
def execUnpark (ctx idx : Nat) (s : State) : Host.Outcome State Fault Refusal :=
  .next (descStep (isPark true) (pkSpec true) ctx idx s)

end Sys2Proof.Machine
end

