-- ==== Sys2Proof/Machine/Window.lean ====
section
/-! DEFINITION. WINDOW: the direct fold, the Winograd transforms, stripes and halos (R167 to R180). -/

namespace Sys2Proof.Machine

/-- The body of a WINDOW descriptor (R179). -/
structure Wn where
  outW     : Nat
  outH     : Nat
  outHPlan : Nat
  outT     : Nat
  outY0    : Nat
  frameH   : Nat
  sigValue : Nat
  inW      : Nat
  inH      : Nat
  inT      : Nat
  batch    : Nat
  cin      : Nat
  cinPlan  : Nat
  cout     : Nat
  coutPlan : Nat
  kh       : Nat
  kw       : Nat
  kt       : Nat
  sy       : Nat
  sx       : Nat
  st       : Nat
  dy       : Nat
  dx       : Nat
  dt       : Nat
  py       : Nat
  px       : Nat
  pt       : Nat
  fmtI     : Nat
  fmtW     : Nat
  fmtO     : Nat
  cfg      : Nat
  round    : Nat
  epi      : Nat
  acc      : Nat
  wino     : Nat
  shape    : Nat
  top      : Nat
  bot      : Nat
  inp      : Nat
  w        : Nat
  out      : Nat
  sIn      : Nat
  sW       : Nat
  aux      : Nat
  sig      : Nat
  deriving Inhabited

def wnOf (d : Desc) : Wn :=
  { outW := fld d 16 2, outH := fld d 18 2, outHPlan := fld d 20 2, outT := fld d 22 2, outY0 := fld d 24 2,
    frameH := fld d 26 2, sigValue := fld d 28 4, inW := fld d 32 2, inH := fld d 34 2, inT := fld d 36 2,
    batch := fld d 38 2, cin := fld d 40 2, cinPlan := fld d 42 2, cout := fld d 44 2, coutPlan := fld d 46 2,
    kh := fld d 48 1, kw := fld d 49 1, kt := fld d 50 1, sy := fld d 51 1, sx := fld d 52 1, st := fld d 53 1,
    dy := fld d 54 1, dx := fld d 55 1, dt := fld d 56 1, py := fld d 57 1, px := fld d 58 1, pt := fld d 59 1,
    fmtI := fld d 60 1, fmtW := fld d 61 1, fmtO := fld d 62 1, cfg := fld d 63 1, round := fld d 64 1, epi := fld d 65 1,
    acc := fld d 66 1, wino := fld d 67 1, shape := fld d 68 1, top := fld d 69 1, bot := fld d 70 1, inp := fld d 72 8,
    w := fld d 80 8, out := fld d 88 8, sIn := fld d 96 8, sW := fld d 104 8, aux := fld d 112 8, sig := fld d 120 8 }

def wnNoop (x : Wn) : Bool := x.outW == 0 || x.outH == 0 || x.outT == 0 || x.cout == 0 || x.batch == 0

/-! ### Layouts (R168) -/

def wnDepth (x : Wn) : Nat := (fmtAt x.fmtI).depth
def wnTaps (x : Wn) : Nat := x.kt * x.kh * x.kw
def wnKp (x : Wn) : Nat := wnTaps x * x.cinPlan
def wnRin (x : Wn) : Nat := up64 ((fmtAt x.fmtI).bytes (x.inW * x.cinPlan))
def wnRout (x : Wn) : Nat := up64 ((fmtAt x.fmtO).bytes (x.outW * x.coutPlan))
def wnRw (x : Wn) : Nat := up64 ((fmtAt x.fmtW).bytes (wnKp x))

/-- Base of an input row, of an output row (absolute oy), and the scales of an input pixel. -/
def wnInRow (x : Wn) (e t y : Nat) : Nat := x.inp + ((e * x.inT + t) * x.inH + y) * wnRin x
def wnOutRow (x : Wn) (e t y : Nat) : Nat := x.out + ((e * x.outT + t) * x.frameH + y) * wnRout x
def wnRs (x : Wn) : Nat := scaleLd x.cfg x.cinPlan
def wnInScale (x : Wn) (e t y xx : Nat) : Nat := x.sIn + (((e * x.inT + t) * x.inH + y) * x.inW + xx) * wnRs x

/-- R168: the weight element of channel c and tap. -/
def wnK (x : Wn) (c tap : Nat) : Nat := (c / wnDepth x * wnTaps x + tap) * wnDepth x + c % wnDepth x

/-- The bytes of n elements from element k0 of a row. -/
def eltRange (f : Fmt) (row k0 n : Nat) : Nat × Nat :=
  (row + k0 * f.width / 8, if n = 0 then 0 else ((k0 + n) * f.width + 7) / 8 - k0 * f.width / 8)

/-! ### Transforms (R171) -/

/-- R171: kh = kw = 3 with unit strides and dilations. -/
def wnEligible (x : Wn) : Bool :=
  x.kh == 3 && x.kw == 3 && x.sy == 1 && x.sx == 1 && x.dy == 1 && x.dx == 1

/-- R171: no scales and the Square shape. -/
def wnPlain (x : Wn) : Bool := x.cfg == 0 && x.shape == 0

def wide16 (f : Fmt) : Bool := f.width == 16

/-- The outputs of one side of a tile under the transform in force; none under the direct fold (log entry 33 for AUTO). -/
def wnTile (x : Wn) : Option Nat :=
  match x.wino with
  | 1 => if wnEligible x && wnPlain x && wide16 (fmtAt x.fmtI) && wide16 (fmtAt x.fmtW) then some 4 else none
  | 2 => some 4
  | 3 => some 2
  | _ => none

/-- Tiles of one frame of h output rows. -/
def wnTiles (x : Wn) (t h : Nat) : Nat := ceilDiv h t * ceilDiv x.outW t

/-! ### The band (R176) -/

/-- The clipped band for h output rows: first row and number of rows. -/
def wnBand (x : Wn) (h : Nat) : Nat × Nat :=
  let lo : Int := (x.outY0 * x.sy : Nat) - (x.py : Int)
  let hi : Int := ((x.outY0 + h - 1) * x.sy : Nat) - (x.py : Int) + ((x.kh - 1) * x.dy : Nat)
  let lo' := max lo 0
  let hi' := min hi ((x.inH : Int) - 1)
  if hi' < lo' then (0, 0) else (lo'.toNat, (hi' - lo' + 1).toNat)

/-- R176: both footprints at cc = d. -/
def wnFoot (x : Wn) (h : Nat) : Bool :=
  let rows := (wnBand x h).2
  let own := rows - (x.top + x.bot)
  let unit := x.kt * x.inW * (fmtAt x.fmtI).bytes (wnDepth x)
  decide (own * unit ≤ 524288 ∧ (x.top + x.bot) * unit ≤ 131072)

/-! ### What the command reads and writes -/

/-- An input coordinate inside 0 to n − 1. -/
def inside (v : Int) (n : Nat) : Option Nat := if 0 ≤ v ∧ v < n then some v.toNat else none

/-- The coordinates that the windows of `outs` outputs from `o0` reach along one dimension, each once. -/
def reach (o0 outs stride k dil pad n : Nat) : List Nat :=
  ((List.range outs).flatMap (fun o => (List.range k).filterMap (fun i =>
    inside ((((o0 + o) * stride + i * dil : Nat) : Int) - pad) n))).foldl sins []

/-- Input rows and columns that the command reads: under a transform, those of the patches, rows inside the band (R174). -/
def wnRows (x : Wn) : List Nat :=
  match wnTile x with
  | none => reach x.outY0 x.outH x.sy x.kh x.dy x.py x.inH
  | some t =>
    let b := wnBand x x.outH
    (reach x.outY0 (ceilDiv x.outH t * t) 1 3 1 x.py x.inH).filter (fun y => decide (b.1 ≤ y ∧ y < b.1 + b.2))

def wnCols (x : Wn) : List Nat :=
  match wnTile x with
  | none => reach 0 x.outW x.sx x.kw x.dx x.px x.inW
  | some t => reach 0 (ceilDiv x.outW t * t) 1 3 1 x.px x.inW

def wnFrames (x : Wn) : List Nat := reach 0 x.outT x.st x.kt x.dt x.pt x.inT

/-- Slices of d channels below cin: first channel and count. -/
def wnSlices (d cin : Nat) : List (Nat × Nat) := (List.range (ceilDiv cin d)).map (fun s => (s * d, min d (cin - s * d)))

def wnUsed (x : Wn) : List (Nat × Nat) :=
  let fi := fmtAt x.fmtI
  let fw := fmtAt x.fmtW
  let g := groupSize x.cfg
  let pixels := overBatch x.batch (fun e => (wnFrames x).flatMap (fun t => (wnRows x).flatMap (fun y => (wnCols x).flatMap (fun xx =>
    [eltRange fi (wnInRow x e t y) (xx * x.cinPlan) x.cin]
    ++ (if g = 0 then [] else [(wnInScale x e t y xx, ceilDiv x.cin g * scaleBytes x.cfg)])))))
  let weights := (List.range x.cout).flatMap (fun co => (wnSlices (wnDepth x) x.cin).flatMap (fun sl =>
    (List.range (wnTaps x)).flatMap (fun tap =>
      [eltRange fw (x.w + co * wnRw x) (wnK x sl.1 tap) sl.2]
      ++ (if g = 0 then []
          else [(x.sW + co * scaleLd x.cfg (wnKp x) + wnK x sl.1 tap / g * scaleBytes x.cfg, ceilDiv sl.2 g * scaleBytes x.cfg)]))))
  let outs := if x.acc = 1 then overBatch x.batch (fun e => (List.range x.outT).flatMap (fun t => (List.range x.outH).flatMap (fun y =>
    (List.range x.outW).map (fun xx => eltRange (fmtAt x.fmtO) (wnOutRow x e t (x.outY0 + y)) (xx * x.coutPlan) x.cout)))) else []
  skipIf (wnNoop x) (pixels ++ weights ++ outs ++ auxUsed x.aux)

def wnWrites (x : Wn) : List (Nat × Nat) :=
  skipIf (wnNoop x) (overBatch x.batch (fun e => (List.range x.outT).flatMap (fun t => (List.range x.outH).flatMap (fun y =>
    (List.range x.outW).map (fun xx => eltRange (fmtAt x.fmtO) (wnOutRow x e t (x.outY0 + y)) (xx * x.coutPlan) x.cout))))
    ++ auxWhole x.aux)

/-- R180. -/
def wnChecks (s : State) (c : Cmd) : List Check :=
  let d := c.desc
  let x := wnOf d
  let fi := fmtAt x.fmtI
  let fw := fmtAt x.fmtW
  let g := groupSize x.cfg
  let taps := [x.kh, x.kw, x.kt, x.sy, x.sx, x.st, x.dy, x.dx, x.dt]
  [headerCheck d,
   ⟨1, .format, (fmtOf x.fmtI).isSome && (fmtOf x.fmtW).isSome && (fmtOf x.fmtO).isSome && scaleCfgListed x.cfg
     && decide (x.round ≤ 1 ∧ x.epi ≤ 9 ∧ x.acc ≤ 1 ∧ x.wino ≤ 3 ∧ x.shape ≤ 3) && taps.all (· != 0) && resZero d [(71, 1)]⟩,
   ⟨2, .filterSize, decide (x.kh ≤ 7 ∧ x.kw ≤ 7 ∧ x.kt ≤ 5) && (taps.drop 3).all (fun v => decide (v ≤ 4))⟩,
   ⟨3, .format, fi.width == fw.width && scaleFits x.cfg fi && decide (g ≤ wnDepth x) && x.cinPlan % wnDepth x == 0
     && (g == 0 || x.cinPlan % g == 0)
     && (match x.wino with
         | 2 => wnEligible x && wnPlain x && wide16 fi && wide16 fw
         | 3 => wnEligible x && wnPlain x && decide (fi.width ≤ 8 ∧ fw.width ≤ 8)
         | _ => true)
     && zeroIff x.sIn (x.cfg == 0) && zeroIff x.sW (x.cfg == 0) && x.inp != 0 && x.w != 0 && x.out != 0⟩,
   ⟨4, .format, decide (x.py ≤ (x.kh - 1) * x.dy ∧ x.px ≤ (x.kw - 1) * x.dx ∧ x.pt ≤ (x.kt - 1) * x.dt
       ∧ x.outY0 + x.outHPlan ≤ x.frameH ∧ x.top + x.bot ≤ (wnBand x x.outHPlan).2)
     && (match wnTile x with
         | none => decide (x.outT * x.outHPlan * x.outW ≤ 16384)
         | some t => decide (x.outT * wnTiles x t x.outHPlan ≤ 16384))
     && wnFoot x x.outHPlan⟩,
   ⟨5, .format, aligned 64 [x.inp, x.w, x.out, x.sIn, x.sW, x.aux] && aligned 8 [x.sig]⟩,
   svcCheck s c 6] ++ branchChecks s c 6 ++
  [⟨6, .permission, readable s c.ctx (wnUsed x ++ skipIf (wnNoop x) (auxWhole x.aux ++ (if x.sig = 0 then [] else [(x.sig, 8)])))
     && writable s c.ctx (wnWrites x)⟩,
   ⟨7, .shapeExceedsPlan, decide (x.outH ≤ x.outHPlan ∧ x.cin ≤ x.cinPlan ∧ x.cout ≤ x.coutPlan)⟩]

/-! ### The direct fold (R170) -/

/-- An input element. -/
def wnIn (m : Memory) (x : Wn) (e t y xx c : Nat) : FV :=
  decodeElt (fmtAt x.fmtI) (eltCode m (fmtAt x.fmtI) (wnInRow x e t y) (xx * x.cinPlan + c))

/-- A weight element. -/
def wnWt (m : Memory) (x : Wn) (co tap c : Nat) : FV :=
  decodeElt (fmtAt x.fmtW) (eltCode m (fmtAt x.fmtW) (x.w + co * wnRw x) (wnK x c tap))

/-- R170: one pass (slice, tap) of one output added to its accumulator, group by group. -/
def wnPass (m : Memory) (x : Wn) (e co t y xx tap : Nat) (sl : Nat × Nat) (acc : W32) : W32 :=
  let g := groupSize x.cfg
  let gs := if g = 0 then wnDepth x else g
  (List.range (ceilDiv sl.2 gs)).foldl (fun acc q =>
    let cs := (List.range (min gs (sl.2 - q * gs))).map (fun i => sl.1 + q * gs + i)
    let ps := cs.map (fun c => (wnIn m x e t y xx c, wnWt m x co tap c))
    let one : FV := .fin false 1 1 0
    let sa := if g = 0 then one
              else scaleVal x.cfg (mnat m (wnInScale x e t y xx + (sl.1 / gs + q) * scaleBytes x.cfg) (scaleBytes x.cfg))
    let sb := if g = 0 then one else scaleAt m x.cfg x.sW (wnKp x) co (wnK x (sl.1 + q * gs) tap / gs)
    fadd acc (contribution ps sa sb)) acc

/-- Taps in order: (it, iy, ix). -/
def wnTapList (x : Wn) : List (Nat × Nat × Nat) :=
  (List.range x.kt).flatMap (fun it => (List.range x.kh).flatMap (fun iy => (List.range x.kw).map (fun ix => (it, iy, ix))))

/-- R45, R63: the value that an output starts from. -/
def wnStart (m : Memory) (x : Wn) (e ot oy ox co : Nat) : W32 :=
  if x.acc = 0 then fpZero
  else fp32 (decodeElt (fmtAt x.fmtO) (eltCode m (fmtAt x.fmtO) (wnOutRow x e ot oy) (ox * x.coutPlan + co)))

/-- R167, R170: an output of the direct fold before the epilogue. A window position outside the frame contributes +0. -/
def wnDirect (m : Memory) (x : Wn) (e ot oy ox co : Nat) : W32 :=
  (wnSlices (wnDepth x) x.cin).foldl (fun acc sl =>
    (wnTapList x).foldl (fun acc tp =>
      let tap := (tp.1 * x.kh + tp.2.1) * x.kw + tp.2.2
      match inside (((ot * x.st + tp.1 * x.dt : Nat) : Int) - x.pt) x.inT, inside (((oy * x.sy + tp.2.1 * x.dy : Nat) : Int) - x.py) x.inH,
          inside (((ox * x.sx + tp.2.2 * x.dx : Nat) : Int) - x.px) x.inW with
      | some t, some y, some xx => wnPass m x e co t y xx tap sl acc
      | _, _, _ => fadd acc fpZero) acc) (wnStart m x e ot oy ox co)

/-! ### Winograd (R172, R173) -/

/-- A coefficient of a transform: numerator and denominator. -/
abbrev Coef := Int × Nat

/-- An exact linear combination; terms of coefficient 0 take no part. -/
def combine (cs : List Coef) (vs : List FV) : FV :=
  ((cs.zip vs).filter (fun p => p.1.1 != 0)).foldl (fun a p =>
    fvAdd a (fvMul (.fin (decide (p.1.1 < 0)) p.1.1.natAbs p.1.2 0) p.2)) (fvZero false)

/-- T v Tᵀ for a square block v of rows. -/
def sandwich (t : List (List Coef)) (v : List (List FV)) : List (List FV) :=
  let tv := t.map (fun row => (List.range ((v.head?.map List.length).getD 0)).map (fun j => combine row (v.map (fun r => r.getD j .nan))))
  tv.map (fun r => t.map (fun row => combine row r))

def ints (l : List Int) : List Coef := l.map (fun i => (i, 1))

def f4B : List (List Coef) :=
  [ints [4, 0, -5, 0, 1, 0], ints [0, -4, -4, 1, 1, 0], ints [0, 4, -4, -1, 1, 0], ints [0, -2, -1, 2, 1, 0],
   ints [0, 2, -1, -2, 1, 0], ints [0, 4, 0, -5, 0, 1]]

def f4G : List (List Coef) :=
  [[(1, 4), (0, 1), (0, 1)], [(-1, 6), (-1, 6), (-1, 6)], [(-1, 6), (1, 6), (-1, 6)], [(1, 24), (1, 12), (1, 6)],
   [(1, 24), (-1, 12), (1, 6)], [(0, 1), (0, 1), (1, 1)]]

def f4A : List (List Coef) :=
  [ints [1, 1, 1, 1, 1, 0], ints [0, 1, -1, 2, -2, 0], ints [0, 1, 1, 4, 4, 0], ints [0, 1, -1, 8, -8, 1]]

def f2B : List (List Coef) := [ints [1, 0, -1, 0], ints [0, 1, 1, 0], ints [0, -1, 1, 0], ints [0, 1, 0, -1]]
def f2G : List (List Coef) := [[(1, 1), (0, 1), (0, 1)], [(1, 2), (1, 2), (1, 2)], [(1, 2), (-1, 2), (1, 2)], [(0, 1), (0, 1), (1, 1)]]
def f2A : List (List Coef) := [ints [1, 1, 1, 0], ints [0, 1, -1, -1]]

/-- R172, R173: the rounding of a transformed operand: to its 16-bit format, to FP16 from a narrow float, and none for
integers. -/
def wnNarrow (f : Fmt) (v : FV) : FV :=
  match f with
  | .bf16 => decodeFlt fltBf16 (roundTo fltBf16 v)
  | .fp16 | .fp4 | .e4m3 | .e5m2 => decodeFlt fltFp16 (roundTo fltFp16 v)
  | _ => v

/-- The transformed weights of (co, it, c), by position. -/
def wnG (m : Memory) (x : Wn) (t co it c : Nat) : List (List FV) :=
  (sandwich (if t = 4 then f4G else f2G)
    ((List.range 3).map (fun iy => (List.range 3).map (fun ix => wnWt m x co ((it * 3 + iy) * 3 + ix) c)))).map
    (·.map (wnNarrow (fmtAt x.fmtW)))

/-- The transformed patch of tile (ty, tx) of input frame coordinate `ti`, channel c; rows outside the band and positions
outside the frame read +0 (R167, R174). -/
def wnD (m : Memory) (x : Wn) (t e : Nat) (ti : Option Nat) (ty tx c : Nat) : List (List FV) :=
  let b := wnBand x x.outH
  let at' := fun (i j : Nat) =>
    match ti, inside (((x.outY0 + t * ty + i : Nat) : Int) - x.py) x.inH, inside (((t * tx + j : Nat) : Int) - x.px) x.inW with
    | some ti, some y, some xx => if b.1 ≤ y ∧ y < b.1 + b.2 then wnIn m x e ti y xx c else fvZero false
    | _, _, _ => fvZero false
  (sandwich (if t = 4 then f4B else f2B)
    ((List.range (t + 2)).map (fun i => (List.range (t + 2)).map (fun j => at' i j)))).map (·.map (wnNarrow (fmtAt x.fmtI)))

/-- R172: the accumulator of position (ξ, ν) of a tile. -/
def wnM (m : Memory) (x : Wn) (t e ot ty tx co xi nu : Nat) : FV :=
  f32v ((wnSlices 16 x.cin).foldl (fun acc sl => (List.range x.kt).foldl (fun acc it =>
    let ti := inside (((ot * x.st + it * x.dt : Nat) : Int) - x.pt) x.inT
    let ps := (List.range sl.2).map (fun i =>
      (((wnD m x t e ti ty tx (sl.1 + i)).getD xi []).getD nu .nan, ((wnG m x t co it (sl.1 + i)).getD xi []).getD nu .nan))
    fadd acc (contribution ps (.fin false 1 1 0) (.fin false 1 1 0))) acc) fpZero)

/-- R172 to R174: an output under a transform. Where the sum starts from the output as it stood, the manual does not say
how the start enters the transformed sum: a free value (log entry 12). -/
def wnWino (m : Memory) (x : Wn) (t e ot oy ox co : Nat) : W32 :=
  let r := oy - x.outY0
  let pos := (List.range (t + 2)).map (fun xi => (List.range (t + 2)).map (fun nu => wnM m x t e ot (r / t) (ox / t) co xi nu))
  let y := fp32 (((sandwich (if t = 4 then f4A else f2A) pos).getD (r % t) []).getD (ox % t) .nan)
  if x.acc = 0 then y else canon (Config.unstated 8 [wnStart m x e ot oy ox co, y])

/-! ### The command -/

/-- Cells of element codes at rising indices of a row; neighbouring 4-bit elements of one byte are joined. -/
def scatterCells (m : Memory) (f : Fmt) (row : Nat) : List (Nat × Nat) → Option Host.Cell → List Host.Cell
  | [], _ => []
  | (k, code) :: rest, prev =>
    let prevByte := match prev with
      | some p => if f.width = 4 && p.1 == row + k / 2 then some p.2 else none
      | none => none
    let out := eltCells m f row k code prevByte
    out ++ scatterCells m f row rest out.head?

/-- R40, R163, R69: one output row of one frame: its cells and statistics. -/
def wnRowWork (m : Memory) (c : Cmd) (x : Wn) (e ot y : Nat) : List Host.Cell × Stats :=
  let oy := x.outY0 + y
  let outs := (List.range x.outW).flatMap (fun ox => (List.range x.cout).map (fun co =>
    let v := eltFn x.epi (match wnTile x with
      | none => wnDirect m x e ot oy ox co
      | some t => wnWino m x t e ot oy ox co)
    let n := ((ot * x.outH + y) * x.outW + ox) * x.cout + co
    let g := grind (fmtAt x.fmtO) (elementRound c x.round e (x.outT * x.outH * x.outW * x.cout) n) (f32v v)
    ((ox * x.coutPlan + co, g.1), statsOf (f32v v) (decodeElt (fmtAt x.fmtO) g.1) (.fin false 1 1 0) g.2)))
  (scatterCells m (fmtAt x.fmtO) (wnOutRow x e ot oy) (outs.map Prod.fst) none, outs.foldl (fun a o => statsAdd a o.2) {})

def wnWork (m : Memory) (c : Cmd) (x : Wn) : Work :=
  rowsWork x.aux (overBatch x.batch (fun e => (List.range x.outT).flatMap (fun ot =>
    (List.range x.outH).map (fun y => wnRowWork m c x e ot y))))

/-- The direct fold as a matrix product (R170). -/
def wnMm (x : Wn) : Mm := { (default : Mm) with m := x.outT * x.outH * x.outW, n := x.cout, shape := x.shape }

/-- R174: granules of a group of gt tiles. -/
def wnGroupGranules (x : Wn) (t gt : Nat) : Nat := ceilDiv ((t + 2) * (t + 2) * gt * min x.cout 128 * 4) 4096

/-- The granules that a WINDOW must find on a cluster (R42, R174). -/
def wnFirst (x : Wn) : Nat :=
  match wnTile x with
  | none => mmFirst (wnMm x)
  | some t => wnGroupGranules x t 8

/-- The granules that a WINDOW uses when nothing else limits it. -/
def wnWhole (x : Wn) : Nat :=
  match wnTile x with
  | none => ((List.range (mmTn (wnMm x))).map (mmColumn (wnMm x))).sum
  | some t => wnGroupGranules x t 96

/-- R41, R174: resequenced. -/
def wnReseq (x : Wn) (q : Nat) : Bool :=
  match wnTile x with
  | none => decide (1 < (mmGroups (wnMm x) q).length)
  | some t => decide (q < wnGroupGranules x t 96)

/-- R177: the command waits for its halo rows. -/
def wnHaloWait (c : Cmd) (x : Wn) : Bool := x.sig != 0 && decide (0 < x.top + x.bot) && !(c.haloReady)

def wnRun (s : State) (c : Cmd) : RunOut :=
  let x := wnOf c.desc
  if wnHaloWait c x then .wait
  else
    match meet s (wnUsed x) (wnWrites x) with
    | .wait => .wait
    | .fails st => .fails st
    | .fine =>
      let w := wnWork (operandMem s (wnUsed x)) c x
      .done { c with work := { w with reseq := wnReseq x c.qFree, rows := Config.amount 1 [c.desc.toNat] } }

def wnSpec : CmdSpec :=
  { checks := wnChecks
    noop := fun _ c => wnNoop (wnOf c.desc)
    take := takeStream (fun d => let x := wnOf d; drawCount x.round (fmtAt x.fmtO) (x.outT * x.outH * x.outW * x.cout))
      (fun d => (wnOf d).batch)
    from_ := .placed
    run := wnRun }

/-- WINDOW (R167 to R180). -/
def execWindow (ctx idx : Nat) (s : State) : Host.Outcome State Fault Refusal :=
  .next (descStep (isOp 1 8) wnSpec ctx idx s)

/-- HALO_SIGNAL_POLL (R177): the die controller reads the signal word of a placed WINDOW again, without cache. -/
def haloSignalPoll (ctx idx : Nat) (s : State) : State :=
  match findCmd s ctx idx with
  | none => s
  | some c =>
    let x := wnOf c.desc
    if hClass c.desc == 1 && hOp c.desc == 8 && c.stage == .placed && wnHaloWait c x then
      match meet s [(x.sig, 8)] [] with
      | .wait => s
      | .fails st => failCmd s c st 0 0
      | .fine =>
        if x.sigValue ≤ mnat (operandMem s [(x.sig, 8)]) x.sig 8 then setCmd s { c with haloReady := true } else s
    else s

def execHaloSignalPoll (ctx idx : Nat) (s : State) : Host.Outcome State Fault Refusal :=
  .next (haloSignalPoll ctx idx s)

end Sys2Proof.Machine
end

