-- ==== Sys2Proof/Machine/Detect.lean ====
section
/-! DEFINITION. DETECT: decoding of boxes, entries, suppression and the records written (R181 to R187). -/

namespace Sys2Proof.Machine

/-- The body of a DETECT descriptor (R181). -/
structure Dt where
  n        : Nat
  nPlan    : Nat
  cls      : Nat
  clsPlan  : Nat
  batch    : Nat
  maxOut   : Nat
  preTop   : Nat
  enc      : Nat
  flags    : Nat
  fmtB     : Nat
  fmtS     : Nat
  iou      : Nat
  thr      : W32
  varXy    : W32
  varWh    : W32
  whClip   : W32
  imgW     : W32
  imgH     : W32
  box      : Nat
  score    : Nat
  prior    : Nat
  out      : Nat
  count    : Nat
  boxBs    : Nat
  scoreBs  : Nat
  outBs    : Nat
  deriving Inhabited

def dtOf (d : Desc) : Dt :=
  { n := fld d 16 2, nPlan := fld d 18 2, cls := fld d 20 2, clsPlan := fld d 22 2, batch := fld d 24 2, maxOut := fld d 26 2,
    preTop := fld d 28 2, enc := fld d 30 1, flags := fld d 31 1, fmtB := fld d 32 1, fmtS := fld d 33 1, iou := fld d 34 2,
    thr := w32 (fld d 36 4), varXy := w32 (fld d 40 4), varWh := w32 (fld d 44 4), whClip := w32 (fld d 48 4),
    imgW := w32 (fld d 52 4), imgH := w32 (fld d 56 4), box := fld d 64 8, score := fld d 72 8, prior := fld d 80 8,
    out := fld d 88 8, count := fld d 96 8, boxBs := fld d 104 4, scoreBs := fld d 108 4, outBs := fld d 112 4 }

def dtNoop (x : Dt) : Bool := x.n == 0 || x.cls == 0 || x.maxOut == 0 || x.batch == 0
def dtAgnostic (x : Dt) : Bool := bit x.flags 0
def dtMulti (x : Dt) : Bool := bit x.flags 1
def dtSigmoid (x : Dt) : Bool := bit x.flags 2
def dtClip (x : Dt) : Bool := bit x.flags 3
/-- Entries kept before suppression. -/
def dtTop (x : Dt) : Nat := if x.preTop = 0 then 8192 else x.preTop
/-- Distance of score rows. -/
def dtRow (x : Dt) : Nat := up64 ((fmtAt x.fmtS).bytes x.clsPlan)

def dtUsed (x : Dt) : List (Nat × Nat) :=
  skipIf (dtNoop x) (overBatch x.batch (fun e =>
    (batchAddr x.box e x.boxBs, 4 * x.n * ((fmtAt x.fmtB).width / 8))
    :: (List.range x.n).map (fun i => (batchAddr x.score e x.scoreBs + i * dtRow x, (fmtAt x.fmtS).bytes x.cls)))
    ++ (if x.enc = 2 then [] else [(x.prior, 16 * x.n)]))

/-- The most records that one image can have. -/
def dtMost (x : Dt) : Nat := min x.maxOut (min (dtTop x) (if dtMulti x then x.n * x.cls else x.n))

def dtWrites (x : Dt) : List (Nat × Nat) :=
  skipIf (dtNoop x) (overBatch x.batch (fun e => [(batchAddr x.out e x.outBs, 16 * dtMost x), (x.count + 4 * e, 4)]))

/-- R187. -/
def dtChecks (s : State) (c : Cmd) : List Check :=
  let d := c.desc
  let x := dtOf d
  [headerCheck d,
   ⟨1, .format, decide (x.enc ≤ 2 ∧ x.flags < 16) && (fmtOf x.fmtB).isSome && (fmtOf x.fmtS).isSome && resZero d [(60, 4), (116, 12)]⟩,
   ⟨2, .format, fmtWide x.fmtB && fmtWide x.fmtS && decide (x.iou ≤ 0x3C00) && !(fIsNan x.thr) && zeroIff x.prior (x.enc == 2)⟩,
   ⟨3, .format, decide (x.n ≤ 8192 ∧ x.nPlan ≤ 8192 ∧ x.cls ≤ 1024 ∧ x.clsPlan ≤ 1024 ∧ x.maxOut ≤ 1024 ∧ x.preTop ≤ 8192)⟩,
   ⟨4, .format, aligned 64 [x.box, x.score, x.out] && aligned 4 [x.prior, x.count]⟩,
   svcCheck s c 5] ++ branchChecks s c 5 ++
  [⟨5, .permission, readable s c.ctx (dtUsed x) && writable s c.ctx (dtWrites x)⟩,
   ⟨6, .shapeExceedsPlan, decide (x.n ≤ x.nPlan ∧ x.cls ≤ x.clsPlan)⟩]

/-- A box. -/
structure Bx where
  x0 : W32
  y0 : W32
  x1 : W32
  y1 : W32
  deriving DecidableEq, Repr, Inhabited

def fpHalf : W32 := 0x3F000000#32

/-- R182: the box of a candidate, before clipping. -/
def dtDecode (x : Dt) (p v : List W32) : Bx :=
  let q := fun i => p.getD i fpZero
  let u := fun i => v.getD i fpZero
  match x.enc with
  | 0 =>
    let cx := fadd (q 0) (fmul (fmul x.varXy (u 0)) (q 2))
    let cy := fadd (q 1) (fmul (fmul x.varXy (u 1)) (q 3))
    let w := fmul (q 2) (fexp (fmin (fmul x.varWh (u 2)) x.whClip))
    let h := fmul (q 3) (fexp (fmin (fmul x.varWh (u 3)) x.whClip))
    ⟨fsub cx (fmul fpHalf w), fsub cy (fmul fpHalf h), fadd cx (fmul fpHalf w), fadd cy (fmul fpHalf h)⟩
  | 1 => ⟨fsub (q 0) (fmul (u 0) (q 2)), fsub (q 1) (fmul (u 1) (q 2)), fadd (q 0) (fmul (u 2) (q 2)), fadd (q 1) (fmul (u 3) (q 2))⟩
  | _ => ⟨u 0, u 1, u 2, u 3⟩

def clamp (hi v : W32) : W32 := fmin (fmax v fpZero) hi

/-- R182: with clip, the box clamped to the image. -/
def dtBox (x : Dt) (p v : List W32) : Bx :=
  let b := dtDecode x p v
  if dtClip x then ⟨clamp x.imgW b.x0, clamp x.imgH b.y0, clamp x.imgW b.x1, clamp x.imgH b.y1⟩ else b

/-- max(0, b − a). -/
def extent (a b : W32) : W32 := fmax fpZero (fsub b a)

def bxArea (b : Bx) : W32 := fmul (extent b.x0 b.x1) (extent b.y0 b.y1)

/-- R184: intersection over union; 0 where the union is not above +0. -/
def bxIou (a b : Bx) : W32 :=
  let inter := fmul (extent (fmax a.x0 b.x0) (fmin a.x1 b.x1)) (extent (fmax a.y0 b.y0) (fmin a.y1 b.y1))
  let union := fsub (fadd (bxArea a) (bxArea b)) inter
  if flt fpZero union then fdiv inter union else fpZero

/-- An entry: score, candidate, class. -/
structure Entr where
  score : W32
  cand  : Nat
  cls   : Nat
  deriving DecidableEq, Repr, Inhabited

/-- R183: the order of entries: descending score, then candidate, then class. -/
def entrBefore (a b : Entr) : Bool :=
  flt b.score a.score || (fle a.score b.score && fle b.score a.score
    && (decide (a.cand < b.cand) || (a.cand == b.cand && decide (a.cls ≤ b.cls))))

/-- Insertion into a sorted list. -/
def insertEntr (a : Entr) : List Entr → List Entr
  | [] => [a]
  | b :: l => if entrBefore a b then a :: b :: l else b :: insertEntr a l

/-- R183: the score of a candidate and class. -/
def dtScore (m : Memory) (x : Dt) (e i k : Nat) : W32 :=
  let v := fp32 (decodeElt (fmtAt x.fmtS) (eltCode m (fmtAt x.fmtS) (batchAddr x.score e x.scoreBs + i * dtRow x) k))
  if dtSigmoid x then eltFn 2 v else v

/-- R183: the highest-scoring class of a candidate, the lowest on ties, NaN ignored. -/
def bestClass : List (Nat × W32) → Option (Nat × W32)
  | [] => none
  | (k, v) :: rest =>
    match bestClass rest with
    | none => if fIsNan v then none else some (k, v)
    | some b => if fIsNan v || flt v b.2 then some b else some (k, v)

/-- R183: the entries of an image, sorted and cut to pre_top. -/
def dtEntries (m : Memory) (x : Dt) (e : Nat) : List Entr :=
  let all := (List.range x.n).flatMap (fun i =>
    let ss := (List.range x.cls).map (fun k => (k, dtScore m x e i k))
    let picked := if dtMulti x then ss else (bestClass ss).toList
    (picked.filter (fun p => fle x.thr p.2)).map (fun p => { score := p.2, cand := i, cls := p.1 : Entr }))
  (all.foldr insertEntr []).take (dtTop x)

/-- The box of a candidate of an image. -/
def dtBoxAt (m : Memory) (x : Dt) (e i : Nat) : Bx :=
  let f := fmtAt x.fmtB
  dtBox x ((List.range 4).map (fun j => canon (w32 (mnat m (x.prior + 16 * i + 4 * j) 4))))
    ((List.range 4).map (fun j => fp32 (decodeElt f (eltCode m f (batchAddr x.box e x.boxBs) (4 * i + j)))))

/-- R184: the walk. -/
def dtWalk (m : Memory) (x : Dt) (e : Nat) (thr : W32) (kept : List Entr) : List Entr → List Entr
  | [] => kept
  | a :: rest =>
    if x.maxOut ≤ kept.length then kept
    else if kept.any (fun k => (dtAgnostic x || k.cls == a.cls) && flt thr (bxIou (dtBoxAt m x e k.cand) (dtBoxAt m x e a.cand)))
    then dtWalk m x e thr kept rest
    else dtWalk m x e thr (kept ++ [a]) rest

/-- FP16 by the grinder. -/
def toHalf (v : W32) : Nat := (grind .fp16 .nearest (f32v v)).1

/-- R185: one image: its cells and its count. -/
def dtImage (m : Memory) (x : Dt) (e : Nat) : List Host.Cell × Nat :=
  let kept := dtWalk m x e (fp32 (decodeElt .fp16 x.iou)) [] (dtEntries m x e)
  let recs := (List.range kept.length).flatMap (fun r =>
    let k := kept.getD r default
    let b := dtBoxAt m x e k.cand
    cellsAt (batchAddr x.out e x.outBs + 16 * r)
      (leBytes 2 (toHalf b.x0) ++ leBytes 2 (toHalf b.y0) ++ leBytes 2 (toHalf b.x1) ++ leBytes 2 (toHalf b.y1)
        ++ leBytes 2 (toHalf k.score) ++ leBytes 2 k.cls ++ leBytes 2 k.cand ++ leBytes 2 0))
  (recs ++ cellsNat (x.count + 4 * e) 4 kept.length, kept.length)

def dtWork (m : Memory) (x : Dt) : Work :=
  let is := (List.range x.batch).map (dtImage m x)
  { writes := is.flatMap Prod.fst, result := (is.map Prod.snd).sum }

def dtRun (s : State) (c : Cmd) : RunOut :=
  let x := dtOf c.desc
  match meet s (dtUsed x) (dtWrites x) with
  | .wait => .wait
  | .fails st => .fails st
  | .fine => .done { c with work := dtWork (operandMem s (dtUsed x)) x }

def dtSpec : CmdSpec :=
  { checks := dtChecks
    noop := fun _ c => dtNoop (dtOf c.desc)
    take := takeNone
    from_ := .placed
    run := dtRun }

/-- DETECT (R181 to R187). -/
def execDetect (ctx idx : Nat) (s : State) : Host.Outcome State Fault Refusal :=
  .next (descStep (isOp 1 9) dtSpec ctx idx s)

end Sys2Proof.Machine
end

