-- ==== Sys2Proof/Machine/Move.lean ====
section
/-! DEFINITION. PAGE_MOVE and TILE_MOVE (R208 to R210). -/

namespace Sys2Proof.Machine

/-- Cells that copy n bytes from one address to another. -/
def copyCells (m : Memory) (src dst n : Nat) : List Host.Cell := cellsAt dst (mread m src n)

/-! ### PAGE_MOVE -/

/-- The body of a PAGE_MOVE descriptor (R208). -/
structure Mv where
  len   : Nat
  plan  : Nat
  batch : Nat
  src   : Nat
  dst   : Nat
  srcBs : Nat
  dstBs : Nat
  deriving Inhabited

def mvOf (d : Desc) : Mv :=
  { len := fld d 16 4, plan := fld d 20 4, batch := fld d 24 2, src := fld d 32 8, dst := fld d 40 8, srcBs := fld d 48 4,
    dstBs := fld d 52 4 }

def mvNoop (x : Mv) : Bool := x.len == 0 || x.batch == 0

def mvUsed (x : Mv) : List (Nat × Nat) :=
  skipIf (mvNoop x) ((List.range x.batch).map (fun e => (batchAddr x.src e x.srcBs, x.len)))

def mvWrites (x : Mv) : List (Nat × Nat) :=
  skipIf (mvNoop x) ((List.range x.batch).map (fun e => (batchAddr x.dst e x.dstBs, x.len)))

/-- R210. -/
def mvChecks (s : State) (c : Cmd) : List Check :=
  let d := c.desc
  let x := mvOf d
  [headerCheck d,
   ⟨1, .format, resZero d [(26, 6), (56, 72)]⟩,
   ⟨2, .format, x.len % 64 == 0 && decide (x.len ≤ 67108864 ∧ x.batch * x.len ≤ 268435456)⟩,
   ⟨3, .format, aligned 64 [x.src, x.dst]⟩,
   svcCheck s c 4] ++ branchChecks s c 4 ++
  [⟨4, .permission, readable s c.ctx (mvUsed x) && writable s c.ctx (mvWrites x)⟩,
   ⟨5, .shapeExceedsPlan, decide (x.len ≤ x.plan)⟩]

def mvWork (m : Memory) (x : Mv) : Work :=
  { writes := overBatch x.batch (fun e => copyCells m (batchAddr x.src e x.srcBs) (batchAddr x.dst e x.dstBs) x.len) }

def mvRun (s : State) (c : Cmd) : RunOut :=
  let x := mvOf c.desc
  match meet s (mvUsed x) (mvWrites x) with
  | .wait => .wait
  | .fails st => .fails st
  | .fine => .done { c with work := mvWork (operandMem s (mvUsed x)) x }

def mvSpec : CmdSpec :=
  { checks := mvChecks
    noop := fun _ c => mvNoop (mvOf c.desc)
    take := takeNone
    from_ := .placed
    run := mvRun }

/-- PAGE_MOVE (R208). -/
def execPageMove (ctx idx : Nat) (s : State) : Host.Outcome State Fault Refusal :=
  .next (descStep (isOp 2 1) mvSpec ctx idx s)

/-! ### TILE_MOVE -/

/-- The body of a TILE_MOVE descriptor (R209). -/
structure Tl where
  n      : Nat
  plan   : Nat
  dir    : Nat
  w8     : Nat
  native : Nat
  ld     : Nat
  stride : Nat
  deriving Inhabited

def tlOf (d : Desc) : Tl :=
  { n := fld d 16 4, plan := fld d 20 4, dir := fld d 24 1, w8 := fld d 32 8, native := fld d 40 8, ld := fld d 48 4,
    stride := fld d 52 4 }

def tlTiles (x : Tl) : List (Nat × Nat) := if x.n = 0 then [] else [(x.w8, 32768 * x.n)]

/-- Address of row r of tile t on the native side. -/
def tlRow (x : Tl) (t r : Nat) : Nat := x.native + t * x.stride * 64 + r * x.ld * 64

def tlRows (x : Tl) : List (Nat × Nat) :=
  (List.range x.n).flatMap (fun t => (List.range 128).map (fun r => (tlRow x t r, 256)))

def tlUsed (x : Tl) : List (Nat × Nat) := if x.dir = 0 then tlTiles x else tlRows x
def tlWrites (x : Tl) : List (Nat × Nat) := if x.dir = 0 then tlRows x else tlTiles x

/-- R209: where byte j of row r stands in a W8 tile unit. -/
def tlOffset (r j : Nat) : Nat := 256 * (Nat.xor r (r / 16 % 8)) + (j + 16 * (r % 16)) % 256

/-- R210. -/
def tlChecks (s : State) (c : Cmd) : List Check :=
  let d := c.desc
  let x := tlOf d
  [headerCheck d,
   ⟨1, .format, decide (x.dir ≤ 1) && resZero d [(25, 7), (56, 72)]⟩,
   ⟨2, .format, decide (x.n ≤ 8192)⟩,
   ⟨3, .format, aligned 32768 [x.w8] && aligned 64 [x.native] && decide (4 ≤ x.ld)⟩,
   svcCheck s c 4] ++ branchChecks s c 4 ++
  [⟨4, .permission, readable s c.ctx (tlUsed x) && writable s c.ctx (tlWrites x)⟩,
   ⟨5, .shapeExceedsPlan, decide (x.n ≤ x.plan)⟩]

def tlWork (m : Memory) (x : Tl) : Work :=
  { writes := (List.range x.n).flatMap (fun t => (List.range 128).flatMap (fun r => (List.range 256).map (fun j =>
      let tile := x.w8 + 32768 * t + tlOffset r j
      let native := tlRow x t r + j
      if x.dir = 0 then (native, mget m tile) else (tile, mget m native)))) }

def tlRun (s : State) (c : Cmd) : RunOut :=
  let x := tlOf c.desc
  match meet s (tlUsed x) (tlWrites x) with
  | .wait => .wait
  | .fails st => .fails st
  | .fine => .done { c with work := tlWork (operandMem s (tlUsed x)) x }

def tlSpec : CmdSpec :=
  { checks := tlChecks
    noop := fun _ c => (tlOf c.desc).n == 0
    take := takeNone
    from_ := .placed
    run := tlRun }

/-- TILE_MOVE (R209). -/
def execTileMove (ctx idx : Nat) (s : State) : Host.Outcome State Fault Refusal :=
  .next (descStep (isOp 2 2) tlSpec ctx idx s)

end Sys2Proof.Machine
end

