-- ==== Sys2Proof/Machine/Collective.lean ====
section
/-! DEFINITION. Collectives and reduction channels (R301 to R313): REDUCE, ALL_REDUCE, ALL_GATHER and BROADCAST, the lines
they exchange, the rally slots and the segment deadlines. -/

namespace Sys2Proof.Machine

/-- The body of a collective's descriptor (R304). -/
structure Co where
  op1      : Nat
  count    : Nat
  plan     : Nat
  channel  : Nat
  root     : Nat
  step     : Nat
  op       : Nat
  fmtS     : Nat
  fmtD     : Nat
  acc      : Nat
  cfgS     : Nat
  cfgD     : Nat
  flags    : Nat
  deadline : Nat
  pages    : Nat
  group    : Nat
  src      : Nat
  dst      : Nat
  srcS     : Nat
  dstS     : Nat
  work     : Nat
  deriving Inhabited

def coOf (d : Desc) : Co :=
  { op1 := hOp d, count := fld d 16 4, plan := fld d 20 4, channel := fld d 24 2, root := fld d 26 2, step := fld d 28 4,
    op := fld d 32 1, fmtS := fld d 33 1, fmtD := fld d 34 1, acc := fld d 35 1, cfgS := fld d 36 1, cfgD := fld d 37 1,
    flags := fld d 38 1, deadline := fld d 40 4, pages := fld d 44 4, group := fld d 48 8, src := fld d 56 8,
    dst := fld d 64 8, srcS := fld d 72 8, dstS := fld d 80 8, work := fld d 88 8 }

def coFused (x : Co) : Bool := bit x.flags 0
/-- REDUCE or ALL_REDUCE: contributions are combined. -/
def coReduces (x : Co) : Bool := x.op1 == 1 || x.op1 == 2

/-! ### The group record (R303) -/

structure Group where
  n       : Nat
  id      : Nat
  mask    : Nat
  members : List Nat
  deriving DecidableEq, Repr, Inhabited

/-- The record as the module reads it at validation; none where it breaks R303. -/
def groupRecord (s : State) (a : Nat) : Option Group :=
  let m := operandMem s [(a, 64)]
  let n := mnat m a 4
  if n = 0 || 16384 < n || mnat m (a + 12) 52 != 0 then none
  else
    let m2 := operandMem s [(a + 64, 2 * n)]
    let ms := (List.range n).map (fun i => mnat m2 (a + 64 + 2 * i) 2)
    if ms.dedup.length = n && ms.contains (selfId s) && ms.all (fun i => decide (i < 16384)) then
      some { n := n, id := mnat m (a + 4) 4, mask := mnat m (a + 8) 4, members := ms }
    else none

/-- The bytes of the group record, as far as its count is legal. -/
def groupRange (s : State) (a : Nat) : List (Nat × Nat) :=
  let n := mnat (operandMem s [(a, 64)]) a 4
  (a, 64) :: (if 1 ≤ n ∧ n ≤ 16384 then [(a + 64, 2 * n)] else [])

def rankOf (s : State) (g : Group) : Nat := g.members.idxOf (selfId s)

/-- Ports that a group allows (R303). -/
def groupPorts (g : Group) : Nat := if g.mask = 0 then 32 else (setBits g.mask 32).length

/-! ### Segments (R305) -/

/-- The unit of a segment. -/
def coUnit (x : Co) (n : Nat) : Nat := if coReduces x then 64 * n else 64

/-- Bytes that the member sending most sends for one unit of a segment. -/
def coUnitBytes (x : Co) (n : Nat) : Nat :=
  let b := fun f cfg e => (fmtAt f).bytes e + (if groupSize cfg = 0 then 0 else e / groupSize cfg * scaleBytes cfg)
  let u := coUnit x n
  match x.op1 with
  | 1 => b x.fmtS x.cfgS u
  | 2 => (n - 1) * (b x.fmtS x.cfgS 64 + (fmtAt x.fmtD).bytes 64)
  | _ => (n - 1) * b x.fmtS x.cfgS u

/-- Es. With one member nothing is sent and one segment holds everything. -/
def coEs (x : Co) (g : Group) : Nat :=
  let u := coUnit x g.n
  let per := coUnitBytes x g.n
  if per = 0 then u * max 1 (ceilDiv x.count u) else u * max 1 (groupPorts g * 704000 / per)

/-- Elements of dst at this member. -/
def coDstCount (x : Co) (n : Nat) : Nat := if x.op1 = 3 then n * x.count else x.count

/-- R304, R312: src and dst are 0 exactly where the rank has no contribution or no result. -/
def coSrcZero (x : Co) (rank : Nat) : Bool := coFused x || (x.op1 == 4 && rank != x.root)
def coDstZero (x : Co) (rank : Nat) : Bool := x.op1 == 1 && rank != x.root

/-- One row of a scale table for count_plan elements (R304). -/
def coScaleRow (cfg a plan : Nat) : List (Nat × Nat) :=
  if groupSize cfg = 0 then [] else [(a, ceilDiv plan (groupSize cfg) * scaleBytes cfg)]

/-- The rows of C of a fused producer. -/
def coProducer (c : Cmd) : List (Nat × Nat) :=
  match c.prev with
  | some d => let x := mmOf d
    overBatch x.batch (fun e => rowRanges (fmtAt x.fmtO) (batchAddr x.c e x.cBs) x.m x.n x.cLd)
  | none => []

def coUsed (c : Cmd) (x : Co) : List (Nat × Nat) :=
  skipIf (x.count == 0) (
    (if coFused x then coProducer c else if x.src = 0 then [] else [(x.src, (fmtAt x.fmtS).bytes x.count)])
    ++ coScaleRow x.cfgS x.srcS x.plan ++ coScaleRow x.cfgD x.dstS x.plan)

def coWrites (x : Co) (n : Nat) : List (Nat × Nat) :=
  skipIf (x.count == 0) (if x.dst = 0 then [] else [(x.dst, (fmtAt x.fmtD).bytes (coDstCount x n))])

def coWorkArea (x : Co) : List (Nat × Nat) := skipIf (x.count == 0 || x.pages == 0) [(x.work, x.pages * 65536)]

/-- R308: the preceding descriptor is a MATMUL that the collective can take its contribution from. -/
def coFits (c : Cmd) (x : Co) : Bool :=
  match c.prev with
  | some d => let y := mmOf d
    hClass d == 1 && hOp d == 1 && y.fmtO == x.fmtS && (x.fmtS == 7 || x.fmtS == 5) && y.m * y.n * y.batch == x.count
  | none => false

/-- R304: the formats of a collective, and the scales that go with them. -/
def coFmt (f : Nat) : Bool := [7, 5, 4, 2].contains f
def coScale (f cfg : Nat) : Bool :=
  match f with
  | 4 => cfg == 1 || cfg == 5
  | 2 => cfg == 2 || cfg == 6
  | _ => cfg == 0

/-- R312. -/
def coChecks (s : State) (c : Cmd) : List Check :=
  let d := c.desc
  let x := coOf d
  let red := coReduces x
  let g := groupRecord s x.group
  let rank := (g.map (rankOf s)).getD 0
  let n := (g.map Group.n).getD 1
  [headerCheck d,
   ⟨1, .format, decide (x.op ≤ 3 ∧ x.flags < 2) && (fmtOf x.fmtS).isSome && (fmtOf x.fmtD).isSome && scaleCfgListed x.cfgS
     && scaleCfgListed x.cfgD && (if red then (x.acc == 7 || x.acc == 5) else x.acc == 0 && x.op == 0)
     && (x.op1 == 1 || x.op1 == 4 || x.root == 0) && (x.cfgS != 0 || x.srcS == 0) && (x.cfgD != 0 || x.dstS == 0)
     && resZero d [(39, 1), (96, 32)]⟩,
   ⟨2, .format, coFmt x.fmtS && coFmt x.fmtD && (if red then coScale x.fmtS x.cfgS && coScale x.fmtD x.cfgD
       else x.fmtS == x.fmtD && x.cfgS == 0 && x.cfgD == 0) && (!(coFused x) || coFits c x)⟩,
   ⟨3, .format, decide (x.count ≤ 1073741824 ∧ x.channel ≤ 511 ∧ 1 ≤ x.deadline ∧ x.deadline ≤ 4000000)⟩,
   ⟨4, .format, aligned 64 [x.group, x.src, x.dst, x.srcS, x.dstS] && aligned 65536 [x.work]⟩,
   svcCheck s c 5] ++ branchChecks s c 5 ++
  [⟨5, .permission, readable s c.ctx (groupRange s x.group)⟩,
   ⟨6, .format, g.isSome && decide (x.root < n) && zeroIff x.src (coSrcZero x rank) && zeroIff x.dst (coDstZero x rank)⟩,
   ⟨7, .permission, readable s c.ctx (coUsed c x) && writable s c.ctx (coWrites x n ++ coWorkArea x)⟩,
   ⟨8, .shapeExceedsPlan, decide (x.count ≤ x.plan)⟩]

def chanOf (s : State) (ch : Nat) : Channel := aget s.links.channels ch {}

def modChan (s : State) (ch : Nat) (f : Channel → Channel) : State :=
  { s with links := { s.links with channels := aput s.links.channels ch (f (chanOf s ch)) } }

/-- R302, R303: the group is read once, and the collective takes its place on its channel in validation order. -/
def coTake (s : State) (c : Cmd) : State × Cmd :=
  let x := coOf c.desc
  match groupRecord s x.group with
  | none => (s, c)
  | some g =>
    let es := coEs x g
    (modChan s x.channel (fun k => { k with queue := k.queue ++ [(c.ctx, c.idx)] }),
     { c with coll := some { channel := x.channel, step := x.step, groupId := g.id, portMask := g.mask, members := g.members,
                             rank := rankOf s g, es := es, segments := ceilDiv x.count es } })

/-! ### Owners and lines -/

/-- The lowest rank above r, or r itself, that is not dropped, wrapping (R311). -/
def liveFrom (r : CollRun) (k : Nat) : Nat :=
  let n := r.members.length
  (((List.range n).map (fun i => (k + i) % n)).find? (fun q => !(r.dropped.contains q))).getD k

/-- R305: the rank whose slice holds element i. -/
def sliceRank (x : Co) (r : CollRun) (i : Nat) : Nat :=
  let n := r.members.length
  let seg := i / r.es
  let e' := min r.es (x.count - seg * r.es)
  i % r.es / (ceilDiv e' (64 * n) * 64)

/-- R305, R311: the rank that combines element i. -/
def ownerOf (x : Co) (r : CollRun) (i : Nat) : Nat := if x.op1 = 1 then x.root else liveFrom r (sliceRank x r i)

/-- Elements that one line carries in this model (log entry 40). -/
def lineElts : Nat := 32

/-- First elements of the lines of a contribution. -/
def lineStarts (x : Co) : List Nat := (List.range (ceilDiv x.count lineElts)).map (· * lineElts)

/-- R305: the address of a COLL_LINE: channel, rank and segment. -/
def collAddr (ch rank seg : Nat) : Nat := ch + 2 ^ 9 * rank + 2 ^ 23 * (seg % 2 ^ 32)

/-- R302: the descriptor line of a collective. -/
def descLine (x : Co) (r : CollRun) : List Byte :=
  leBytes 4 r.groupId ++ leBytes 4 x.step ++ leBytes 4 x.count ++ leBytes 2 x.root ++ leBytes 1 x.op1 ++ leBytes 1 x.op
  ++ leBytes 1 x.fmtS ++ leBytes 1 x.fmtD ++ leBytes 1 x.acc ++ leBytes 1 x.cfgS ++ leBytes 1 x.cfgD

/-- The segment field of a descriptor line. -/
def descSegment : Nat := 0xFFFFFFFF

/-- The module of a rank. -/
def memberAt (r : CollRun) (k : Nat) : Nat := r.members.getD k 0

/-- Sends a line of a collective to a rank. -/
def sendColl (s : State) (c : Cmd) (r : CollRun) (mtype dstRank address : Nat) (data : List Byte) : State :=
  send s r.portMask mtype (hSvc c.desc) (memberAt r dstRank) c.epoch.toNat r.step address data

/-- The index of the descriptor before a command in its ring. -/
def prevIdx (c : Cmd) : Nat := (c.idx + 2 ^ 32 - 1) % 2 ^ 32

/-- Memory in which the contribution is found: for a fused collective, C as the producer leaves it (R308). -/
def coMem (s : State) (c : Cmd) (x : Co) : Memory :=
  let m := operandMem s (coUsed c x)
  if coFused x then
    match findCmd s c.ctx (prevIdx c) with
    | some p => mapply m p.work.writes
    | none => m
  else m

/-- The code of element i of this member's contribution. -/
def coElt (m : Memory) (c : Cmd) (x : Co) (i : Nat) : Nat :=
  if coFused x then
    match c.prev with
    | some d =>
      let y := mmOf d
      let per := y.m * y.n
      eltCode m (fmtAt y.fmtO) (batchAddr y.c (i / per) y.cBs + i % per / y.n * y.cLd * 64) (i % y.n)
    | none => 0
  else eltCode m (fmtAt x.fmtS) x.src i

/-- The code of the scale of a group of this member's contribution. -/
def coScaleCode (m : Memory) (x : Co) (i : Nat) : Nat :=
  if groupSize x.cfgS = 0 then 0
  else mnat m (x.srcS + i / groupSize x.cfgS * scaleBytes x.cfgS) (scaleBytes x.cfgS)

/-- R306, step 1: a contribution element widened. -/
def widen (x : Co) (code scale : Nat) : W32 :=
  let v := decodeElt (fmtAt x.fmtS) code
  let w := if groupSize x.cfgS = 0 then fp32 v else fp32 (fvMul v (scaleVal x.cfgS scale))
  if x.acc = 5 then fp32 (decodeFlt fltBf16 (roundTo fltBf16 (f32v w))) else w

/-- The data of a contribution line from element i: group_id, first element, codes, and the scale of the group. -/
def contribData (m : Memory) (c : Cmd) (x : Co) (r : CollRun) (i : Nat) : List Byte :=
  let b := (fmtAt x.fmtS).width / 8
  leBytes 4 r.groupId ++ leBytes 4 i
  ++ ((List.range (min lineElts (x.count - i))).flatMap (fun t => leBytes b (coElt m c x (i + t))))
  ++ leBytes (if groupSize x.cfgS = 0 then 0 else scaleBytes x.cfgS) (coScaleCode m x i)

/-- The data of a result line from element i: bit 31 of the first element set, k, codes of dst. -/
def resultData (x : Co) (r : CollRun) (i n : Nat) : List Byte :=
  let b := (fmtAt x.fmtD).width / 8
  leBytes 4 r.groupId ++ leBytes 4 (i + 2 ^ 31) ++ leBytes 4 ((aget r.results i (0, 0)).2)
  ++ ((List.range n).flatMap (fun t => leBytes b (aget r.results (i + t) (0, 0)).1.toNat))

/-- Contribution elements entered at their owner; an element already held or already formed is discarded (R308, R309). -/
def enterContrib (x : Co) (r : CollRun) (rank i : Nat) (codes : List Nat) (scale : Nat) : CollRun :=
  { r with contribs := (List.range codes.length).foldl (fun m t =>
      let key := (i + t) * 16384 + rank
      if (aget? m key).isSome || (aget? r.results (i + t)).isSome then m
      else aput m key (widen x (codes.getD t 0) scale)) r.contribs }

/-- ALL_GATHER and BROADCAST: a member's part entered in dst. -/
def enterPart (x : Co) (r : CollRun) (rank i : Nat) (codes : List Nat) : CollRun :=
  let base := if x.op1 = 3 then rank * x.count else 0
  { r with results := (List.range codes.length).foldl (fun m t => aput m (base + i + t) (w32 (codes.getD t 0), 1)) r.results }

/-- The dst elements that a segment needs at this member before it commits (R307). -/
def segmentNeeds (x : Co) (r : CollRun) (seg : Nat) : List Nat :=
  let es := (List.range (min r.es (x.count - seg * r.es))).map (seg * r.es + ·)
  match x.op1 with
  | 1 => if r.rank = x.root then es else []
  | 3 => ((List.range r.members.length).filter (fun q => !(r.dropped.contains q))).flatMap (fun q => es.map (q * x.count + ·))
  | _ => es

/-- R307: segments commit as their results are held. -/
def commitSegments (x : Co) (r : CollRun) : CollRun :=
  { r with committed := (List.range r.segments).filter (fun seg =>
      r.committed.contains seg || (segmentNeeds x r seg).all (fun i => (aget? r.results i).isSome)) }

/-- Writes a collective's run back. -/
def putRun (s : State) (c : Cmd) (r : CollRun) : State := setCmd s { c with coll := some r }

/-- The command that holds a collective, as it now stands. -/
def refresh (s : State) (c : Cmd) : Cmd := (findCmd s c.ctx c.idx).getD c

/-- Sends one line of this member's contribution where it belongs, or enters it here. -/
def sendLine (m : Memory) (c : Cmd) (x : Co) (s : State) (r : CollRun) (i : Nat) : State × CollRun :=
  let n := min lineElts (x.count - i)
  let codes := (List.range n).map (fun t => coElt m c x (i + t))
  let addr := collAddr r.channel r.rank (i / r.es)
  if coReduces x then
    let o := ownerOf x r i
    if o = r.rank then (s, enterContrib x r r.rank i codes (coScaleCode m x i))
    else (sendColl s c r mtCollLine o addr (contribData m c x r i), r)
  else
    if x.op1 = 4 && r.rank != x.root then (s, r)
    else
      let others := (List.range r.members.length).filter (fun q => q != r.rank && !(r.dropped.contains q))
      (seqAll s others (fun s q => sendColl s c r mtCollLine q addr (contribData m c x r i)),
       { enterPart x r r.rank i codes with acksOwed := r.acksOwed ++ others })

/-- Sends lines in order. -/
def sendLines (m : Memory) (c : Cmd) (x : Co) : State → CollRun → List Nat → State × CollRun
  | s, r, [] => (s, r)
  | s, r, i :: is =>
    let p := sendLine m c x s r i
    sendLines m c x p.1 p.2 is

/-- R302: the ranks that this member's descriptor line goes to. -/
def descTargets (x : Co) (r : CollRun) : List Nat :=
  let all := (List.range r.members.length).filter (fun q => q != r.rank && !(r.dropped.contains q))
  match x.op1 with
  | 1 => if r.rank = x.root then [] else [x.root]
  | 2 => let owners := ((lineStarts x).map (ownerOf x r)).dedup
    all.filter (fun q => owners.contains q)
  | _ => all

/-- A collective ends at this member without commit: its step is remembered as aborted (R310). -/
def endColl (s : State) (c : Cmd) (st : Status) : State :=
  match c.coll with
  | some r =>
    let s1 := modChan s r.channel (fun k =>
      { k with queue := k.queue.filter (· != (c.ctx, c.idx))
               held := k.held.filter (fun f => f.tag != r.step)
               lastSteps := (r.step, false, r.members) :: k.lastSteps })
    failCmd s1 c st 0 0
  | none => failCmd s c st 0 0

/-- Sends COLL_ABORT with a cause to every other member, and ends the step here (R302, R310). -/
def abortColl (s : State) (c : Cmd) (cause : Nat) (st : Status) : State :=
  match c.coll with
  | some r =>
    let others := (List.range r.members.length).filter (fun q => q != r.rank && !(r.dropped.contains q))
    endColl (seqAll s others (fun s q => sendColl s c r mtCollAbort q (collAddr r.channel r.rank 0) (leBytes 1 cause))) c st
  | none => s

/-! ### Lines received -/

/-- The line's channel, rank and segment (R305). -/
def lineChannel (f : Flit) : Nat := bits f.address 8 0
def lineRank (f : Flit) : Nat := bits f.address 22 9
def lineSegment (f : Flit) : Nat := bits f.address 54 23

/-- The number at a byte of a line's data. -/
def lineNat (f : Flit) (o n : Nat) : Nat := leNat ((f.data.drop o).take n)

/-- Codes of b bytes from byte o of a line's data. -/
def lineCodes (f : Flit) (o b n : Nat) : List Nat := (List.range n).map (fun t => lineNat f (o + b * t) b)

/-- The collective command of a channel and step at this member, if any. -/
def collCmd (s : State) (ch step : Nat) : Option Cmd :=
  s.cmds.find? (fun c => match c.coll with
    | some r => r.channel == ch && r.step == step && c.stage != .decided
    | none => false)

/-- Acknowledges a result line, in an ACK without data (log entry 43). -/
def ackLine (s : State) (c : Cmd) (r : CollRun) (f : Flit) : State :=
  sendColl s c r mtAck (lineRank f) (collAddr r.channel r.rank (lineSegment f)) []

/-- A line of data reaches a started collective: a result, or a contribution that its owner or receiver takes. -/
def takeLine (s : State) (c : Cmd) (x : Co) (r : CollRun) (f : Flit) : State :=
  let i := lineNat f 4 4
  if i < 2 ^ 31 then
    let n := min lineElts (x.count - i)
    let b := (fmtAt x.fmtS).width / 8
    let codes := lineCodes f 8 b n
    if coReduces x then
      putRun s c (enterContrib x r (lineRank f) i codes (lineNat f (8 + b * n) (if groupSize x.cfgS = 0 then 0 else scaleBytes x.cfgS)))
    else putRun (ackLine s c r f) c (commitSegments x (enterPart x r (lineRank f) i codes))
  else
    let i := i - 2 ^ 31
    let b := (fmtAt x.fmtD).width / 8
    let n := (f.data.length - 12) / b
    let codes := lineCodes f 12 b n
    let r1 := { r with results := (List.range n).foldl (fun m t =>
      if (aget? m (i + t)).isSome then m else aput m (i + t) (w32 (codes.getD t 0), lineNat f 8 4)) r.results }
    putRun (ackLine s c r f) c (commitSegments x r1)

/-- R309: result lines sent again to a rank that asks for them by sending its descriptor line again. -/
def resend (s : State) (c : Cmd) (x : Co) (r : CollRun) (q : Nat) : State :=
  if x.op1 = 2 then
    let mine := (lineStarts x).filter (fun i => ownerOf x r i == r.rank && (aget? r.results i).isSome)
    seqAll s mine (fun s i => sendColl s c r mtCollLine q (collAddr r.channel r.rank (i / r.es))
      (resultData x r i (min lineElts (x.count - i))))
  else if x.op1 = 3 || (x.op1 == 4 && r.rank == x.root) then
    let m := coMem s c x
    seqAll s (lineStarts x) (fun s i => sendColl s c r mtCollLine q (collAddr r.channel r.rank (i / r.es)) (contribData m c x r i))
  else s

/-- R302: a line of the collective's step reaches a member that has started it. -/
def lineStarted (s : State) (c : Cmd) (x : Co) (r : CollRun) (f : Flit) : State :=
  if memberAt r (lineRank f) != f.src || decide (r.members.length ≤ lineRank f) then abortColl s c 1 .state
  else if lineSegment f = descSegment then
    if f.data != descLine x r then abortColl s c 1 .state
    else if r.compared.contains (lineRank f) then resend s c x r (lineRank f)
    else putRun s c { r with compared := lineRank f :: r.compared }
  else if lineNat f 0 4 != r.groupId then abortColl s c 1 .state
  else takeLine s c x r f

/-- R310: an abort reaches a member: a collective that has committed here only stops owing it an acknowledgement. -/
def abortReceived (s : State) (c : Cmd) (r : CollRun) (f : Flit) : State :=
  if c.stage = .committed then putRun s c { r with acksOwed := r.acksOwed.filter (· != lineRank f) }
  else endColl s c (if lineNat f 0 1 = 1 then .state else .deadline)

/-- R302, R310: a COLL_LINE or COLL_ABORT (the latter has one byte of data) is delivered. -/
def collDeliver (s : State) (f : Flit) : State :=
  let ch := lineChannel f
  let k := chanOf s ch
  match collCmd s ch f.tag with
  | some c =>
    match c.coll with
    | some r =>
      if !(r.started) then modChan s ch (fun k => { k with held := k.held ++ [f] })
      else if f.data.length = 1 then abortReceived s c r f
      else lineStarted s c (coOf c.desc) r f
    | none => s
  | none =>
    match k.lastSteps.find? (fun e => e.1 == f.tag) with
    | some (_, true, members) =>
      if f.data.length = 1 then s
      else seqAll s (members.filter (· != selfId s)) (fun s m =>
        send s 0 mtCollAbort f.cls m 0 f.tag (collAddr ch (members.idxOf (selfId s)) 0) (leBytes 1 1))
    | some (_, false, _) => s
    | none => modChan s ch (fun k => { k with held := k.held ++ [f] })

/-- An acknowledgement of a result line. -/
def collAck (s : State) (f : Flit) : State :=
  match collCmd s (lineChannel f) f.tag with
  | some c =>
    match c.coll with
    | some r => putRun s c { r with acksOwed := r.acksOwed.erase (lineRank f) }
    | none => s
  | none => s

/-! ### Start, rally slots, end -/

/-- R302: the first collective of a channel that has not ended here. -/
def channelFront (s : State) (ch : Nat) : Option (Nat × Nat) :=
  (chanOf s ch).queue.find? (fun q => match findCmd s q.1 q.2 with
    | some c => c.coll.isSome && c.stage != .decided
    | none => false)

/-- R308: whether a fused collective's contribution can be taken: the producer has drained, or has completed well. -/
inductive Fed where
  | ready
  | wait
  | failed
  deriving DecidableEq, Repr

def fedNow (s : State) (c : Cmd) (x : Co) : Fed :=
  if !(coFused x) then .ready
  else
    match findCmd s c.ctx (prevIdx c) with
    | some p =>
      match p.stage with
      | .issued | .committed => .ready
      | .decided => if p.status = .ok || p.status = .resequencedOk then .ready else .failed
      | _ => .wait
    | none => if c.prevEnd = some .ok || c.prevEnd = some .resequencedOk then .ready else .failed

/-- R307: the work area holds what the collective needs and is RESIDENT and pinned in the module's own carafe space. -/
def workAreaOk (s : State) (x : Co) (r : CollRun) : Bool :=
  let ports := if r.portMask = 0 then 32 else (setBits r.portMask 32).length
  ownCarafe s x.work
  && decide (4 * ports * 704000 + (if x.dst = 0 then 0 else (fmtAt x.fmtD).bytes (coDstCount x r.members.length)) ≤ x.pages * 65536)
  && (List.range x.pages).all (fun i => match aget? s.pool (pageOf x.work + i) with
    | some p => p.state == .resident && p.pinned
    | none => false)

/-- R311: what the death of the members in `ds` does to a collective of this member. -/
inductive DropOut where
  | fails (st : Status)
  | goesOn (r : CollRun)

def dropMembers (s : State) (x : Co) (r : CollRun) (atStart : Bool) (ds : List Nat) : DropOut :=
  let ranks := (List.range r.members.length).filter (fun q => ds.contains (memberAt r q) && !(r.dropped.contains q))
  if ranks.isEmpty then .goesOn r
  else if (x.op1 == 1 || x.op1 == 4) && ranks.contains x.root then .fails .moduleDead
  else if s.regs.dropMax < r.members.length then .fails (if atStart then .state else .moduleDead)
  else .goesOn { r with dropped := r.dropped ++ ranks, acksOwed := r.acksOwed.filter (fun q => !(ranks.contains q)) }

/-- Starts a collective at the front of its channel (R302, R305, R310). -/
def startColl (s : State) (c : Cmd) (x : Co) (r : CollRun) : State :=
  match dropMembers s x r true (r.members.filter (isDead s)) with
  | .fails st => endColl s c st
  | .goesOn r1 =>
    match fedNow s c x with
    | .wait => s
    | .failed => endColl s c .state
    | .ready =>
      if !(workAreaOk s x r1) then endColl s c .state
      else
        match meet s (coUsed c x) (coWrites x r1.members.length) with
        | .wait => s
        | .fails st => endColl s c st
        | .fine =>
          let m := coMem s c x
          let r2 := { r1 with started := true, sentAt := s.localTime }
          let s1 := seqAll s (descTargets x r2) (fun s q =>
            sendColl s c r2 mtCollLine q (collAddr r2.channel r2.rank descSegment) (descLine x r2))
          let p := sendLines m c x s1 r2 ((lineStarts x).filter (fun i => !(r2.committed.contains (i / r2.es))))
          let s2 := putRun p.1 c (commitSegments x p.2)
          let mine := (chanOf s2 r.channel).held.filter (fun f => f.tag == r.step)
          let s3 := modChan s2 r.channel (fun k => { k with held := k.held.filter (fun f => f.tag != r.step) })
          seqAll s3 mine collDeliver

/-- R306: the combination of contributions in ascending rank, in the accumulation format. -/
def combineRanks (x : Co) (vs : List W32) : W32 :=
  let accR := fun (v : FV) => if x.acc = 5 then fp32 (decodeFlt fltBf16 (roundTo fltBf16 v)) else fp32 v
  match vs with
  | [] => fpZero
  | v :: rest =>
    match x.op with
    | 0 => rest.foldl (fun a b => accR (fvAdd (f32v a) (f32v b))) v
    | 1 => accR (fvDiv (f32v (rest.foldl (fun a b => accR (fvAdd (f32v a) (f32v b))) v)) (fvInt (rest.length + 1)))
    | 2 => rest.foldl fmax v
    | _ => rest.foldl fmin v

/-- R306, step 5: the code of an element of dst. -/
def coResult (m : Memory) (x : Co) (i : Nat) (v : W32) : Nat :=
  let s := if groupSize x.cfgD = 0 then (.fin false 1 1 0 : FV)
           else scaleVal x.cfgD (mnat m (x.dstS + i / groupSize x.cfgD * scaleBytes x.cfgD) (scaleBytes x.cfgD))
  (grind (fmtAt x.fmtD) .nearest (fvDiv (f32v v) s)).1

/-- The ranks still counted (R311). -/
def counted (r : CollRun) : List Nat := (List.range r.members.length).filter (fun q => !(r.dropped.contains q))

/-- Whether the line from element i waits here for its addition: this member owns it, it is not formed, and the lines of
every counted rank are held (R307). -/
def lineReady (x : Co) (r : CollRun) (i : Nat) : Bool :=
  coReduces x && ownerOf x r i == r.rank && (aget? r.results i).isNone
    && (counted r).all (fun q => (aget? r.contribs (i * 16384 + q)).isSome)

/-- Forms one line of results here. -/
def formLine (m : Memory) (x : Co) (r : CollRun) (i : Nat) : CollRun :=
  let ks := counted r
  { r with results := (List.range (min lineElts (x.count - i))).foldl (fun acc t =>
      aput acc (i + t) (w32 (coResult m x (i + t) (combineRanks x (ks.map (fun q => aget r.contribs ((i + t) * 16384 + q) fpZero)))),
        ks.length)) r.results }

/-- R301: the addends that a rally engine takes in one slot. -/
def slotAddends (x : Co) : Nat := if x.acc = 5 then 256 * 1024 else 256 * 512

/-- A started collective on a channel of a link die with addends ready. -/
def slotCandidates (s : State) (ld : Nat) : List Cmd :=
  s.cmds.filter (fun c => match c.coll with
    | some r => r.channel / 64 == ld && r.started && c.stage == .placed && (lineStarts (coOf c.desc)).any (lineReady (coOf c.desc) r)
    | none => false)

/-- R301: Live before Standard before Bulk, then the channel served longest ago. -/
def slotBefore (s : State) (a b : Cmd) : Bool :=
  let last := fun c : Cmd => (chanOf s ((c.coll.map CollRun.channel).getD 0)).lastSlot.toNat
  decide (hSvc a.desc < hSvc b.desc) || (hSvc a.desc == hSvc b.desc && decide (last a < last b))

/-- The command that a rally engine serves. -/
def slotChoice (s : State) : List Cmd → Option Cmd
  | [] => none
  | c :: cs =>
    match slotChoice s cs with
    | none => some c
    | some d => if slotBefore s d c then some d else some c

/-- RALLY_SLOT (R301, R306, R307): one slot of a rally engine: it adds what is ready on one channel, and the results go to
every member. -/
def rallySlot (ld : Nat) (s : State) : State :=
  if (aget s.linkDies ld {}).resetting then s
  else
  match slotChoice s (slotCandidates s ld) with
  | none => s
  | some c =>
    match c.coll with
    | none => s
    | some r =>
      let x := coOf c.desc
      let ready := ((lineStarts x).filter (lineReady x r)).take (max 1 (slotAddends x / (lineElts * max 1 (counted r).length)))
      let r1 := ready.foldl (formLine s.mem x) r
      let others := (counted r).filter (· != r.rank)
      let s1 := modChan s r.channel (fun k => { k with lastSlot := s.localTime })
      if x.op1 = 2 then
        let s2 := seqAll s1 ready (fun s i => seqAll s others (fun s q =>
          sendColl s c r1 mtCollLine q (collAddr r1.channel r1.rank (i / r1.es)) (resultData x r1 i (min lineElts (x.count - i)))))
        putRun s2 c (commitSegments x { r1 with acksOwed := r1.acksOwed ++ ready.flatMap (fun _ => others) })
      else putRun s1 c (commitSegments x r1)

def execRallySlot (ld : Nat) (s : State) : Host.Outcome State Fault Refusal := .next (rallySlot ld s)

/-- SEGMENT_DEADLINE (R310): the deadline of a segment that has not committed. -/
def segmentDeadline (ctx idx seg : Nat) (s : State) : State :=
  match findCmd s ctx idx with
  | none => s
  | some c =>
    match c.coll with
    | none => s
    | some r =>
      let x := coOf c.desc
      if r.started && c.stage == .placed && decide (seg < r.segments) && !(r.committed.contains seg)
          && decide (us x.deadline ≤ since s r.sentAt) then abortColl s c 0 .deadline
      else s

def execSegmentDeadline (ctx idx seg : Nat) (s : State) : Host.Outcome State Fault Refusal :=
  .next (segmentDeadline ctx idx seg s)

/-- R311: a collective of this member learns of deaths while it runs: the slices that the dead owned are sent again. -/
def collDeaths (s : State) (c : Cmd) (ds : List Nat) : State :=
  match c.coll with
  | none => s
  | some r =>
    let x := coOf c.desc
    if !(r.started) || c.stage != .placed then
      if c.stage = .committed then
        putRun s c { r with acksOwed := r.acksOwed.filter (fun q => !(ds.contains (memberAt r q))) }
      else s
    else
      match dropMembers s x r false ds with
      | .fails st => endColl s c st
      | .goesOn r1 =>
        let again := if x.op1 = 2 then (lineStarts x).filter (fun i =>
          ownerOf x r i != ownerOf x r1 i && !(r1.committed.contains (i / r1.es))) else []
        let p := sendLines (coMem s c x) c x s r1 again
        putRun p.1 c (commitSegments x p.2)

/-- R304: the result word: k_min, k_max and the number of segments. A member that holds no element of dst knows no k: a free
value (log entry 41). -/
def coResultWord (c : Cmd) (x : Co) (r : CollRun) : Nat :=
  let n := coDstCount x r.members.length
  let ks := (List.range n).map (fun i => (aget r.results i (0, 0)).2)
  let lo := if x.dst = 0 then Config.amount 3 [c.desc.toNat] % 65536 else (ks.min?).getD 0
  let hi := if x.dst = 0 then Config.amount 4 [c.desc.toNat] % 65536 else (ks.max?).getD 0
  lo + 2 ^ 16 * hi + 2 ^ 32 * (r.segments % 2 ^ 32)

/-- dst of a collective whose segments have all committed here (R305, R307, R311). -/
def coCells (m : Memory) (x : Co) (r : CollRun) : List Host.Cell :=
  if x.dst = 0 then []
  else rowCells m (fmtAt x.fmtD) x.dst 0
    ((List.range (coDstCount x r.members.length)).map (fun i => (aget r.results i (0, 0)).1.toNat)) none

/-- A collective row: validation, start, and the end of issue once every segment has committed at this member. -/
def collStep (owns : Desc → Bool) (ctx idx : Nat) (s : State) : State :=
  match findCmd s ctx idx with
  | none => s
  | some c =>
    let x := coOf c.desc
    let sp : CmdSpec := { checks := coChecks, noop := fun _ _ => x.count == 0, take := coTake, from_ := .placed, run := fun _ _ => .wait,
                          reads := fun s c => groupRange s (coOf c.desc).group }
    if !(owns c.desc) then s
    else
      match c.stage with
      | .fetched => validate sp s c
      | .placed =>
        match c.peerError, c.coll with
        | some st, _ => endColl s c st
        | none, none => s
        | none, some r =>
          if awaits s c then s
          else if !(r.started) then (if channelFront s r.channel = some (ctx, idx) then startColl s c x r else s)
          else if r.committed.length = r.segments && fedNow s c x != .wait then
            if fedNow s c x = .failed then endColl s c .state
            else
              setCmd s { c with stage := .issued, counter := none
                                work := { writes := coCells s.mem x r, result := coResultWord c x r } }
          else s
      | _ => s

/-- REDUCE (R304 to R312). -/
def execReduce (ctx idx : Nat) (s : State) : Host.Outcome State Fault Refusal := .next (collStep (isOp 4 1) ctx idx s)

/-- ALL_REDUCE (R304 to R312). -/
def execAllReduce (ctx idx : Nat) (s : State) : Host.Outcome State Fault Refusal := .next (collStep (isOp 4 2) ctx idx s)

/-- ALL_GATHER (R304 to R312). -/
def execAllGather (ctx idx : Nat) (s : State) : Host.Outcome State Fault Refusal := .next (collStep (isOp 4 3) ctx idx s)

/-- BROADCAST (R304 to R312). -/
def execBroadcast (ctx idx : Nat) (s : State) : Host.Outcome State Fault Refusal := .next (collStep (isOp 4 4) ctx idx s)

end Sys2Proof.Machine
end

