-- ==== Sys2Proof/Machine/Remote.lean ====
section
/-! DEFINITION. Remote reads by line (R203, R296), the lines that land under arrival counters (R31), and the tags by which
replies find their commands (R287). -/

namespace Sys2Proof.Machine

/-- A line of a peer or the host as last seen, with its poison. -/
def seeLine (s : State) (l : Nat) (bs : List Byte) (poisoned : Bool) : State :=
  let s1 := { s with mem := mwrite s.mem (64 * l) bs }
  { s1 with poison := if poisoned then sins s1.poison l else srem s1.poison l }

/-- R31: n lines land under a command's arrival counter. -/
def countArrivals (s : State) (c : Cmd) (n : Nat) (poisoned : Bool) : State :=
  match c.pos, c.counter with
  | some q, some k =>
    modCluster s q (fun x =>
      match aget? x.arrivals k with
      | some a => { x with arrivals := aput x.arrivals k { a with count := a.count + BitVec.ofNat 24 n, poisoned := a.poisoned || poisoned } }
      | none => x)
  | _, _ => s

/-- Lines that land for a command: they leave its wait and its counter counts them. -/
def landLines (s : State) (c : Cmd) (ls : List Nat) (poisoned : Bool) : State :=
  let hit := c.await.filter ls.contains
  let s1 := countArrivals s c hit.length poisoned
  setCmd s1 { c with await := c.await.filter (fun l => !(ls.contains l)) }

/-- LINE_ARRIVAL (R31): a line of the module's own carafe or of the host, or of a peer, lands. Own lines land from resident
pages only, with the contents that they have. A line that no bound counter expects lands for the commands that await it without
one. -/
def lineArrival (q counter address : Nat) (line : Line) (poisoned : Bool) (s : State) : State :=
  let l := address / 64
  let a := 64 * l
  let own := ownCarafe s a
  if own && pageState s (pageOf a) != some .resident then s
  else
    let s1 := if own then s else seeLine s l (lineBytes line) poisoned
    let p := s1.poison.contains l
    match aget? (clusterOf s1 q).arrivals counter with
    | some k =>
      match findCmd s1 k.ctx k.idx with
      | some c => if c.await.contains l then landLines s1 c [l] p else s1
      | none => s1
    | none => seqAll s1 (s1.cmds.filter (fun c => c.counter.isNone && c.await.contains l)) (fun s c => landLines s c [l] p)

def execLineArrival (q counter address : Nat) (line : Line) (poisoned : Bool) (s : State) : Host.Outcome State Fault Refusal :=
  .next (lineArrival q counter address line poisoned s)

/-- R297: a command's holds: one HOLD for each peer page that it writes. -/
def sendHolds (s : State) (c : Cmd) (pages : List (Nat × Nat)) : State :=
  let s1 := seqAll s pages (fun s p =>
    send s 0 mtHold (hSvc c.desc) p.1 c.epoch.toNat (cmdTag c) (2 ^ 50 * p.1 + 65536 * p.2) [])
  setCmd s1 { c with holdsSent := true, holdsDue := pages }

/-- The peer pages (module, page) that cells write. -/
def peerPages (s : State) (cs : List Host.Cell) : List (Nat × Nat) :=
  ((cellLines cs).filter (peerLine s)).foldl (fun ps l =>
    let p := (gaMod (64 * l), pageOf (64 * l))
    if ps.contains p then ps else ps ++ [p]) []

/-- The bytes that cells write in one 64-byte line, as one message: a mask of the bytes written, then the line
(log entry 43). -/
def lineMessage (m : Memory) (cs : List Host.Cell) (l : Nat) : List Byte :=
  let mask := ((List.range 64).filter (fun i => cs.any (fun c => c.1 == 64 * l + i))).foldl (fun v i => v + 2 ^ i) 0
  leBytes 8 mask ++ (List.range 64).map (fun i => mget m (64 * l + i))

/-- R297: the cells of a command's peer writes, as WRITE_DATA by line. -/
def sendWrites (s : State) (c : Cmd) (cs : List Host.Cell) : State :=
  let m := mapply [] cs
  seqAll s ((cellLines cs).filter (peerLine s)) (fun s l =>
    send s 0 mtWriteData (hSvc c.desc) (gaMod (64 * l)) c.epoch.toNat (cmdTag c) (64 * l) (lineMessage m cs l))

end Sys2Proof.Machine
end

