-- ==== Sys2Proof/Machine/Control.lean ====
section
/-! DEFINITION. FENCE, WAIT, SIGNAL and HUDDLE (R248 to R253), and the messages and timers that act on signal words and huddle
counters. -/

namespace Sys2Proof.Machine

/-- A control row (R248 to R253): validation, and from then on the command's own action while its status is not decided. -/
def controlStep (owns : Desc → Bool) (checks : State → Cmd → List Check) (act : State → Cmd → State) (ctx idx : Nat) (s : State) :
    State :=
  match findCmd s ctx idx with
  | none => s
  | some c =>
    if owns c.desc then
      if c.stage = .fetched then
        validate { checks := checks, noop := fun _ _ => false, take := takeNone, from_ := .validated, run := fun _ _ => .wait } s c
      else if c.stage = .validated then act s c
      else s
    else s

/-- R253, order 3: svc and branch. -/
def controlChecks (s : State) (c : Cmd) (listed range : Bool) (access : Bool) : List Check :=
  [headerCheck c.desc, ⟨1, .format, listed⟩, ⟨2, .format, range⟩, svcCheck s c 3] ++ branchChecks s c 3
  ++ [⟨3, .permission, access⟩]

/-! ### FENCE (R248) -/

def fenceChecks (s : State) (c : Cmd) : List Check := controlChecks s c (resZero c.desc [(16, 112)]) true true

def fenceAct (s : State) (c : Cmd) : State := if earlierDone s c then failCmd s c .ok 0 0 else s

/-- FENCE (R248). -/
def execFence (ctx idx : Nat) (s : State) : Host.Outcome State Fault Refusal :=
  .next (controlStep (isOp 5 1) fenceChecks fenceAct ctx idx s)

/-! ### Signal words (R249, R250) -/

/-- The body of a WAIT or SIGNAL. -/
structure Sg where
  op      : Nat
  timeout : Nat
  addr    : Nat
  value   : Nat
  deriving DecidableEq, Repr, Inhabited

def sgOf (d : Desc) : Sg := { op := fld d 16 1, timeout := fld d 20 4, addr := fld d 24 8, value := fld d 32 8 }

/-- R253, order 2: an aligned address in carafe or host space. -/
def sgPlaced (x : Sg) : Bool := x.addr % 8 == 0 && (gaSpace x.addr == 0 || gaSpace x.addr == 2)

def waitChecks (s : State) (c : Cmd) : List Check :=
  let x := sgOf c.desc
  controlChecks s c (decide (x.op ≤ 1) && resZero c.desc [(17, 3), (40, 88)]) (decide (x.timeout ≤ 4000000) && sgPlaced x)
    (readable s c.ctx [(x.addr, 8)])

/-- R250: a WAIT judges the word as it now reads. -/
def waitJudge (s : State) (c : Cmd) : State :=
  let x := sgOf c.desc
  match meetLine s true x.addr with
  | .wait => s
  | .fails st => failCmd s c st 0 0
  | .fine =>
    if s.poison.contains (x.addr / 64) then failCmd s c .poison 0 0
    else
      let v := mnat s.mem x.addr 8
      if (if x.op = 0 then decide (x.value ≤ v) else v == x.value) then failCmd s c .ok 0 v
      else setCmd s { c with lastValue := w64 v }

/-- R250, R298: a WAIT reads its word: a peer's word by READ_REQ, one at a time, and its own module's or the host's at once. -/
def waitRead (s : State) (c : Cmd) : State :=
  let x := sgOf c.desc
  if peerCarafe s x.addr then
    if isDead s (gaMod x.addr) then failCmd s c .moduleDead 0 0
    else
      match c.peerError with
      | some st => failCmd s c st 0 0
      | none => if !(awaits s c) then awaitLines s c [x.addr / 64] else s
  else waitJudge s c

/-- WAIT (R250). -/
def execWait (ctx idx : Nat) (s : State) : Host.Outcome State Fault Refusal :=
  .next (controlStep (isOp 5 2) waitChecks waitRead ctx idx s)

/-- A validated WAIT. -/
def waiting (c : Cmd) : Bool := hClass c.desc == 5 && hOp c.desc == 2 && c.stage == .validated

/-- WAIT_POLL (R250). -/
def waitPoll (ctx idx : Nat) (s : State) : State :=
  match findCmd s ctx idx with
  | some c => if waiting c then waitRead s c else s
  | none => s

def execWaitPoll (ctx idx : Nat) (s : State) : Host.Outcome State Fault Refusal := .next (waitPoll ctx idx s)

/-- WAIT_TIMEOUT (R250): timeout_us has elapsed since validation. -/
def waitTimeout (ctx idx : Nat) (s : State) : State :=
  match findCmd s ctx idx with
  | some c =>
    let x := sgOf c.desc
    if waiting c && x.timeout != 0 && decide (us x.timeout ≤ since s c.validatedAt) then failCmd s c .deadline 0 c.lastValue.toNat
    else s
  | none => s

def execWaitTimeout (ctx idx : Nat) (s : State) : Host.Outcome State Fault Refusal := .next (waitTimeout ctx idx s)

/-! ### SIGNAL (R249, R298) -/

def signalChecks (s : State) (c : Cmd) : List Check :=
  let x := sgOf c.desc
  controlChecks s c (decide (x.op ≤ 1) && resZero c.desc [(17, 7), (40, 88)]) (sgPlaced x) (writable s c.ctx [(x.addr, 8)])

/-- What a SIGNAL does to a word of this module or of the host. -/
inductive SignalOut where
  | wait
  | fails (st : Status)
  | done (s : State) (result : Nat)

/-- The WAITs of this module on a word read it after a SIGNAL (R250). -/
def wakeWaits (s : State) (a : Nat) : State :=
  seqAll s (s.cmds.filter (fun c => waiting c && (sgOf c.desc).addr == a)) waitJudge

/-- R249: SET or ADD on a word, indivisibly. -/
def applySignal (s : State) (op a value : Nat) : SignalOut :=
  match meetLine s true a with
  | .wait => .wait
  | .fails st => .fails st
  | .fine =>
    if op = 1 && s.poison.contains (a / 64) then .fails .poison
    else if op = 1 && isHost a && !Config.hostAtomics then .fails .state
    else
      let old := mnat s.mem a 8
      let new := if op = 0 then value else (old + value) % 2 ^ 64
      .done (wakeWaits (storeCells s (cellsNat a 8 new)) a) (if op = 0 then 0 else old)

/-- The command after its operation has taken effect. -/
def signalAct (s : State) (c : Cmd) : State :=
  let x := sgOf c.desc
  if !(earlierDone s c) then s
  else if peerCarafe s x.addr then
    if isDead s (gaMod x.addr) then failCmd s c .moduleDead 0 0
    else
      let s1 := send s 0 mtSignal (hSvc c.desc) (gaMod x.addr) c.epoch.toNat (cmdTag c) x.addr
        (leBytes 1 x.op ++ leBytes 7 0 ++ leBytes 8 x.value)
      setCmd s1 { c with stage := .committed, acksDue := [gaMod x.addr] }
  else
    match applySignal s x.op x.addr x.value with
    | .wait => s
    | .fails st => failCmd s c st 0 0
    | .done s1 r => failCmd s1 c .ok 0 r

/-- SIGNAL (R249). -/
def execSignal (ctx idx : Nat) (s : State) : Host.Outcome State Fault Refusal :=
  .next (controlStep (isOp 5 3) signalChecks signalAct ctx idx s)

/-- The status that the first data byte of an ACK names (log entry 43). -/
def ackStatus (n : Nat) : Status :=
  match n with
  | 0 => .ok
  | 1 => .permission
  | 2 => .moduleDead
  | 3 => .poison
  | _ => .state

def ackCode (st : Status) : Nat :=
  match st with
  | .ok => 0
  | .permission => 1
  | .moduleDead => 2
  | .poison => 3
  | _ => 4

/-- R298: a SIGNAL message takes effect here; its result word returns in the ACK. A word on an EVICTED page waits for the recall
of the page (R198), which the hub starts. -/
def signalDeliver (s : State) (f : Flit) : Option State :=
  let op := lineNat f 0 1
  let ack := fun (s : State) (st : Status) (r : Nat) =>
    send s 0 mtAck f.cls f.src f.epoch f.tag f.address (leBytes 1 (ackCode st) ++ leBytes 7 0 ++ leBytes 8 r)
  match applySignal s op f.address (lineNat f 8 8) with
  | .wait => none
  | .fails st => some (ack s st 0)
  | .done s1 r => some (ack s1 .ok r)

/-- R298: the ACK of a SIGNAL. -/
def signalAck (s : State) (c : Cmd) (f : Flit) : State := failCmd s c (ackStatus (lineNat f 0 1)) 0 (lineNat f 8 8)

/-! ### HUDDLE (R251, R252) -/

/-- The body of a HUDDLE. -/
structure Hd where
  id      : Nat
  home    : Nat
  n       : Nat
  epoch   : Nat
  timeout : Nat
  deriving DecidableEq, Repr, Inhabited

def hdOf (d : Desc) : Hd :=
  { id := fld d 16 2, home := fld d 18 2, n := fld d 20 4, epoch := fld d 24 4, timeout := fld d 28 4 }

def huddleChecks (s : State) (c : Cmd) : List Check :=
  let x := hdOf c.desc
  controlChecks s c (resZero c.desc [(32, 96)])
    (decide (x.id ≤ 1023 ∧ x.home ≤ 16383 ∧ 1 ≤ x.n ∧ x.n ≤ 4194304 ∧ x.timeout ≤ 4000000)) true

/-- A waiting HUDDLE. -/
def huddling (c : Cmd) : Bool := hClass c.desc == 5 && hOp c.desc == 4 && c.stage == .validated && c.arrived

/-- The kinds of a HUDDLE message (log entry 43). -/
def hkArrival : Nat := 0
def hkEnd : Nat := 1
def hkWithdraw : Nat := 2

/-- A HUDDLE that has arrived completes: at its own module, or by a message. -/
def huddleEnd (epoch : Nat) (st : Status) (id : Nat) (s : State) (a : HuddleArrival) : State :=
  if a.module = selfId s then
    match findTag s a.tag with
    | some c => if huddling c then failCmd s c st 0 (if st = .ok then epoch else 0) else s
    | none => s
  else
    send s 0 mtHuddle a.cls a.module 0 a.tag id
      (leBytes 1 hkEnd ++ leBytes 1 (if st = .deadline then 5 else ackCode st) ++ leBytes 2 0 ++ leBytes 4 epoch)

def huddleOf (s : State) (id : Nat) : Huddle := aget s.huddles id {}

def setHuddle (s : State) (id : Nat) (h : Huddle) : State := { s with huddles := aput s.huddles id h }

/-- The next epoch of a counter, with its count at 0. -/
def nextEpoch (h : Huddle) : Huddle := { epoch := h.epoch + 1 }

/-- R251, R252: an arrival at the home. -/
def huddleArrive (s : State) (id : Nat) (a : HuddleArrival) (epoch n timeout : Nat) : State :=
  let h := huddleOf s id
  if h.epoch.toNat ≠ epoch then huddleEnd epoch .state id s a
  else if h.participants ≠ 0 ∧ (h.participants ≠ n ∨ h.timeoutUs ≠ timeout) then huddleEnd epoch .state id s a
  else
    let h1 := { h with arrivals := h.arrivals ++ [a], participants := n, timeoutUs := timeout
                       since := if h.participants = 0 then s.localTime else h.since }
    if n ≤ h1.arrivals.length then seqAll (setHuddle s id (nextEpoch h1)) h1.arrivals (huddleEnd epoch .ok id)
    else setHuddle s id h1

/-- R252: an epoch is aborted; the arrivals of a module are not answered. -/
def huddleAbort (s : State) (id : Nat) (st : Status) (gone : Option Nat) : State :=
  let h := huddleOf s id
  seqAll (setHuddle s id (nextEpoch h)) (h.arrivals.filter (fun a => gone != some a.module)) (huddleEnd h.epoch.toNat st id)

/-- R251, steps 1 and 2: the arrival goes out once every earlier descriptor has completed. -/
def huddleAct (s : State) (c : Cmd) : State :=
  let x := hdOf c.desc
  if c.arrived || !(earlierDone s c) then s
  else if isDead s x.home then failCmd s c .moduleDead 0 0
  else
    let s1 := setCmd s { c with arrived := true }
    if x.home = selfId s then
      huddleArrive s1 x.id { module := selfId s, tag := cmdTag c, cls := hSvc c.desc } x.epoch x.n x.timeout
    else
      send s1 0 mtHuddle (hSvc c.desc) x.home c.epoch.toNat (cmdTag c) x.id
        (leBytes 1 hkArrival ++ leBytes 3 0 ++ leBytes 4 x.epoch ++ leBytes 4 x.n ++ leBytes 4 x.timeout)

/-- HUDDLE (R251). -/
def execHuddle (ctx idx : Nat) (s : State) : Host.Outcome State Fault Refusal :=
  .next (controlStep (isOp 5 4) huddleChecks huddleAct ctx idx s)

/-- An arrival withdrawn from the count (R252). -/
def huddleForget (s : State) (id module tag : Nat) : State :=
  let h := huddleOf s id
  setHuddle s id { h with arrivals := h.arrivals.filter (fun a => !(a.module == module && a.tag == tag)) }

/-- R252: a waiting HUDDLE that is killed withdraws its arrival. -/
def huddleWithdraw (s : State) (c : Cmd) : State :=
  let x := hdOf c.desc
  if !(huddling c) then s
  else if x.home = selfId s then huddleForget s x.id (selfId s) (cmdTag c)
  else send s 0 mtHuddle (hSvc c.desc) x.home c.epoch.toNat (cmdTag c) x.id (leBytes 1 hkWithdraw ++ leBytes 3 0 ++ leBytes 4 x.epoch)

/-- R251, R252: a HUDDLE message is delivered. -/
def huddleDeliver (s : State) (f : Flit) : State :=
  let k := lineNat f 0 1
  if k = hkArrival then
    huddleArrive s (f.address % 1024) { module := f.src, tag := f.tag, cls := f.cls } (lineNat f 4 4) (lineNat f 8 4) (lineNat f 12 4)
  else if k = hkWithdraw then huddleForget s (f.address % 1024) f.src f.tag
  else
    match findTag s f.tag with
    | some c =>
      let st := if lineNat f 1 1 = 5 then Status.deadline else ackStatus (lineNat f 1 1)
      if huddling c && (hdOf c.desc).home == f.src then failCmd s c st 0 (if st = .ok then lineNat f 4 4 else 0) else s
    | none => s

/-- HUDDLE_TIMEOUT (R252): timeout_us of the epoch's first arrival has elapsed since it. -/
def huddleTimeout (id : Nat) (s : State) : State :=
  let h := huddleOf s id
  if h.participants ≠ 0 ∧ h.timeoutUs ≠ 0 ∧ us h.timeoutUs ≤ since s h.since then huddleAbort s id .deadline none else s

def execHuddleTimeout (huddle : Nat) (s : State) : Host.Outcome State Fault Refusal := .next (huddleTimeout huddle s)

/-- R252: a module that holds an arrival, or is the home of one, is declared dead or has a new incarnation. -/
def huddleDeaths (s : State) (m : Nat) : State :=
  let held := (s.huddles.filter (fun h => h.2.arrivals.any (fun a => a.module == m))).map Prod.fst
  let s1 := seqAll s held (fun s id => huddleAbort s id .moduleDead (some m))
  seqAll s1 (s1.cmds.filter (fun c => huddling c && (hdOf c.desc).home == m)) (fun s c => failCmd s c .moduleDead 0 0)

end Sys2Proof.Machine
end

