-- ==== Sys2Proof/Machine/Umpire.lean ====
section
/-! DEFINITION. The Umpire's compatibility matrix and queue (R436, R437). -/

namespace Sys2Proof.Machine

/-- The ranks of R437's table. -/
def rkRetire : Nat := 1
def rkChannel : Nat := 2
def rkLink : Nat := 3
def rkSensor : Nat := 4
def rkLog : Nat := 5
def rkSnapshot : Nat := 6
def rkSwap : Nat := 7
def rkStaging : Nat := 8
def rkActivate : Nat := 9
def rkScrub : Nat := 10

/-- An entry of the matrix: compatible, incompatible, or incompatible in one scope instance. -/
inductive Compat where
  | yes
  | no
  | scoped
  deriving DecidableEq, Repr

/-- R436, for a rank and another of at least that rank. -/
def compatRank (a b : Nat) : Compat :=
  if b = 9 ∨ a = 9 then .no
  else if (a = 1 ∨ a = 2 ∨ a = 10) ∧ (b = 1 ∨ b = 2 ∨ b = 10) then .scoped
  else if a = b ∧ (a = 3 ∨ a = 4) then .scoped
  else if (a = 5 ∨ a = 8) ∧ (b = 5 ∨ b = 8) then .no
  else if a = 7 ∧ (b = 1 ∨ b = 2 ∨ b = 3 ∨ b = 6 ∨ b = 7) then .no
  else if b = 7 ∧ (a = 1 ∨ a = 2 ∨ a = 3 ∨ a = 6) then .no
  else .yes

/-- Whether two activities may run together (R436). -/
def compatible (x y : Activity) : Bool :=
  match compatRank x.rank y.rank with
  | .yes => true
  | .no => false
  | .scoped => x.scope != y.scope

/-- Whether an activity is compatible with everything that runs. -/
def umpFits (s : State) (a : Activity) : Bool := s.mgmt.running.all (compatible a)

/-- R437: an activity that has waited 10 s. -/
def umpAged (s : State) (a : Activity) : Bool := decide (us 10000000 ≤ since s a.since)

/-- Whether an activity runs. -/
def umpRuns (s : State) (rank scope : Nat) (info : Nat × Nat) : Bool :=
  s.mgmt.running.any (fun a => a.rank == rank && a.scope == scope && a.info == info)

/-- Whether an activity runs or waits. -/
def umpKnown (s : State) (rank scope : Nat) (info : Nat × Nat) : Bool :=
  (s.mgmt.running ++ s.mgmt.queued).any (fun a => a.rank == rank && a.scope == scope && a.info == info)

/-- R437: an activity is asked for: it runs at once where it may, or joins the queue. -/
def umpAsk (s : State) (rank scope : Nat) (info : Nat × Nat) : State :=
  let a : Activity := { rank := rank, scope := scope, since := s.localTime, info := info }
  if umpFits s a && !(s.mgmt.queued.any (umpAged s)) then { s with mgmt := { s.mgmt with running := s.mgmt.running ++ [a] } }
  else { s with mgmt := { s.mgmt with queued := s.mgmt.queued ++ [a] } }

/-- An activity ends, or is given up. -/
def umpEnd (s : State) (rank scope : Nat) (info : Nat × Nat) : State :=
  let keep := fun a : Activity => !(a.rank == rank && a.scope == scope && a.info == info)
  { s with mgmt := { s.mgmt with running := s.mgmt.running.filter keep, queued := s.mgmt.queued.filter keep } }

/-- The first of several activities by rank, then by request. -/
def firstByRank : List Activity → Option Activity
  | [] => none
  | a :: as =>
    match firstByRank as with
    | none => some a
    | some b => if b.rank < a.rank then some b else some a

/-- R437: the queued activity that is admitted next: the oldest, where it has waited 10 s; else the lowest rank that fits. -/
def umpNext (s : State) : Option Activity :=
  match s.mgmt.queued.find? (umpAged s) with
  | some a => if umpFits s a then some a else none
  | none => firstByRank (s.mgmt.queued.filter (umpFits s))

/-- The queue with an activity moved to those that run. -/
def umpMove (s : State) (a : Activity) : State :=
  { s with mgmt := { s.mgmt with running := s.mgmt.running ++ [a], queued := s.mgmt.queued.erase a } }

end Sys2Proof.Machine
end

