-- ==== Sys2Proof/Machine/Snapshot.lean ====
section
/-! DEFINITION. SNAPSHOT: TAKE, VOTE, TAKE_IF, RESTORE, QUERY, DIGEST and CHECK (R321 to R337). -/

namespace Sys2Proof.Machine

/-- The body of a SNAPSHOT descriptor (R322). -/
structure Sn where
  op       : Nat
  slot     : Nat
  count    : Nat
  manifest : Nat
  buddy    : Nat
  pages    : Nat
  hint     : Nat
  step     : Nat
  vote     : Nat
  group    : Nat
  res      : Nat
  ref      : Nat
  deriving Inhabited

def snOf (d : Desc) : Sn :=
  { op := fld d 16 1, slot := fld d 17 1, count := fld d 20 4, manifest := fld d 24 8, buddy := fld d 32 8, pages := fld d 40 4,
    hint := fld d 44 4, step := fld d 48 8, vote := fld d 56 8, group := fld d 64 8, res := fld d 72 8, ref := fld d 80 2 }

/-- A SNAPSHOT with snap_op k, or with a snap_op that is not listed (log entry 21). -/
def isSnap (k : Nat) (d : Desc) : Bool :=
  isOp 5 6 d && (!(opListed (hClass d) (hOp d)) || fld d 16 1 == k || decide (6 < fld d 16 1))

def snTakes (x : Sn) : Bool := x.op == 0 || x.op == 2
/-- The operations with a manifest. -/
def snLists (x : Sn) : Bool := snTakes x || x.op == 5 || x.op == 6
/-- The operations on a buddy region. -/
def snBuddy (x : Sn) : Bool := snTakes x || x.op == 3 || x.op == 4

def allOnes64 : Nat := 0xFFFFFFFFFFFFFFFF

/-- The bytes of a manifest. -/
def snManifest (x : Sn) : List (Nat × Nat) := if snLists x then [(x.manifest, 32 * x.count)] else []

/-- Both slots of the buddy region. -/
def snRegion (x : Sn) : List (Nat × Nat) := if snBuddy x then [(x.buddy, 2 * x.pages * 65536)] else []

/-- R322: a field is in range where its operation uses it, and 0 where it does not. -/
def usedIf (u : Bool) (v : Nat) (range : Bool) : Bool := if u then range else v == 0

/-- R336, order 2. -/
def snRanges (s : State) (x : Sn) : Bool :=
  usedIf (snLists x) x.count (decide (x.count ≤ 65536))
  && usedIf (snLists x) x.manifest (ownCarafe s x.manifest || isHost x.manifest)
  && usedIf (snBuddy x) x.buddy (isCarafe x.buddy && gaMod x.buddy != selfId s)
  && usedIf (snBuddy x) x.pages (decide (1 ≤ x.pages ∧ x.pages ≤ 4194304))
  && usedIf (x.op == 1) x.hint (decide (1 ≤ x.hint ∧ x.hint ≤ 3600000))
  && usedIf (snTakes x || x.op == 3) x.step true
  && usedIf (x.op == 1 || x.op == 2) x.vote true
  && usedIf (x.op == 1) x.group true
  && usedIf (x.op == 4 || x.op == 5 || x.op == 6) x.res true
  && usedIf (x.op == 6) x.ref (decide (x.ref < 16384))

/-- The bytes of the results. -/
def snResults (x : Sn) : List (Nat × Nat) :=
  match x.op with
  | 4 => [(x.res, 128)]
  | 5 => [(x.res, 64 * x.count)]
  | 6 => [(x.res, 64 * x.count)]
  | _ => []

def snNoop (x : Sn) : Bool := snLists x && x.count == 0

/-- R336. -/
def snChecks (s : State) (c : Cmd) : List Check :=
  let d := c.desc
  let x := snOf d
  [headerCheck d,
   ⟨1, .format, decide (x.op ≤ 6) && (if x.op = 3 then x.slot == 0 || x.slot == 1 || x.slot == 255 else x.slot == 0)
     && resZero d [(18, 2), (82, 46)]⟩,
   ⟨2, .format, snRanges s x⟩,
   ⟨3, .format, aligned 64 [x.manifest, x.vote, x.group, x.res] && aligned 65536 [x.buddy]⟩,
   svcCheck s c 4] ++ branchChecks s c 4 ++
  [⟨4, .permission, snNoop x ||
     (readable s c.ctx (snManifest x ++ (if x.op = 1 then groupRange s x.group else []) ++ (if x.op = 2 then [(x.vote, 4)] else [])
        ++ (if x.op = 3 || x.op == 4 then snRegion x else []))
      && writable s c.ctx ((if x.op = 1 || x.op == 2 then [(x.vote, 4)] else []) ++ snResults x
        ++ (if snTakes x then snRegion x else [])))⟩]

/-! ### Manifest and slots (R323, R324) -/

/-- A manifest entry. -/
structure Ent where
  kind : Nat
  repl : Bool
  addr : Nat
  len  : Nat
  deriving DecidableEq, Repr, Inhabited

def entAt (m : Memory) (a i : Nat) : Ent :=
  { kind := mnat m (a + 32 * i) 1, repl := mnat m (a + 32 * i + 1) 1 % 2 == 1, addr := mnat m (a + 32 * i + 8) 8,
    len := mnat m (a + 32 * i + 16) 8 }

/-- R323. -/
def entListed (s : State) (m : Memory) (a i : Nat) : Bool :=
  let e := entAt m a i
  decide (1 ≤ e.kind ∧ e.kind ≤ 3) && decide (mnat m (a + 32 * i + 1) 1 ≤ 1) && mnat m (a + 32 * i + 2) 6 == 0
  && mnat m (a + 32 * i + 24) 8 == 0
  && (match e.kind with
      | 1 => ownCarafe s e.addr && e.addr % 64 == 0 && e.len % 64 == 0
      | 2 => ownCarafe s e.addr && e.addr % 8 == 0 && e.len == 8
      | _ => e.addr == 0 && e.len == 0)

def entries (m : Memory) (a count : Nat) : List Ent := (List.range count).map (entAt m a)

/-- The branches of a context, rising (R323). -/
def ctxBranches (s : State) (ctx : Nat) : List (Nat × Branch) := s.branches.filter (fun b => b.2.ctx == ctx)

/-- The data of STREAMS (R324). -/
def streamsData (s : State) (ctx : Nat) : List Byte :=
  let c := ctxOf s ctx
  let bs := ctxBranches s ctx
  leBytes 8 c.streamKey.toNat ++ leBytes 8 c.streamCtr.toNat ++ leBytes 4 bs.length ++ leBytes 12 0
  ++ bs.flatMap (fun b => leBytes 4 b.1 ++ leBytes 4 0 ++ leBytes 8 b.2.rngKey.toNat ++ leBytes 8 b.2.rngCounter.toNat ++ leBytes 8 0)

/-- Bytes of an entry's data in a slot. -/
def entBytes (s : State) (ctx : Nat) (e : Ent) : Nat := if e.kind = 3 then 32 + 32 * (ctxBranches s ctx).length else e.len

/-- The offset of each entry's data, and the bytes used of the slot. -/
def slotLayout : Nat → List Nat → List Nat × Nat
  | o, [] => ([], o)
  | o, n :: ns =>
    let p := slotLayout (up64 o + n) ns
    (up64 o :: p.1, p.2)

def slotAddr (x : Sn) (i : Nat) : Nat := x.buddy + i * x.pages * 65536

def slotSeq (m : Memory) (x : Sn) (i : Nat) : Nat := mnat m (slotAddr x i) 8

/-- R325, step 1: the inactive slot. -/
def inactiveSlot (m : Memory) (x : Sn) : Nat := if slotSeq m x 1 < slotSeq m x 0 then 1 else 0

/-- The valid slot with the larger seq. -/
def newestSlot (m : Memory) (x : Sn) : Option Nat :=
  if slotSeq m x 0 = 0 && slotSeq m x 1 == 0 then none else if slotSeq m x 0 < slotSeq m x 1 then some 1 else some 0

/-- R330: the slot that a RESTORE selects. -/
def chooseSlot (m : Memory) (x : Sn) : Option Nat :=
  if x.slot = 255 then
    (if x.step = allOnes64 then newestSlot m x
     else [0, 1].find? (fun i => slotSeq m x i != 0 && mnat m (slotAddr x i + 8) 8 == x.step))
  else if slotSeq m x x.slot = 0 then none else some x.slot

def slotHeaders (x : Sn) : List (Nat × Nat) := [(slotAddr x 0, 64), (slotAddr x 1, 64)]

/-- The slot header that a TAKE writes at commit (R324). -/
def slotHeader (s : State) (c : Cmd) (x : Sn) (addr seq bytes : Nat) : List Host.Cell :=
  cellsAt addr (leBytes 8 seq ++ leBytes 8 x.step ++ leBytes 2 (selfId s) ++ leBytes 1 c.ctx ++ leBytes 1 0 ++ leBytes 4 x.count
    ++ leBytes 8 bytes ++ leBytes 8 s.localTime.toNat ++ leBytes 8 (calStamp s).toNat ++ leBytes 16 0)

/-! ### What an operation needs next -/

inductive SnapOut where
  | wait
  | fails (st : Status)
  /-- reads these ranges, then goes on -/
  | read (rs : List (Nat × Nat))
  /-- asks the Umpire -/
  | request
  /-- writes a slot header with seq 0 at once, and holds the pages of the slot -/
  | hold (slot bytes : Nat) (c : Cmd)
  | done (c : Cmd)

/-- Reads local data that must be there: meets of R192 to R207 first. -/
def snapRead (s : State) (c : Cmd) (used writes : List (Nat × Nat)) (k : Memory → SnapOut) : SnapOut :=
  if !(readable s c.ctx used) || !(writable s c.ctx writes) then .fails .permission
  else
    match meet s used writes with
    | .wait => .wait
    | .fails st => .fails st
    | .fine => k (operandMem s used)

/-- Meets without the access list, for the slots, which R336 has checked, and for the reference replica. -/
def snapMeet (s : State) (used : List (Nat × Nat)) (k : Memory → SnapOut) : SnapOut :=
  match meet s used [] with
  | .wait => .wait
  | .fails st => .fails st
  | .fine => k (operandMem s used)

/-- The ranges of a manifest's tensors and cursors. -/
def entRanges (es : List Ent) : List (Nat × Nat) := (es.filter (fun e => e.kind != 3)).map (fun e => (e.addr, e.len))

/-- The manifest, checked. -/
def withManifest (s : State) (x : Sn) (k : List Ent → SnapOut) : SnapOut :=
  snapMeet s (snManifest x) (fun m =>
    if (List.range x.count).all (entListed s m x.manifest) then k (entries m x.manifest x.count) else .fails .format)

/-- The manifest copy of a slot: STREAMS entries hold the bytes that their data occupies. -/
def manifestCopy (s : State) (ctx : Nat) (es : List Ent) : List Byte :=
  es.flatMap (fun e => leBytes 1 e.kind ++ leBytes 1 (if e.repl then 1 else 0) ++ leBytes 6 0 ++ leBytes 8 e.addr
    ++ leBytes 8 (entBytes s ctx e) ++ leBytes 8 0)

/-- R325, steps 2 to 4, from the headers as read. -/
def takeStep (s : State) (c : Cmd) (x : Sn) : SnapOut :=
  withManifest s x (fun es =>
    snapMeet s (slotHeaders x) (fun hm =>
      let slot := inactiveSlot hm x
      let seq := max (slotSeq hm x 0) (slotSeq hm x 1) + 1
      let lay := slotLayout (64 + 32 * x.count) (es.map (entBytes s c.ctx))
      if x.pages * 65536 < lay.2 then .fails .state
      else
        snapRead s c (entRanges es) [] (fun m =>
          let a := slotAddr x slot
          let data := ((es.zip lay.1).flatMap (fun p =>
            cellsAt (a + p.2) (if p.1.kind = 3 then streamsData s c.ctx else mread m p.1.addr p.1.len)))
          .hold a lay.2 { c with list := [a, seq, lay.2]
                                 work := { writes := cellsAt (a + 64) (manifestCopy s c.ctx es) ++ data, result := 1 + 2 ^ 32 * (seq % 2 ^ 32) } })))

/-- TAKE from turn t on (R325). -/
def takeTurn (s : State) (c : Cmd) (x : Sn) (t : Nat) : SnapOut :=
  match t with
  | 0 => .request
  | 1 => .read (slotHeaders x)
  | 2 => takeStep s c x
  | _ => if c.holdsDue.isEmpty then .done c else .wait

/-- R328: FP64 with round to nearest-even. -/
def f64 (v : FV) : FV := decodeFlt fltFp64 (roundTo fltFp64 v)

/-- ⌊√n⌋, bit by bit from 2^(k−1). -/
def isqrt (n : Nat) : Nat → Nat → Nat
  | 0, r => r
  | k + 1, r => if (r + 2 ^ k) * (r + 2 ^ k) ≤ n then isqrt n k (r + 2 ^ k) else isqrt n k r

/-- The square root of a value rounded once to FP64. -/
def fsqrt64 (v : FV) : FV :=
  match v with
  | .fin false n d e =>
    let k := if e % 2 = 0 then e else e - 1
    let w := (if e % 2 = 0 then n else 2 * n) * 4 ^ 120 / d
    let r := isqrt w (Nat.log2 w / 2 + 2) 0
    let exact := r * r = w ∧ w * d = (if e % 2 = 0 then n else 2 * n) * 4 ^ 120
    if n = 0 then v else f64 (.fin false (2 * r + (if exact then 0 else 1)) 1 (k / 2 - 121))
  | _ => .nan

def fvLe (a b : FV) : Bool :=
  match fvAdd a (fvNeg b) with
  | .fin neg n _ _ => neg || n == 0
  | _ => false

/-- ⌊v⌋ of a value that is not negative. -/
def fvFloor : FV → Nat
  | .fin false n d e => (ratScale n d e).1 / (ratScale n d e).2
  | _ => 0

/-- H-cycles as seconds in FP64. -/
def secs (t : Nat) : FV := f64 (fvDiv (f64 (fvInt t)) (fvInt 1000000000))

/-- R328: interval_ms and M. -/
def voteInterval (s : State) (x : Sn) (ctx : Nat) (members : List Nat) : Nat × FV :=
  let deaths := ((s.links.deathLog.reverse.filter (fun e => members.contains e.module && decide (since s e.time ≤ us 86400000000)))).take 64
  let n := deaths.length
  let w := if n = 64 then secs (since s ((deaths.getD 63 default).time)) else fvInt 86400
  let m := if n = 0 then fvInt 86400 else f64 (fvDiv w (fvInt n))
  let cost := match (ctxOf s ctx).takeCost with
    | some t => secs t.toNat
    | none => f64 (fvDiv (fvInt x.hint) (fvInt 1000))
  let i := fsqrt64 (f64 (fvMul (f64 (fvMul (fvInt 2) cost)) m))
  let i := if fvLe i (fvInt 30) then fvInt 30 else i
  let i := if fvLe (fvInt 3600) i then fvInt 3600 else i
  (fvFloor (f64 (fvMul i (fvInt 1000))), m)

/-- R329: whether a snapshot is due. -/
def voteDue (s : State) (ctx interval : Nat) : Bool :=
  let k := ctxOf s ctx
  match k.takeAt with
  | none => true
  | some t =>
    !k.takeCounts || isDead s k.takeBuddy
    || s.links.deathLog.any (fun e => e.module == k.takeBuddy && decide (since s e.time ≤ since s t))
    || decide (interval * us 1000 ≤ since s t)

def voteTurn (s : State) (c : Cmd) (x : Sn) : Nat → SnapOut
  | 0 => .read [(x.group, 64)]
  | 1 => .read (groupRange s x.group)
  | _ => snapRead s c (groupRange s x.group) [(x.vote, 4)] (fun _ =>
      match groupRecord s x.group with
      | none => .fails .format
      | some g =>
        let p := voteInterval s x c.ctx g.members
        let due := voteDue s c.ctx p.1
        .done { c with lastValue := w64 (p.1 + 2 ^ 32 * (fvFloor p.2 % 2 ^ 32))
                       work := { writes := cellsNat x.vote 4 (if due then 0x3F800000 else 0), result := if due then 1 else 0 } })

/-- TAKE_IF (R329). -/
def takeIfTurn (s : State) (c : Cmd) (x : Sn) : Nat → SnapOut
  | 0 => .read ((x.vote, 4) :: snManifest x)
  | 1 => snapRead s c [(x.vote, 4)] [] (fun m =>
      if flt fpZero (w32 (mnat m x.vote 4)) then takeTurn s c x 0 else .done { c with list := [], work := {} })
  | t + 2 => takeTurn s c x (t + 1)

/-! ### RESTORE (R330) -/

/-- The address that a saved entry is written to: the same offset in this module's own carafe space. -/
def ownAddr (s : State) (a : Nat) : Nat := 2 ^ 50 * selfId s + gaOff a

/-- The saved entries with the addresses of their data in a slot. -/
def slotEntries (m : Memory) (a : Nat) : List (Ent × Nat) :=
  let n := mnat m (a + 20) 4
  let es := entries m (a + 64) n
  es.zip ((slotLayout (64 + 32 * n) (es.map Ent.len)).1.map (a + ·))

/-- The stream records saved in STREAMS data at an address: the context (as number 65,536), then branches. -/
def savedStreams (m : Memory) (a : Nat) : List (Nat × W64 × W64) :=
  (65536, w64 (mnat m a 8), w64 (mnat m (a + 8) 8))
  :: (List.range (mnat m (a + 16) 4)).map (fun i =>
       let o := a + 32 + 32 * i
       (mnat m o 4, w64 (mnat m (o + 8) 8), w64 (mnat m (o + 16) 8)))

/-- The bytes of a slot from its header as read. -/
def slotRange (m : Memory) (a : Nat) : List (Nat × Nat) := [(a, mnat m (a + 24) 8)]

def restoreTurn (s : State) (c : Cmd) (x : Sn) : Nat → SnapOut
  | 0 => .read (slotHeaders x)
  | t + 1 => snapMeet s (slotHeaders x) (fun hm =>
      match chooseSlot hm x with
      | none => .fails .state
      | some i =>
        let a := slotAddr x i
        if mnat hm (a + 18) 1 ≠ c.ctx then .fails .state
        else if x.pages * 65536 < mnat hm (a + 24) 8 then .fails .state
        else if t = 0 then .read (slotRange hm a)
        else snapMeet s (slotRange hm a) (fun m =>
          let es := slotEntries m a
          if !(es.all (fun p => decide (1 ≤ p.1.kind ∧ p.1.kind ≤ 3))) then .fails .format
          else
            let targets := (es.filter (fun p => p.1.kind != 3)).map (fun p => (ownAddr s p.1.addr, p.1.len))
            snapRead s c [] targets (fun _ =>
              let streams := (es.filter (fun p => p.1.kind == 3)).flatMap (fun p => savedStreams m p.2)
              let cells := (es.filter (fun p => p.1.kind != 3)).flatMap (fun p => cellsAt (ownAddr s p.1.addr) (mread m p.2 p.1.len))
              let gone := streams.filter (fun r => r.1 != 65536 && (branchOf s r.1).isNone)
              .done { c with list := streams.map Prod.fst, draws := streams.map Prod.snd
                             work := { writes := cells, result := slotSeq hm x i % 2 ^ 32 + 2 ^ 32 * gone.length } })))

/-- QUERY (R331). -/
def queryTurn (s : State) (c : Cmd) (x : Sn) : Nat → SnapOut
  | 0 => .read (slotHeaders x)
  | _ => snapMeet s (slotHeaders x) (fun m =>
      snapRead s c [] (snResults x) (fun _ =>
        .done { c with work := { writes := cellsAt x.res (mread m (slotAddr x 0) 64 ++ mread m (slotAddr x 1) 64)
                                 result := match newestSlot m x with
                                   | some i => mnat m (slotAddr x i + 8) 8
                                   | none => allOnes64 } }))

/-! ### DIGEST and CHECK (R332, R333) -/

/-- R332: the digest of a range. -/
def rangeDigest (m : Memory) (a n : Nat) : List Byte :=
  shake256 ((List.range (ceilDiv n 65536)).flatMap (fun i => shake256 (mread m (a + 65536 * i) (min 65536 (n - 65536 * i))) 64)) 64

/-- An entry that DIGEST and CHECK compare. -/
def entCompared (e : Ent) : Bool := e.kind == 1 && e.repl

def hashed (es : List Ent) : List (Nat × Nat) := (es.filter entCompared).map (fun e => (e.addr, e.len))

def digestTurn (s : State) (c : Cmd) (x : Sn) : Nat → SnapOut
  | 0 => .read (snManifest x)
  | _ => withManifest s x (fun es =>
      snapRead s c (hashed es) (snResults x) (fun m =>
        .done { c with work := { writes := cellsAt x.res (es.flatMap (fun e =>
          if entCompared e then rangeDigest m e.addr e.len else List.replicate 64 0#8)) } }))

/-- The address of a byte at the same offset on the reference module. -/
def refAddr (x : Sn) (a : Nat) : Nat := 2 ^ 50 * x.ref + a % 2 ^ 50

/-- The entries compared, with the addresses of the reference digests. -/
def checked (x : Sn) (es : List Ent) : List (Ent × Nat) :=
  ((es.zipIdx).filter (fun p => entCompared p.1)).map (fun p => (p.1, refAddr x (x.res + 64 * p.2)))

/-- The compared entries whose digests differ. -/
def differing (m dm : Memory) (x : Sn) (es : List Ent) : List Ent :=
  ((checked x es).filter (fun p => rangeDigest m p.1.addr p.1.len != mread dm p.2 64)).map Prod.fst

def checkTurn (s : State) (c : Cmd) (x : Sn) : Nat → SnapOut
  | 0 => .read (snManifest x)
  | 1 => withManifest s x (fun es => .read ((checked x es).map (fun p => (p.2, 64))))
  | t + 2 => withManifest s x (fun es =>
      snapRead s c (hashed es) [] (fun m =>
        snapMeet s ((checked x es).map (fun p => (p.2, 64))) (fun dm =>
          let ds := differing m dm x es
          let refs := ds.map (fun e => (refAddr x e.addr, e.len))
          if t = 0 then .read refs
          else snapMeet s refs (fun rm =>
            snapRead s c [] (ds.map (fun e => (e.addr, e.len))) (fun _ =>
              .done { c with work := { writes := ds.flatMap (fun e => cellsAt e.addr (mread rm (refAddr x e.addr) e.len))
                                       result := ds.length + 2 ^ 32 * (checked x es).length } })))))

/-! ### The operation's driver -/

def snapTurn (s : State) (c : Cmd) : SnapOut :=
  let x := snOf c.desc
  match x.op with
  | 0 => if c.turn = 0 && !c.arrived then .read (snManifest x) else takeTurn s c x c.turn
  | 1 => voteTurn s c x c.turn
  | 2 => takeIfTurn s c x c.turn
  | 3 => restoreTurn s c x c.turn
  | 4 => queryTurn s c x c.turn
  | 5 => digestTurn s c x c.turn
  | _ => checkTurn s c x c.turn

/-- One step of a SNAPSHOT (R321): it starts once every earlier descriptor has completed. -/
def snapAct (s : State) (c : Cmd) : State :=
  match c.peerError with
  | some st => failCmd s c st 0 0
  | none =>
    if !(earlierDone s c) || awaits s c then s
    else
      match snapTurn s c with
      | .wait => s
      | .fails st => failCmd s c st 0 0
      | .read rs =>
        match meet s rs [] with
        | .fails .moduleDead => failCmd s c .moduleDead 0 0
        | _ => awaitLines s { c with turn := if (snOf c.desc).op = 0 && c.turn == 0 then 0 else c.turn + 1, arrived := true } (farLines s rs)
      | .request =>
        if umpRuns s rkSnapshot c.ctx (c.ctx, c.idx) then setCmd s { c with turn := c.turn + 1, takeStart := s.localTime }
        else if umpKnown s rkSnapshot c.ctx (c.ctx, c.idx) then s
        else umpAsk s rkSnapshot c.ctx (c.ctx, c.idx)
      | .hold a bytes c1 =>
        let s1 := send s 0 mtWriteData (hSvc c.desc) (gaMod a) c.epoch.toNat (cmdTag c) a
          (leBytes 8 (2 ^ 64 - 1) ++ List.replicate 64 0#8)
        let pages := (List.range (ceilDiv bytes 65536)).map (fun i => (gaMod a, pageOf a + i))
        sendHolds { s1 with mem := mwrite s1.mem a (List.replicate 64 0#8) } { c1 with turn := c1.turn + 1 } pages
      | .done c1 => setCmd s { c1 with stage := .issued }

/-- A SNAPSHOT row: validation, a no-op's end, and the steps of the operation. -/
def snapStep (owns : Desc → Bool) (ctx idx : Nat) (s : State) : State :=
  match findCmd s ctx idx with
  | none => s
  | some c =>
    if !(owns c.desc) then s
    else if c.stage = .fetched then
      validate { checks := snChecks, noop := fun _ c => snNoop (snOf c.desc), take := takeNone, from_ := .validated,
                 run := fun _ _ => .wait, reads := fun s c => let x := snOf c.desc; if x.op = 1 then groupRange s x.group else [] } s c
    else if c.stage = .validated then snapAct s c
    else s

/-- TAKE (R325, R326). -/
def execTake (ctx idx : Nat) (s : State) : Host.Outcome State Fault Refusal := .next (snapStep (isSnap 0) ctx idx s)
/-- VOTE (R328, R329). -/
def execVote (ctx idx : Nat) (s : State) : Host.Outcome State Fault Refusal := .next (snapStep (isSnap 1) ctx idx s)
/-- TAKE_IF (R329). -/
def execTakeIf (ctx idx : Nat) (s : State) : Host.Outcome State Fault Refusal := .next (snapStep (isSnap 2) ctx idx s)
/-- RESTORE (R330). -/
def execRestore (ctx idx : Nat) (s : State) : Host.Outcome State Fault Refusal := .next (snapStep (isSnap 3) ctx idx s)
/-- QUERY (R331). -/
def execQuery (ctx idx : Nat) (s : State) : Host.Outcome State Fault Refusal := .next (snapStep (isSnap 4) ctx idx s)
/-- DIGEST (R332, R333). -/
def execDigest (ctx idx : Nat) (s : State) : Host.Outcome State Fault Refusal := .next (snapStep (isSnap 5) ctx idx s)
/-- CHECK (R333). -/
def execCheck (ctx idx : Nat) (s : State) : Host.Outcome State Fault Refusal := .next (snapStep (isSnap 6) ctx idx s)

/-! ### What commits and completes with the command -/

/-- A SNAPSHOT descriptor. -/
def isSnapshot (d : Desc) : Bool := hClass d == 5 && hOp d == 6

/-- A TAKE, or a TAKE_IF that is taken. -/
def taking (c : Cmd) : Bool := isSnapshot c.desc && snTakes (snOf c.desc) && !c.list.isEmpty

/-- R325, step 5: the command with its slot header among its writes, as it begins to commit. -/
def snapSeal (s : State) (c : Cmd) : Cmd :=
  if taking c then
    { c with work := { c.work with writes := c.work.writes
                        ++ slotHeader s c (snOf c.desc) (c.list.getD 0 0) (c.list.getD 1 0) (c.list.getD 2 0) } }
  else c

/-- One saved stream record written back. -/
def restoreStream (ctx : Nat) (s : State) (r : Nat × W64 × W64) : State :=
  if r.1 = 65536 then modCtx s ctx (fun k => { k with streamKey := r.2.1, streamCtr := r.2.2 })
  else
    match branchOf s r.1 with
    | some b =>
      if b.ctx = ctx then { s with branches := aput s.branches r.1 { b with rngKey := r.2.1, rngCounter := r.2.2 } } else s
    | none => s

/-- What a SNAPSHOT changes beside memory when it commits (R329, R330, R339, R340). -/
def snapCommit (s : State) (c : Cmd) : State :=
  if !(isSnapshot c.desc) then s
  else
    match (snOf c.desc).op with
    | 1 => modCtx s c.ctx (fun k =>
        { k with snapInt := w32 (c.lastValue.toNat % 2 ^ 22), snapDue := c.work.result % 2 == 1,
                 snapMtbf := w32 (c.lastValue.toNat / 2 ^ 32) })
    | 3 =>
      let s1 := seqAll s (c.list.zip c.draws) (restoreStream c.ctx)
      let s2 := mirror s1 (c.list.filter (· != 65536))
      modCtx s2 c.ctx (fun k => { k with takeCounts := false, restoreAt := some s.localTime })
    | _ =>
      if taking c then
        modCtx s c.ctx (fun k =>
          { k with takeAt := some s.localTime, takeBuddy := gaMod (snOf c.desc).buddy, takeCounts := true })
      else s

/-- R325: the cost of a TAKE once its ACK has come. -/
def snapEnd (s : State) (c : Cmd) : State :=
  if taking c then
    let cost := since s c.takeStart
    modCtx s c.ctx (fun k => { k with takeCost := some (w64 cost), snapCost := w32 (ceilDiv cost (us 1000)) })
  else s

end Sys2Proof.Machine
end

