-- ==== Sys2Proof/Machine/Ranges.lean ====
section
/-! DEFINITION. What each command names: the byte ranges that it reads and writes, its scratch-window operands, and the tables
that it reads and writes (R92, R211, R269, R271). -/

namespace Sys2Proof.Machine

/-- The ranges that a command's descriptor names as read. Ranges that it finds by walking tables are found at its issue. -/
def cmdUsed (s : State) (c : Cmd) : List (Nat × Nat) :=
  let d := c.desc
  match hClass d, hOp d with
  | 1, 1 => mmUsed (mmOf d)
  | 1, 2 => cvUsed (cvOf d)
  | 1, 3 => atUsed false (atOf d)
  | 1, 4 => atUsed true (atOf d)
  | 1, 5 => let x := foOf d; foGroupRange x ++ skipIf (foNoop x) ((List.range x.rows).map (foRow x))
  | 1, 6 => scUsed (scOf d)
  | 1, 7 => elUsed (elOf d)
  | 1, 8 => wnUsed (wnOf d)
  | 1, 9 => dtUsed (dtOf d)
  | 2, 1 => mvUsed (mvOf d)
  | 2, 2 => tlUsed (tlOf d)
  | 3, 1 => apUsed (apOf d)
  | 3, 2 => tuUsed (tuOf d)
  | 3, 3 => vfUsed (vfOf d)
  | 3, 4 => pmUsed (pmOf d)
  | 3, 5 => fkUsed s (fkOf d)
  | 4, _ => coUsed c (coOf d)
  | _, _ => []

/-- The ranges that a command's descriptor names as written. -/
def cmdWrites (s : State) (c : Cmd) : List (Nat × Nat) :=
  let d := c.desc
  match hClass d, hOp d with
  | 1, 1 => mmWrites (mmOf d)
  | 1, 2 => cvWrites (cvOf d)
  | 1, 3 => atWrites false (atOf d)
  | 1, 4 => atWrites true (atOf d)
  | 1, 5 => foWrites (foOf d)
  | 1, 6 => scWrites (scOf d)
  | 1, 7 => elWrites (elOf d)
  | 1, 8 => wnWrites (wnOf d)
  | 1, 9 => dtWrites (dtOf d)
  | 2, 1 => mvWrites (mvOf d)
  | 2, 2 => tlWrites (tlOf d)
  | 3, 3 => vfWrites (vfOf d)
  | 3, 4 => pmWrites (pmOf d)
  | 3, 8 => if pkUnpark d then [] else saveRange s d
  | 4, _ => coWrites (coOf d) ((c.coll.map (fun r => r.members.length)).getD 1)
  | _, _ => []

/-- The offsets of a compute descriptor's operand addresses, in descriptor order. -/
def operandOffsets (op : Nat) : List Nat :=
  match op with
  | 1 => [48, 56, 64, 72, 80, 88]
  | 2 => [40, 48, 56, 64, 72]
  | 3 => [48, 56, 64, 72, 80, 88, 96]
  | 4 => [48, 56, 64, 72, 80, 88, 96]
  | 5 => [48, 56, 64]
  | 6 => [48, 56, 64, 72, 80, 88, 96]
  | 7 => [48, 56, 64, 72, 80]
  | 8 => [72, 80, 88, 96, 104, 112, 120]
  | _ => []

/-- The clusters whose scratch windows a compute command's operands lie in, in descriptor order (R269, step 3). -/
def scratchClusters (d : Desc) : List Nat :=
  (((operandOffsets (hOp d)).map (fun o => fld d o 8)).filter (fun a => a != 0 && isScratch a)).map scratchCluster

/-- The clusters of every scratch-window range that a command names (R266). -/
def scratchUse (s : State) (c : Cmd) : List Nat :=
  ((cmdUsed s c ++ cmdWrites s c).filter (fun r => isScratch r.1)).map (fun r => scratchCluster r.1)

/-- The bytes of a range that lie in each own pool page. -/
def pageBytes (s : State) (rs : List (Nat × Nat)) : List (Nat × Nat) :=
  (rs.filter (fun r => ownCarafe s r.1 && r.2 != 0)).flatMap (fun r =>
    (List.range ((r.1 % 65536 + r.2 - 1) / 65536 + 1)).map (fun i =>
      let lo := max r.1 ((r.1 / 65536 + i) * 65536)
      let hi := min (r.1 + r.2) ((r.1 / 65536 + i + 1) * 65536)
      (pageOf lo, hi - lo)))

/-- The own pool pages of ranges. -/
def pagesOf (s : State) (rs : List (Nat × Nat)) : List Nat := ((pageBytes s rs).map Prod.fst).foldl sins []

/-- R269, step 5: the die that is home to the most bytes of a command's carafe operands, the lowest among equals. -/
def operandDie (s : State) (c : Cmd) : Nat :=
  let bs := pageBytes s (cmdUsed s c ++ cmdWrites s c)
  let sum := fun d => ((bs.filter (fun p => homeDie s p.1 == d)).map Prod.snd).sum
  (List.range 16).foldl (fun best d => if sum best < sum d then d else best) 0

/-! ### Pages in use (R196, R197) -/

/-- A command that holds translations: placed, issued or committing. -/
def holdsPages (c : Cmd) : Bool := c.stage == .placed || c.stage == .issued || c.stage == .committed

/-- R297: a page that a peer's hold keeps RESIDENT. -/
def pageHeld (s : State) (p : Nat) : Bool := s.links.holdsIn.any (fun h => h.pages.contains p)

/-- Whether a command in flight uses an own pool page, or a peer holds it. -/
def pageInUse (s : State) (p : Nat) : Bool :=
  pageHeld s p || s.cmds.any (fun c => holdsPages c &&
    ((pagesOf s (cmdUsed s c ++ cmdWrites s c ++ c.gens.map (fun g => (g.1, 64)))).contains p
      || c.work.writes.any (fun w => ownCarafe s w.1 && pageOf w.1 == p)))

/-! ### Tables (R92) -/

/-- The heads of a branch's tables, as its record lists them. -/
def branchHeads (s : State) (b : Nat) : List Nat :=
  match branchOf s b with
  | some r => (List.range r.tableCount).map (fun j => mnat s.mem (r.tableList.toNat + 8 * j) 8)
  | none => []

/-- Tables that a command reads. -/
def tablesRead (s : State) (c : Cmd) : List Nat :=
  match hClass c.desc, hOp c.desc with
  | 1, 3 => c.list
  | 1, 4 => c.list
  | 3, 5 => branchHeads s (fld c.desc 16 4)
  | _, _ => []

/-- Tables that a command writes. -/
def tablesWritten (s : State) (c : Cmd) : List Nat :=
  match hClass c.desc, hOp c.desc with
  | 1, 4 => c.list.map (fun h => mnat s.mem (h + 32) 8)
  | 3, 1 => c.list
  | 3, 2 => c.list
  | 3, 3 => c.list
  | 3, 4 => c.list
  | 3, 5 => c.list
  | 3, 6 => c.list.flatMap (branchHeads s)
  | 3, 7 => c.list.flatMap (branchHeads s)
  | _, _ => []

def tablesOf (s : State) (c : Cmd) : List Nat := tablesRead s c ++ tablesWritten s c

/-- R92: every earlier writer of a table that the command names has completed, or, where it writes the table, every earlier
user of it. -/
def tablesFree (s : State) (c : Cmd) (atCommit : Bool) : Bool :=
  (earlier s c).all (fun x =>
    !((tablesWritten s x).any (tablesOf s c).contains)
    && (!atCommit || !((tablesOf s x).any (tablesWritten s c).contains)))

end Sys2Proof.Machine
end

