-- ==== Sys2Proof/Machine/Pool.lean ====
section
/-! DEFINITION. The page pool: frames and zones, ageing, eviction and recall (R194 to R201), and POOL_OP (R196, R210, R213). -/

namespace Sys2Proof.Machine

/-- The cells of a byte range, moved to another address. -/
def movedCells (m : Memory) (src dst n : Nat) : List Host.Cell :=
  (m.filter (fun c => decide (src ≤ c.1 ∧ c.1 < src + n))).map (fun c => (c.1 - src + dst, c.2))

/-- Memory with a byte range cleared to 0. -/
def mclear (m : Memory) (a n : Nat) : Memory := m.filter (fun c => !decide (a ≤ c.1 ∧ c.1 < a + n))

/-- Memory with a byte range copied. -/
def mcopy (m : Memory) (src dst n : Nat) : Memory := mapply (mclear m dst n) (movedCells m src dst n)

def pageSize : Nat := 65536

/-- The global address of an own pool page. -/
def pageAddr (s : State) (p : Nat) : Nat := 2 ^ 50 * selfId s + pageSize * p

/-- The poisoned lines without those of a page. -/
def unpoisonPage (s : State) (p : Nat) : List Nat := s.poison.filter (fun l => l / 1024 != pageAddr s p / pageSize)

def setPage (s : State) (p : Nat) (e : Page) : State := { s with pool := aput s.pool p e }

/-! ### Frames -/

/-- The zone of a page, as a triple of die, mode and selector. -/
abbrev Zone := Nat × Nat × Nat

/-- RESIDENT pages of a zone. -/
def residentIn (s : State) (z : Zone) : List (Nat × Page) :=
  s.pool.filter (fun e => e.2.state == .resident && zoneOf s e.1 == z)

/-- R200, R213, R219: the frames of a zone that can be handed out or hold pages. -/
def zoneUsable (s : State) (z : Zone) : Nat :=
  zoneFrames s.cset.active z.2.1 - ((carafeOf s z.1).retired.filter (· == (z.2.1, z.2.2))).length

/-- The free frames of a zone; a failed carafe offers none (R219). -/
def freeFrames (s : State) (z : Zone) : Nat :=
  if (carafeOf s z.1).failed then 0 else zoneUsable s z - (residentIn s z).length

/-! ### The eviction area (R198) -/

def usedSlots (s : State) : List Nat := (s.pool.filter (fun e => e.2.state == .evicted)).map (fun e => e.2.slot)

/-- The lowest free slot. -/
def freeSlot (s : State) : Option Nat :=
  let us := usedSlots s
  match (List.range (us.length + 1)).find? (fun i => !(us.contains i)) with
  | some i => if i < evictSlots s.cset.active then some i else none
  | none => none

/-- What reaching the eviction area meets. -/
def slotMeet (s : State) : Meet :=
  let b := evictBase s.cset.active
  if b = 0 then .fails .state
  else if isHost b then (if hostLost s then .fails .moduleDead else if hostUp s then .fine else .wait)
  else if isDead s (gaMod b) then .fails .moduleDead
  else .fine

def slotAt (s : State) (i : Nat) : Nat := evictBase s.cset.active + pageSize * i

/-- A page moved to a slot: the map changes in one step after the slot holds the whole page (R197). The contents stay known
at the page's own address, which does not change (R195). -/
def evictPage (s : State) (p slot : Nat) : State :=
  let e := aget s.pool p {}
  { setPage s p { e with state := .evicted, pinned := false, slot := slot, age := 0, touched := false } with
    mem := mcopy s.mem (pageAddr s p) (slotAt s slot) pageSize }

/-- R197: the page of a zone that goes first: highest age, then lowest number, neither pinned nor in use. -/
def evictChoice (s : State) (z : Zone) : Option Nat :=
  ((residentIn s z).filter (fun e => !e.2.pinned && !(pageInUse s e.1))).foldl (fun best e =>
    match best with
    | none => some e
    | some b => if b.2.age < e.2.age then some e else best) none |>.map Prod.fst

/-- One eviction of a zone, where a page, a slot and the area can be had. -/
def evictOne (s : State) (z : Zone) : Option State :=
  if slotMeet s = .fine then
    match evictChoice s z, freeSlot s with
    | some p, some i => some (evictPage s p i)
    | _, _ => none
  else none

/-- R197, R198: the state with a free frame in a zone, evicting a page if needed. -/
def freeUp (s : State) (z : Zone) : Option State := if 0 < freeFrames s z then some s else evictOne s z

/-- What a pool operation comes to for a page. -/
inductive PoolOut where
  | wait
  | fails (st : Status)
  | done (s : State) (changed : Nat)

/-- A page enters a frame of its zone. -/
def placePage (s : State) (p : Nat) (e : Page) (clear : Bool) : PoolOut :=
  match freeUp s (zoneOf s p) with
  | none => if slotMeet s = .wait then .wait else .fails .state
  | some s1 =>
    let s2 := setPage s1 p { e with state := .resident, age := 0, touched := true, slot := 0 }
    .done (if clear then { s2 with mem := mclear s2.mem (pageAddr s2 p) pageSize, poison := unpoisonPage s2 p } else s2) 1

/-- R198: an EVICTED page comes back to a frame. -/
def recallPage (s : State) (p : Nat) (e : Page) : PoolOut :=
  match slotMeet s with
  | .wait => .wait
  | .fails st => .fails st
  | .fine => placePage s p e false

/-- PAGE_RECALL (R198): the access to an EVICTED page has made the die controller ask for it. -/
def pageRecall (p : Nat) (s : State) : State :=
  match aget? s.pool p with
  | some e =>
    if e.state = .evicted then
      match recallPage s p e with
      | .done s1 _ => s1
      | _ => s
    else s
  | none => s

def execPageRecall (page : Nat) (s : State) : Host.Outcome State Fault Refusal := .next (pageRecall page s)

/-- Evictions of a zone until its free frames reach 1/32 of its frames, at most n. -/
def evictUntil (z : Zone) : Nat → State → State
  | 0, s => s
  | n + 1, s =>
    if zoneFrames s.cset.active z.2.1 ≤ 32 * freeFrames s z then s
    else
      match evictOne s z with
      | some s1 => evictUntil z n s1
      | none => s

/-- PAGE_EVICTION (R197): the free frames of a zone have fallen below 1/64 of its frames. -/
def pageEviction (die mode sel : Nat) (s : State) : State :=
  let z : Zone := (die, mode, sel)
  if 64 * freeFrames s z < zoneFrames s.cset.active mode && !(carafeOf s die).failed then
    evictUntil z (residentIn s z).length s
  else s

def execPageEviction (die mode sel : Nat) (s : State) : Host.Outcome State Fault Refusal := .next (pageEviction die mode sel s)

/-- R197: one page at the end of an ageing period. -/
def agePage (e : Page) : Page :=
  if e.state = .resident ∧ !e.pinned then { e with age := if e.touched then 0 else min 255 (e.age + 1), touched := false }
  else { e with touched := false }

/-- AGEING_PERIOD (R197): age_period microseconds have passed. -/
def ageingPeriod (s : State) : State :=
  if us (agePeriod s.cset.active) ≤ since s s.ageAt ∧ asleep s = false then
    { s with pool := s.pool.map (fun p => (p.1, agePage p.2)), ageAt := s.localTime }
  else s

def execAgeingPeriod (s : State) : Host.Outcome State Fault Refusal := .next (ageingPeriod s)

/-- R197: pages that a command accesses are marked as accessed in the period. -/
def touchPages (s : State) (ps : List Nat) : State :=
  { s with pool := s.pool.map (fun p => if ps.contains p.1 then (p.1, { p.2 with touched := true }) else p) }

/-- R198: the eviction area's module is dead, or the page's slot is out of reach for good: its pages are LOST. -/
def losePages (s : State) : State :=
  { s with pool := s.pool.map (fun p => if p.2.state = .evicted then (p.1, { p.2 with state := .lost, pinned := false }) else p) }

/-! ### POOL_OP -/

structure Po where
  op    : Nat
  count : Nat
  addr  : Nat
  deriving DecidableEq, Repr, Inhabited

def poOf (d : Desc) : Po := { op := fld d 16 1, count := fld d 20 4, addr := fld d 24 8 }

def poPages (x : Po) : List Nat := (List.range x.count).map (pageOf x.addr + ·)

/-- R210. -/
def poChecks (s : State) (c : Cmd) : List Check :=
  let d := c.desc
  let x := poOf d
  [headerCheck d,
   ⟨1, .format, decide (1 ≤ x.op ∧ x.op ≤ 7) && resZero d [(17, 3), (32, 96)]⟩,
   ⟨2, .format, decide (x.count ≤ 65536)⟩,
   ⟨3, .format, isCarafe x.addr && gaMod x.addr == selfId s && x.addr % 65536 == 0 && decide (gaOff x.addr / 65536 + x.count ≤ 8388608)⟩,
   svcCheck s c 4] ++ branchChecks s c 4 ++
  [⟨4, .permission, (ctxOf s c.ctx).poolAdmin && writable s c.ctx (if x.count = 0 then [] else [(x.addr, x.count * 65536)])⟩]

/-- One page of an operation that a RESIDENT state is asked of, or not. -/
def poPage (op : Nat) (s : State) (p : Nat) : PoolOut :=
  match op, aget? s.pool p with
  | 1, none => placePage s p {} true
  | 1, some _ => .fails .state
  | 2, none => .fails .state
  | 2, some _ =>
    if pageInUse s p then .fails .state
    else .done { s with pool := adel s.pool p, mem := mclear s.mem (pageAddr s p) pageSize, poison := unpoisonPage s p } 1
  | 3, some e =>
    (match e.state with
     | .resident => .done (setPage s p { e with pinned := true }) (if e.pinned then 0 else 1)
     | .evicted =>
       (match recallPage s p e with
        | .done s1 _ => .done (setPage s1 p { aget s1.pool p {} with pinned := true }) 1
        | o => o)
     | .lost => .fails .state)
  | 4, some e => .done (setPage s p { e with pinned := false }) (if e.pinned then 1 else 0)
  | 5, some e =>
    if pageHeld s p then .wait
    else if e.state = .resident && !e.pinned then
      (match slotMeet s, freeSlot s with
       | .wait, _ => .wait
       | .fine, some i => .done (evictPage s p i) 1
       | _, _ => .fails .state)
    else .fails .state
  | 6, some e =>
    let z := zoneOf s p
    if e.state = .resident && decide (0 < freeFrames s z) && decide ((carafeOf s z.1).retired.length < 4096) then
      .done { s with carafes := amod s.carafes z.1 {} (fun k => { k with retired := k.retired ++ [(z.2.1, z.2.2)] }) } 1
    else .fails .state
  | 7, some e =>
    (match e.state with
     | .resident => .done s 0
     | .evicted => recallPage s p e
     | .lost => .fails .state)
  | _, _ => .fails .state

/-- All the pages of an operation, in order, counting those changed. -/
def poAll (op : Nat) : State → Nat → List Nat → PoolOut
  | s, n, [] => .done s n
  | s, n, p :: ps =>
    match poPage op s p with
    | .done s1 k => poAll op s1 (n + k) ps
    | o => o

/-- R222: a carafe whose retired-frame list has become full. -/
def retireFull (k : Carafe) : Bool := decide (4096 ≤ k.retired.length)

/-- R222, R423: what a committed RETIRE reports: each frame in the log, and each list that has become full. -/
def retireReport (s0 s : State) (ps : List Nat) : State :=
  let s1 := seqAll s ps (fun s p => logEvent s lsCarafe 1 0x0023 (homeDie s p) p)
  seqAll s1 (List.range 16) (fun s d => if retireFull (carafeOf s d) && !(retireFull (carafeOf s0 d)) then carafeEvent s d else s)

/-- The commit of a POOL_OP: all of its pages or none (R196). -/
def poolCommit (s : State) (c : Cmd) : PoolOut :=
  let x := poOf c.desc
  match poAll x.op s 0 (poPages x) with
  | .done s1 n => .done (if x.op = 6 then retireReport s s1 (poPages x) else s1) n
  | o => o

/-- R436, R437: a RETIRE asks the Umpire for every carafe that it touches, and starts when all are admitted. -/
def retireDies (s : State) (c : Cmd) : List Nat := ((poPages (poOf c.desc)).map (homeDie s)).foldl sins []

def retireAsk (s : State) (c : Cmd) : State :=
  seqAll s (retireDies s c) (fun s d => if umpKnown s rkRetire d (c.ctx, c.idx) then s else umpAsk s rkRetire d (c.ctx, c.idx))

def retireAdmitted (s : State) (c : Cmd) : Bool := (retireDies s c).all (fun d => umpRuns s rkRetire d (c.ctx, c.idx))

def poSpec : CmdSpec :=
  { checks := poChecks
    noop := fun _ c => (poOf c.desc).count == 0
    take := takeNone
    from_ := .placed
    run := fun s c => if (poOf c.desc).op = 6 && !(retireAdmitted s c) then .wait else .done c }

/-- A POOL_OP row. -/
def poolStep (k ctx idx : Nat) (s : State) : State :=
  match findCmd s ctx idx with
  | some c =>
    if k = 6 ∧ c.stage = .placed ∧ isPool 6 c.desc = true ∧ retireAdmitted s c = false then
      descStep (isPool k) poSpec ctx idx (retireAsk s c)
    else descStep (isPool k) poSpec ctx idx s
  | none => s

/-- ALLOC (R196). -/
def execAlloc (ctx idx : Nat) (s : State) : Host.Outcome State Fault Refusal := .next (poolStep 1 ctx idx s)
/-- FREE (R196). -/
def execFree (ctx idx : Nat) (s : State) : Host.Outcome State Fault Refusal := .next (poolStep 2 ctx idx s)
/-- PIN (R196). -/
def execPin (ctx idx : Nat) (s : State) : Host.Outcome State Fault Refusal := .next (poolStep 3 ctx idx s)
/-- UNPIN (R196). -/
def execUnpin (ctx idx : Nat) (s : State) : Host.Outcome State Fault Refusal := .next (poolStep 4 ctx idx s)
/-- EVICT (R196). -/
def execEvict (ctx idx : Nat) (s : State) : Host.Outcome State Fault Refusal := .next (poolStep 5 ctx idx s)
/-- RETIRE (R196, R213). -/
def execRetire (ctx idx : Nat) (s : State) : Host.Outcome State Fault Refusal := .next (poolStep 6 ctx idx s)
/-- RECALL (R196). -/
def execRecall (ctx idx : Nat) (s : State) : Host.Outcome State Fault Refusal := .next (poolStep 7 ctx idx s)

end Sys2Proof.Machine
end

