-- ==== Sys2Proof/Machine/Context.lean ====
section
/-! DEFINITION. The front end: doorbells, polls, fetch, completion records, halts, stop, resume, reset and enable of contexts
(R225 to R237, R244 to R247, R254 to R259). -/

namespace Sys2Proof.Machine

/-! ### Doorbell block and records in host memory -/

/-- The global address of a bus address of the owning host (R190). -/
def hostAddr (s : State) (a : Nat) : Nat := 2 ^ 50 * selfId s + 2 ^ 47 + a

/-- A WAIT or HUDDLE that holds validation. -/
def holdsValidation (c : Cmd) : Bool := hClass c.desc == 5 && (hOp c.desc == 2 || hOp c.desc == 4) && c.stage == .validated

/-- R257: the state of a context; BLOCKED where only a holding WAIT or HUDDLE and what it holds unvalidated have no record. -/
def ctxState (s : State) (n : Nat) : CtxState :=
  let st := (ctxOf s n).state
  let cs := ctxCmds s n
  if st = .active && cs.any holdsValidation && (cs.filter (fun c => !(holdsValidation c))).all (fun c => c.stage == .fetched)
  then .blocked else st

/-- R257: the codes of the states and halt reasons. -/
def ctxStateCode : CtxState → Nat
  | .disabled => 0
  | .active => 1
  | .blocked => 2
  | .halted => 3
  | .resetting => 4

def haltCode : HaltReason → Nat
  | .none => 0
  | .stopOnError => 1
  | .stop => 2
  | .dieReset => 3
  | .ringAccess => 4

/-- R226, R227: the module half of a context's doorbell block, written while the owning host can be reached. -/
def writeDoorbell (s : State) (n : Nat) : State :=
  let c := ctxOf s n
  if hostUp s then
    storeCells s (cellsAt (hostAddr s (c.dbAddr.toNat + 32))
      (leBytes 4 c.sqHead.toNat ++ leBytes 4 c.cqTail.toNat ++ leBytes 4 (ctxStateCode (ctxState s n)) ++ leBytes 4 c.haltIdx.toNat
        ++ leBytes 16 0))
  else s

/-- R234: a completion record, its phase bit left 0. -/
def recordOf (c : Cmd) : Record :=
  BitVec.ofNat 256 (c.idx % 2 ^ 32 + 2 ^ 32 * statusCode c.status + 2 ^ 40 * hClass c.desc + 2 ^ 48 * hOp c.desc
    + 2 ^ 56 * ((if c.rerun then 2 else 0) + (if c.validated then 4 else 0))
    + 2 ^ 64 * (c.work.result % 2 ^ 64) + 2 ^ 128 * hTag c.desc
    + 2 ^ 160 * (if c.validated then 0 else c.failOrder) + 2 ^ 192 * c.decidedAt.toNat)

/-- R235: a record written to the slot of cq_tail with its phase. -/
def putRecord (s : State) (n : Nat) (r : Record) : State :=
  let c := ctxOf s n
  let t := c.cqTail.toNat
  let phase := if t / 2 ^ c.cqLog2 % 2 = 0 then 1 else 0
  let s1 := storeCells s (cellsNat (hostAddr s (c.cqAddr.toNat + 32 * (t % 2 ^ c.cqLog2))) 32 (r.toNat + 2 ^ 56 * phase))
  modCtx s1 n (fun c => { c with cqTail := c.cqTail + 1 })

/-- R235: the message of a record with irq: at once, or at the end of the holdoff. -/
def recordIrq (s : State) (n : Nat) : State :=
  let c := ctxOf s n
  if s.localTime.toNat < c.holdoffEnd.toNat then modCtx s n (fun c => { c with irqPending := true })
  else
    sendVector (modCtx s n (fun c => { c with holdoffEnd := s.localTime + w64 (us c.irqHoldoff) })) s.owner c.msixVector

/-- IRQ_HOLDOFF_EXPIRY (R235). -/
def irqHoldoffExpiry (n : Nat) (s : State) : State :=
  let c := ctxOf s n
  if c.irqPending && decide (c.holdoffEnd.toNat ≤ s.localTime.toNat) then
    recordIrq (modCtx s n (fun c => { c with irqPending := false })) n
  else s

def execIrqHoldoffExpiry (ctx : Nat) (s : State) : Host.Outcome State Fault Refusal := .next (irqHoldoffExpiry ctx s)

/-! ### Halts -/

/-- Flags of CTX_EVT set together by one event (R8, R259). -/
def ctxFlags (s : State) (n mask : Nat) : State :=
  let s1 := modCtx s n (fun c => { c with evt := c.evt ||| w32 mask, evtCnt := c.evtCnt + 1 })
  sendVector s1 s1.owner (ctxOf s1 n).msixVector

/-- The descriptors of a context that are fetched and not validated. -/
def unvalidated (s : State) (n : Nat) : List Cmd := (ctxCmds s n).filter (fun c => c.stage == .fetched)

/-- R244, R245, R20: descriptors not validated are discarded without a record; sq_head returns to the first of them. -/
def discardUnvalidated (s : State) (n : Nat) : State :=
  match unvalidated s n with
  | [] => s
  | c :: _ =>
    modCtx { s with cmds := s.cmds.filter (fun x => !(x.ctx == n && x.stage == .fetched)) } n
      (fun k => { k with sqHead := w32 c.idx, lastDesc := c.prev, lastEnd := c.prevEnd })

/-- A context enters HALTED (R257, R258). -/
def haltCtx (s : State) (n : Nat) (r : HaltReason) (idx : W32) (mask : Nat) : State :=
  let s1 := modCtx s n (fun c => { c with state := .halted, haltReason := r, haltIdx := idx, stopping := false, polling := false })
  writeDoorbell (ctxFlags s1 n mask) n

/-- RING_ACCESS_ERROR (R230). -/
def ringAccessError (n : Nat) (s : State) : State :=
  let c := ctxOf s n
  if c.state = .active then haltCtx s n .ringAccess c.sqHead 9 else s

def execRingAccessError (ctx : Nat) (s : State) : Host.Outcome State Fault Refusal := .next (ringAccessError ctx s)

/-! ### Polls and fetch -/

/-- The module takes work: it runs, no standby holds it, and it has not failed (R22, R414). -/
def takesWork (s : State) : Bool :=
  s.phase == .running && (match s.standby with | some b => b.stage == .leaving | none => true)

/-- DOORBELL_POLL (R229): a read of bytes 0 to 31 of the doorbell block starts. -/
def doorbellPoll (n : Nat) (s : State) : State :=
  let c := ctxOf s n
  if takesWork s && c.state == .active && !c.polling && hostUp s then
    modCtx s n (fun c => { c with polling := true, lastPoll := s.localTime })
  else s

def execDoorbellPoll (ctx : Nat) (s : State) : Host.Outcome State Fault Refusal := .next (doorbellPoll ctx s)

/-- R266, R281: borrowed commands on a cluster are killed and run again. -/
def killBorrowed (s : State) (q : Nat) : State :=
  seqAll s (s.cmds.filter (fun c => c.borrowed && c.pos == some q && (c.stage == .placed || c.stage == .issued)))
    (fun s c => setCmd (release (noteKill s c) c) { requeued c with borrowKills := c.borrowKills + 1 })

/-- R350: a request on the owning port has completed: no run of timeouts goes on. -/
def answered (s : State) : State := modHostPort s s.owner (fun h => { h with timeouts := 0 })

/-- POLL_RESULT (R228, R229, R266): the read completes with sq_tail and cq_head. -/
def pollResult (n sqTail cqHead : Nat) (s : State) : State :=
  let c := ctxOf s n
  if !c.polling then s
  else
    let s1 := modCtx (answered s) n (fun c => { c with polling := false, cqHeadSeen := w32 cqHead })
    if 2 ^ c.sqLog2 < (w32 sqTail - c.sqHead).toNat then ctxEvent s1 n 1
    else if w32 sqTail ≠ c.sqTailSeen then
      let s2 := modCtx s1 n (fun c =>
        { c with sqTailSeen := w32 sqTail, idlePolls := 0, pollI := max (pollMin s) (c.pollI / 2) })
      match groupOfCtx s n with
      | some g => if c.svc = 0 then seqAll s2 (setBits (grpMask s.cset.active g) 512) killBorrowed else s2
      | none => s2
    else if c.idlePolls + 1 ≥ 8 then modCtx s1 n (fun c => { c with idlePolls := 0, pollI := min (pollMax s) (2 * c.pollI) })
    else modCtx s1 n (fun c => { c with idlePolls := c.idlePolls + 1 })

def execPollResult (ctx sqTail cqHead : Nat) (s : State) : Host.Outcome State Fault Refusal :=
  .next (pollResult ctx sqTail cqHead s)

/-- R236: whether a descriptor of a context may be fetched. -/
def mayFetch (s : State) (n : Nat) : Bool :=
  let c := ctxOf s n
  takesWork s && c.state == .active && !c.stopping && hostUp s && c.sqHead != c.sqTailSeen
    && decide (inFlight s n + (c.cqTail - c.cqHeadSeen).toNat < 2 ^ c.cqLog2) && decide (inFlight s n < 1024)
    && decide (s.cmds.length < 8192)

/-- DESCRIPTOR_FETCH (R228, R236): the descriptor at sq_head is copied into the hub. -/
def descriptorFetch (n : Nat) (d : Desc) (s : State) : State :=
  if mayFetch s n then
    let k := ctxOf s n
    let c : Cmd := { ctx := n, idx := k.sqHead.toNat, desc := d, prev := k.lastDesc, prevEnd := k.lastEnd }
    let s1 := modCtx { answered s with cmds := s.cmds ++ [c] } n
      (fun k => { k with sqHead := k.sqHead + 1, lastDesc := some d, lastEnd := none })
    writeDoorbell (trace s1 1 c 0) n
  else s

def execDescriptorFetch (ctx : Nat) (desc : Desc) (s : State) : Host.Outcome State Fault Refusal :=
  .next (descriptorFetch ctx desc s)

/-! ### Records -/

/-- R308: the status of a completed descriptor is kept for the one fetched after it. -/
def tellNext (s : State) (c : Cmd) : State :=
  let nextIdx := (c.idx + 1) % 2 ^ 32
  match findCmd s c.ctx nextIdx with
  | some x => setCmd s { x with prevEnd := some c.status }
  | none => if (ctxOf s c.ctx).sqHead.toNat = nextIdx then modCtx s c.ctx (fun k => { k with lastEnd := some c.status }) else s

/-- A command leaves the hub. -/
def dropCmd (s : State) (c : Cmd) : State := { s with cmds := s.cmds.filter (fun x => !(x.ctx == c.ctx && x.idx == c.idx)) }

/-- R260: the statuses that are successes. -/
def succeeded (st : Status) : Bool := st == .ok || st == .resequencedOk

/-- R244: a completed descriptor with stop_on_error and a failure status halts its context. -/
def stopOnError (s : State) (c : Cmd) : State :=
  if hStop c.desc && !(succeeded c.status) && (ctxOf s c.ctx).state == .active then
    let s1 := discardUnvalidated s c.ctx
    let s2 := modCtx s1 c.ctx (fun k =>
      { k with sqHead := w32 (c.idx + 1), lastDesc := some c.desc, lastEnd := some c.status })
    haltCtx s2 c.ctx .stopOnError (w32 c.idx) 1
  else s

/-- R277, R279, R286: the Live commands that fell outside the bound are counted. What a command really occupied is not stated: a
free value (log entry 44). -/
def countLive (s : State) (c : Cmd) : State :=
  if (ctxOf s c.ctx).svc = 0 && (hClass c.desc == 1 || hClass c.desc == 3) && succeeded c.status && !(c.noop) then
    modCtx s c.ctx (fun k =>
      { k with overBudget := if c.overBudget then k.overBudget + 1 else k.overBudget
               overCost := if hCost c.desc < Config.amount 5 [c.desc.toNat, c.decidedAt.toNat] then k.overCost + 1 else k.overCost })
  else s

/-- COMPLETION_RECORD_WRITE (R230, R234, R235, R244): the record of a command whose status is decided. -/
def recordWrite (n idx : Nat) (s : State) : State :=
  match findCmd s n idx with
  | none => s
  | some c =>
    if c.stage != .decided then s
    else
      let k := ctxOf s n
      let s0 := countLive (tellNext (trace (dropCmd s c) 5 c (statusCode c.status)) c) c
      if k.state = .halted && k.haltReason == .ringAccess then
        (if k.heldRecords.length < 1024 then
          modCtx s0 n (fun k => { k with heldRecords := k.heldRecords ++ [(recordOf c, hIrq c.desc)] })
         else s)
      else if !(hostUp s) then s
      else
        let s1 := stopOnError (putRecord s0 n (recordOf c)) c
        let s2 := writeDoorbell s1 n
        if hIrq c.desc then recordIrq s2 n else s2

def execCompletionRecordWrite (ctx idx : Nat) (s : State) : Host.Outcome State Fault Refusal := .next (recordWrite ctx idx s)

/-- R230: held records, written in completion order. -/
def flushHeld (s : State) (n : Nat) : State :=
  let rs := (ctxOf s n).heldRecords
  if rs.isEmpty || !(hostUp s) then s
  else
    let s1 := seqAll (modCtx s n (fun k => { k with heldRecords := [] })) rs (fun s r => putRecord s n r.1)
    let s2 := writeDoorbell s1 n
    if rs.any Prod.snd then recordIrq s2 n else s2

/-! ### Kill (R50, R267, R268) -/

/-- Requests that a killed command has placed elsewhere are withdrawn: a HUDDLE's arrival, a substitution, a standby. -/
def withdraw (s : State) (c : Cmd) : State :=
  let s1 := huddleWithdraw s c
  let mine := match s1.cset.pending with
    | some r => r.issuer == some (c.ctx, c.idx)
    | none => false
  let s2 := if mine then csetEvent (umpEnd { s1 with cset := { s1.cset with pending := none, swapResult := 0x18 } } rkSwap 0 (c.ctx, c.idx)) 2
    else s1
  match s2.standby with
  | some b => if b.ctx = c.ctx ∧ b.idx = c.idx ∧ b.stage = .draining then { s2 with standby := leaveEntry b } else s2
  | none => s2

/-- Before commit: validated, placed or issued. -/
def killable (c : Cmd) : Bool := c.stage == .validated || c.stage == .placed || c.stage == .issued

/-- R418: a STANDBY that has passed the checks of its entry has begun to commit, and no kill ends it. -/
def sleeping (s : State) (c : Cmd) : Bool :=
  match s.standby with
  | some b => b.ctx == c.ctx && b.idx == c.idx && (b.stage == .saving || b.stage == .asleep)
  | none => false

/-- A kill that ends a command with a status (R245, R246, R20). -/
def killWith (s : State) (c : Cmd) (st : Status) : State :=
  let s1 := withdraw (noteKill s c) c
  match c.coll with
  | some _ => endColl s1 c st
  | none => failCmd s1 c st 0 0

/-- A kill after which the command runs again (R267). -/
def killAgain (s : State) (c : Cmd) : State :=
  setCmd (dropActivities (release (withdraw (noteKill s c) c) c) c) (requeued c)

/-- COMMAND_KILL (R50, R238, R245, R267): nothing once commit has begun; E_KILLED where the context is being stopped. -/
def commandKill (n idx : Nat) (s : State) : State :=
  match findCmd s n idx with
  | some c => if killable c && !(sleeping s c) then (if (ctxOf s n).stopping then killWith s c .killed else killAgain s c) else s
  | none => s

def execCommandKill (ctx idx : Nat) (s : State) : Host.Outcome State Fault Refusal := .next (commandKill ctx idx s)

/-- Every command of a context that may be killed ends with a status. -/
def killAll (s : State) (n : Nat) (st : Status) : State :=
  seqAll s ((ctxCmds s n).filter killable) (fun s c => match findCmd s c.ctx c.idx with
    | some c' => if killable c' && !(sleeping s c') then killWith s c' st else s
    | none => s)

/-! ### CTX_CTL_n (R245 to R247, R256) -/

/-- R418: a context whose STANDBY has not passed the checks of its entry. -/
def entering (s : State) (n : Nat) : Bool :=
  match s.standby with
  | some b => b.ctx == n && b.stage == .draining
  | none => false

/-- R418: a stop or reset of that context ends the entry at once. -/
def endEntry (s : State) (n : Nat) : State :=
  match s.standby with
  | some b => if entering s n then { s with standby := leaveEntry b } else s
  | none => s

/-- CTX_CTL_n (R256, R375) written with one bit: a stop or reset of the context that enters standby is not held (R418). -/
def ctlWrite (n val : Nat) (f : State → State) (s : State) : State :=
  if barOpen s && entering s n && (val == 2 || val == 8) then f s else barWrite s (0x10001C + 0x100 * n) 4 val f

/-- CONTEXT_STOP (R245). -/
def contextStop (n : Nat) (s : State) : State :=
  if (ctxOf s n).state = .active then modCtx (endEntry s n) n (fun k => { k with stopping := true }) else s

def execContextStop (ctx : Nat) (s : State) : Host.Outcome State Fault Refusal := .next (ctlWrite ctx 2 (contextStop ctx) s)

/-- CONTEXT_STOP_DONE (R245): the kills have taken effect, descriptors not validated are discarded, and the context halts. -/
def contextStopDone (n : Nat) (s : State) : State :=
  let k := ctxOf s n
  if k.state = .active && k.stopping then
    let s1 := discardUnvalidated (killAll s n .killed) n
    haltCtx s1 n .stop (ctxOf s1 n).sqHead 1
  else s

def execContextStopDone (ctx : Nat) (s : State) : Host.Outcome State Fault Refusal := .next (contextStopDone ctx s)

/-- CONTEXT_RESUME (R247, R229, R230). -/
def contextResume (n : Nat) (s : State) : State :=
  let k := ctxOf s n
  if k.state = .halted && k.haltReason != .dieReset then
    let s1 := modCtx s n (fun k => { k with state := .active, haltReason := .none, pollI := pollMax s, idlePolls := 0 })
    writeDoorbell (flushHeld s1 n) n
  else s

def execContextResume (ctx : Nat) (s : State) : Host.Outcome State Fault Refusal := .next (ctlWrite ctx 4 (contextResume ctx) s)

/-- CONTEXT_RESET (R246). -/
def contextReset (n : Nat) (s : State) : State :=
  if (ctxOf s n).state = .disabled || (ctxOf s n).state == .resetting then s
  else writeDoorbell (modCtx (endEntry s n) n (fun k => { k with state := .resetting, stopping := true, polling := false })) n

def execContextReset (ctx : Nat) (s : State) : Host.Outcome State Fault Refusal := .next (ctlWrite ctx 8 (contextReset ctx) s)

/-- R271: the scratch ranges that a context's access list grants with the write right, each clipped to the window. -/
def scratchRanges (s : State) (n : Nat) : List (Nat × Nat) :=
  ((ctxOf s n).acl.filter (fun e => e.write && isScratch e.base)).map (fun e => (e.base, gaOff e.limit + 1 - gaOff e.base))

/-- R125: the branches of a context become FREE and their state is gone. -/
def freeBranches (s : State) (n : Nat) : State :=
  applyBrs s ((ctxBranches s n).map (fun b => BrOp.free b.1))

/-- R246, step 3: what a context reset clears. -/
def clearCtx (s : State) (n : Nat) : State :=
  let s1 := if (ctxOf s n).res = .resident then
      { s with mem := (scratchRanges s n).foldl (fun m r => mclear m r.1 r.2) s.mem }
    else s
  modCtx (freeBranches s1 n) n (fun k =>
    { k with state := .disabled, haltReason := .none, stopping := false, heldRecords := [], streamKey := 0, streamCtr := 0,
             res := .resident, marked := false, saveEmpty := true, savedRanges := none, markWait := false, markIndex := none,
             irqPending := false, snapInt := 0, snapDue := false, snapCost := 0, snapMtbf := 0,
             takeCost := none, takeAt := none, takeCounts := false, restoreAt := none, lastDesc := none, lastEnd := none })

/-- CONTEXT_RESET_DONE (R246): once no command of the context is committing, the killed commands have their records, the
doorbell block holds the final cq_tail, and the context is DISABLED. Where the owning host is lost the records are lost. -/
def contextResetDone (n : Nat) (s : State) : State :=
  if (ctxOf s n).state != .resetting || (ctxCmds s n).any (fun c => c.stage == .committed) then s
  else
    let s1 := { killAll s n .killed with cmds := (killAll s n .killed).cmds.filter (fun x => !(x.ctx == n && x.stage == .fetched)) }
    let s2 := seqAll s1 (ctxCmds s1 n) (fun s c => if hostUp s then putRecord s n (recordOf c) else s)
    let s3 := writeDoorbell { s2 with cmds := s2.cmds.filter (fun c => c.ctx != n) } n
    writeDoorbell (clearCtx s3 n) n

def execContextResetDone (ctx : Nat) (s : State) : Host.Outcome State Fault Refusal := .next (contextResetDone ctx s)

/-- R254, R256: the alignment and the range of the ring addresses, and an accepted access list. -/
def mayEnable (k : Ctx) : Bool :=
  decide (k.sqAddr.toNat % 4096 = 0 ∧ k.cqAddr.toNat % 4096 = 0 ∧ k.dbAddr.toNat % 64 = 0 ∧ k.sqAddr.toNat < 2 ^ 46
    ∧ k.cqAddr.toNat < 2 ^ 46 ∧ k.dbAddr.toNat < 2 ^ 46) && k.aclAccepted

/-- R271: two contexts conflict when their scratch footprints share a byte. -/
def conflict (s : State) (a b : Nat) : Bool :=
  (scratchRanges s a).any (fun x => (scratchRanges s b).any (fun y =>
    decide (x.1 < y.1 + y.2 ∧ y.1 < x.1 + x.2)))

/-- The contexts other than n, not DISABLED, that conflict with it. -/
def conflicting (s : State) (n : Nat) : List Nat :=
  ((s.ctxs.filter (fun e => e.1 != n && e.2.state != .disabled)).map Prod.fst).filter (conflict s n)

/-- R272: no RESIDENT context conflicts. -/
def nobodyResident (s : State) (n : Nat) : Bool := (conflicting s n).all (fun m => (ctxOf s m).res != .resident)

/-- CONTEXT_ENABLE (R256, R272, R385): a DISABLED context starts, or is refused. -/
def contextEnable (n : Nat) (s : State) : State :=
  let k := ctxOf s n
  if k.state != .disabled then s
  else if mayEnable k then
    let free := nobodyResident s n
    writeDoorbell (modCtx s n (fun k =>
      { k with state := .active, haltReason := .none, sqHead := 0, cqTail := 0, sqTailSeen := 0, cqHeadSeen := 0, polling := false,
               pollI := pollMax s, idlePolls := 0, streamKey := k.keyReg, streamCtr := 0, stopping := false,
               res := if free then .resident else .swapped, saveEmpty := true, savedRanges := none, residentAt := s.localTime,
               takeCounts := false, lastDesc := none, lastEnd := none })) n
  else ctxEvent s n 2

def execContextEnable (ctx : Nat) (s : State) : Host.Outcome State Fault Refusal := .next (ctlWrite ctx 1 (contextEnable ctx) s)

end Sys2Proof.Machine
end

