-- ==== Sys2Proof/Machine/Place.lean ====
section
/-! DEFINITION. COMMAND_PLACE: where the front end places a command, in which order, with which resources, and what holds a command
unplaced (R41, R42, R145, R262 to R269, R276, R279, R372, R390). -/

namespace Sys2Proof.Machine

/-! ### Substitution drains (R372) -/

/-- The entries of a replica map that cover a byte of a range. -/
def rmapOver (m : Memory) (r : Nat × Nat) : List Rmap :=
  (rmap m).filter (fun e => decide (r.1 < e.base + e.length ∧ e.base < r.1 + r.2))

/-- The drain fields, as far as they bear on pages and addresses. -/
def drainDiffers (a b : Memory) : Bool :=
  setFld a 0x40 2 != setFld b 0x40 2 || zoneAll a != zoneAll b || zoneReg a != zoneReg b || agePeriod a != agePeriod b
    || evictBase a != evictBase b || evictSlots a != evictSlots b || mread a 0x8C0 256 != mread b 0x8C0 256
    || mread a 0x9C0 384 != mread b 0x9C0 384

/-- Whether a page's imap entry or the size of its zone differs between two sets. -/
def pageMoves (a b : Memory) (p : Nat) : Bool :=
  imapOf a p != imapOf b p || zoneFrames a (imapOf a p).mode != zoneFrames b (imapOf b p).mode

/-- Whether an access to ranges is traffic that a change between two sets affects. -/
def rangesAffected (s : State) (a b : Memory) (rs : List (Nat × Nat)) : Bool :=
  setFld a 0x40 2 != setFld b 0x40 2 || (pagesOf s rs).any (pageMoves a b) || rs.any (fun r => rmapOver a r != rmapOver b r)

/-- Every range that a command names. -/
def allRanges (s : State) (c : Cmd) : List (Nat × Nat) := cmdUsed s c ++ cmdWrites s c

/-- Whether a command is traffic that the admitted substitution affects. -/
def drainHolds (s : State) (c : Cmd) : Bool :=
  match s.cset.pending with
  | some r => r.admitted && rangesAffected s s.cset.active s.cset.bench (allRanges s c)
  | none => false

/-! ### What may be placed -/

/-- A command whose stages include a placement; Control commands start when validated. -/
def isPlaced (d : Desc) : Bool := hClass d != 5

/-- A command that runs on a cluster: Compute but DETECT, whose selection runs in the die (R182). -/
def needsCluster (d : Desc) : Bool := hClass d == 1 && hOp d != 9

/-- R152: a SCAN on branch state. -/
def scanBranches (d : Desc) : List Nat := if hClass d = 1 ∧ hOp d = 6 ∧ (scOf d).src = 0 then headerBranches d else []

/-- R152: no earlier SCAN that writes a branch which this SCAN reads is incomplete before its commit. -/
def scanOrder (s : State) (c : Cmd) : Bool :=
  (scanBranches c.desc).isEmpty || (earlier s c).all (fun x =>
    x.stage == .committed || x.stage == .decided || !((scanBranches x.desc).any (scanBranches c.desc).contains))

/-- The module places commands: it runs, and no standby has passed its checks. -/
def placing (s : State) : Bool :=
  s.phase == .running && (match s.standby with | some b => b.stage == .draining || b.stage == .leaving | none => true)

/-- R276: an eviction waits for the context's cheap point: nothing at or above its mark is placed. -/
def markHolds (k : Ctx) (c : Cmd) : Bool :=
  k.markWait && (match k.markIndex with | some i => decide (i ≤ c.idx) | none => true)

/-- Whether a validated command may be placed now, resources apart. -/
def mayPlace (s : State) (c : Cmd) : Bool :=
  let k := ctxOf s c.ctx
  c.stage == .validated && isPlaced c.desc && placing s && !(c.mismatch) && !(k.stopping) && k.res == .resident
    && !(markHolds k c) && !(drainHolds s c) && scanOrder s c && (!(isBranchOp c.desc) || branchOpMayStart s c)
    && tablesFree s c false

/-! ### Precedence (R269) -/

/-- The clusters of the branches with state that a command names, in order. -/
def branchClusters (s : State) (d : Desc) : List Nat :=
  (headerBranches d).filterMap (fun b => match branchOf s b with
    | some r => if r.parked then none else branchQ r
    | none => none)

/-- R269, steps 1 to 3: a cluster that the descriptor decides, and whether nothing else may take the command. -/
def namedCluster (s : State) (d : Desc) : Option (Nat × Bool) :=
  if hClass d = 1 ∧ hOp d = 1 ∧ bit (mmOf d).flags 0 then some (posToQ (mmOf d).pos, true)
  else
    match branchClusters s d with
    | q :: _ => some (q, !((scanBranches d).isEmpty))
    | [] => (scratchClusters d).head?.map (fun q => (q, false))

/-- The granules of the first tile, group or piece of a command on a cluster (R42, R99, R151, R174). -/
def firstGranules (s : State) (d : Desc) : Nat :=
  match hOp d with
  | 1 => mmFirst (mmOf d)
  | 3 => (atPieces (atOf d)).foldl max 0
  | 4 => (atPieces (atOf d)).foldl max 0
  | 6 => if (branchClusters s d).isEmpty || (scanBranches d).isEmpty then 0 else scGranules (scOf d)
  | 8 => wnFirst (wnOf d)
  | _ => 0

/-- R42: whether a cluster can hold the first tile when nothing else holds it. -/
def canEver (s : State) (d : Desc) (q : Nat) : Bool := decide (firstGranules s d ≤ usableGranules s q)

def dieUp (s : State) (q : Nat) : Bool := !((dieOf s (q / 32)).resetting)

/-- Commands placed on a region: what the placement loop estimates its free rows from. -/
def placedOn (s : State) (r : Nat) : Nat :=
  (s.cmds.filter (fun c => holdsPages c && (match c.pos with | some q => q / 8 == r | none => false))).length

/-- The four regions of a die, those with the fewest commands first; for a WINDOW, slow regions last (R270). -/
def regionOrder (s : State) (d : Desc) (die : Nat) : List Nat :=
  let rs := (List.range 4).map (4 * die + ·)
  let cost := fun r => placedOn s r + (if hOp d = 8 ∧ (regionOf s r).slow then 1000000 else 0)
  rs.foldl (fun l r => (l.takeWhile (fun x => decide (cost x ≤ cost r))) ++ r :: (l.dropWhile (fun x => decide (cost x ≤ cost r)))) []

/-- Dies in the order in which a command goes to them: the home of most of its bytes, then ascending. -/
def dieOrder (s : State) (c : Cmd) : List Nat :=
  let d := operandDie s c
  d :: (List.range 16).filter (· != d)

/-- Clusters in the order of R269 for a command that names none. -/
def clusterOrder (s : State) (c : Cmd) : List Nat :=
  (dieOrder s c).flatMap (fun die => (regionOrder s c.desc die).flatMap (fun r => (List.range 8).map (8 * r + ·)))

/-- The declared cost of Live commands placed or waiting on a cluster (R269, step 4). -/
def liveLoad (s : State) (q : Nat) : Nat :=
  ((s.cmds.filter (fun c => hSvc c.desc == 0 && c.pos == some q && (c.stage == .placed || c.stage == .issued))).map
    (fun c => hCost c.desc)).sum

/-- R269, step 4: the cluster with the smallest Live cost, the lowest among equals. -/
def leastLive (s : State) : List Nat → Option Nat
  | [] => none
  | q :: qs =>
    match leastLive s qs with
    | none => some q
    | some b => if liveLoad s b < liveLoad s q then some b else some q

/-- R264, R266, R269: E_STATE where Live work is named outside its group, or other work uses scratch of a reserved cluster. -/
def outside (s : State) (c : Cmd) : Bool :=
  match namedCluster s c.desc with
  | some (q, _) => !(inService s c.ctx q)
  | none => false

def usesReserved (s : State) (c : Cmd) : Bool :=
  hSvc c.desc != 0 && (scratchUse s c).any (fun q => (groupOf s q).isSome)

/-- The clusters that a command may be placed on in service to it, best first. -/
def candidates (s : State) (c : Cmd) : List Nat :=
  let rest := if hSvc c.desc = 0 then
      match groupOfCtx s c.ctx with
      | some g => setBits (grpMask s.cset.active g) 512
      | none => []
    else clusterOrder s c
  let ok := fun q => inService s c.ctx q && canEver s c.desc q
  match namedCluster s c.desc with
  | some (q, only) => if ok q then [q] else if only then [] else rest.filter ok
  | none => rest.filter ok

/-- The cluster that a command goes to, of those whose die is up. -/
def favourite (s : State) (c : Cmd) : Option Nat :=
  let qs := (candidates s c).filter (dieUp s)
  if hSvc c.desc = 0 ∧ (namedCluster s c.desc).isNone then leastLive s qs else qs.head?

/-! ### Borrowing (R266) -/

/-- A Live command of a group's context is placed or waiting, or its ring has advanced. -/
def liveNear (s : State) (g : Nat) : Bool :=
  let n := grpCtx s.cset.active g
  (ctxOf s n).sqHead != (ctxOf s n).sqTailSeen
    || (ctxCmds s n).any (fun c => hClass c.desc != 5 && c.stage != .committed && c.stage != .decided)

/-- Whether a command may borrow at all. -/
def mayBorrow (s : State) (c : Cmd) : Bool :=
  hSvc c.desc != 0 && !(hClass c.desc == 1 && hOp c.desc == 1 && bit (mmOf c.desc).flags 0) && (headerBranches c.desc).isEmpty
    && !(usesReserved s c) && decide (c.borrowKills < 2)

/-- Reserved clusters that lend. -/
def lenders (s : State) (c : Cmd) : List Nat :=
  if mayBorrow s c then
    (List.range 512).filter (fun q => match groupOf s q with
      | some g => bit (grpFlags s.cset.active g) 0 && canEver s c.desc q && dieUp s q
      | none => false)
  else []

/-- Whether a lending cluster is free of Live work. -/
def lends (s : State) (q : Nat) : Bool :=
  match groupOf s q with
  | some g => !(liveNear s g)
  | none => false

/-! ### Resources -/

/-- Granules that a command would use on each cluster, when nothing limits it: the clusters beside the chosen one too. -/
def wholeGranules (s : State) (c : Cmd) (q : Nat) : List (Nat × Nat) :=
  let d := c.desc
  match hOp d with
  | 1 => let x := mmOf d; [(q, ((List.range (mmTn x)).map (mmColumn x)).sum)]
  | 3 => atDeal (atOf d) (regionClusters s c.ctx (q / 8))
  | 4 => atDeal (atOf d) (regionClusters s c.ctx (q / 8))
  | 6 => if (scanBranches d).isEmpty then [] else (branchClusters s d).map (fun b => (b, scGranules (scOf d)))
  | 8 => [(q, wnWhole (wnOf d))]
  | _ => []

/-- The granules wanted on each cluster of a list, added up. -/
def sumByCluster (l : List (Nat × Nat)) : AMap Nat := l.foldl (fun m p => amod m p.1 0 (· + p.2)) []

/-- R41, R42: the granules that a command takes, or none while it must wait: a SCAN on branch state takes all that it wants, another
command at least its first tile on the chosen cluster. -/
def takeGranules (s : State) (c : Cmd) (q : Nat) : Option (List (Nat × Nat)) :=
  let want := sumByCluster (wholeGranules s c q)
  if hOp c.desc = 6 then
    if want.all (fun p => decide (p.2 ≤ freeGranules s p.1)) then some want else none
  else if freeGranules s q < firstGranules s c.desc then none
  else some (want.map (fun p => (p.1, min p.2 (freeGranules s p.1))))

/-- R31: the lowest arrival counter of a cluster that is not bound. -/
def freeCounter (s : State) (q : Nat) : Option Nat :=
  (List.range 64).find? (fun k => (aget? (clusterOf s q).arrivals k).isNone)

/-- R23: entries of a compute die's operation tracker in use. -/
def trackerUsed (s : State) (die : Nat) : Nat := (s.cmds.filter (fun c => holdsPages c && c.die == die)).length + readsOn s die

/-- A region that holds a reserved cluster of a used group (R390, R392). -/
def regionReserved (s : State) (r : Nat) : Bool := (List.range 8).any (fun i => (groupOf s (8 * r + i)).isSome)

/-- Ungated regions that count among the four of R390. -/
def ungatedCount (s : State) : Nat :=
  ((List.range 64).filter (fun r => !((regionOf s r).gated) && !(regionReserved s r))).length

/-- R390: whether a region can take a placement now. -/
def regionReady (s : State) (r : Nat) : Bool := profile s != 3 || !((regionOf s r).gated) || regionReserved s r || decide (ungatedCount s < 4)

/-- Whether a command could be placed on a cluster now. -/
def roomOn (s : State) (c : Cmd) (q : Nat) : Bool :=
  (takeGranules s c q).isSome && (freeCounter s q).isSome && decide (trackerUsed s (q / 32) < 4096) && regionReady s (q / 8)

/-- What placing a command comes to. -/
inductive Spot where
  | fails
  | wait
  /-- a cluster, and whether it is borrowed -/
  | on (q : Nat) (borrowed : Bool)
  deriving DecidableEq, Repr

/-- The cluster that a command is placed on now. A Live command's cluster counts as free of borrowed work. -/
def spot (s : State) (c : Cmd) : Spot :=
  if outside s c || usesReserved s c then .fails
  else
    match favourite s c with
    | some q =>
      let s' := if hSvc c.desc = 0 then killBorrowed s q else s
      if roomOn s' c q then .on q false
      else
        match (lenders s c).find? (fun b => lends s b && roomOn s c b) with
        | some b => .on b true
        | none => .wait
    | none =>
      if !((candidates s c).isEmpty) then .wait
      else
        match (lenders s c).find? (fun b => lends s b && roomOn s c b) with
        | some b => .on b true
        | none => if (lenders s c).isEmpty then .fails else .wait

/-! ### Order on a cluster (R265) -/

/-- Commands of other descriptors that are ready for a cluster. -/
def rivals (s : State) (c : Cmd) (q : Nat) : List Cmd :=
  s.cmds.filter (fun x => !(x.ctx == c.ctx && x.idx == c.idx) && needsCluster x.desc && mayPlace s x && spot s x == .on q false)

/-- Whether a command goes before another on a cluster: class, with the turn of Bulk, then the context placed longest ago, then
validation order. -/
def goesFirst (s : State) (q : Nat) (a b : Cmd) : Bool :=
  if a.ctx = b.ctx then (earlier s b).any (fun x => x.idx == a.idx)
  else if hSvc a.desc = hSvc b.desc then
    let ta := (ctxOf s a.ctx).lastRun.toNat
    let tb := (ctxOf s b.ctx).lastRun.toNat
    decide (ta < tb) || (ta == tb && decide (a.ctx < b.ctx))
  else
    let turn := decide (7 ≤ (clusterOf s q).bulkTurn)
    if hSvc a.desc = 1 then !turn else turn

/-- R265: no other ready command must be placed on the cluster first. -/
def inTurn (s : State) (c : Cmd) (q : Nat) : Bool := (rivals s c q).all (fun x => !(goesFirst s q x c))

/-- R265: the count of Standard commands placed while a Bulk command was ready. -/
def nextTurn (s : State) (c : Cmd) (q : Nat) : Nat :=
  if hSvc c.desc = 1 ∧ (rivals s c q).any (fun x => hSvc x.desc == 2) then (clusterOf s q).bulkTurn + 1 else 0

/-! ### Placement -/

/-- The lines that a command on a cluster waits for: its operands in the module's own carafe, at peers and in host space, at the
addresses that serve them. Lines that can never land are not waited for; meeting them ends the command at its issue. -/
def operandLines (s : State) (c : Cmd) : List Nat :=
  ((((linesOfAll (cmdUsed s c)).filterMap (fun l => (servedFrom s (64 * l)).map (· / 64))).filter (fun l =>
    isCarafe (64 * l) || isHost (64 * l))).filter (canLand s)).foldl sins []

/-- R274, R265: the time of a context's last placement. -/
def noteRun (s : State) (n : Nat) : State := modCtx s n (fun k => { k with lastRun := s.localTime })

/-- R279: the 1 ms window of a time. -/
def liveWindow (t : W64) : Nat := t.toNat / us 1000

/-- The declared Live cost of a cluster's window with a command added. -/
def liveSum (s : State) (c : Cmd) (q : Nat) : Nat :=
  let k := clusterOf s q
  (if k.liveWin = liveWindow s.localTime then k.liveCost else 0) + hCost c.desc

/-- R279: beyond the budget of the group. -/
def beyondBudget (s : State) (c : Cmd) (q : Nat) : Bool :=
  hSvc c.desc == 0 && (match groupOfCtx s c.ctx with
    | some g => decide (grpBudget s.cset.active g < liveSum s c q)
    | none => false)

/-- Regions that a placement wakes (R390). -/
def ungate (s : State) (r : Nat) : State := modRegion s r (fun x => { x with gated := false })

/-- A command placed on a cluster. -/
def placeOn (s0 : State) (c : Cmd) (q : Nat) (borrowed : Bool) : State :=
  let turn := nextTurn s0 c q
  let s := if hSvc c.desc = 0 then killBorrowed s0 q else s0
  match takeGranules s c q, freeCounter s q with
  | some held, some k =>
    let ls := operandLines s c
    let beyond := beyondBudget s c q
    let c1 := { c with stage := .placed, pos := some q, die := q / 32, held := held, borrowed := borrowed, placedAt := s.localTime
                       qFree := freeGranules s q
                       counter := some k, overBudget := beyond }
    let s1 := seqAll s ((held.map (·.1 / 8)).foldl sins [q / 8]) ungate
    let s2 := modCluster s1 q (fun x =>
      { x with arrivals := aput x.arrivals k { ctx := c.ctx, idx := c.idx, expected := ls.length, count := 0 }
               bulkTurn := turn
               liveCost := if hSvc c.desc = 0 then liveSum s c q else x.liveCost
               liveWin := if hSvc c.desc = 0 then liveWindow s.localTime else x.liveWin })
    awaitLines (trace (noteRun s2 c.ctx) 3 c1 0) c1 ls
  | _, _ => s0

/-- A command placed without a cluster. -/
def placeFree (s : State) (c : Cmd) : State :=
  let die := operandDie s c
  if trackerUsed s die < 4096 then
    let c1 := { c with stage := .placed, die := die, placedAt := s.localTime }
    awaitLines (trace (noteRun s c.ctx) 3 c1 0) c1 ((farLines s (cmdUsed s c)).filter (canLand s))
  else s

/-- COMMAND_PLACE (R269). -/
def commandPlace (n idx : Nat) (s : State) : State :=
  match findCmd s n idx with
  | none => s
  | some c =>
    if !(mayPlace s c) then s
    else if needsCluster c.desc then
      match spot s c with
      | .fails => failCmd s c .state 0 0
      | .wait => s
      | .on q b => if b || inTurn s c q then placeOn s c q b else s
    else placeFree s c

def execCommandPlace (ctx idx : Nat) (s : State) : Host.Outcome State Fault Refusal := .next (commandPlace ctx idx s)

end Sys2Proof.Machine
end

