-- ==== Sys2Proof/Machine/Commit.lean ====
section
/-! DEFINITION. COMMAND_COMMIT and the acknowledgements of peers (R237, R238, R297), the second reading of generations (R91), the
look-aside buffers (R86 to R88) and the retry of a failed attempt. -/

namespace Sys2Proof.Machine

/-! ### The end of a committed command -/

/-- What a committed command still waits for: acknowledgements of peers, and of a collective's result lines (R297, R307). -/
def acked (c : Cmd) : Bool :=
  c.acksDue.isEmpty && (match c.coll with | some r => r.acksOwed.isEmpty | none => true)

/-- A collective's step ends here with success, and leaves its channel (R302). -/
def closeStep (s : State) (c : Cmd) : State :=
  match c.coll with
  | some r => modChan s r.channel (fun k =>
      { k with queue := k.queue.filter (· != (c.ctx, c.idx)), lastSteps := (r.step, true, r.members) :: k.lastSteps })
  | none => s

/-- A SIGNAL whose message is out: its ACK carries its result (R298). -/
def isSignal (d : Desc) : Bool := hClass d == 5 && hOp d == 3

/-- R48, R237: a committed command whose acknowledgements have come has its status. -/
def settle (s : State) (c : Cmd) : State :=
  if c.stage = .committed && acked c && !(isSignal c.desc) then
    let s1 := closeStep (snapEnd s c) c
    setCmd (unreserve (release s1 c) c) (decided s1 c (if c.work.reseq then .resequencedOk else .ok) 0 c.work.result)
  else s

/-- Every committed command whose acknowledgements have come. -/
def settleAll (s : State) : State := seqAll s s.cmds settle

/-! ### Commit checks -/

/-- R89, R91: the generations of tables, and the generation fields of lead entries, read again. -/
def checkGens (c : Cmd) : TxM Unit := do
  forAll (fun g => do
    let v ← rdNat g.1 4
    if v != g.2 then throw TxStop.again) c.gens
  forAll (fun g => do
    let e ← readEntry g.1
    if e.gen != g.2 then throw TxStop.again) c.leadGens

/-- What the commit checks come to. -/
inductive Final where
  | wait
  | again
  | fails (st : Status)
  | fetch (ls : List Nat)
  /-- the state in which the commit is made, the work, the changes to branches and the tables acquired -/
  | ready (s : State) (w : Work) (ops : List BrOp) (heads : List Nat)

/-- The commit checks of a command that are a transaction. -/
def txFinal (s : State) (c : Cmd) (k : TxM (Nat × List BrOp)) : Final :=
  match (do checkGens c; k : TxM (Nat × List BrOp)).run (txStart s c) with
  | .error .wait => .wait
  | .error .again => .again
  | .error (.fails st) => .fails st
  | .error (.fetch ls) => .fetch ls
  | .ok ((r, ops), t) => .ready s { c.work with writes := c.work.writes ++ t.w.reverse, result := r } ops t.taken

/-- A result without changes to branches. -/
def plain (k : TxM Nat) : TxM (Nat × List BrOp) := do
  let r ← k
  pure (r, [])

/-- The commit checks of each command (R92, R130, R196). -/
def finalOf (s : State) (c : Cmd) : Final :=
  match hClass c.desc, hOp c.desc with
  | 1, 4 => txFinal s c (plain (do bwdCommit s c; pure 0))
  | 2, 3 =>
    (match poolCommit s c with
     | .wait => .wait
     | .fails st => .fails st
     | .done s1 n => .ready s1 { c.work with result := n } [] [])
  | 3, 1 => txFinal s c (plain (apCommit c))
  | 3, 2 => txFinal s c (plain (tuCommit c))
  | 3, 3 => txFinal s c (plain (vfCommit c))
  | 3, 4 => txFinal s c (plain (pmCommit c))
  | 3, 5 => txFinal s c (fkCommit s c)
  | 3, 6 => txFinal s c (pnCommit s c)
  | 3, 7 => txFinal s c (prCommit s c)
  | 3, 8 => txFinal s c (if pkUnpark c.desc then unparkCommit s c else parkCommit s c)
  | _, _ => txFinal s c (pure (c.work.result, []))

/-- The statistics that a commit adds, as cells (R71). -/
def addedStats (s : State) (w : Work) : List Host.Cell :=
  match w.stats with
  | some (a, st) => statsCells s.mem a st
  | none => []

/-- What writing cells meets (R194, R206, R207). -/
def meetCells (s : State) (cs : List Host.Cell) : Meet :=
  let ms := (cellLines cs).map (fun l => meetLine s true (64 * l))
  match worst (ms.filterMap (fun m => match m with | .fails st => some st | _ => none)) with
  | some st => .fails st
  | none => if ms.contains .wait then .wait else .fine

/-! ### Commit buffers (R297) -/

/-- Bytes that a command writes at peers. -/
def peerBytes (s : State) (c : Cmd) : Nat := (c.work.writes.filter (fun w => peerLine s (w.1 / 64))).length

/-- 8 MiB in each of eight link dies, and 1 GiB that they share. -/
def commitRoom : Nat := 8 * 8388608 + 1073741824

/-- Bytes held for commands that have sent their holds. -/
def bufferUsed (s : State) : Nat := ((s.cmds.filter (fun c => c.holdsSent && c.stage != .decided)).map (peerBytes s)).sum

/-! ### Commit -/

/-- A command ends without commit. -/
def endCmd (s : State) (c : Cmd) (st : Status) : State :=
  match c.coll with
  | some _ => endColl s c st
  | none => failCmd s c st 0 0

/-- R297, step 2: the held writes go out, and one COMMIT for each peer. -/
def sendCommits (s : State) (c : Cmd) (cs : List Host.Cell) (mods : List Nat) : State :=
  seqAll (sendWrites s c cs) mods (fun s m => send s 0 mtCommit (hSvc c.desc) m c.epoch.toNat (cmdTag c) (2 ^ 50 * m) [])

/-- R238: all of a command's writes become visible at once. -/
def makeVisible (s : State) (c : Cmd) (ops : List BrOp) (heads : List Nat) : State :=
  let cs := c.work.writes ++ addedStats s c.work
  let s1 := storeCells s cs
  let s2 := dropTables (applyBrs { s1 with brMem := mapply s1.brMem c.work.brWrites
                                           brPoison := s1.brPoison.filter (fun b => !(c.work.brWrites.any (fun w => w.1 / 2 ^ 21 == b))) }
    ops) heads
  let s3 := touchPages (snapCommit s2 c) (pagesOf s2 (allRanges s2 c))
  let mods := ((peerPages s cs).map Prod.fst).dedup
  let s4 := sendCommits (trace s3 4 c 0) c cs mods
  let c1 := { c with stage := .committed, acksDue := mods, held := [], accs := [] }
  settle (setCmd s4 c1) c1

/-- A command whose own checks have passed in `s`: its holds at peers, then its commit. `s0` and `c0` are the state and the command
before the checks. -/
def commitHeld (s : State) (c : Cmd) (ops : List BrOp) (heads : List Nat) (s0 : State) (c0 : Cmd) : State :=
  let cs := c.work.writes ++ addedStats s c.work
  match meetCells s cs with
  | .fails st => endCmd s0 c0 st
  | .wait => s0
  | .fine =>
    let pages := peerPages s cs
    if pages.isEmpty || (c.holdsSent && c.holdsDue.isEmpty) then makeVisible s c ops heads
    else if c.holdsSent then s0
    else if 1073741824 < peerBytes s c && !(taking c) then endCmd s0 c0 .state
    else if commitRoom < bufferUsed s + peerBytes s c then s0
    else sendHolds s0 c0 pages

/-- An issued command's commit. -/
def commitIssued (s : State) (c : Cmd) : State :=
  match c.peerError with
  | some st => endCmd s c st
  | none =>
    if awaits s c || !(tablesFree s c true) then s
    else
      match finalOf s c with
      | .wait => s
      | .again => failedAttempt s c
      | .fails st => endCmd s c st
      | .fetch ls => fetchLines s c ls
      | .ready s1 w ops heads =>
        let c1 := snapSeal s1 { c with work := w }
        commitHeld s1 c1 ops heads s c

/-- COMMAND_COMMIT (R238). -/
def commandCommit (n idx : Nat) (s : State) : State :=
  match findCmd s n idx with
  | some c => if c.stage = .issued then commitIssued s c else s
  | none => s

def execCommandCommit (ctx idx : Nat) (s : State) : Host.Outcome State Fault Refusal := .next (commandCommit ctx idx s)

/-- GENERATION_RETRY (R91): the wait after a failed attempt is over, and the command may be placed again. -/
def generationRetry (n idx : Nat) (s : State) : State :=
  match findCmd s n idx with
  | some c => if c.mismatch && decide (c.retryAt.toNat ≤ s.localTime.toNat) then setCmd s { c with mismatch := false } else s
  | none => s

def execGenerationRetry (ctx idx : Nat) (s : State) : Host.Outcome State Fault Refusal := .next (generationRetry ctx idx s)

/-! ### Look-aside buffers (R86 to R88) -/

/-- R86: an entry that covers a token of a table. -/
def labCovers (head token : Nat) (e : LabEntry) : Bool :=
  e.head == head && decide (e.lead ≤ token ∧ token < e.lead + tokensOf e.size)

/-- R87: the clock hand from a position: the entries with the reference bits that it passes cleared, and where it stops. -/
def labClock : Nat → AMap LabEntry → Nat → AMap LabEntry × Nat
  | 0, lab, hand => (lab, hand)
  | n + 1, lab, hand =>
    match aget? lab hand with
    | some e => if e.ref then labClock n (aput lab hand { e with ref := false }) ((hand + 1) % 128) else (lab, hand)
    | none => (lab, hand)

/-- R87: a fill. -/
def labFill (r : Region) (e : LabEntry) : Region :=
  match (List.range 128).find? (fun k => (aget? r.lab k).isNone) with
  | some k => { r with lab := aput r.lab k e, cntFills := r.cntFills + 1 }
  | none =>
    let p := labClock 129 r.lab r.hand
    { r with lab := aput p.1 p.2 e, hand := (p.2 + 1) % 128, cntFills := r.cntFills + 1 }

/-- R86, R88: a region looks up a token of a table of the generation given, whose page is as given. -/
def labLookup (r : Region) (head gen token : Nat) (p : Hit) : Region :=
  let lab := r.lab.filter (fun e => e.2.head != head || e.2.gen == gen)
  match lab.find? (fun e => labCovers head token e.2) with
  | some (k, e) => { r with lab := aput lab k { e with ref := true }, cntHits := r.cntHits + 1 }
  | none => labFill { r with lab := lab }
      { head := head, gen := gen, lead := p.start, size := p.size, page := p.addr, shared := p.shared, node := p.node, ref := true }

/-- A command whose pages a region's walker resolves from a table. -/
def walkerCmd (s : State) (r head : Nat) : Option Cmd :=
  s.cmds.find? (fun c => c.stage == .placed && hClass c.desc == 1 && (hOp c.desc == 3 || hOp c.desc == 4)
    && (match c.pos with | some q => q / 8 == r | none => false) && c.list.contains head)

/-- R86, R89: the generation of a table and the page of one of its tokens as a walker finds them; none in per-page mode, or where the token
has no page. -/
def labResolve (head token : Nat) : TxM (Option (Nat × Hit)) := do
  let h ← readHead head
  let t ← get
  if perPage t.base h then pure none
  else do
    let p ← resolve h token
    pure (p.map (fun p => (h.gen, p)))

/-- LOOKASIDE_FILL (R86): the walker of a region resolves a token of a table, outside per-page mode (R89). -/
def lookasideFill (r head token : Nat) (s : State) : State :=
  match walkerCmd s r head with
  | none => s
  | some c =>
    match (labResolve head token).run (txStart s c) with
    | .ok (some (gen, p), _) => modRegion s r (fun x => labLookup x head gen token p)
    | _ => s

def execLookasideFill (region head token : Nat) (s : State) : Host.Outcome State Fault Refusal :=
  .next (lookasideFill region head token s)

end Sys2Proof.Machine
end

