-- ==== Sys2Proof/Machine/Residency.lean ====
section
/-! DEFINITION. Residency: eviction, save and restore of contexts' footprints, marks tables (R271 to R276), and the placement loop
(R270, R145). -/

namespace Sys2Proof.Machine

/-! ### Footprints and saves (R271, R275) -/

/-- The 64-byte lines of a context's scratch footprint. -/
def footLines (s : State) (n : Nat) : List Nat := linesOfAll (scratchRanges s n)

/-- The branches of a context that hold recurrent state in granules, rising. -/
def heldBranches (s : State) (n : Nat) : List (Nat × Branch) :=
  (ctxBranches s n).filter (fun b => !(b.2.parked) && b.2.granules != 0)

/-- The bytes of a whole save. -/
def footBytes (s : State) (n : Nat) : Nat :=
  64 * (footLines s n).length + ((heldBranches s n).map (fun b => 4096 * b.2.granules)).sum

/-- R284. -/
def saveSize (k : Ctx) : Nat := bits k.saveLo.toNat 15 0 * 65536
def saveBase (k : Ctx) : Nat := 65536 * bits k.saveLo.toNat 31 16 + 2 ^ 32 * k.saveHi.toNat

/-- R275: whether a context holds a save area now. -/
def hasSave (s : State) (n : Nat) : Bool :=
  let k := ctxOf s n
  saveSize k != 0 && decide (footBytes s n ≤ saveSize k) && ownCarafe s (saveBase k)
    && (List.range (saveSize k / 65536)).all (fun i => match aget? s.pool (pageOf (saveBase k) + i) with
      | some p => p.state == .resident && p.pinned
      | none => false)

/-- The lines that a save copies: the whole footprint, or the ranges of a mark. -/
def saveLines (s : State) (n : Nat) (ranges : Option (List (Nat × Nat))) : List Nat :=
  match ranges with
  | none => footLines s n
  | some rs => linesOfAll rs

/-- Where the branch granules of a save begin, after its lines (log entry 45). -/
def branchPlaces : Nat → List (Nat × Branch) → List (Nat × Nat × Nat)
  | _, [] => []
  | o, b :: bs => (o, b.1, 4096 * b.2.granules) :: branchPlaces (o + 4096 * b.2.granules) bs

/-- Lines copied with their poison from addresses to addresses, given as line numbers (R211). -/
def copyLines (s : State) (ps : List (Nat × Nat)) : State :=
  let cells := ps.flatMap (fun p => movedCells s.mem (64 * p.1) (64 * p.2) 64)
  let cleared := ps.foldl (fun m p => mclear m (64 * p.2) 64) s.mem
  let poison := s.poison.filter (fun l => !(ps.any (fun p => p.2 == l)))
  { s with mem := mapply cleared cells
           poison := (ps.filter (fun p => s.poison.contains p.1)).foldl (fun q p => sins q p.2) poison }

/-- Pairs of a footprint line and its place in the save area. -/
def savePlaces (s : State) (n : Nat) (ranges : Option (List (Nat × Nat))) : List (Nat × Nat) :=
  let ls := saveLines s n ranges
  (List.range ls.length).map (fun i => (ls.getD i 0, saveBase (ctxOf s n) / 64 + i))

/-- The footprint copied to the save area. -/
def saveCopy (s : State) (n : Nat) (ranges : Option (List (Nat × Nat))) : State :=
  let s1 := copyLines s (savePlaces s n ranges)
  let o := saveBase (ctxOf s n) + 64 * (saveLines s n ranges).length
  seqAll s1 (branchPlaces o (heldBranches s n)) (fun s p =>
    { s with mem := mapply (mclear s.mem p.1 p.2.2) ((brState s.brMem p.2.1).map (fun c => (p.1 + c.1, c.2))) })

/-- The footprint copied back: what the save does not hold returns as zeros (R276). -/
def restoreCopy (s : State) (n : Nat) : State :=
  let k := ctxOf s n
  let s0 := match k.savedRanges with
    | some _ => { s with mem := (scratchRanges s n).foldl (fun m r => mclear m r.1 r.2) s.mem
                         poison := s.poison.filter (fun l => !((footLines s n).contains l)) }
    | none => s
  let s1 := copyLines s0 ((savePlaces s n k.savedRanges).map (fun p => (p.2, p.1)))
  let o := saveBase k + 64 * (saveLines s n k.savedRanges).length
  seqAll s1 (branchPlaces o (heldBranches s n)) (fun s p =>
    { s with brMem := mapply (brClear s.brMem p.2.1) ((List.range p.2.2).map (fun i => (brAddr p.2.1 i, mget s.mem (p.1 + i)))) })

/-! ### Runnable contexts and candidates (R273, R274) -/

/-- A command that waits for its context to be resident. -/
def wantsPlace (c : Cmd) : Bool := c.stage == .validated && isPlaced c.desc

/-- R273: SWAPPED with a validated command waiting. -/
def runnable (s : State) (n : Nat) : Bool :=
  let k := ctxOf s n
  k.state != .disabled && k.res == .swapped && (ctxCmds s n).any wantsPlace

/-- The time since which a runnable context waits. -/
def waitsFrom (s : State) (n : Nat) : Nat :=
  match ((ctxCmds s n).filter wantsPlace).map (fun c => c.validatedAt.toNat) with
  | [] => 0
  | t :: ts => ts.foldl min t

/-- R273: no other runnable context that wants the same scratchpad has waited longer. -/
def waitedLongest (s : State) (n : Nat) : Bool :=
  (conflicting s n).all (fun m => !(runnable s m) || decide (waitsFrom s n < waitsFrom s m) || (waitsFrom s n == waitsFrom s m && decide (n ≤ m)))

/-- R274: blocked: BLOCKED, HALTED, or ACTIVE with no command in flight or validated. -/
def isBlocked (s : State) (n : Nat) : Bool :=
  ctxState s n == .blocked || ctxState s n == .halted
    || (ctxState s n == .active && (ctxCmds s n).all (fun c => c.stage == .fetched || c.stage == .decided))

/-- R274: whether a resident context may be evicted for a runnable one. -/
def mayEvict (s : State) (n r : Nat) : Bool :=
  let k := ctxOf s n
  k.svc != 0 && hasSave s n && decide (us 200 ≤ since s k.residentAt)
    && (isBlocked s n
      || (k.svc == 2 && (ctxOf s r).svc == 1)
      || (k.svc == (ctxOf s r).svc && decide (us 2000 < since s k.residentAt)))

/-- The resident contexts that may be evicted for a runnable one. -/
def evictable (s : State) (r : Nat) : List Nat :=
  (conflicting s r).filter (fun n => (ctxOf s n).res == .resident && mayEvict s n r)

/-- R274: least recently run first. -/
def leastRun (s : State) (n r : Nat) : Bool :=
  (evictable s r).all (fun m =>
    decide ((ctxOf s n).lastRun.toNat < (ctxOf s m).lastRun.toNat) || (ctxOf s n).lastRun == (ctxOf s m).lastRun && decide (n ≤ m))

/-! ### Marks (R276, R285) -/

/-- A mark of a marks table. -/
structure Mark where
  index  : Nat
  ranges : List (Nat × Nat)
  deriving DecidableEq, Repr

/-- The ranges of a mark, when each is listed and lies inside the footprint. -/
def markRanges (s : State) (n a count : Nat) : Option (List (Nat × Nat)) :=
  let foot := footLines s n
  let rs := (List.range count).map (fun i => (mnat s.mem (a + 16 * i) 8, mnat s.mem (a + 16 * i + 8) 4))
  let ok := (List.range count).all (fun i =>
    let b := mnat s.mem (a + 16 * i) 8
    let l := mnat s.mem (a + 16 * i + 8) 4
    mnat s.mem (a + 16 * i + 12) 4 == 0 && b % 64 == 0 && l % 64 == 0 && isScratch b && (linesOf b l).all foot.contains)
  if ok then some rs else none

/-- A mark of the table at an address, when it is listed. -/
def markAt (s : State) (n a i : Nat) : Option Mark :=
  let m := a + 64 + 32 * i
  let count := mnat s.mem (m + 4) 4
  let ra := mnat s.mem (m + 8) 8
  if 64 < count || ra % 64 != 0 || 2 ^ 46 ≤ ra || mnat s.mem (m + 16) 16 != 0 then none
  else (markRanges s n (hostAddr s ra) count).map (fun rs => { index := mnat s.mem m 4, ranges := rs })

/-- All the marks of a context's table; none where there is no table, or where it is not used. -/
def marks (s : State) (n : Nat) : Option (List Mark) :=
  let k := ctxOf s n
  let bus := k.marksLo.toNat / 64 * 64 + 2 ^ 32 * k.marksHi.toNat
  let a := hostAddr s bus
  if s.regs.svcMode = 0 || bus = 0 || 2 ^ 46 ≤ bus || !(hostUp s) then none
  else
    let count := mnat s.mem a 4
    if 4096 < count || mnat s.mem (a + 4) 60 != 0 then none
    else (List.range count).mapM (markAt s n a)

/-- Distance of a ring index from another, modulo 2^32. -/
def ringDist (i j : Nat) : Nat := (w32 j - w32 i).toNat

/-- A descriptor that counts as placed (R276). -/
def countsPlaced (c : Cmd) : Bool :=
  !(hClass c.desc == 5 && (hOp c.desc == 1 || hOp c.desc == 2 || hOp c.desc == 4)) && c.stage != .fetched && c.stage != .validated

/-- R276: every descriptor below an index has completed, and none at or above it has been placed. -/
def atCheapPoint (s : State) (n i : Nat) : Bool :=
  let cs := ctxCmds s n
  cs.length == ringDist i (ctxOf s n).sqHead.toNat
    && cs.all (fun c => decide (ringDist i c.idx < cs.length) && !(countsPlaced c))

/-- The next mark: the first index above every placed descriptor, and not below the first incomplete one. -/
def nextMark (s : State) (n : Nat) (ms : List Mark) : Option Nat :=
  let cs := ctxCmds s n
  let base := (cs.head?.map Cmd.idx).getD (ctxOf s n).sqHead.toNat
  let last := ((cs.filter countsPlaced).map (fun c => ringDist base c.idx + 1)).foldl max 0
  let ds := (ms.map (fun m => ringDist base m.index)).filter (fun d => decide (last ≤ d ∧ d < 2 ^ 31))
  (ds.min?).map (fun d => (base + d) % 2 ^ 32)

/-! ### Eviction, save, restore -/

/-- R274, R267: the commands of an evicted context that are in flight: they run again after the restore. -/
def evictKills (s : State) (n : Nat) : State :=
  seqAll s ((ctxCmds s n).filter (fun c =>
      (c.stage == .placed || c.stage == .issued) || (isSnapshot c.desc && c.stage == .validated && c.arrived)))
    killAgain

/-- R272: the save of a context begins, of its whole footprint or of a mark's ranges. -/
def beginSave (s : State) (n : Nat) (ranges : Option (List (Nat × Nat))) : State :=
  modCtx (evictKills s n) n (fun k =>
    { k with res := .saving, marked := ranges.isSome, evictions := k.evictions + 1, saveEmpty := false, savedRanges := ranges,
             markWait := false, markIndex := none })

/-- CONTEXT_EVICT (R274, R276): a resident context gives way to a runnable one, or reaches the cheap point that its eviction waits
for. -/
def contextEvict (n r : Nat) (s : State) : State :=
  let k := ctxOf s n
  if k.res != .resident || k.state == .disabled then s
  else if k.markWait then
    match k.markIndex, marks s n with
    | some i, some ms => if atCheapPoint s n i then beginSave s n ((ms.find? (fun m => m.index == i)).map Mark.ranges) else s
    | _, _ => s
  else if !(runnable s r && (evictable s r).contains n && waitedLongest s r && leastRun s n r
      && (conflicting s r).all (fun m => (ctxOf s m).res != .saving && !((ctxOf s m).markWait))) then s
  else
    match marks s n with
    | none => beginSave s n none
    | some ms =>
      match ms.find? (fun m => atCheapPoint s n m.index) with
      | some m => beginSave s n (some m.ranges)
      | none =>
        match nextMark s n ms with
        | some i => modCtx s n (fun k => { k with markWait := true, markIndex := some i, markSince := s.localTime })
        | none => beginSave s n none

def execContextEvict (ctx runnable : Nat) (s : State) : Host.Outcome State Fault Refusal := .next (contextEvict ctx runnable s)

/-- MARK_WAIT_TIMEOUT (R276): 100 µs have passed without the cheap point. -/
def markWaitTimeout (n : Nat) (s : State) : State :=
  let k := ctxOf s n
  if k.markWait && k.res == .resident && decide (us 100 ≤ since s k.markSince) then beginSave s n none else s

def execMarkWaitTimeout (ctx : Nat) (s : State) : Host.Outcome State Fault Refusal := .next (markWaitTimeout ctx s)

/-- R414, step 4: while a standby saves, the first RESIDENT context with a save area is saved next, one after another. -/
def standbySave (s : State) : State :=
  match s.standby with
  | some b =>
    if b.stage = .saving ∧ s.ctxs.all (fun k => k.2.res != .saving) then
      match s.ctxs.find? (fun k => k.2.state != .disabled && k.2.res == .resident && hasSave s k.1) with
      | some k => beginSave s k.1 none
      | none => s
    else s
  | none => s

/-- CONTEXT_SAVE_DONE (R275). -/
def contextSaveDone (n : Nat) (s : State) : State :=
  let k := ctxOf s n
  if k.res = .saving then standbySave (modCtx (saveCopy s n k.savedRanges) n (fun k => { k with res := .swapped })) else s

def execContextSaveDone (ctx : Nat) (s : State) : Host.Outcome State Fault Refusal := .next (contextSaveDone ctx s)

/-- R272: no command holds granules that a context's branches need back. -/
def granulesBack (s : State) (n : Nat) : Bool :=
  (heldBranches s n).all (fun b => match branchQ b.2 with
    | some q => decide ((s.cmds.map (fun c => heldOn c q)).sum + branchGranules s q ≤ soundGranules s q)
    | none => true)

/-- CONTEXT_RESTORE (R273). -/
def contextRestore (n : Nat) (s : State) : State :=
  if placing s && runnable s n && waitedLongest s n && granulesBack s n
      && (conflicting s n).all (fun m => (ctxOf s m).res == .swapped) then
    modCtx s n (fun k => { k with res := .restoring })
  else s

def execContextRestore (ctx : Nat) (s : State) : Host.Outcome State Fault Refusal := .next (contextRestore ctx s)

/-- CONTEXT_RESTORE_DONE (R275). -/
def contextRestoreDone (n : Nat) (s : State) : State :=
  let k := ctxOf s n
  if k.res = .restoring then
    standbySave (modCtx (if k.saveEmpty then s else restoreCopy s n) n (fun k => { k with res := .resident, residentAt := s.localTime }))
  else s

def execContextRestoreDone (ctx : Nat) (s : State) : Host.Outcome State Fault Refusal := .next (contextRestoreDone ctx s)

/-! ### The placement loop (R270) -/

/-- A list of numbers in ascending order. -/
def ascending (l : List Nat) : List Nat :=
  l.foldl (fun acc x => (acc.takeWhile (fun y => decide (y ≤ x))) ++ x :: (acc.dropWhile (fun y => decide (y ≤ x)))) []

/-- Twice the median of a list; of an even number of values, the mean of the middle two (log entry 46). -/
def twiceMedian (l : List Nat) : Nat :=
  let a := ascending l
  a.getD ((a.length - 1) / 2) 0 + a.getD (a.length / 2) 0

/-- Whether a region with a measured rate is slow: below 0.9 of the median; once slow, until 0.95. A region without work keeps its
mark (log entry 46). -/
def slowNow (r : Region) (rate m2 : Nat) : Bool :=
  if rate = 0 then r.slow else if r.slow then decide (200 * rate < 95 * m2) else decide (20 * rate < 9 * m2)

/-- R145: a branch whose state may move to a cluster: no command that names it is in flight or awaits validation. -/
def mayMove (s : State) (b q : Nat) : Bool :=
  match branchOf s b with
  | some r =>
    !(r.parked) && r.granules != 0 && (ctxOf s r.ctx).res == .resident
      && (match branchQ r with | some p => (regionOf s (p / 8)).slow && p != q | none => false)
      && !(s.cmds.any (fun c => c.ctx == r.ctx && c.stage != .decided && (names s c.desc).contains b))
      && stateFits s r.ctx q r.granules 0 && decide (r.granules ≤ freeStateRoom s q) && decide (q < 512)
  | none => false

/-- One move of branch state (R145). -/
def moveBranch (s : State) (m : Nat × Nat) : State :=
  if mayMove s m.1 m.2 then
    match branchOf s m.1 with
    | some r => mirror { s with branches := aput s.branches m.1 { r with statePos := qToPos m.2 } } [m.1]
    | none => s
  else s

/-- The number of moves made so far is bounded by 64 (R270): moves that may not be made do not count. -/
def moveBranches : Nat → State → List (Nat × Nat) → State
  | 0, s, _ => s
  | _, s, [] => s
  | n + 1, s, m :: ms => if mayMove s m.1 m.2 then moveBranches n (moveBranch s m) ms else moveBranches (n + 1) s ms

/-- PLACEMENT_LOOP (R270): `rates` are the A-cycles of row work per microsecond of the 64 regions over the last 1 ms, `moves` the
branches that the loop picks with their new clusters (log entry 46). -/
def placementLoop (rates : List Nat) (moves : List (Nat × Nat)) (s : State) : State :=
  if us 100 ≤ since s s.loopAt then
    let m2 := twiceMedian ((rates.take 64).filter (· != 0))
    let s1 := seqAll { s with loopAt := s.localTime } (List.range 64) (fun s r =>
      if slowNow (regionOf s r) (rates.getD r 0) m2 = (regionOf s r).slow then s
      else modRegion s r (fun x => { x with slow := !x.slow }))
    moveBranches 64 s1 moves
  else s

def execPlacementLoop (rates : List Nat) (moves : List (Nat × Nat)) (s : State) : Host.Outcome State Fault Refusal :=
  .next (placementLoop rates moves s)

end Sys2Proof.Machine
end

