-- ==== Sys2Proof/Machine/Death.lean ====
section
/-! DEFINITION. Module death: declarations, the notices that flood, the death log, and what a module that counts as dead does to this
module's work (R22, R206, R290, R299, R300, R327). -/

namespace Sys2Proof.Machine

/-- The class of maintenance messages (R287). -/
def clsMaint : Nat := 3

/-- A message to the neighbour on one port. -/
def sendOn (s : State) (p mtype : Nat) (data : List Byte) : State :=
  let dst := (portOf s p).peer
  let q := aget s.links.seqOut (seqKey dst clsMaint) 0#32
  let f : Flit := { cls := clsMaint, dst := dst, src := selfId s, epoch := 0, seq := q.toNat, tag := 0, address := 0, data := data }
  { s with links :=
    { s.links with seqOut := aput s.links.seqOut (seqKey dst clsMaint) (q + 1)
                   out := s.links.out ++ [(p, { mtype := mtype, flit := f })] } }

/-- R299: the data of a notice. -/
def noticeData (s : State) (m : Nat) (inc : W32) (cause : Nat) : List Byte :=
  leBytes 2 m ++ leBytes 2 0 ++ leBytes 4 inc.toNat ++ leBytes 1 cause ++ leBytes 7 0 ++ leBytes 8 s.localTime.toNat

/-- R299: a notice goes out on every UP port except the one it arrived on. -/
def flood (s : State) (arrived : Option Nat) (m : Nat) (inc : W32) (cause : Nat) : State :=
  seqAll s ((upPorts s).filter (fun p => arrived != some p)) (fun s p => sendOn s p mtDeath (noticeData s m inc cause))

/-! ### What a death does to this module's work (R300) -/

/-- R206: the line that replaces a line of a dead module, where the replica map offers another source. -/
def otherSource (s : State) (m l : Nat) : Nat :=
  let o := gaOff (64 * l)
  match (rmap s.cset.active).find? (fun e => decide (gaOff e.base ≤ o ∧ o < gaOff e.base + e.length)
      && (gaMod e.base == m || e.replicas.contains m)) with
  | some e => ((servedFrom s (2 ^ 50 * gaMod e.base + o)).map (· / 64)).getD l
  | none => l

/-- R206: a command's awaited lines are asked for elsewhere. -/
def redirect (m : Nat) (s : State) (c : Cmd) : State :=
  if c.await.any (fun l => peerLine s l && gaMod (64 * l) == m) then
    let c1 := { c with await := c.await.map (fun l => if peerLine s l && gaMod (64 * l) == m then otherSource s m l else l) }
    askLines (setCmd s c1) c1
  else s

/-- R250, R297, R298: one command of this module when a module counts as dead. -/
def cmdLoses (m : Nat) (s : State) (c : Cmd) : State :=
  if waiting c && peerCarafe s (sgOf c.desc).addr && gaMod (sgOf c.desc).addr == m then failCmd s c .moduleDead 0 0
  else if c.stage = .committed && c.acksDue.contains m then
    (if isSignal c.desc then failCmd s c .moduleDead 0 0
     else
      let c1 := { c with acksDue := c.acksDue.filter (· != m) }
      settle (setCmd s c1) c1)
  else if c.holdsDue.any (fun h => h.1 == m) then setCmd s { c with peerError := some .moduleDead, holdsDue := [] }
  else redirect m s c

/-- Each command of the hub as it then stands, in order. -/
def eachCmd (s : State) (f : State → Cmd → State) : State :=
  seqAll s (s.cmds.map (fun c => (c.ctx, c.idx))) (fun s k => match findCmd s k.1 k.2 with
    | some c => f s c
    | none => s)

/-- R198: the eviction area lies on the module. -/
def evictsTo (s : State) (m : Nat) : Bool := isCarafe (evictBase s.cset.active) && evictBase s.cset.active != 0
  && gaMod (evictBase s.cset.active) == m

/-- R300: everything that a module's death means for the work of this module. -/
def loseModule (s : State) (m : Nat) : State :=
  let s1 := { s with links := { s.links with reads := s.links.reads.filter (fun r => r.module != m) } }
  let s2 := eachCmd s1 (cmdLoses m)
  let s3 := eachCmd (huddleDeaths s2 m) (fun s c => collDeaths s c [m])
  settleAll (if evictsTo s3 m then losePages s3 else s3)

/-! ### Declarations (R299, R327) -/

/-- The death log with a declaration added: 1,024 entries, the oldest overwritten. -/
def logDeath (l : List Death) (d : Death) : List Death := if l.length < 1024 then l ++ [d] else l.drop 1 ++ [d]

/-- Whether a declaration is already logged. -/
def deathKnown (s : State) (m : Nat) (inc : W32) : Bool := s.links.deathLog.any (fun d => d.module == m && d.incarnation == inc)

/-- R299: a module is declared dead; a notice goes out once for each (module, incarnation). -/
def declareDeath (s : State) (arrived : Option Nat) (m : Nat) (inc : W32) (cause : Nat) : State :=
  if deathKnown s m inc && (aget? s.links.dead m).isSome then s
  else
    let fresh := !(deathKnown s m inc)
    let s1 := { s with links :=
      { s.links with dead := aput s.links.dead m inc, lastDead := m
                     deathLog := if fresh then logDeath s.links.deathLog { module := m, incarnation := inc, cause := cause, time := s.localTime }
                                 else s.links.deathLog } }
    let s2 := logEvent (linkEvent s1 0) lsHub 2 0x0040 m inc.toNat
    loseModule (if fresh then flood s2 arrived m inc cause else s2) m

/-- R22, R299: the module is failed: it signals its own death on every UP port and fetches no descriptor. -/
def failModule (s : State) (cause : Nat) : State :=
  let s1 := logEvent s (if cause = 1 then lsBarista else lsReferee) 3 0x0011 0xFFFF cause
  { flood s1 none (selfId s) s.links.incarnation cause with phase := .failed }

/-- The cause that the block which fails the module signals: Barista stands in for the Referee (R338). -/
def failCause (s : State) : Nat := if s.recov.standingIn then 1 else 0

/-- DECLARE_DEAD (R319). -/
def declareDead (m : Nat) (s : State) : State :=
  if m < 16384 ∧ m ≠ selfId s then declareDeath s none m (aget s.links.presents m 0#32) 3 else s

def execDeclareDead (target : Nat) (s : State) : Host.Outcome State Fault Refusal := 
  .next (barWrite s 0x300420 4 (2 ^ 31 + target % 2 ^ 14) (declareDead target))

/-- UNREACHABLE_TIMEOUT (R290): traffic to a destination has waited more than 10 ms: it counts as dead for this module's own work. -/
def unreachableTimeout (m : Nat) (s : State) : State :=
  match aget? s.links.waitSince m with
  | some t =>
    if decide (us 10000 < since s t) && (routePorts s m 0).isEmpty && !(s.links.unreachable.contains m) then
      loseModule { s with links := { s.links with unreachable := sins s.links.unreachable m } } m
    else s
  | none => s

def execUnreachableTimeout (target : Nat) (s : State) : Host.Outcome State Fault Refusal := .next (unreachableTimeout target s)

/-! ### Waiting traffic (R290) -/

/-- Messages that waited for a port of their route leave, as far as their routes now have ports. -/
def retryWaiting (s : State) : State :=
  let ws := s.links.waiting
  let s1 := seqAll { s with links := { s.links with waiting := [] } } ws (fun s w => emit s w.1 w.2)
  let freed := (s1.links.waitSince.map Prod.fst).filter (fun m => !((routePorts s1 m 0).isEmpty))
  { s1 with links := { s1.links with waitSince := freed.foldl adel s1.links.waitSince
                                     unreachable := s1.links.unreachable.filter (fun m => !(freed.contains m)) } }

end Sys2Proof.Machine
end

