-- ==== Sys2Proof/Machine/Carafe.lean ====
section
/-! DEFINITION. Dies and carafes: die resets (R20 to R22), uncorrectable lines (R18, R211, R212), channel substitution and remap
(R214 to R219), patrol scrub (R401), carafe throttling (R220), the retirement queue (R224), and the set-up actions on memory
(R118, R147, R192, R193, R384). -/

namespace Sys2Proof.Machine

/-! ### Die reset (R20 to R22) -/

def setDie (s : State) (d : Nat) (x : Die) : State := { s with dies := aput s.dies d x }

def linkDieOf (s : State) (l : Nat) : Die := aget s.linkDies l {}

def setLinkDie (s : State) (l : Nat) (x : Die) : State := { s with linkDies := aput s.linkDies l x }

/-- R22: a die whose last reset was within 60 s. -/
def resetRecent (s : State) (x : Die) : Bool :=
  match x.lastReset with
  | some t => decide (since s t ≤ us 60000000)
  | none => false

/-- The global address of a die's scratch windows: 256 MiB. -/
def dieScratch (s : State) (d : Nat) : Nat := 2 ^ 50 * selfId s + 2 ^ 46 + 2 ^ 28 * d

/-- Whether a range lies partly in a die's scratch windows. -/
def onDie (s : State) (d : Nat) (r : Nat × Nat) : Bool :=
  decide (r.1 < dieScratch s d + 2 ^ 28 ∧ dieScratch s d < r.1 + r.2)

/-- The branches whose recurrent state lies on a die. -/
def branchesOn (s : State) (d : Nat) : List Nat :=
  (s.branches.filter (fun b => !(b.2.parked) && (match branchQ b.2 with | some q => q / 32 == d | none => false))).map Prod.fst

/-- R20: a context that has working state on a die. A SWAPPED context's is in its save area, and a RESETTING context goes on to DISABLED
(R246). -/
def worksOn (s : State) (d n : Nat) : Bool :=
  let k := ctxOf s n
  k.state != .disabled && k.state != .resetting && k.res != .swapped
    && ((scratchRanges s n).any (onDie s d) || (branchesOn s d).any (fun b => (branchOf s b).map Branch.ctx == some n))

/-- The substitution of a pending SET_SWAP goes on through a die reset (R374). -/
def haltEnds (c : Cmd) : Bool := killable c && !(hClass c.desc == 5 && hOp c.desc == 5)

/-- R20: a context with working state on the die is halted. -/
def haltByDie (s : State) (n : Nat) : State :=
  let s1 := eachCmd s (fun s c => if c.ctx == n && haltEnds c && !(sleeping s c) then killWith s c .state else s)
  let s2 := discardUnvalidated s1 n
  haltCtx s2 n .dieReset (ctxOf s2 n).sqHead 1

/-- A command in flight on a die. -/
def runsOn (d : Nat) (c : Cmd) : Bool :=
  (c.stage == .placed || c.stage == .issued) && (c.die == d || c.held.any (fun h => h.1 / 32 == d))

/-- A cluster cleared by a die reset: its retired granules and their error counts stay (R20, R52). -/
def clearCluster (k : Cluster) : Cluster :=
  { k with arrivals := [], rowOwner := none, bulkTurn := 0, cnt0 := 0, cnt1 := 0, cnt2 := 0, cnt3 := 0 }

/-- A region's look-aside buffer and walker counters cleared (R88, R119). -/
def clearWalker (r : Region) : Region := { r with lab := [], hand := 0, cntHits := 0, cntFills := 0, cntGens := 0, cntPages := 0 }

/-- R20: what a die reset clears of a die. -/
def clearDie (s : State) (d : Nat) : State :=
  let bs := branchesOn s d
  { s with
    clusters := s.clusters.map (fun k => if k.1 / 32 = d then (k.1, clearCluster k.2) else k)
    regions := s.regions.map (fun r => if r.1 / 4 = d then (r.1, clearWalker r.2) else r)
    mem := mclear s.mem (dieScratch s d) (2 ^ 28)
    poison := s.poison.filter (fun l => !(onDie s d (64 * l, 64)))
    brMem := bs.foldl brClear s.brMem
    brPoison := s.brPoison.filter (fun b => !(bs.contains b))
    links := { s.links with reads := s.links.reads.filter (fun r => r.die != d) } }

/-- R282, R338: the Referee begins a recovery. -/
def beginRecovery (s : State) : State := { s with regs := { s.regs with svcMode := 3 } }

/-- DIE_RESET (R20, R22). -/
def dieReset (d : Nat) (s : State) : State :=
  if s.phase != .running || asleep s || 16 ≤ d || (dieOf s d).resetting then s
  else if resetRecent s (dieOf s d) then failModule s (failCause s)
  else
    let s1 := beginRecovery (logEvent s lsDie 2 0x0010 d 0)
    let s2 := seqAll s1 ((s1.ctxs.map Prod.fst).filter (worksOn s1 d)) haltByDie
    let s3 := eachCmd s2 (fun s c => if runsOn d c then killAgain s c else s)
    setDie (clearDie s3 d) d { dieOf s3 d with resetting := true, lastReset := some s.localTime }

def execDieReset (die : Nat) (s : State) : Host.Outcome State Fault Refusal := .next (dieReset die s)

/-- A port takes a state, and reports the change (R290, R316). -/
def portTo (s : State) (p : Nat) (st : PortState) : State :=
  if (portOf s p).state = st then s
  else portEvent (setPortRec s p { portOf s p with state := st, since := s.localTime, replays := 0 }) p 0

/-- The port that a peer's line would be written through (R292, R297). -/
def writePort (s : State) (l : Nat) : Option Nat := choosePort (routePorts s (gaMod (64 * l)) 0) (64 * l)

/-- A command that holds remote writes in a link die's commit buffer. -/
def buffersOn (s : State) (ld : Nat) (c : Cmd) : Bool :=
  c.stage == .issued && c.holdsSent
    && ((cellLines c.work.writes).filter (peerLine s)).any (fun l => (writePort s l).map (· / 4) == some ld)

/-- LINK_DIE_RESET (R21, R22, R309). -/
def linkDieReset (ld : Nat) (s : State) : State :=
  if s.phase != .running || 8 ≤ ld || (linkDieOf s ld).resetting then s
  else if resetRecent s (linkDieOf s ld) then failModule s (failCause s)
  else
    let s1 := beginRecovery (logEvent s lsLinkDie 2 0x0010 ld 0)
    let hit := (s1.cmds.filter (buffersOn s1 ld)).map (fun c => (c.ctx, c.idx))
    let s2 := eachCmd s1 (fun s c => if hit.contains (c.ctx, c.idx) then killAgain s c else s)
    let s3 := seqAll s2 ((List.range 4).map (4 * ld + ·)) (fun s p => if (portOf s p).state = .disabled then s else portTo s p .down)
    setLinkDie s3 ld { linkDieOf s3 ld with resetting := true, lastReset := some s.localTime }

def execLinkDieReset (ld : Nat) (s : State) : Host.Outcome State Fault Refusal := .next (linkDieReset ld s)

/-- R290: an enabled port that is DOWN starts training. -/
def startTraining (s : State) (p : Nat) : State :=
  if (portOf s p).enable && (portOf s p).state == .down && !((linkDieOf s (p / 4)).resetting) then portTo s p .training else s

/-- DIE_RESET_DONE (R20, R21): the die returns; a link die's ports train. -/
def dieResetDone (link : Bool) (d : Nat) (s : State) : State :=
  if link then
    if (linkDieOf s d).resetting then
      seqAll (setLinkDie s d { linkDieOf s d with resetting := false }) ((List.range 4).map (4 * d + ·)) startTraining
    else s
  else if (dieOf s d).resetting then setDie s d { dieOf s d with resetting := false }
  else s

def execDieResetDone (link : Bool) (die : Nat) (s : State) : Host.Outcome State Fault Refusal := .next (dieResetDone link die s)

/-! ### Scratchpad and accumulator lines (R18) -/

/-- R18: one more uncorrectable error of a granule: it is retired after its second. -/
def granuleError (k : Cluster) (g : Nat) : Cluster :=
  let n := aget k.errors g 0 + 1
  { k with errors := aput k.errors g n, retired := if 2 ≤ n then sins k.retired g else k.retired }

/-- What an accumulator line of a cluster may belong to. -/
inductive AccOwner where
  | cmd (ctx idx : Nat)
  | branch (b : Nat)
  | nobody
  deriving DecidableEq, Repr

/-- Those that hold granules on a cluster. -/
def accOwners (s : State) (q : Nat) : List AccOwner :=
  ((s.cmds.filter (fun c => heldOn c q != 0)).map (fun c => AccOwner.cmd c.ctx c.idx))
  ++ ((s.branches.filter (fun b => !(b.2.parked) && branchQ b.2 == some q)).map (fun b => AccOwner.branch b.1)) ++ [.nobody]

/-- SCRATCHPAD_UNCORRECTABLE (R18, R32): a line of a cluster's scratchpad, or of its accumulator memory, is poisoned. Which holder of
accumulator granules the line belongs to is not stated (log entry 47). -/
def scratchpadUncorrectable (q a : Nat) (acc : Bool) (s : State) : State :=
  if 512 ≤ q then s
  else if acc then
    let s1 := modCluster s q (fun k => granuleError k (a / 4096 % 512))
    let os := accOwners s q
    match os.getD (Config.pick (3000000 + 512 * a + q) os.length % os.length) .nobody with
    | .cmd n i => match findCmd s1 n i with
      | some c => setCmd s1 { c with peerError := some .poison }
      | none => s1
    | .branch b => { s1 with brPoison := sins s1.brPoison b }
    | .nobody => s1
  else
    let o := a % 2 ^ 23
    poisonLines (modCluster s q (fun k => granuleError k (512 + o / 4096)))
      [(2 ^ 50 * selfId s + 2 ^ 46 + 2 ^ 23 * q + o) / 64]

def execScratchpadUncorrectable (q address : Nat) (accumulator : Bool) (s : State) : Host.Outcome State Fault Refusal :=
  .next (scratchpadUncorrectable q address accumulator s)

/-! ### The retirement queue (R212, R224) -/

/-- R212: a page is listed for retirement: page, home die, reason. -/
def listPage (reason : Nat) (s : State) (p : Nat) : State :=
  if s.retireQ.any (fun e => e.1 == p) then s
  else if s.retireQ.length < 256 then raiseSource { s with retireQ := s.retireQ ++ [(p, homeDie s p, reason % 4)] } 0
  else raiseSource { s with retireOvf := true, retireOvfCnt := s.retireOvfCnt + 1 } 0

/-- CARAFE_UNCORRECTABLE (R211, R212): a line of a page's frame cannot be corrected. -/
def carafeUncorrectable (a reason : Nat) (s : State) : State :=
  if ownCarafe s a && pageState s (pageOf a) == some .resident then
    listPage reason (poisonLines s [a / 64]) (pageOf a)
  else s

def execCarafeUncorrectable (address reason : Nat) (s : State) : Host.Outcome State Fault Refusal :=
  .next (carafeUncorrectable address reason s)

/-- RETIRE_QUEUE_POP (R224). -/
def retireQueuePop (s : State) : State := { s with retireQ := s.retireQ.drop 1 }

def execRetireQueuePop (s : State) : Host.Outcome State Fault Refusal := 
  .next (barWrite s 0x200028 4 1 retireQueuePop)

/-! ### Channel substitution and remap (R214 to R219) -/

def modCarafe (s : State) (d : Nat) (f : Carafe → Carafe) : State := { s with carafes := aput s.carafes d (f (carafeOf s d)) }

/-- The lowest free spare. -/
def freeSpare (k : Carafe) : Option Nat :=
  if k.s0 = .free then some 0 else if k.s1 = .free then some 1 else none

def setSpare (k : Carafe) (i : Nat) (x : Spare) : Carafe := if i = 0 then { k with s0 := x } else { k with s1 := x }

def spareOf (k : Carafe) (i : Nat) : Spare := if i = 0 then k.s0 else k.s1

/-- The 64-byte lines of a channel that hold lines of RESIDENT pages of a carafe. -/
def channelLines (s : State) (d c : Nat) : List Nat :=
  (s.pool.filter (fun e => e.2.state == .resident && homeDie s e.1 == d)).flatMap (fun e =>
    ((List.range 256).filter (fun l => channelOf s e.1 l == c)).flatMap (fun l =>
      (List.range 4).map (fun i => pageAddr s e.1 / 64 + 4 * l + i)))

/-- R219: the carafe fails with a channel. -/
def failCarafe (s : State) (d c : Nat) : State :=
  let s1 := poisonLines (modCarafe s d (fun k => { k with failed := true, busy := none, waiting := [] })) (channelLines s d c)
  let pages := (s1.pool.filter (fun e => e.2.state == .resident && homeDie s1 e.1 == d)).map Prod.fst
  logEvent (carafeEvent (seqAll s1 pages (listPage 3)) d) lsCarafe 2 0x0022 d c

/-- R214 to R217, R219: the substitution, retrain or remap of a channel starts, admitted by the Umpire. -/
def startSubst (s : State) (d c : Nat) (failed : Bool) : State :=
  let k := carafeOf s d
  match freeSpare k with
  | some i =>
    logEvent (modCarafe s d (fun k => { k with busy := some { channel := c, spare := i, phase := .copying, failed := failed } }))
      lsCarafe 1 0x0020 d c
  | none =>
    if !failed then s
    else if k.remapped.isSome then failCarafe s d c
    else modCarafe s d (fun k => { k with busy := some { channel := c, spare := 2, phase := .remapping, failed := true } })

/-- The waiting channels of a carafe, in ascending order (R215). -/
def waitChannel (ws : List (Nat × Bool)) (c : Nat) (failed : Bool) : List (Nat × Bool) :=
  (ws.filter (fun w => w.1 < c)) ++ (c, failed || ws.any (fun w => w.1 == c && w.2)) :: (ws.filter (fun w => c < w.1))

/-- The waiting channels of a carafe start one after another (R215): the lowest first, until one is busy. The Umpire's activity ends where
none is left. -/
def startWaiting (d : Nat) : Nat → State → State
  | 0, s => s
  | n + 1, s =>
    match (carafeOf s d).busy, (carafeOf s d).waiting with
    | none, (c, failed) :: ws => startWaiting d n (startSubst (modCarafe s d (fun k => { k with waiting := ws })) d c failed)
    | none, [] => umpEnd s rkChannel d (0, 0)
    | some _, _ => s

/-- What an admitted channel activity of a carafe does. -/
def runChannel (s : State) (d : Nat) : State := startWaiting d ((carafeOf s d).waiting.length + 1) s

/-- A carafe with waiting channels asks the Umpire (R215, R437). -/
def askChannel (s : State) (d : Nat) : State :=
  if (carafeOf s d).waiting.isEmpty || umpKnown s rkChannel d (0, 0) then s
  else
    let s1 := umpAsk s rkChannel d (0, 0)
    if umpRuns s1 rkChannel d (0, 0) then runChannel s1 d else s1

/-- CHANNEL_SUBSTITUTION (R214 to R216, R219, R409): `cause` is 0 for the error threshold, 1 for a failed training check, and another
number for a requested retrain. -/
def channelSubstitution (d c cause : Nat) (s : State) : State :=
  let k := carafeOf s d
  let running := match k.busy with | some b => b.channel == c | none => false
  if 16 ≤ d || 64 ≤ c || k.failed || k.remapped == some c || running then s
  else askChannel (modCarafe s d (fun k => { k with waiting := waitChannel k.waiting c (decide (cause < 2)) })) d

def execChannelSubstitution (die channel cause : Nat) (s : State) : Host.Outcome State Fault Refusal :=
  .next (channelSubstitution die channel cause s)

/-- A carafe's substitution or remap has ended: the next waiting channel asks. -/
def endSubst (s : State) (d : Nat) : State := askChannel (umpEnd (modCarafe s d (fun k => { k with busy := none })) rkChannel d (0, 0)) d

/-- CHANNEL_SWITCH (R214, step 2): the spare takes the channel's number. -/
def channelSwitch (d : Nat) (s : State) : State :=
  match (carafeOf s d).busy with
  | some b =>
    if b.phase = .copying then
      carafeEvent (modCarafe s d (fun k => { setSpare k b.spare (.standsFor b.channel) with busy := some { b with phase := .retraining } })) d
    else s
  | none => s

def execChannelSwitch (die : Nat) (s : State) : Host.Outcome State Fault Refusal := .next (channelSwitch die s)

/-- R214, step 4: the spares after the retrain of what left service: the channel's own stack, or the other spare that stood for it. -/
def afterRetrain (k : Carafe) (b : Subst) (passed : Bool) : Carafe :=
  let o := 1 - b.spare
  if spareOf k o = .standsFor b.channel then setSpare k o (if passed then .free else .retired)
  else if passed then setSpare k b.spare .free
  else k

/-- CHANNEL_RETRAIN_DONE (R214, steps 3 and 4). -/
def channelRetrainDone (d : Nat) (passed : Bool) (s : State) : State :=
  match (carafeOf s d).busy with
  | some b =>
    if b.phase = .retraining then
      let k := carafeOf s d
      let k1 := afterRetrain k b passed
      let s1 := endSubst (modCarafe s d (fun _ => k1)) d
      if k1 = k then s1 else carafeEvent s1 d
    else s
  | none => s

def execChannelRetrainDone (die : Nat) (passed : Bool) (s : State) : Host.Outcome State Fault Refusal :=
  .next (channelRetrainDone die passed s)

/-- CHANNEL_REMAP (R217): the retired channel has been copied and is entered in the remap table. -/
def channelRemap (d : Nat) (s : State) : State :=
  match (carafeOf s d).busy with
  | some b =>
    if b.phase = .remapping then
      logEvent (carafeEvent (endSubst (modCarafe s d (fun k => { k with remapped := some b.channel })) d) d)
        lsCarafe 1 0x0021 d b.channel
    else s
  | none => s

def execChannelRemap (die : Nat) (s : State) : Host.Outcome State Fault Refusal := .next (channelRemap die s)

/-! ### Patrol scrub (R401) -/

/-- The longest and shortest scrub period in seconds, and the state of a channel's period after a slice. -/
def scrubMax : Nat := 86400
def scrubMin : Nat := 900

/-- The period, its count of found lines and of scrubbed lines after a slice. -/
def scrubNext (period found lines : Nat) (ended : Bool) : Nat × Nat × Nat :=
  if 16 * period < 3600 * found then (max scrubMin (period / 2), 0, 0)
  else if ended then ((if 3600 * found < 4 * period then min scrubMax (period * 2) else period), 0, 0)
  else (period, found, lines)

/-- One slice of patrol on a channel. -/
def scrubSlice (s : State) (d c lines found : Nat) (ended : Bool) : State :=
  let k := carafeOf s d
  let r := scrubNext (aget k.scrub c scrubMax) (aget k.scrubFound c 0 + found) (aget k.scrubLines c 0 + lines) ended
  modCarafe s d (fun k =>
    { k with scrub := aput k.scrub c r.1, scrubFound := aput k.scrubFound c r.2.1, scrubLines := aput k.scrubLines c r.2.2 })

/-- PATROL_SCRUB (R401, R437): one admitted slice; where the Umpire has not admitted it, it waits in the queue. -/
def patrolScrub (d c lines found : Nat) (ended : Bool) (s : State) : State :=
  if s.phase != .running || asleep s || 16 ≤ d || 64 ≤ c then s
  else if umpRuns s rkScrub d (0, 0) then umpEnd (scrubSlice s d c lines found ended) rkScrub d (0, 0)
  else if umpKnown s rkScrub d (0, 0) then s
  else
    let s1 := umpAsk s rkScrub d (0, 0)
    if umpRuns s1 rkScrub d (0, 0) then scrubSlice s d c lines found ended else s1

def execPatrolScrub (die channel lines found : Nat) (periodEnd : Bool) (s : State) : Host.Outcome State Fault Refusal :=
  .next (patrolScrub die channel lines found periodEnd s)

/-! ### Sensors and carafe throttling (R220, R406) -/

/-- A reading in 1/16 °C as a number; readings below 0 count as 0. -/
def tempNat (b : BitVec 16) : Nat := if b.msb then 0 else b.toNat

/-- R398: the threshold of thermal emergency of a sensor, in 1/16 °C. -/
def emergencyTemp (sensor : Nat) : Nat := if 64 ≤ sensor ∧ sensor < 160 then 105 * 16 else 110 * 16

/-- R398: every sensor has last read at least 5 °C below its threshold. -/
def allCool (temps : AMap (BitVec 16)) : Bool := temps.all (fun t => decide (169 ≤ t.1) || decide (tempNat t.2 + 80 ≤ emergencyTemp t.1))

/-- R420: the thresholds that a temperature sensor's record carries, in 1/16 °C; the coolant's sensors have none. -/
def sensorLimits (sensor : Nat) : List Nat :=
  if 169 ≤ sensor then []
  else if 64 ≤ sensor ∧ sensor < 160 then [95 * 16, 105 * 16, 112 * 16]
  else [100 * 16, 110 * 16, 120 * 16]

/-- How many thresholds a reading has reached. -/
def limitLevel (sensor : Nat) (b : BitVec 16) : Nat := ((sensorLimits sensor).filter (fun l => decide (l ≤ tempNat b))).length

/-- R338, R419: Barista answers and reports. -/
def baristaUp (s : State) : Bool := s.mgmt.ready && !s.recov.baristaDown && s.phase != .hubDead && s.phase != .off

/-- R420: a threshold crossing is reported to the receiver. -/
def reportCrossing (s : State) (sensor : Nat) (b : BitVec 16) : State :=
  match s.mgmt.receiver with
  | some r =>
    if baristaUp s && !(s.mgmt.sensorsOff.contains (sensor + 1))
        && limitLevel sensor b != limitLevel sensor (aget s.power.temps sensor 0#16) then
      { s with out := { s.out with mgmt := s.out.mgmt ++ [.platformEvent r (sensor + 1) b.toNat] } }
    else s
  | none => s

/-- A sensor reports; the time since which every sensor has been cool is kept through thermal emergency. -/
def noteTemp (s : State) (sensor reading : Nat) : State :=
  let b := BitVec.ofNat 16 reading
  let ts := aput s.power.temps sensor b
  let s1 := reportCrossing s sensor b
  { s1 with power := { s1.power with temps := ts
                                     coolSince := if s.power.emergency && allCool ts then some (s.power.coolSince.getD s.localTime) else none } }

/-- The reading of a sensor that is in service. -/
def reading (s : State) (sensor : Nat) : Nat :=
  if s.power.outOfService.contains sensor then 0 else tempNat (aget s.power.temps sensor 0#16)

/-- R220: the hottest layer of a carafe. -/
def carafeTemp (s : State) (d : Nat) : Nat := ((List.range 6).map (fun l => reading s (64 + 6 * d + l))).foldl max 0

/-- R220: the threshold of a throttle step 1 to 5, in 1/16 °C. -/
def stepTemp (i : Nat) : Nat := 16 * (95 + 2 * (i - 1))

/-- R220: the throttle step at a temperature, from the step before: a step is released 2 °C below its threshold. -/
def throttleStep (now t : Nat) : Nat :=
  ((List.range 6).filter (fun i => i == 0 || decide (stepTemp i ≤ t) || (decide (i ≤ now) && decide (stepTemp i < t + 32)))).foldl max 0

/-- CARAFE_THROTTLE (R220): a layer reports its temperature. -/
def carafeThrottle (d l t : Nat) (s : State) : State :=
  if 16 ≤ d || 6 ≤ l then s
  else
    let s1 := noteTemp s (64 + 6 * d + l) t
    modCarafe s1 d (fun k => { k with throttle := throttleStep k.throttle (carafeTemp s1 d) })

def execCarafeThrottle (die layer temp : Nat) (s : State) : Host.Outcome State Fault Refusal := .next (carafeThrottle die layer temp s)

/-! ### Set-up actions on memory -/

/-- INV_ALL (R118, R88). -/
def invAll (s : State) : State := { s with regions := s.regions.map (fun r => (r.1, { r.2 with lab := [] })) }

def execInvAll (s : State) : Host.Outcome State Fault Refusal := 
  .next (barWrite s 0x200000 4 (if s.regs.walkForce then 3 else 2) invAll)

/-- Every record of the directory, mirrored (R147). -/
def mirrorAll (s : State) : State := mirror s (List.range 65536)

/-- A FORK, PRUNE, PROMOTE or PARK is in flight: the directory's registers are not quiescent (R148, R257). -/
def branchOpsFly (s : State) : Bool := s.cmds.any (fun c => isBranchOp c.desc)

/-- BRANCH_DIR_ENABLE (R147, R122): a write of MEM_BRANCH_DIR_0; enabling writes every record. -/
def branchDirEnable (lo : Nat) (s : State) : State :=
  if branchOpsFly s then s
  else
    let on := bit lo 0
    let s1 := { s with regs :=
      { s.regs with branchDirOn := on, branchDir := w64 (s.regs.branchDir.toNat / 2 ^ 32 * 2 ^ 32 + lo % 2 ^ 32 / 64 * 64) } }
    if on && !(s.regs.branchDirOn) then mirrorAll s1 else s1

def execBranchDirEnable (lo : Nat) (s : State) : Host.Outcome State Fault Refusal := 
  .next (barWrite s 0x200010 4 lo (branchDirEnable lo))

/-- The number of `n` bytes at an offset of a list of bytes. -/
def bytesNat (bs : List Byte) (o n : Nat) : Nat := leNat ((bs.drop o).take n)

/-- R192: an access list entry in bytes. -/
def aclEntryAt (bs : List Byte) (i : Nat) : AclEntry :=
  let o := 64 + 32 * i
  let r := bytesNat bs (o + 16) 1
  { base := bytesNat bs o 8, limit := bytesNat bs (o + 8) 8, read := bit r 0, write := bit r 1, allMod := bit r 2 }

/-- R193: an entry that keeps R192. -/
def aclEntryOk (bs : List Byte) (i : Nat) : Bool :=
  let o := 64 + 32 * i
  let e := aclEntryAt bs i
  e.base % 64 == 0 && decide (e.base ≤ e.limit ∨ (e.allMod ∧ gaOff e.base ≤ gaOff e.limit)) && gaSpace e.base == gaSpace e.limit
    && (e.allMod || gaMod e.base == gaMod e.limit) && decide (bytesNat bs (o + 16) 1 < 8) && bytesNat bs (o + 17) 15 == 0

/-- R192, R193: a list as read: whether the context may issue POOL_OP, and the entries; none where the list is refused. -/
def aclParse (bs : List Byte) : Option (Bool × List AclEntry) :=
  let count := bytesNat bs 0 2
  let rights := bytesNat bs 2 1
  if 64 < count || 2 ≤ rights || bytesNat bs 3 61 != 0 || bs.length < 64 + 32 * count then none
  else if (List.range count).all (aclEntryOk bs) then some (bit rights 0, (List.range count).map (aclEntryAt bs))
  else none

/-- R193: the context has a command in flight. -/
def ctxBusy (s : State) (n : Nat) : Bool := !(ctxCmds s n).isEmpty

/-- ACL_LOAD (R384, R193): a write to CTX_ACL_LO_n, with the bytes that the module reads at the list's address; an empty list of bytes
stands for an address that could not be read (log entry 49). -/
def aclLoad (n lo : Nat) (bs : List Byte) (s : State) : State :=
  let s1 := modCtx s n (fun k => { k with aclLo := w32 (lo / 64 * 64) })
  if ctxBusy s n then modCtx s1 n (fun k => { k with aclIgnored := true })
  else
    let k := ctxOf s1 n
    let legal := decide (k.aclHi.toNat < 2 ^ 14)
    match (if legal then aclParse bs else none) with
    | some (admin, es) => modCtx s1 n (fun k =>
        { k with acl := es, poolAdmin := admin, aclAccepted := true, aclRefused := false, aclIgnored := false })
    | none => modCtx s1 n (fun k =>
        { k with acl := [], poolAdmin := false, aclAccepted := false, aclRefused := true, aclIgnored := false })

def execAclLoad (ctx lo : Nat) (list : List Byte) (s : State) : Host.Outcome State Fault Refusal := 
  .next (barWrite s (0x100054 + 0x100 * ctx) 4 lo (aclLoad ctx lo list))

end Sys2Proof.Machine
end

