-- ==== Sys2Proof/Machine/Link.lean ====
section
/-! DEFINITION. Messages received on Avtiro Link, in their order, and forwarded (R287, R288, R291 to R299); the ports, the routes, and the
watchdogs (R290, R314 to R317, R338). -/

namespace Sys2Proof.Machine

/-! ### Remote reads served (R193, R296) -/

/-- R194, R198: an own page that a peer asks for: RESIDENT, recalled first where it is EVICTED. -/
def bringPage (s : State) (p : Nat) : PoolOut :=
  match aget? s.pool p with
  | none => .fails .permission
  | some e =>
    match e.state with
    | .resident => .done s 0
    | .lost => .fails .moduleDead
    | .evicted =>
      match recallPage s p e with
      | .fails .moduleDead => .fails .moduleDead
      | .fails _ => .wait
      | o => o

/-- The low bits of a reply's address: which of its four lines are poisoned (log entry 43). -/
def poisonMask (s : State) (l : Nat) : Nat :=
  ((List.range 4).filter (fun i => s.poison.contains (4 * l + i))).foldl (fun v i => v + 2 ^ i) 0

/-- R296: a READ_REQ of one 256-byte line is served; none where its page waits for a recall. -/
def serveRead (s : State) (f : Flit) : Option State :=
  let l := f.address / 256
  if !(ownCarafe s (256 * l)) || 2 ^ 39 ≤ gaOff f.address then some s
  else
    match bringPage s (pageOf f.address) with
    | .wait => none
    | .fails st => some (send s 0 mtReadReply f.cls f.src f.epoch f.tag (256 * l + 16 * ackCode st) [])
    | .done s1 _ =>
      some (send (touchPages s1 [pageOf f.address]) 0 mtReadReply f.cls f.src f.epoch f.tag (256 * l + poisonMask s1 l)
        (mread s1.mem (256 * l) 256))

/-- A line of a reply lands for a command (R31). -/
def landOne (f : Flit) (n idx l : Nat) (s : State) (i : Nat) : State :=
  let p := bit f.address i
  let s1 := seeLine s (4 * l + i) ((f.data.drop (64 * i)).take 64) p
  match findCmd s1 n idx with
  | some c => landLines s1 c [4 * l + i] p
  | none => s1

/-- A reply reaches the command of its placement (R31, R250, R296). -/
def landReply (s : State) (c : Cmd) (r : ReadOut) (f : Flit) : State :=
  let e := bits f.address 5 4
  if e ≠ 0 then
    let st := ackStatus e
    if waiting c then failCmd s c st 0 0 else setCmd s { c with peerError := some st, await := [] }
  else
    let s1 := seqAll s (List.range 4) (landOne f c.ctx c.idx r.line)
    match findCmd s1 c.ctx c.idx with
    | some c1 => if waiting c1 && !(awaits s1 c1) then waitJudge s1 c1 else s1
    | none => s1

/-- R268, R296: a READ_REPLY frees its tracker entry, and lands unless its placement is over. -/
def replyDeliver (s : State) (f : Flit) : State :=
  match s.links.reads.find? (fun r => r.tag == f.tag && r.module == f.src) with
  | none => s
  | some r =>
    let s1 := { s with links := { s.links with reads := s.links.reads.filter (fun x => x.tag != f.tag) } }
    let s2 := match findCmd s1 r.ctx r.idx with
      | some c => if c.epoch == r.epoch && c.epoch.toNat == f.epoch && c.stage != .decided then landReply s1 c r f else s1
      | none => s1
    askAll s2

/-! ### Remote writes at the peer (R297) -/

/-- The hold of a peer's command. -/
def holdFor (s : State) (src tag : Nat) : PeerHold :=
  (s.links.holdsIn.find? (fun h => h.src == src && h.tag == tag)).getD
    { src := src, tag := tag, pages := [], data := [], since := s.localTime }

/-- The holds without one command's. -/
def otherHolds (s : State) (src tag : Nat) : List PeerHold := s.links.holdsIn.filter (fun h => !(h.src == src && h.tag == tag))

def putHold (s : State) (h : PeerHold) : State :=
  { s with links := { s.links with holdsIn := otherHolds s h.src h.tag ++ [h] } }

/-- An ACK to a message. -/
def ackTo (s : State) (f : Flit) (st : Status) : State :=
  send s 0 mtAck f.cls f.src f.epoch f.tag f.address (leBytes 1 (ackCode st))

/-- R297, step 1: a HOLD of one page; none where the page waits for a recall. -/
def holdDeliver (s : State) (f : Flit) : Option State :=
  if !(ownCarafe s f.address) then some (ackTo s f .permission)
  else
    match bringPage s (pageOf f.address) with
    | .wait => none
    | .fails st => some (ackTo s f st)
    | .done s1 _ =>
      let h := holdFor s1 f.src f.tag
      some (ackTo (putHold s1 { h with pages := sins h.pages (pageOf f.address) }) f .ok)

/-- The cells of a WRITE_DATA: a mask of 64 bits, then 64 bytes (log entry 43). -/
def writeCells (f : Flit) : List Host.Cell :=
  ((List.range 64).filter (fun i => bit (lineNat f 0 8) i)).map (fun i => (f.address / 64 * 64 + i, (f.data.drop 8).getD i 0))

/-- R297, step 2: data of a commit are held until their COMMIT. -/
def writeDeliver (s : State) (f : Flit) : State :=
  let h := holdFor s f.src f.tag
  putHold s { h with data := h.data ++ writeCells f }

/-- The own pages that cells write. -/
def ownPages (s : State) (cs : List Host.Cell) : List Nat :=
  ((cellLines cs).filter (fun l => ownCarafe s (64 * l))).foldl (fun ps l => sins ps (pageOf (64 * l))) []

/-- Every page of a list made RESIDENT where it can be; none where one waits. -/
def bringAll : State → List Nat → Option State
  | s, [] => some s
  | s, p :: ps =>
    match bringPage s p with
    | .wait => none
    | .fails _ => bringAll s ps
    | .done s1 _ => bringAll s1 ps

/-- R297, step 2: a COMMIT applies the data before it, and is answered. -/
def commitDeliver (s : State) (f : Flit) : Option State :=
  let h := holdFor s f.src f.tag
  match bringAll s (ownPages s h.data) with
  | none => none
  | some s1 =>
    let cs := h.data.filter (fun w => ownCarafe s1 w.1 && pageState s1 (pageOf w.1) == some .resident)
    let s2 := touchPages (storeCells s1 cs) (ownPages s1 cs)
    some (ackTo { s2 with links := { s2.links with holdsIn := otherHolds s2 f.src f.tag } } f .ok)

/-- HOLD_LAPSE (R297): 100 µs after a hold whose commit has not begun, or whose sender counts as dead. -/
def holdLapse (src tag : Nat) (s : State) : State :=
  let h := holdFor s src tag
  if us 100 ≤ since s h.since ∧ (h.data = [] ∨ isDead s src) then
    { s with links := { s.links with holdsIn := otherHolds s src tag } }
  else s

def execHoldLapse (src tag : Nat) (s : State) : Host.Outcome State Fault Refusal := .next (holdLapse src tag s)

/-! ### Acknowledgements (R297, R298, R307) -/

/-- An ACK with data: of a HOLD, of a COMMIT, or of a SIGNAL. -/
def ackCmd (s : State) (c : Cmd) (f : Flit) : State :=
  if c.stage = .committed then
    (if !(c.acksDue.contains f.src) then s
     else if isSignal c.desc then signalAck s c f
     else
      let c1 := { c with acksDue := c.acksDue.filter (· != f.src) }
      settle (setCmd s c1) c1)
  else if c.holdsDue.contains (f.src, pageOf f.address) then
    match ackStatus (lineNat f 0 1) with
    | .ok => setCmd s { c with holdsDue := c.holdsDue.filter (· != (f.src, pageOf f.address)) }
    | st => setCmd s { c with peerError := some st, holdsDue := [] }
  else s

/-- R268: an ACK is for the placement that its epoch names. -/
def ackDeliver (s : State) (f : Flit) : State :=
  if f.data = [] then settleAll (collAck s f)
  else
    match findTag s f.tag with
    | some c => if c.epoch.toNat = f.epoch then ackCmd s c f else s
    | none => s

/-! ### Notices of death and presence (R299) -/

/-- A DEATH_NOTICE arrives: not older than the last PRESENT of the module that it names. -/
def deathDeliver (s : State) (p : Nat) (f : Flit) : State :=
  let m := lineNat f 0 2
  let inc := w32 (lineNat f 4 4)
  if m = selfId s ∨ 16384 ≤ m ∨ inc.toNat < (aget s.links.presents m 0#32).toNat then s
  else declareDeath s (some p) m inc (lineNat f 8 1)

/-- Whether a PRESENT announces an incarnation newer than the last one seen. -/
def newPresent (s : State) (m : Nat) (inc : W32) : Bool :=
  match aget? s.links.presents m with
  | some i => decide (i.toNat < inc.toNat)
  | none => true

/-- R299: the data of a PRESENT (log entry 43). -/
def presentData (m : Nat) (inc : W32) : List Byte := leBytes 2 m ++ leBytes 2 0 ++ leBytes 4 inc.toNat

/-- A PRESENT goes out on ports. -/
def sendPresent (ps : List Nat) (m : Nat) (inc : W32) (s : State) : State :=
  seqAll s ps (fun s p => sendOn s p mtPresent (presentData m inc))

/-- A module no longer counts as dead. -/
def undead (s : State) (m : Nat) : State :=
  if (aget? s.links.dead m).isSome then linkEvent { s with links := { s.links with dead := adel s.links.dead m } } 1 else s

/-- A PRESENT arrives: a new incarnation ends every treatment of the module as dead, aborts the huddles that the old one shared in
(R252), and is flooded on. -/
def presentDeliver (s : State) (p : Nat) (f : Flit) : State :=
  let m := lineNat f 0 2
  let inc := w32 (lineNat f 4 4)
  if m = selfId s ∨ 16384 ≤ m then s
  else
    let s0 := { s with links := { s.links with unreachable := srem s.links.unreachable m, waitSince := adel s.links.waitSince m } }
    if newPresent s m inc then
      let s1 := huddleDeaths { s0 with links := { s0.links with presents := aput s0.links.presents m inc } } m
      sendPresent ((upPorts s1).filter (· != p)) m inc (undead s1 m)
    else s0

/-- R294: a module that announces a new incarnation numbers its messages anew (log entry 50). -/
def forgetOrder (s : State) (m : Nat) : State :=
  { s with links := { s.links with seqIn := s.links.seqIn.filter (fun e => e.1 / 4 != m)
                                   seqOut := s.links.seqOut.filter (fun e => e.1 / 4 != m)
                                   early := s.links.early.filter (fun x => x.flit.src != m) } }

/-! ### Delivery in order (R291, R294) -/

/-- What a message does at its destination; none where it waits for a recall. -/
def deliver (s : State) (p : Nat) (m : Msg) : Option State :=
  let f := m.flit
  match m.mtype with
  | 1 => serveRead s f
  | 2 => some (replyDeliver s f)
  | 3 => some (writeDeliver s f)
  | 4 => holdDeliver s f
  | 5 => commitDeliver s f
  | 6 => some (ackDeliver s f)
  | 7 => some (settleAll (collDeliver s f))
  | 8 => some (settleAll (collDeliver s f))
  | 9 =>
    if isCarafe f.address then
      (match bringPage s (pageOf f.address) with
       | .wait => none
       | .fails _ => signalDeliver s f
       | .done s1 _ => signalDeliver s1 f)
    else signalDeliver s f
  | 10 => some (huddleDeliver s f)
  | 11 => some (deathDeliver s p f)
  | 12 => some (presentDeliver s p f)
  | _ => some s

/-- The sequence key of a received message. -/
def inKey (f : Flit) : Nat := seqKey f.src (f.cls % 4)

/-- The sequence number that is delivered next. -/
def expected (s : State) (f : Flit) : Nat := (aget s.links.seqIn (inKey f) 0#32).toNat

/-- A message of the next number delivered. -/
def deliverNext (s : State) (p : Nat) (m : Msg) : Option State :=
  let q := expected s m.flit
  (deliver s p m).map (fun s1 => { s1 with links := { s1.links with seqIn := aput s1.links.seqIn (inKey m.flit) (w32 (q + 1)) } })

/-- Messages held until the ones before them have been delivered, delivered as far as they may be. -/
def drainEarly (p : Nat) : Nat → State → State
  | 0, s => s
  | n + 1, s =>
    match s.links.early.find? (fun m => m.flit.seq == expected s m.flit && (deliver s p m).isSome) with
    | none => s
    | some m =>
      match deliverNext { s with links := { s.links with early := s.links.early.erase m } } p m with
      | some s1 => drainEarly p n s1
      | none => s

/-- R294: a message for this module, in its order. -/
def accept (s : State) (p : Nat) (m : Msg) : State :=
  let q := expected s m.flit
  if m.flit.seq % 2 ^ 32 < q then s
  else
    let s1 := { s with links := { s.links with early := s.links.early ++ [m] } }
    drainEarly p (s1.links.early.length) s1

/-! ### Replays (R287, R288, R290) -/

/-- Flags of a port's event register set by one event (R8, R316). -/
def portFlags (s : State) (p mask : Nat) : State :=
  raiseSource { s with links := { s.links with ports := amod s.links.ports p {} (fun x =>
    { x with evt := x.evt ||| w32 mask, evtCnt := x.evtCnt + 1 }) } } 2

/-- A replay requested by a port's receiver. -/
def noteReplay (s : State) (p : Nat) : State :=
  let x := portOf s p
  let fresh := decide (us 1000 < since s x.replayWin)
  setPortRec s p { x with replayCnt := x.replayCnt + 1, replays := if fresh then 1 else x.replays + 1
                          replayWin := if fresh then s.localTime else x.replayWin }

/-- FLIT_REPLAY (R288): a flit fails its code or its crc. -/
def flitReplay (p : Nat) (s : State) : State := if p < 32 && portUp s p then noteReplay s p else s

def execFlitReplay (port : Nat) (s : State) : Host.Outcome State Fault Refusal := .next (flitReplay port s)

/-! ### Messages received -/

/-- Whether the links forward messages now; they do with the hub dead (R338). -/
def linksLive (s : State) : Bool :=
  match s.phase with
  | .startup _ => true
  | .running => !(asleep s)
  | .failed => true
  | .hubDead => true
  | _ => false

/-- R292: a message for another module leaves by this module's route table. -/
def forward (s : State) (m : Msg) : State := emit s 0 m

/-- R287, R291, R292: a message on a port. -/
def receive (p : Nat) (m : Msg) (s : State) : State :=
  if !(linksLive s) || 32 ≤ p || !(portUp s p) then s
  else if m.mtype = 0 ∨ 12 < m.mtype then noteReplay s p
  else if m.flit.dst ≠ selfId s then forward s m
  else if s.phase = .hubDead then s
  else if m.mtype = mtPresent ∧ lineNat m.flit 0 2 = m.flit.src ∧ newPresent s m.flit.src (w32 (lineNat m.flit 4 4)) then
    let s1 := forgetOrder s m.flit.src
    accept { s1 with links := { s1.links with seqIn := aput s1.links.seqIn (inKey m.flit) (w32 m.flit.seq) } } p m
  else accept s p m

/-- READ_REQ (R296). -/
def execReadReq (port : Nat) (f : Flit) (s : State) : Host.Outcome State Fault Refusal := .next (receive port ⟨mtReadReq, f⟩ s)
/-- READ_REPLY (R296, R268). -/
def execReadReply (port : Nat) (f : Flit) (s : State) : Host.Outcome State Fault Refusal := .next (receive port ⟨mtReadReply, f⟩ s)
/-- WRITE_DATA (R297). -/
def execWriteData (port : Nat) (f : Flit) (s : State) : Host.Outcome State Fault Refusal := .next (receive port ⟨mtWriteData, f⟩ s)
/-- HOLD (R297). -/
def execHold (port : Nat) (f : Flit) (s : State) : Host.Outcome State Fault Refusal := .next (receive port ⟨mtHold, f⟩ s)
/-- COMMIT (R297). -/
def execCommit (port : Nat) (f : Flit) (s : State) : Host.Outcome State Fault Refusal := .next (receive port ⟨mtCommit, f⟩ s)
/-- ACK (R297, R298, R307). -/
def execAck (port : Nat) (f : Flit) (s : State) : Host.Outcome State Fault Refusal := .next (receive port ⟨mtAck, f⟩ s)
/-- COLL_LINE (R302, R305 to R307). -/
def execCollLine (port : Nat) (f : Flit) (s : State) : Host.Outcome State Fault Refusal := .next (receive port ⟨mtCollLine, f⟩ s)
/-- COLL_ABORT (R302, R310). -/
def execCollAbort (port : Nat) (f : Flit) (s : State) : Host.Outcome State Fault Refusal := .next (receive port ⟨mtCollAbort, f⟩ s)
/-- SIGNAL_MSG (R249, R298). -/
def execSignalMsg (port : Nat) (f : Flit) (s : State) : Host.Outcome State Fault Refusal := .next (receive port ⟨mtSignal, f⟩ s)
/-- HUDDLE_MSG (R251, R252, R298). -/
def execHuddleMsg (port : Nat) (f : Flit) (s : State) : Host.Outcome State Fault Refusal := .next (receive port ⟨mtHuddle, f⟩ s)
/-- DEATH_NOTICE (R299). -/
def execDeathNotice (port : Nat) (f : Flit) (s : State) : Host.Outcome State Fault Refusal := .next (receive port ⟨mtDeath, f⟩ s)
/-- PRESENT (R299). -/
def execPresent (port : Nat) (f : Flit) (s : State) : Host.Outcome State Fault Refusal := .next (receive port ⟨mtPresent, f⟩ s)
/-- TRANSIT_MESSAGE (R292, R293). -/
def execTransitMessage (port msgType : Nat) (f : Flit) (s : State) : Host.Outcome State Fault Refusal :=
  .next (receive port ⟨msgType, f⟩ s)

/-- Messages that waited for a recall which has become possible are delivered. -/
def retryEarly (s : State) : State := drainEarly 32 s.links.early.length s

/-! ### Ports (R290, R314) -/

/-- A port of the 32. -/
def portRuns (s : State) (p : Nat) (st : PortState) : Bool := linksLive s && decide (p < 32) && (portOf s p).state == st

/-- PORT_ENABLE (R290, R314): a write of enable in LNK_PORT_CTL_n. -/
def portEnable (p : Nat) (on : Bool) (s : State) : State :=
  if 32 ≤ p then s
  else
    let s1 := setPortRec s p { portOf s p with enable := on }
    if !on then umpEnd (portTo s1 p .disabled) rkLink p (0, 0)
    else if (portOf s1 p).state ≠ .disabled then s1
    else if (linkDieOf s1 (p / 4)).resetting then portTo s1 p .down
    else portTo s1 p .training

def execPortEnable (port : Nat) (enable : Bool) (s : State) : Host.Outcome State Fault Refusal := 
  .next (barWrite s (0x300000 + 4 * port) 4 (if enable then 1 else 0) (portEnable port enable))

/-- PORT_RETRAIN (R314, R289, R437): a port that is UP retrains once the Umpire admits it. -/
def portRetrain (p : Nat) (s : State) : State :=
  if !(portRuns s p .up) || umpKnown s rkLink p (0, 0) then s
  else
    let s1 := umpAsk s rkLink p (0, 0)
    if umpRuns s1 rkLink p (0, 0) then portTo s1 p .recovering else s1

def execPortRetrain (port : Nat) (s : State) : Host.Outcome State Fault Refusal := 
  .next (barWrite s (0x300000 + 4 * port) 4 (if (portOf s port).enable then 3 else 2) (portRetrain port))

/-- R299, R407: PRESENT goes out on a port that comes UP, once start-up has ended. -/
def announce (s : State) (p : Nat) : State :=
  if s.phase = .running then sendPresent [p] (selfId s) s.links.incarnation s else s

/-- PORT_TRAINED (R290, R291, R299): the port is UP and knows its neighbour. -/
def portTrained (p peer : Nat) (s : State) : State :=
  if portRuns s p .training then
    let s1 := portTo s p .up
    retryWaiting (announce (setPortRec s1 p { portOf s1 p with peer := peer % 16384, peerValid := true }) p)
  else s

def execPortTrained (port peer : Nat) (s : State) : Host.Outcome State Fault Refusal := .next (portTrained port peer s)

/-- PORT_TRAINING_TIMEOUT (R290): 100 ms in TRAINING. -/
def portTrainingTimeout (p : Nat) (s : State) : State :=
  if portRuns s p .training && decide (us 100000 ≤ since s (portOf s p).since) then portTo s p .down else s

def execPortTrainingTimeout (port : Nat) (s : State) : Host.Outcome State Fault Refusal := .next (portTrainingTimeout port s)

/-- PORT_RETRY_TIMER (R290): 1 ms in DOWN. -/
def portRetryTimer (p : Nat) (s : State) : State :=
  if portRuns s p .down && decide (us 1000 ≤ since s (portOf s p).since) then startTraining s p else s

def execPortRetryTimer (port : Nat) (s : State) : Host.Outcome State Fault Refusal := .next (portRetryTimer port s)

/-- A port changes state, and sets a further flag in the same event. -/
def portToWith (s : State) (p : Nat) (st : PortState) (mask : Nat) : State :=
  portFlags (setPortRec s p { portOf s p with state := st, since := s.localTime, replays := 0 }) p (1 ||| mask)

/-- REPLAY_STORM (R290, R316): more than 256 replays within 1 ms. -/
def replayStorm (p : Nat) (s : State) : State :=
  if portRuns s p .up && decide (256 < (portOf s p).replays) then portToWith s p .recovering 2 else s

def execReplayStorm (port : Nat) (s : State) : Host.Outcome State Fault Refusal := .next (replayStorm port s)

/-- PORT_LOCK_LOSS (R290). -/
def portLockLoss (p : Nat) (s : State) : State := if portRuns s p .up then portTo s p .recovering else s

def execPortLockLoss (port : Nat) (s : State) : Host.Outcome State Fault Refusal := .next (portLockLoss port s)

/-- PORT_RECOVERED (R290). -/
def portRecovered (p : Nat) (s : State) : State :=
  if portRuns s p .recovering then retryWaiting (umpEnd (portTo s p .up) rkLink p (0, 0)) else s

def execPortRecovered (port : Nat) (s : State) : Host.Outcome State Fault Refusal := .next (portRecovered port s)

/-- RECOVERY_TIMEOUT (R290): 2 ms in RECOVERING. -/
def recoveryTimeout (p : Nat) (s : State) : State :=
  if portRuns s p .recovering && decide (us 2000 ≤ since s (portOf s p).since) then umpEnd (portTo s p .down) rkLink p (0, 0) else s

def execRecoveryTimeout (port : Nat) (s : State) : Host.Outcome State Fault Refusal := .next (recoveryTimeout port s)

/-! ### Routes (R317) -/

/-- ROUTE_STORE (R317): LNK_ROUTE_IDX written with commit 1. -/
def routeStore (i : Nat) (s : State) : State :=
  let i := i % 16384
  let x : Route := { mask := s.regs.routeData0, hop := s.regs.routeData1.zeroExtend 32 }
  retryWaiting { s with regs := { s.regs with routeIdx := BitVec.ofNat 14 i }, links := { s.links with routes := aput s.links.routes i x } }

def execRouteStore (index : Nat) (s : State) : Host.Outcome State Fault Refusal := 
  .next (barWrite s 0x300400 4 (2 ^ 31 + index % 2 ^ 14) (routeStore index))

/-- ROUTE_LOAD (R317): LNK_ROUTE_IDX written with commit 0. -/
def routeLoad (i : Nat) (s : State) : State :=
  let i := i % 16384
  let x := routeOf s i
  { s with regs := { s.regs with routeIdx := BitVec.ofNat 14 i, routeData0 := x.mask, routeData1 := x.hop.truncate 29 } }

def execRouteLoad (index : Nat) (s : State) : Host.Outcome State Fault Refusal := 
  .next (barWrite s 0x300400 4 (index % 2 ^ 14) (routeLoad index))

/-! ### The watchdogs (R299, R338, R341) -/

/-- HUB_HEARTBEAT_LOSS (R299, R338): the link dies see no hub heartbeat for 1 ms and signal the module's death on their own. -/
def hubHeartbeatLoss (s : State) : State :=
  if s.phase = .running ∨ s.phase = .failed then
    { flood s none (selfId s) s.links.incarnation 2 with phase := .hubDead }
  else s

def execHubHeartbeatLoss (s : State) : Host.Outcome State Fault Refusal := .next (hubHeartbeatLoss s)

/-- R338: restarts of Barista in the last 60 s. -/
def recentRestarts (s : State) : Nat := (s.recov.restartLog.filter (fun t => decide (since s t ≤ us 60000000))).length

/-- WATCHDOG_TIMEOUT (R338): the Referee or Barista takes hold of the other; the second hold is refused. -/
def watchdogTimeout (byReferee : Bool) (s : State) : State :=
  if s.recov.refereeHeld || s.recov.baristaHeld then s
  else if byReferee then recovEvent { s with recov := { s.recov with baristaHeld := true, baristaDown := true } }
  else recovEvent { s with recov := { s.recov with refereeHeld := true, standingIn := true } }

def execWatchdogTimeout (byReferee : Bool) (s : State) : Host.Outcome State Fault Refusal := .next (watchdogTimeout byReferee s)

/-- The buffer with the records that the hub held: those beyond its 4,096 are dropped, as R422 has it. -/
def takeHubLog (s : State) : State :=
  let all := s.mgmt.logBuffer ++ s.mgmt.logHub
  let s1 := { s with mgmt := { s.mgmt with logBuffer := all.take 4096, logHub := [] } }
  if 4096 < all.length then mgmtEvent s1 4 else s1

/-- BARISTA_RESTART (R338): Barista answers again, unless it has been restarted three times within 60 s. -/
def baristaRestart (s : State) : State :=
  if s.recov.baristaHeld && decide (recentRestarts s < 3) then
    let s1 := { s with recov :=
      { s.recov with baristaHeld := false, baristaDown := false, restarts := min 255 (s.recov.restarts + 1)
                     restartLog := (s.recov.restartLog ++ [s.localTime]).reverse.take 3 |>.reverse } }
    recovEvent (takeHubLog s1)
  else s

def execBaristaRestart (s : State) : Host.Outcome State Fault Refusal := .next (baristaRestart s)

end Sys2Proof.Machine
end

