-- ==== Sys2Proof/Machine/SetImage.lean ====
section
/-! DEFINITION. Configuration set images: their header, their checks and the codes of the checks (R263, R200, R201, R205, R364 to R367). -/

namespace Sys2Proof.Machine

/-- R365: the fields of the header. -/
def imgLength (m : Memory) : Nat := setFld m 8 4
def imgCrc (m : Memory) : Nat := setFld m 12 4
def imgSeq (m : Memory) : Nat := setFld m 16 8
/-- R366. -/
def imgModule (m : Memory) : Nat := setFld m 0x40 2

/-- R365: the crc over bytes 0 to length − 1, with the field itself taken as 0. -/
def imgCrcOf (m : Memory) : Nat := (crc32 (mread (mapply m (cellsNat 12 4 0)) 0 (imgLength m))).toNat

/-- R368: an image with its crc recomputed. -/
def sealImage (m : Memory) : Memory := mapply m (cellsNat 12 4 (imgCrcOf m))

/-- R365: bytes from length on are taken as 0. -/
def imgTake (m : Memory) : Memory := m.filter (fun c => decide (c.1 < imgLength m))

/-- R365, R366: whether a byte belongs to a field. -/
def imgListed (o : Nat) : Bool :=
  decide (o < 6 ∨ (8 ≤ o ∧ o < 24) ∨ (0x40 ≤ o ∧ o < 0x46) ∨ (0x80 ≤ o ∧ o < 0x880 ∧ (o - 0x80) % 128 < 71)
    ∨ (0x880 ≤ o ∧ o < 0x894) ∨ (0x8C0 ≤ o ∧ o < 0x9C0 ∧ (o - 0x8C0) % 16 < 12)
    ∨ (0x9C0 ≤ o ∧ o < 0xB40 ∧ (o - 0x9C0) % 48 < 32))

/-- R367, code 0x04: reserved bytes and bits, and listed codes. An image holds only the bytes that are not 0. -/
def imgCodes (m : Memory) : Bool :=
  m.all (fun c => imgListed c.1) && decide (setPort m ≤ 1 ∧ setFld m 0x43 1 ≤ 3 ∧ imgSeq m ≠ 2 ^ 64 - 1)
    && (List.range 16).all (fun g => decide (grpFlags m g < 2))

/-- R200: the place of the eviction area. -/
def evictPlaced (m : Memory) : Bool :=
  let b := evictBase m
  if b = 0 then evictSlots m == 0
  else b % 65536 == 0 && ((isCarafe b && gaMod b != imgModule m) || (isHost b && gaMod b == imgModule m))

/-- R367, code 0x05. -/
def imgRanges (m : Memory) : Bool :=
  decide (imgModule m ≤ 16383 ∧ setFld m 0x44 1 ≤ setFld m 0x45 1 ∧ 2 ≤ setFld m 0x44 1 ∧ setFld m 0x45 1 ≤ 16
    ∧ zoneAll m + zoneReg m ≤ 186 ∧ 100 ≤ agePeriod m ∧ agePeriod m ≤ 100000) && evictPlaced m

/-- R263: one group. -/
def groupOk (m : Memory) (g : Nat) : Bool :=
  decide (grpBudget m g ≤ 900000) &&
  (if grpCtx m g = 0xFFFF then grpMask m g == 0 else decide (grpCtx m g ≤ 255) && grpMask m g != 0)

/-- R263: two groups share no cluster and no context. -/
def groupsApart (m : Memory) (g h : Nat) : Bool :=
  g == h || (grpMask m g &&& grpMask m h == 0 && (grpCtx m g != grpCtx m h || grpCtx m g == 0xFFFF))

/-- R367, code 0x06. -/
def imgGroups (m : Memory) : Bool :=
  (List.range 16).all (groupOk m) && (List.range 16).all (fun g => (List.range 16).all (groupsApart m g))

/-- R201: one used entry. -/
def imapOk (e : Imap) : Bool :=
  decide (e.mode ≤ 2 ∧ e.mask ≠ 0 ∧ e.base + e.count ≤ 8388608) && decide (e.sel < (if e.mode = 0 then 1 else if e.mode = 1 then 4 else 64))

/-- R201: used entries do not overlap. -/
def imapApart : List Imap → Bool
  | [] => true
  | e :: es => es.all (fun x => decide (x.base + x.count ≤ e.base ∨ e.base + e.count ≤ x.base)) && imapApart es

/-- R205: one used entry. -/
def rmapOk (e : Rmap) : Bool :=
  isCarafe e.base && e.length % 65536 == 0 && decide (gaOff e.base + e.length ≤ 2 ^ 39) && e.replicas.all (fun r => decide (r ≤ 16383))

/-- R367, code 0x07. -/
def imgMaps (m : Memory) : Bool := (imap m).all imapOk && imapApart (imap m) && (rmap m).all rmapOk

/-- R367: the code of the first check that an image fails, or 0. -/
def checkImage (m0 : Memory) : Nat :=
  let m := imgTake m0
  if setFld m0 0 4 ≠ 0x43534847 ∨ setFld m0 4 2 ≠ 1 then 1
  else if imgLength m0 < 4096 ∨ 65536 < imgLength m0 ∨ imgLength m0 % 64 ≠ 0 then 2
  else if imgCrc m0 ≠ imgCrcOf m0 then 3
  else if !(imgCodes m) then 4
  else if !(imgRanges m) then 5
  else if !(imgGroups m) then 6
  else if !(imgMaps m) then 7
  else 0

/-- R364: an image with no used group. -/
def unuseGroups (m : Memory) : Memory :=
  if (List.range 16).all (fun g => grpCtx m g == 0xFFFF) then m
  else sealImage (mapply m ((List.range 16).flatMap (fun g =>
    cellsAt (0x80 + 128 * g) (List.replicate 64 0) ++ cellsNat (0x80 + 128 * g + 68) 2 0xFFFF)))

/-- R364: an image whose owning_port names another port. -/
def setOwner (m : Memory) (p : Nat) : Memory := if setPort m = p then m else sealImage (mapply m (cellsNat 0x42 1 p))

end Sys2Proof.Machine
end

