-- ==== Sys2Proof/Machine/Reset.lean ====
section
/-! DEFINITION. Power-on reset, module reset and the start-up sequence (R353, R354, R364, R382, R407 to R412, R426, R428, R429, R448, R449). -/

namespace Sys2Proof.Machine

/-! ### The module's own addresses -/

/-- R190: cells under one module identifier, moved to another: own carafe and scratch space and host space bear the module's own. -/
def renumberCells (m : Memory) (old new : Nat) : Memory :=
  if old = new then m
  else mapply (m.filter (fun c => gaMod c.1 != old && gaMod c.1 != new))
    ((m.filter (fun c => gaMod c.1 == old)).map (fun c => (c.1 - 2 ^ 50 * old + 2 ^ 50 * new, c.2)))

/-- Line numbers under one module identifier, moved to another. -/
def renumberLines (ls : List Nat) (old new : Nat) : List Nat :=
  if old = new then ls
  else ((ls.filter (fun l => gaMod (64 * l) == old)).map (fun l => l - 2 ^ 44 * old + 2 ^ 44 * new)).foldl sins
    (ls.filter (fun l => gaMod (64 * l) != old && gaMod (64 * l) != new))

/-- Memory and poisoned lines without a byte range. -/
def wipe (s : State) (a n : Nat) : State :=
  { s with mem := mclear s.mem a n, poison := s.poison.filter (fun l => !decide (a ≤ 64 * l ∧ 64 * l < a + n)) }

/-- R407: every scratch window written as zero. -/
def wipeScratch (s : State) : State := wipe s (2 ^ 50 * selfId s + 2 ^ 46) (2 ^ 32)

/-- R407: the carafes written as zero. -/
def wipeCarafes (s : State) : State := wipe s (2 ^ 50 * selfId s) (2 ^ 39)

/-! ### Firmware banks (R424 to R429) -/

def bankOf (s : State) (b : Nat) : Bank := if b = 0 then s.mgmt.bank0 else s.mgmt.bank1

def setBank (s : State) (b : Nat) (x : Bank) : State :=
  if b = 0 then { s with mgmt := { s.mgmt with bank0 := x } } else { s with mgmt := { s.mgmt with bank1 := x } }

/-- R426: whether a bank that holds a verified image verifies under an owner key and a floor. Whether the image's owner_sig verifies is
a free value (log entry 14). -/
def bankVerifies (b : Bank) (owner : Option (List Byte)) (floor : Nat) : Bool :=
  b.valid && decide (floor ≤ b.secVer) &&
  (match owner with
   | none => true
   | some k => Config.slhVerify k b.digests.flatten (Config.securityBytes 9 b.digests.flatten))

/-- R429: an enrolment takes effect; an all-zero key removes it. -/
def nextOwnerKey (s : State) : Option (List Byte) :=
  match s.mgmt.stagedOwner with
  | some k => if k.all (· == 0) then none else some k
  | none => s.mgmt.ownerKey

/-- R428: the bank that start-up tries first. -/
def firstBank (s : State) : Nat := (s.mgmt.activating.orElse (fun _ => s.mgmt.pendingBank)).getD s.mgmt.activeBank

/-- R407, step 2: Barista's state after the stages have been verified: the bank that runs, or none at a boot failure. -/
def chooseBank (s : State) : Option Nat :=
  let ok := fun b => bankVerifies (bankOf s b) (nextOwnerKey s) s.mgmt.floor
  let f := firstBank s
  if ok f then some f else if ok (1 - f) then some (1 - f) else none

/-- The highest seq in flash (R423). -/
def flashSeq (s : State) : W64 := s.mgmt.logFlash.foldl (fun m r => if m.toNat < r.seq.toNat then r.seq else m) 0

/-- R412: Barista, the security block, the calendar and the Umpire after a reset. -/
def resetMgmt (s : State) (por : Bool) : Mgmt :=
  let g := s.mgmt
  let k := nextOwnerKey s
  let v := fun b : Bank => { b with valid := bankVerifies b k g.floor }
  let run := chooseBank s
  { bank0 := v g.bank0, bank1 := v g.bank1, activeBank := run.getD g.activeBank, pendingBank := none
    activating := if (g.activating.isSome || g.pendingBank.isSome) && run == some (firstBank s) then run else none
    fallback := run == some (1 - firstBank s), ownerKey := k, stagedOwner := none
    identityOk := decide (Config.pufSeed.length = 32), ready := run.isNone, sideband := g.sideband, addrStrap := g.addrStrap
    calValid := g.calValid, calCount := g.calCount, backupPin := g.backupPin, lostAt := g.lostAt, floor := g.floor
    logBuffer := if por then [] else g.logBuffer, logFlash := g.logFlash, newestSeq := if por then flashSeq s else g.newestSeq
    running := if por then [] else g.running.filter (fun a => a.rank == rkActivate) }

/-! ### What a reset clears (R412) -/

/-- Flash keeps a carafe's spares, remap table and retired frames; its registers and loops start anew. -/
def resetCarafe (k : Carafe) : Carafe := { s0 := k.s0, s1 := k.s1, remapped := k.remapped, failed := k.failed, retired := k.retired }

/-- Flash keeps a cluster's retired granules. -/
def resetCluster (k : Cluster) : Cluster := { retired := k.retired }

/-- The links after a reset. -/
def resetLinks (l : Links) (por : Bool) : Links :=
  { incarnation := l.incarnation + 1, routes := if por then [] else l.routes, deathLog := if por then [] else l.deathLog
    dead := if por then [] else l.dead, presents := if por then [] else l.presents, lastDead := 0, out := l.out }

/-- Both sets after a reset (R364, R377). -/
def resetSets (s : State) (por : Bool) : CSet :=
  if por then
    match chooseBank s with
    | some b =>
      let img := (bankOf s b).section4
      if checkImage img = 0 then
        let a := unuseGroups (imgTake img)
        { active := a, bench := a }
      else { active := defaultSet, bench := defaultSet, flashBad := true }
    | none => { active := defaultSet, bench := defaultSet }
  else { active := unuseGroups s.cset.active, bench := s.cset.bench, flashBad := s.cset.flashBad }

/-- R407, R411, R412: everything but the pages, the phase and the report of the reset. -/
def resetState (s : State) (por : Bool) : State :=
  let s1 := wipeScratch s
  let s2 := if por then wipeCarafes s1 else s1
  let sets := resetSets s por
  let old := selfId s
  let new := setFld sets.active 0x40 2
  let t := if por then 0 else s.localTime
  { pending := s.pending, localTime := t, mem := renumberCells s2.mem old new, poison := renumberLines s2.poison old new
    pool := if por then [] else s.pool.map (fun p => (p.1, { p.2 with touched := false })), ageAt := t, loopAt := t
    carafes := s.carafes.map (fun k => (k.1, resetCarafe k.2)), clusters := s.clusters.map (fun k => (k.1, resetCluster k.2))
    links := resetLinks s.links por
    hostPorts := s.hostPorts.map (fun h => (h.1, { perst := h.2.perst }))
    owner := if por then setPort sets.active else s.owner
    cset := sets, mgmt := resetMgmt s por, out := s.out }

/-! ### The resets -/

/-- R428, R438, R439: what start-up reports of the banks. -/
def reportBanks (s : State) : State :=
  if s.mgmt.fallback then logEvent (mgmtEvent s 2) lsBarista 2 0x0052 0xFFFF s.mgmt.activeBank else s

/-- The phase after step 2 of R407; at a boot failure nothing further starts (R409). -/
def startPhase (s0 s : State) (released : Bool) : State :=
  if (chooseBank s0).isSome then reportBanks { s with phase := .startup released }
  else logEvent { s with phase := .bootFailed } lsBarista 3 0x0053 0xFFFF 0

/-- The causes of a module reset that the log records (log entry 51). -/
def mrRegister : Nat := 0
def mrPerst : Nat := 1
def mrTakeover : Nat := 2
def mrActivation : Nat := 3

/-- Whether the module can perform a module reset: it has power and has not tripped (R399, R449). -/
def hasPower (s : State) : Bool := s.phase != .off && s.phase != .tripped

/-- R407, R411: a module reset; `released` when t counts at once. -/
def resetModule (s : State) (cause : Nat) (released : Bool) : State :=
  logEvent (startPhase s (resetState s false) released) lsHub 0 0x0002 0xFFFF cause

/-- R351, R364: a module reset after which another port owns. -/
def resetFor (s : State) (p : Nat) : State :=
  let s1 := resetModule s mrTakeover true
  { s1 with owner := p, cset := { s1.cset with active := setOwner s1.cset.active p } }

/-- MODULE_RESET (R382): a write of module_reset to HUB_RESET. -/
def moduleReset (s : State) : State := if barOpen s then resetModule s mrRegister true else s

def execModuleReset (s : State) : Host.Outcome State Fault Refusal := .next (moduleReset s)

/-- R434, R435: the calendar where power has been away: the supercapacitor holds it for at least 72 hours; beyond them whether it still
did is a free value (log entry 52). -/
def calendarBack (s : State) : State :=
  match s.mgmt.lostAt with
  | some t =>
    let away := (s.mgmt.calCount - t).toNat
    let s1 := { s with mgmt := { s.mgmt with lostAt := none } }
    if s.mgmt.backupPin || away ≤ 72 * 3600 * 32768 || Config.pick (4000000 + away) 2 = 0 || !(s.mgmt.calValid) then s1
    else mgmtEvent { s1 with mgmt := { s1.mgmt with calValid := false, calCount := 0 } } 3
  | none => s

/-- POWER_ON_RESET (R407, R412, R448): 54 V rises into range. -/
def powerOnReset (s : State) : State :=
  let s1 := resetState s true
  let s2 := { s1 with hostPorts := s1.hostPorts.map (fun h => (h.1, ({ } : HostPort))) }
  logEvent (calendarBack (startPhase s s2 false)) lsHub 0 0x0001 0xFFFF 0

def execPowerOnReset (s : State) : Host.Outcome State Fault Refusal := .next (powerOnReset s)

/-- R417, R447, R449: the dies lose power: every port is DOWN and no command is left. -/
def unpower (s : State) : State :=
  { s with cmds := [], branches := [], reserved := [], brMem := [], brPoison := [], standby := none
           links := { s.links with ports := [], reads := [], holdsIn := [], waiting := [], early := [], channels := [] } }

/-- POWER_LOSS (R449): power leaves every die. Records still in Barista's buffer are lost. -/
def powerLoss (s : State) : State :=
  if s.phase = .off then s
  else
    let s1 := wipeCarafes (wipeScratch (unpower s))
    { s1 with phase := .off, pool := [], ctxs := [], huddles := [], hostPorts := s1.hostPorts.map (fun h => (h.1, ({ } : HostPort)))
              mgmt := { s1.mgmt with ready := false, logBuffer := [], logHub := [], update := none, running := [], queued := []
                                     sessions := [], spdmState := []
                                     lostAt := if s1.mgmt.backupPin then none else some s1.mgmt.calCount } }

def execPowerLoss (s : State) : Host.Outcome State Fault Refusal := .next (powerLoss s)

/-- PERST (R353, R418): PERST or a Hot Reset on the owning port is a module reset; t waits for its release. -/
def perst (p : Nat) (s : State) : State :=
  if p = s.owner && hasPower s then
    modHostPort (resetModule (modHostPort s p (fun h => { h with perst := true })) mrPerst false) p (fun h => { h with perst := true })
  else s

def execPerst (port : Nat) (s : State) : Host.Outcome State Fault Refusal := .next (perst port s)

/-- A function's own reset: its configuration space, MSI-X state, keys and PCI_HANDOVER (R14, R353, R355, R358). -/
def resetFunction (h : HostPort) : HostPort :=
  { h with link := .down, speed := 0, width := 0, flitMode := false, ready := false, perst := true, busMaster := false
           memSpace := false, aspmL1 := false, msixEnable := false, msixMask := false, msixTable := [], pba := [], request := false
           streams := [], keyEpoch := [], require := false, timeouts := 0, downSince := none }

/-- REDUCED_FUNCTION_RESET (R14, R353): PERST or a Hot Reset on the port that does not own. -/
def reducedFunctionReset (p : Nat) (s : State) : State :=
  if p < 2 && p != s.owner then modHostPort s p resetFunction else s

def execReducedFunctionReset (port : Nat) (s : State) : Host.Outcome State Fault Refusal := .next (reducedFunctionReset port s)

/-! ### Start-up (R407, R408, R448) -/

/-- PERST_RELEASE (R448): on the owning port, t starts to count. -/
def perstRelease (p : Nat) (s : State) : State :=
  if 2 ≤ p then s
  else
    let s1 := modHostPort s p (fun h => { h with perst := false })
    match s.phase with
    | .startup false => if p = s.owner then { s1 with phase := .startup true } else s1
    | _ => s1

def execPerstRelease (port : Nat) (s : State) : Host.Outcome State Fault Refusal := .next (perstRelease port s)

/-- A function becomes ready: it answers requests, and its host has enabled it (log entry 53). -/
def makeReady (s : State) (p : Nat) : State :=
  modHostPort s p (fun h => { h with ready := true, perst := false, busMaster := true, memSpace := true, aspmL1 := true, msixEnable := true })

/-- FUNCTION_READY (R354, R407, R409): step 7 of start-up on the owning port, a boot failure on either, or a reduced function whose own
reset is over. -/
def functionReady (p : Nat) (s : State) : State :=
  if 2 ≤ p || (hostPortOf s p).ready then s
  else
    match s.phase with
    | .startup true => makeReady s p
    | .bootFailed => makeReady s p
    | .running => if p != s.owner && (hostPortOf s p).link == .up then makeReady s p else s
    | .failed => if p != s.owner && (hostPortOf s p).link == .up then makeReady s p else s
    | _ => s

def execFunctionReady (port : Nat) (s : State) : Host.Outcome State Fault Refusal := .next (functionReady port s)

/-- R428: the floor is raised by an image that has started, and the other bank is marked not valid below it. -/
def raiseFloor (s : State) : State :=
  let v := (bankOf s s.mgmt.activeBank).secVer
  if s.mgmt.floor < v then
    let o := 1 - s.mgmt.activeBank
    let s1 := logEvent { s with mgmt := { s.mgmt with floor := v } } lsBarista 0 0x0051 0xFFFF v
    let b := bankOf s1 o
    if b.secVer < v then setBank s1 o { b with valid := false } else s1
  else s

/-- R428, R439: start-up ran a newly activated bank. -/
def endActivation (s : State) : State :=
  let s1 := { s with mgmt := { s.mgmt with running := s.mgmt.running.filter (fun a => a.rank != rkActivate), activating := none } }
  if s.mgmt.activating.isSome then logEvent (mgmtEvent s1 1) lsBarista 0 0x0051 0xFFFF s.mgmt.activeBank else s1

/-- R389: the profile's set clock of a region, in MHz. -/
def profileMhz (pr : Nat) : Nat :=
  match pr with
  | 2 => 1000
  | 3 => 960
  | _ => 1250

/-- R390, R394: the regions as start-up leaves them; in Hold every region without a reserved cluster is gated. -/
def startRegions (s : State) : AMap Region :=
  (List.range 64).map (fun r => (r, { setMhz := profileMhz (profile s), gated := profile s == 3, idleSince := s.localTime }))

/-- STARTUP_COMPLETE (R299, R407, R408, R428): step 8 ends. -/
def startupComplete (s : State) : State :=
  if s.phase = .startup true then
    let s1 := { s with phase := .running, regions := startRegions s, mgmt := { s.mgmt with ready := true } }
    let s2 := seqAll s1 (List.range 32) startTraining
    endActivation (raiseFloor (sendPresent (upPorts s2) (selfId s2) s2.links.incarnation s2))
  else s

def execStartupComplete (s : State) : Host.Outcome State Fault Refusal := .next (startupComplete s)

end Sys2Proof.Machine
end

