-- ==== Sys2Proof/Machine/HostPort.lean ====
section
/-! DEFINITION. The host ports: links, loss and takeover, handover, the carafe aperture, MSI-X, IDE and the trace ring (R342 to R363). -/

namespace Sys2Proof.Machine

/-! ### Links (R349, R350) -/

/-- R348: the messages that pending bits hold, sent where their vectors are open. -/
def sendPending (s : State) (p : Nat) : State :=
  let h := hostPortOf s p
  let vs := h.pba.filter (vectorOpen h)
  { modHostPort s p (fun h => { h with pba := h.pba.filter (fun v => !(vs.contains v)) }) with
    out := { s.out with msix := s.out.msix ++ vs.map (fun v => (p, v)) } }

/-- The states of PCI_PORT_STAT_n by their codes. -/
def hostLinkOf (n : Nat) : HostLink :=
  match n with
  | 1 => .up
  | 2 => .recovering
  | 3 => .lowPower
  | _ => .down

/-- R349, R350: the fields of a port after its link's change. -/
def linkFields (s : State) (h : HostPort) (l : HostLink) (speed width : Nat) (flit : Bool) : HostPort :=
  if l = .down then { h with link := .down, speed := 0, width := 0, flitMode := false, downSince := some s.localTime }
  else { h with link := l, speed := speed % 8, width := width % 32, flitMode := flit, downSince := none
                timeouts := if l = .up then 0 else h.timeouts, lost := h.lost && l != .up }

/-- What waited for the owning host goes on: held messages, and messages of peers whose pages wait for the eviction area. -/
def hostReturns (s : State) (p : Nat) : State := if p = s.owner then retryEarly (sendPending s p) else sendPending s p

/-- PCIE_LINK_CHANGE (R349, R350, R359). -/
def pcieLinkChange (p link speed width : Nat) (flit : Bool) (s : State) : State :=
  if 2 ≤ p || s.phase == .off then s
  else
    let l := hostLinkOf (link % 4)
    let changed := (hostPortOf s p).link != l
    let s1 := modHostPort s p (fun h => if changed || l != .down then linkFields s h l speed width flit else h)
    let s2 := if changed then pciEvent s1 p 1 else s1
    if changed && l == .up then hostReturns s2 p else s2

def execPcieLinkChange (port link speed width : Nat) (flit : Bool) (s : State) : Host.Outcome State Fault Refusal :=
  .next (pcieLinkChange port link speed width flit s)

/-- R350: the owning port is declared lost. -/
def loseOwner (s : State) : State :=
  let p := s.owner
  if (hostPortOf s p).lost then s
  else
    let s1 := pciEvent (modHostPort s p (fun h => { h with lost := true })) p 2
    seqAll s1 (s1.ctxs.map Prod.fst) (fun s n => ringAccessError n s)

/-- COMPLETION_TIMEOUT (R350): the sixteenth in a row declares the owning port lost. -/
def completionTimeout (p : Nat) (s : State) : State :=
  if p = s.owner && (hostPortOf s p).busMaster then
    let s1 := modHostPort s p (fun h => { h with timeouts := h.timeouts + 1 })
    if 16 ≤ (hostPortOf s1 p).timeouts then loseOwner s1 else s1
  else s

def execCompletionTimeout (port : Nat) (s : State) : Host.Outcome State Fault Refusal := .next (completionTimeout port s)

/-- OWNING_PORT_LOST (R350): its link has been DOWN for 100 ms. -/
def owningPortLost (s : State) : State :=
  let h := hostPortOf s s.owner
  match h.downSince with
  | some t => if h.busMaster && h.link == .down && decide (us 100000 ≤ since s t) then loseOwner s else s
  | none => s

def execOwningPortLost (s : State) : Host.Outcome State Fault Refusal := .next (owningPortLost s)

/-! ### Takeover and handover (R351, R352, R358) -/

/-- TAKEOVER (R351): written by the host that does not own, while the owning port is lost. -/
def takeover (p : Nat) (s : State) : State :=
  if p < 2 && p != s.owner && (hostPortOf s p).ready && barOpen s && (hostPortOf s s.owner).lost then resetFor s p else s

def execTakeover (port : Nat) (s : State) : Host.Outcome State Fault Refusal := .next (takeover port s)

/-- HANDOVER_REQUEST (R358, R359): request becomes 1 in PCI_HANDOVER of the port that does not own. -/
def handoverRequest (p : Nat) (s : State) : State :=
  if p < 2 && p != s.owner && (hostPortOf s p).ready && !((hostPortOf s p).request) then
    pciEvent (modHostPort s p (fun h => { h with request := true })) s.owner 3
  else s

def execHandoverRequest (port : Nat) (s : State) : Host.Outcome State Fault Refusal := .next (handoverRequest port s)

/-! ### The carafe aperture (R346, R347) -/

def apertureSize : Nat := 2 ^ 25

/-- R360: the global address of an aperture offset. -/
def apertureAddr (s : State) (x : Nat) : Nat :=
  2 ^ 50 * selfId s + (2 ^ 32 * s.regs.apertureHi.toNat + 2 ^ 25 * s.regs.apertureLo.toNat) + x

/-- What an aperture access finds. -/
inductive ApFound where
  | wait
  | free
  | lost
  | here (s : State)

/-- R346: the pages of an access, in order, recalled where they are EVICTED. -/
def apPages : State → List Nat → ApFound
  | s, [] => .here s
  | s, p :: ps =>
    match bringPage s p with
    | .wait => .wait
    | .fails .permission => .free
    | .fails _ => .lost
    | .done s1 _ => apPages s1 ps

/-- The pages of a byte range, each once. -/
def rangePages (a n : Nat) : List Nat := ((linesOf a n).map (fun l => pageOf (64 * l))).dedup

def hostReply (s : State) (r : HostReply) : State := { s with out := { s.out with host := s.out.host ++ [r] } }

/-- R343, R346: bad_access of the owning port. -/
def badAccess (s : State) : State := pciEvent s s.owner 4

/-- APERTURE_READ (R346). -/
def apertureRead (x n : Nat) (s : State) : State :=
  if s.phase = .hubDead || asleep s then s
  else if !(barOpen s) then hostReply s (.unsupportedRequest x)
  else
    let a := apertureAddr s x
    match apPages s (rangePages a n) with
    | .wait => s
    | .free => hostReply s (.unsupportedRequest x)
    | .lost => hostReply s (.completerAbort x)
    | .here s1 => hostReply s1 (.data x (mread s1.mem a n) ((linesOf a n).any s1.poison.contains))

/-- R343: an offset beyond the aperture is no offset of it. -/
def execApertureRead (offset size : Nat) (s : State) : Host.Outcome State Fault Refusal :=
  if apertureSize < offset + size then .fault .noSuchAddress else
    .next (apertureRead offset size s)

/-- One piece of a write: the bytes of one 64-byte line. -/
def aperturePiece (a : Nat) (bs : List Byte) (s : State) : State :=
  match bringPage s (pageOf a) with
  | .wait => s
  | .fails _ => badAccess s
  | .done s1 _ => storeCells s1 (cellsAt a bs)

/-- R346: a write in pieces of 64 bytes, in address order. -/
def aperturePieces : Nat → Nat → List Byte → State → State
  | 0, _, _, s => s
  | k + 1, a, bs, s =>
    if bs.isEmpty then s
    else
      let n := 64 - a % 64
      aperturePieces k (a + n) (bs.drop n) (aperturePiece a (bs.take n) s)

/-- APERTURE_WRITE (R346). -/
def apertureWrite (x : Nat) (bs : List Byte) (s : State) : State :=
  aperturePieces (bs.length + 1) (apertureAddr s x) bs s

def execApertureWrite (offset : Nat) (data : List Byte) (s : State) : Host.Outcome State Fault Refusal :=
  if apertureSize < offset + data.length then .fault .noSuchAddress else 
    .next (barWrite s (0x2000000 + offset) data.length (leNat data) (apertureWrite offset data))

/-- The new value of an AtomicOp on n bytes. -/
def atomicNew (n : Nat) (op : AtomicOp) (old operand compare : Nat) : Nat :=
  match op with
  | .fetchAdd => (old + operand) % 2 ^ (8 * n)
  | .swap => operand % 2 ^ (8 * n)
  | .cas => if old = compare % 2 ^ (8 * n) then operand % 2 ^ (8 * n) else old

/-- APERTURE_ATOMIC (R342, R346): 32 and 64 bits; any other size is not supported. -/
def apertureAtomic (x n : Nat) (op : AtomicOp) (operand compare : Nat) (s : State) : State :=
  if s.phase = .hubDead || asleep s then s
  else if !(barOpen s) || !(n == 4 || n == 8) || x % n != 0 then hostReply s (.unsupportedRequest x)
  else
    let a := apertureAddr s x
    match bringPage s (pageOf a) with
    | .wait => s
    | .fails .permission => hostReply s (.unsupportedRequest x)
    | .fails _ => hostReply s (.completerAbort x)
    | .done s1 _ =>
      let old := mnat s1.mem a n
      hostReply (storeCells s1 (cellsNat a n (atomicNew n op old operand compare)))
        (.data x (leBytes n old) (s1.poison.contains (a / 64)))

def execApertureAtomic (offset size : Nat) (op : AtomicOp) (operand compare : Nat) (s : State) :
    Host.Outcome State Fault Refusal :=
  if apertureSize < offset + size then .fault .noSuchAddress else
    .next (apertureAtomic offset size op operand compare s)

/-! ### MSI-X (R348) -/

/-- MSIX_UNMASK (R348): a vector of the owning function is unmasked. -/
def msixUnmask (v : Nat) (s : State) : State :=
  if v < 2048 then
    sendPending (modHostPort s s.owner (fun h => { h with msixTable := amod h.msixTable v 0#128 (fun e => e &&& ~~~(1#128 <<< 96)) }))
      s.owner
  else s

def execMsixUnmask (vector : Nat) (s : State) : Host.Outcome State Fault Refusal := 
  .next (barWrite s (0x1FF000C + 16 * (vector % 2048)) 4 0 (msixUnmask vector))

/-! ### Selective IDE (R355, R362) -/

/-- A secured SPDM session on a port's DOE mailbox. -/
def doeSession (s : State) (p : Nat) : Bool := s.mgmt.sessions.any (fun x => x.transport == p && x.established)

/-- What an IDE_KM message does to a port. -/
def ideApply (h : HostPort) (stream : Nat) : IdeKmOp → HostPort
  | .program => { h with streams := sins h.streams stream, keyEpoch := amod h.keyEpoch stream 0 (· + 1) }
  | .refresh => if h.streams.contains stream then { h with keyEpoch := amod h.keyEpoch stream 0 (· + 1) } else h
  | .disable => { h with streams := srem h.streams stream, keyEpoch := adel h.keyEpoch stream }
  | .setRequire v => { h with require := v }

/-- IDE_KM (R355, R362): two streams per port. -/
def ideKm (p stream : Nat) (op : IdeKmOp) (s : State) : State :=
  if p < 2 && stream < 2 && doeSession s p then modHostPort s p (fun h => ideApply h stream op) else s

def execIdeKm (port stream : Nat) (op : IdeKmOp) (s : State) : Host.Outcome State Fault Refusal := .next (ideKm port stream op s)

/-- IDE_INTEGRITY_FAIL (R355): the stream is no longer secure (log entry 54), and ide_fail is set. -/
def ideIntegrityFail (p stream : Nat) (s : State) : State :=
  if p < 2 && (hostPortOf s p).streams.contains stream then
    pciEvent (modHostPort s p (fun h => ideApply h stream .disable)) p 5
  else s

def execIdeIntegrityFail (port stream : Nat) (s : State) : Host.Outcome State Fault Refusal := .next (ideIntegrityFail port stream s)

/-! ### The trace ring (R356, R363) -/

/-- TRACE_ENABLE (R363): enable written as 1 restarts the ring at record 0. -/
def traceEnable (s : State) : State :=
  { s with regs := { s.regs with traceOn := true }, trace := { s.trace with head := 0 } }

def execTraceEnable (s : State) : Host.Outcome State Fault Refusal := 
  .next (barWrite s 0x600040 4 (1 + 2 * s.regs.traceEvents.toNat + 2 ^ 16 * s.regs.traceCtx.toNat + (if s.regs.traceFilter then 2 ^ 24 else 0))
    traceEnable)

/-! ### Latched counters (R383, R441) -/

/-- LOCAL_TIME_LO_READ: a 4-byte read of the low half latches the high half. -/
def localTimeLoRead (calendar : Bool) (s : State) : State :=
  if !(barOpen s) then s
  else if calendar then { s with mgmt := { s.mgmt with calLatch := w32 (s.mgmt.calCount.toNat / 2 ^ 32) } }
  else { s with timeLatch := w32 (s.localTime.toNat / 2 ^ 32) }

def execLocalTimeLoRead (calendar : Bool) (s : State) : Host.Outcome State Fault Refusal := .next (localTimeLoRead calendar s)

end Sys2Proof.Machine
end

