-- ==== Sys2Proof/Machine/Power.lean ====
section
/-! DEFINITION. Power profiles, region clocks, the power-cap loop, the thermal limits and sensor recalibration (R386 to R400, R402 to R406,
R437). -/

namespace Sys2Proof.Machine

/-! ### Region clocks (R389, R392 to R394) -/

/-- R389: the budget of a profile in watts. -/
def budgetW (pr : Nat) : Nat :=
  match pr with
  | 0 => 3200
  | 1 => 2600
  | 2 => 1900
  | _ => 450

/-- R392: a region's floor in MHz. -/
def floorMhz (s : State) (r : Nat) : Nat := if regionReserved s r then 960 else 900

/-- R394: the effective set clock: the lowest limit, but never below the floor outside thermal emergency. -/
def limitMhz (s : State) (r : Nat) (x : Region) : Nat :=
  if s.power.emergency then 900
  else max (floorMhz s r) (min (if profile s = 0 then x.boost else profileMhz (profile s)) (min x.capLevel x.throttle))

/-- R394: a region under its limits; the boost level falls with the set clock, down to 1.25 GHz. -/
def levelled (s : State) (r : Nat) (x : Region) : Region :=
  let m := limitMhz s r x
  { x with setMhz := m, effMhz := if x.gated then 0 else m, boost := max 1250 (min x.boost m) }

def applyLevels (s : State) (r : Nat) : State := modRegion s r (levelled s r)

/-- Every region changed, then under its limits. -/
def allRegions (s : State) (f : Nat → Region → Region) : State :=
  seqAll s (List.range 64) (fun s r => applyLevels (modRegion s r (f r)) r)

/-! ### The power-cap loop (R396) -/

/-- Some region without a reserved cluster stands above its floor. -/
def looseAbove (s : State) : Bool := (List.range 64).any (fun r => !(regionReserved s r) && decide (900 < (regionOf s r).setMhz))

/-- Some region stands above its floor. -/
def anyAbove (s : State) : Bool := (List.range 64).any (fun r => decide (floorMhz s r < (regionOf s r).setMhz))

/-- One period of lowering. -/
def capLower (s : State) : State :=
  let loose := looseAbove s
  allRegions s (fun r x =>
    if (!(regionReserved s r) || !loose) && decide (floorMhz s r < x.setMhz) then { x with capLevel := max (floorMhz s r) (x.setMhz - 25) }
    else x)

/-- The duty of every region without a reserved cluster changed. -/
def capDuty (s : State) (f : Nat → Nat) : State :=
  seqAll s (List.range 64) (fun s r => if regionReserved s r then s else modRegion s r (fun x => { x with duty := f x.duty }))

/-- Some region's duty is limited. -/
def dutyLimited (s : State) : Bool := (List.range 64).any (fun r => decide ((regionOf s r).duty < 8))

/-- R396, R403: over_budget follows the duty. -/
def noteBudget (s : State) : State :=
  let o := dutyLimited s
  let s1 := { s with power := { s.power with overBudget := o } }
  if o && !(s.power.overBudget) then powerEvent s1 2 else s1

/-- The action of one period. -/
def capAct (s : State) (w : Nat) : State :=
  let b := budgetW (profile s)
  if b < w then (if anyAbove s then capLower s else noteBudget (capDuty s (fun d => max 1 (d - 1))))
  else if w + 100 < b then
    (if dutyLimited s then noteBudget (capDuty s (fun d => min 8 (d + 1)))
     else allRegions s (fun _ x => { x with capLevel := min 1500 (x.capLevel + 25) }))
  else s

/-- POWER_CAP_PERIOD (R396, R404): 100 µs after the last one, with the mean input power of the last 1 ms. -/
def powerCapPeriod (w : Nat) (s : State) : State :=
  if s.phase == .running && decide (us 100 ≤ since s s.power.capAt) then
    capAct { s with power := { s.power with inputW := w % 65536, capAt := s.localTime } } w
  else s

def execPowerCapPeriod (watts : Nat) (s : State) : Host.Outcome State Fault Refusal := .next (powerCapPeriod watts s)

/-! ### Boost, voltage and droop (R393, R395) -/

/-- The highest reading of a compute die's sensors. -/
def dieTemp (s : State) (d : Nat) : Nat := ((List.range 4).map (fun k => reading s (4 * d + k))).foldl max 0

/-- R393: the conditions under which a region rises. -/
def mayBoost (s : State) (r : Nat) : Bool :=
  profile s == 0 && decide (s.power.inputW + 100 < budgetW 0) && decide (dieTemp s (r / 4) ≤ 90 * 16)
    && (carafeOf s (r / 4)).throttle == 0 && !s.power.emergency

/-- BOOST_STEP (R393): at most once every 100 µs. -/
def boostStep (r : Nat) (s : State) : State :=
  if s.phase == .running && decide (r < 64) && mayBoost s r && decide (us 100 ≤ since s (regionOf s r).lastBoost) then
    applyLevels (modRegion s r (fun x => { x with boost := min 1500 (x.boost + 25), lastBoost := s.localTime })) r
  else s

def execBoostStep (region : Nat) (s : State) : Host.Outcome State Fault Refusal := .next (boostStep region s)

/-- VOLTAGE_LOOP (R395): one adjustment, up where the path margin is low and down otherwise. -/
def voltageLoop (r : Nat) (low : Bool) (s : State) : State :=
  if r < 64 then modRegion s r (fun x => { x with volt := if low then x.volt + 1 else x.volt - 1 }) else s

def execVoltageLoop (region : Nat) (marginLow : Bool) (s : State) : Host.Outcome State Fault Refusal := .next (voltageLoop region marginLow s)

/-- DROOP_STRETCH (R392, R395): A-cycles are stretched; how far the effective clock falls, at most by 1/16, is a free value (log
entry 55). -/
def droopStretch (r : Nat) (s : State) : State :=
  if r < 64 then
    modRegion s r (fun x =>
      { x with stretches := x.stretches + 1
               effMhz := if x.gated then 0
                         else x.setMhz - Config.amount 6 [r, x.stretches, s.localTime.toNat] % (x.setMhz / 16 + 1) })
  else s

def execDroopStretch (region : Nat) (s : State) : Host.Outcome State Fault Refusal := .next (droopStretch region s)

/-! ### Gating (R390) -/

/-- A command placed on a region. -/
def regionUses (r : Nat) (c : Cmd) : Bool :=
  (c.stage == .placed || c.stage == .issued) && ((match c.pos with | some q => q / 8 == r | none => false) || c.held.any (fun h => h.1 / 8 == r))

/-- REGION_GATE (R390): in Hold, 100 µs after a region's last command. -/
def regionGate (r : Nat) (s : State) : State :=
  let x := regionOf s r
  if r < 64 && profile s == 3 && !(regionReserved s r) && !x.gated && !(s.cmds.any (regionUses r)) && decide (us 100 ≤ since s x.idleSince) then
    modRegion s r (fun x => { x with gated := true, effMhz := 0 })
  else s

def execRegionGate (region : Nat) (s : State) : Host.Outcome State Fault Refusal := .next (regionGate region s)

/-! ### The die thermal throttle (R397) -/

/-- The regions of a die changed, then under their limits. -/
def dieRegions (s : State) (d : Nat) (f : Nat → Region → Region) : State :=
  seqAll s ((List.range 4).map (4 * d + ·)) (fun s r => applyLevels (modRegion s r (f r)) r)

/-- DIE_THROTTLE_STEP (R397, R403): 100 °C or more: the throttle begins, and lowers its level 10 µs later and every 10 µs after. -/
def dieThrottleStep (d t : Nat) (s : State) : State :=
  if 16 ≤ d then s
  else
    let s1 := noteTemp s (4 * d) t
    if tempNat (BitVec.ofNat 16 t) < 100 * 16 then s1
    else if !((dieOf s d).throttled) then powerEvent (setDie s1 d { dieOf s d with throttled := true, throttleAt := s.localTime }) 3
    else if decide (us 10 ≤ since s (dieOf s d).throttleAt) then
      dieRegions (setDie s1 d { dieOf s d with throttleAt := s.localTime }) d (fun r x =>
        { x with throttle := max (floorMhz s r) (min x.throttle x.setMhz - 25) })
    else s1

def execDieThrottleStep (die reading : Nat) (s : State) : Host.Outcome State Fault Refusal := .next (dieThrottleStep die reading s)

/-- DIE_THROTTLE_RELEASE (R394, R397): below 98 °C the level is released, and the clocks rise by 25 MHz every 10 µs. -/
def dieThrottleRelease (d t : Nat) (s : State) : State :=
  if 16 ≤ d then s
  else
    let s1 := noteTemp s (4 * d) t
    if 98 * 16 ≤ dieTemp s1 d then s1
    else if decide (us 10 ≤ since s (dieOf s d).throttleAt) then
      dieRegions (setDie s1 d { dieOf s d with throttled := false, throttleAt := s.localTime }) d (fun _ x =>
        { x with throttle := min 1500 (x.throttle + 25) })
    else setDie s1 d { dieOf s d with throttled := false }

def execDieThrottleRelease (die reading : Nat) (s : State) : Host.Outcome State Fault Refusal := .next (dieThrottleRelease die reading s)

/-! ### Thermal emergency and trip (R398 to R400) -/

/-- THERMAL_EMERGENCY_ENTER (R398). -/
def thermalEmergencyEnter (sensor t : Nat) (s : State) : State :=
  if 169 ≤ sensor || s.phase == .off || s.phase == .tripped then s
  else
    let s1 := noteTemp s sensor t
    if s.power.emergency || reading s1 sensor < emergencyTemp sensor then s1
    else
      let s2 := { s1 with power := { s1.power with emergency := true, coolSince := none } }
      logEvent (powerEvent (allRegions s2 (fun _ x => x)) 0) lsPower 2 0x0030 sensor 1

def execThermalEmergencyEnter (sensor reading : Nat) (s : State) : Host.Outcome State Fault Refusal :=
  .next (thermalEmergencyEnter sensor reading s)

/-- THERMAL_EMERGENCY_EXIT (R394, R398): every sensor has read at least 5 °C below its threshold for 10 ms; the clocks return from
0.9 GHz by 25 MHz every 10 µs. -/
def thermalEmergencyExit (s : State) : State :=
  match s.power.coolSince with
  | some t =>
    if s.power.emergency && decide (us 10000 ≤ since s t) then
      let s1 := { s with power := { s.power with emergency := false, coolSince := none } }
      logEvent (powerEvent (allRegions s1 (fun _ x => { x with throttle := min x.throttle 900 })) 1) lsPower 1 0x0030 0xFFFF 0
    else s
  | none => s

def execThermalEmergencyExit (s : State) : Host.Outcome State Fault Refusal := .next (thermalEmergencyExit s)

/-- R399: the trip threshold of a sensor in 1/16 °C. -/
def tripTemp (sensor : Nat) : Nat := if 64 ≤ sensor ∧ sensor < 160 then 112 * 16 else 120 * 16

/-- THERMAL_TRIP (R22, R399): death is signalled, and the dies lose power and their contents. -/
def thermalTrip (sensor t : Nat) (s : State) : State :=
  if 169 ≤ sensor || s.phase == .off || s.phase == .tripped || tempNat (BitVec.ofNat 16 t) < tripTemp sensor then s
  else
    let s1 := failModule (noteTemp s sensor t) (failCause s)
    let s2 := wipeCarafes (wipeScratch (unpower s1))
    logEvent { s2 with phase := .tripped, pool := [], power := { s2.power with tripped := true } } lsPower 3 0x0031 sensor t

def execThermalTrip (sensor reading : Nat) (s : State) : Host.Outcome State Fault Refusal := .next (thermalTrip sensor reading s)

/-- COOLANT_HOT (R400, R403): the outlet thermistor reports. -/
def coolantHot (t : Nat) (s : State) : State :=
  let s1 := noteTemp s 170 t
  let hot := decide (65 * 16 ≤ tempNat (BitVec.ofNat 16 t))
  let s2 := { s1 with power := { s1.power with coolantHot := hot } }
  if hot && !(s.power.coolantHot) then powerEvent s2 4 else s2

def execCoolantHot (reading : Nat) (s : State) : Host.Outcome State Fault Refusal := .next (coolantHot reading s)

/-! ### Sensor recalibration (R437) -/

/-- A sensor of a compute die: four of its own, or a layer of its carafe. -/
def sensorOfDie (d sensor : Nat) : Bool := sensor / 4 == d && decide (sensor < 64) || decide (64 + 6 * d ≤ sensor ∧ sensor < 70 + 6 * d)

/-- A sensor goes out of service. -/
def recalibrate (s : State) (sensor : Nat) : State := { s with power := { s.power with outOfService := sins s.power.outOfService sensor } }

/-- SENSOR_RECALIBRATION (R437): a sensor goes out of service once the Umpire admits it; while it is out, the row ends its recalibration
(log entry 56). -/
def sensorRecalibration (d sensor : Nat) (s : State) : State :=
  if 16 ≤ d || !(sensorOfDie d sensor) then s
  else if umpRuns s rkSensor d (sensor, 0) then
    umpEnd { s with power := { s.power with outOfService := srem s.power.outOfService sensor } } rkSensor d (sensor, 0)
  else if umpKnown s rkSensor d (sensor, 0) then s
  else
    let s1 := umpAsk s rkSensor d (sensor, 0)
    if umpRuns s1 rkSensor d (sensor, 0) then recalibrate s1 sensor else s1

def execSensorRecalibration (die sensor : Nat) (s : State) : Host.Outcome State Fault Refusal :=
  .next (sensorRecalibration die sensor s)

end Sys2Proof.Machine
end

