-- ==== Sys2Proof/Machine/Cset.lean ====
section
/-! DEFINITION. Substitution of configuration sets: the bench, its checks, SET_SWAP, admission, the drain and the swap point (R202, R218,
R352, R368 to R379). -/

namespace Sys2Proof.Machine

/-! ### The bench (R368) -/

/-- The bench window: 64 KiB. -/
def benchSize : Nat := 65536

/-- A result of a check: shadow_valid, check_result and the event checked. -/
def benchResult (s : State) (code : Nat) : State :=
  csetEvent { s with cset := { s.cset with shadowValid := code == 0, checkResult := code } } 0

/-- BENCH_WRITE (R343, R368): bytes written through the bench window, in whole aligned words. -/
def benchWrite (o : Nat) (bs : List Byte) (s : State) : State :=
  if o % 4 != 0 || bs.length % 4 != 0 then badAccess s
  else if s.cset.pending.isSome then s
  else { s with cset := { s.cset with bench := mwrite s.cset.bench o bs, shadowValid := false } }

def execBenchWrite (offset : Nat) (data : List Byte) (s : State) : Host.Outcome State Fault Refusal :=
  if benchSize < offset + data.length then .fault .noSuchAddress else
    .next (barWrite s (0x20000 + offset) data.length (leNat data) (benchWrite offset data))

/-- BENCH_CHECK (R368): a write of check to CSET_CTL. -/
def benchCheck (s : State) : State :=
  if s.cset.pending.isSome then s else benchResult s (checkImage s.cset.bench)

def execBenchCheck (s : State) : Host.Outcome State Fault Refusal := .next (barWrite s 0x10000 4 1 benchCheck)

/-- BENCH_LOAD (R368, R378): a write of load to CSET_CTL, with the bytes that the module reads in host space; none where it cannot. -/
def benchLoad (image : Option (List Byte)) (s : State) : State :=
  if s.cset.pending.isSome then s
  else
    match (if s.cset.loadAddr.toNat < 2 ^ 46 then image else none) with
    | none => benchResult s 8
    | some bs =>
      let m := mwrite [] 0 (bs.take benchSize)
      let s1 := { s with cset := { s.cset with bench := mwrite [] 0 (bs.take (min benchSize (imgLength m))) } }
      benchResult s1 (checkImage s1.cset.bench)

def execBenchLoad (image : Option (List Byte)) (s : State) : Host.Outcome State Fault Refusal :=
  .next (barWrite s 0x10000 4 2 (benchLoad image))

/-! ### Requests and refusals (R369, R370, R374) -/

/-- What stands for the issuer in the Umpire's record of a substitution. -/
def swapInfo (i : Option (Nat × Nat)) : Nat × Nat := i.getD (65535, 0)

/-- R370: a substitution is refused with a code. -/
def refuseSwap (s : State) (r : SwapReq) (code : Nat) : State :=
  let s1 := csetEvent (umpEnd { s with cset := { s.cset with pending := none, swapResult := code } } rkSwap 0 (swapInfo r.issuer)) 2
  match r.issuer with
  | some (n, i) =>
    (match findCmd s1 n i with
     | some c => failCmd s1 c .state 0 0
     | none => s1)
  | none => s1

/-! ### Planning the pages (R202) -/

/-- The zones that RESIDENT pages have in a set, each once. -/
def zonesIn (s : State) (m : Memory) : List Zone := ((s.pool.filter (fun p => p.2.state == .resident)).map (fun p => zoneIn m p.1)).dedup

/-- The RESIDENT pages of a zone of a set. -/
def pagesIn (s : State) (m : Memory) (z : Zone) : List (Nat × Page) :=
  s.pool.filter (fun p => p.2.state == .resident && zoneIn m p.1 == z)

/-- R202, R213, R219: pages that a zone of a set can hold. -/
def zoneHolds (s : State) (m : Memory) (z : Zone) : Nat :=
  if (carafeOf s z.1).failed then ((pagesIn s m z).filter (fun p => zoneOf s p.1 == z)).length
  else zoneFrames m z.2.1 - ((carafeOf s z.1).retired.filter (· == (z.2.1, z.2.2))).length

/-- R197: the first n pages to go, by age and then by number. -/
def oldest : Nat → List (Nat × Page) → List Nat
  | 0, _ => []
  | n + 1, ps =>
    match ps.foldl (fun best e => match best with
        | none => some e
        | some b => if b.2.age < e.2.age then some e else best) (none : Option (Nat × Page)) with
    | some e => e.1 :: oldest n (ps.filter (fun p => p.1 != e.1))
    | none => []

/-- The pages of a zone that are to be evicted; none where a pinned page is among those that do not fit. -/
def zoneEvicts (s : State) (m : Memory) (z : Zone) : Option (List Nat) :=
  let ps := pagesIn s m z
  let n := ps.length - zoneHolds s m z
  let free := ps.filter (fun p => !p.2.pinned && !(pageHeld s p.1))
  if free.length < n then none else some (oldest n free)

/-- Every zone's evictions. -/
def planEvicts (s : State) (m : Memory) : List Zone → Option (List Nat)
  | [] => some []
  | z :: zs =>
    match zoneEvicts s m z, planEvicts s m zs with
    | some a, some b => some (a ++ b)
    | _, _ => none

/-- The slots of a set's eviction area that EVICTED pages of the old area occupy; none where a page's slot lies outside it. -/
def keptSlots (s : State) (m : Memory) : Option (List (Nat × Nat)) :=
  let es := (s.pool.filter (fun p => p.2.state == .evicted)).map (fun p => (p.1, slotAt s p.2.slot))
  if es.all (fun e => evictBase m != 0 && decide (evictBase m ≤ e.2 ∧ e.2 < evictBase m + pageSize * evictSlots m)) then
    some (es.map (fun e => (e.1, (e.2 - evictBase m) / pageSize)))
  else none

/-- R202: the pages to evict with their slots in the new area, and the slots of the pages already there; none where a page cannot be
placed. -/
def swapPlan (s : State) (m : Memory) : Option (List (Nat × Nat) × List (Nat × Nat)) :=
  match planEvicts s m (zonesIn s m), keptSlots s m with
  | some ps, some kept =>
    let free := (List.range (min (evictSlots m) (kept.length + ps.length))).filter (fun i => !((kept.map Prod.snd).contains i))
    if ps.isEmpty then some ([], kept)
    else if evictBase m = 0 || free.length < ps.length then none
    else some (ps.zip free, kept)
  | _, _ => none

/-! ### Refusals at admission (R218, R352, R370) -/

/-- R218: a CHANNEL1 entry names a remapped channel of a die of its mask. -/
def namesRemapped (s : State) (m : Memory) : Bool :=
  (imap m).any (fun e => e.mode == 2 && (setBits e.mask 16).any (fun d => (carafeOf s d).remapped == some e.sel))

/-- R370, code 0x16: a cluster that becomes reserved holds branch state of a context that its group does not name. -/
def strandsState (s : State) (m : Memory) : Bool :=
  s.branches.any (fun b => !(b.2.parked) && match branchQ b.2 with
    | some q =>
      (groupOf s q).isNone && (List.range 16).any (fun g => grpCtx m g != 0xFFFF && (grpMask m g).testBit q && grpCtx m g != b.2.ctx)
    | none => false)

/-- The contexts, other than an issuer, that are not DISABLED. -/
def othersEnabled (s : State) (i : Option (Nat × Nat)) : Bool :=
  s.ctxs.any (fun k => k.2.state != .disabled && (i.map Prod.fst) != some k.1)

/-- R370, code 0x17: remote work of this module or of a peer on it that is outstanding. -/
def remoteBusy (s : State) : Bool :=
  !s.links.reads.isEmpty || s.cmds.any (fun c => c.holdsSent && c.stage != .decided) || s.cmds.any (fun c => c.coll.isSome && c.stage != .decided)
    || s.cmds.any huddling || !s.links.holdsIn.isEmpty || s.huddles.any (fun h => !h.2.arrivals.isEmpty)

/-- R352: what a change of the owning port needs. That the new owner has prepared a host address is not the module's to see (log
entry 57). -/
def mayHandOver (s : State) (i : Option (Nat × Nat)) (p : Nat) : Bool :=
  s.regs.release && (hostPortOf s p).request && (hostPortOf s p).link == .up && !(othersEnabled s i)
    && (!(isHost (evictBase s.cset.active)) || evictBase s.cset.active == 0 || (usedSlots s).isEmpty)

/-- R370: the lowest code with which a substitution is refused at admission, or 0. -/
def swapRefusal (s : State) (r : SwapReq) : Nat :=
  let m := s.cset.bench
  if !s.cset.shadowValid then 0x10
  else if r.expect ≠ imgSeq m ∧ r.expect ≠ 2 ^ 64 - 1 then 0x11
  else if setPort m ≠ s.owner ∧ !(mayHandOver s r.issuer (setPort m)) then 0x12
  else if (swapPlan s m).isNone then 0x14
  else if namesRemapped s m then 0x15
  else if strandsState s m then 0x16
  else if imgModule m ≠ selfId s ∧ (othersEnabled s r.issuer || remoteBusy s) then 0x17
  else 0

/-- R370, R372: a substitution is admitted: it is refused, or its drain begins. -/
def swapAdmitted (s : State) : State :=
  match s.cset.pending with
  | some r =>
    if r.admitted then s
    else
      let code := swapRefusal s r
      if code ≠ 0 then refuseSwap s r code
      else { s with cset := { s.cset with pending := some { r with admitted := true, since := s.localTime } } }
  | none => s

/-- R369: a substitution is requested, and waits for the Umpire. -/
def requestSwap (s : State) (i : Option (Nat × Nat)) (expect : Nat) : State :=
  let s1 := umpAsk { s with cset := { s.cset with pending := some { issuer := i, expect := expect, since := s.localTime } } } rkSwap 0 (swapInfo i)
  if umpRuns s1 rkSwap 0 (swapInfo i) then swapAdmitted s1 else s1

/-- R369. -/
def swapChecks (s : State) (c : Cmd) : List Check :=
  [headerCheck c.desc, ⟨1, .format, resZero c.desc [(24, 104)]⟩, svcCheck s c 2] ++ branchChecks s c 2
    ++ [⟨2, .permission, s.cset.admin.getLsbD c.ctx⟩]

/-- R374: a second request while a substitution is pending is refused, and the first one stands. -/
def refuseSecond (s : State) : State := csetEvent { s with cset := { s.cset with swapResult := 0x10 } } 2

def swapAct (s : State) (c : Cmd) : State :=
  if !(earlierDone s c) then s
  else
    match s.cset.pending with
    | some r => if r.issuer = some (c.ctx, c.idx) then s else failCmd (refuseSecond s) c .state 0 0
    | none => requestSwap s (some (c.ctx, c.idx)) (fld c.desc 16 8)

/-- SET_SWAP (R369). -/
def execSetSwap (ctx idx : Nat) (s : State) : Host.Outcome State Fault Refusal :=
  .next (controlStep (isOp 5 5) swapChecks swapAct ctx idx s)

/-- SWAP (R369, R374): a write of swap to CSET_CTL. -/
def swapWrite (s : State) : State := if s.cset.pending.isSome then refuseSecond s else requestSwap s none (2 ^ 64 - 1)

def execSwap (s : State) : Host.Outcome State Fault Refusal := .next (barWrite s 0x10000 4 4 swapWrite)

/-! ### The drain (R372) -/

/-- A command in flight whose accesses the substitution affects. -/
def drainBusy (s : State) : Bool :=
  s.cmds.any (fun c => holdsPages c && rangesAffected s s.cset.active s.cset.bench (allRanges s c))

/-- DRAIN_TIMEOUT (R372): 50 µs after admission affected traffic is still in flight. -/
def drainTimeout (s : State) : State :=
  match s.cset.pending with
  | some r =>
    if r.admitted && drainDiffers s.cset.active s.cset.bench && drainBusy s && decide (us 50 ≤ since s r.since) then refuseSwap s r 0x13
    else s
  | none => s

def execDrainTimeout (s : State) : Host.Outcome State Fault Refusal := .next (drainTimeout s)

/-! ### The swap point (R352, R371, R373) -/

/-- R202: the planned pages are evicted to the new area, and the pages already there are known by their new slots. -/
def movePages (s : State) (m : Memory) (plan : List (Nat × Nat) × List (Nat × Nat)) : State :=
  let s1 := seqAll s plan.2 (fun s e => setPage s e.1 { aget s.pool e.1 {} with slot := e.2 })
  seqAll s1 plan.1 (fun s e =>
    let x := aget s.pool e.1 {}
    { setPage s e.1 { x with state := .evicted, pinned := false, slot := e.2, age := 0, touched := false } with
      mem := mcopy s.mem (pageAddr s e.1) (evictBase m + pageSize * e.2) pageSize })

/-- R371: commands on clusters that become reserved count as borrowed, and poll intervals are clamped. -/
def boundaryFields (old s : State) : State :=
  { s with
    cmds := s.cmds.map (fun c =>
      match c.pos with
      | some q =>
        if (c.stage == .placed || c.stage == .issued) && (groupOf old q).isNone && (groupOf s q).isSome && (ctxOf s c.ctx).svc != 0 then
          { c with borrowed := true }
        else c
      | none => c)
    ctxs := s.ctxs.map (fun k => (k.1, { k.2 with pollI := max (pollMin s) (min (pollMax s) k.2.pollI) }))
    power := { s.power with capAt := s.localTime } }

/-- R373: the two sets exchange. -/
def exchange (s : State) : State :=
  let old := s.cset.active
  let new := imgTake s.cset.bench
  let a := selfId s
  let b := imgModule new
  { s with cset := { s.cset with active := new, bench := old, shadowValid := true, pending := none, swapResult := 0 }
           mem := renumberCells s.mem a b, poison := renumberLines s.poison a b }

/-- R352, R348: the roles change. -/
def changeOwner (s : State) (p : Nat) : State :=
  let o := s.owner
  let s1 := modHostPort { s with owner := p, regs := { s.regs with release := false } } p (fun h => { h with request := false })
  pciEvent (pciEvent (modHostPort s1 o (fun h => { h with pba := [] })) o 0) p 0

/-- R372: after a change of module_id every UP port passes through RECOVERING. -/
def relearn (s : State) : State := seqAll s (upPorts s) (fun s p => portTo s p .recovering)

/-- R352, step 1 and 2: the record of the SET_SWAP goes out on the old owning port, and its context is disabled; none while the record
cannot be written. -/
def recordFirst (s : State) (r : SwapReq) : Option State :=
  match r.issuer with
  | none => some s
  | some (n, i) =>
    if !(hostUp s) then none
    else
      match findCmd s n i with
      | some c =>
        let s1 := recordWrite n i (setCmd s (decided s c .ok 0 (imgSeq s.cset.bench)))
        some (writeDoorbell (modCtx s1 n (fun k => { k with state := .disabled })) n)
      | none => some s

/-- R373: the SET_SWAP completes at its swap point. -/
def endSwap (s : State) (r : SwapReq) : State :=
  match r.issuer with
  | some (n, i) =>
    (match findCmd s n i with
     | some c => failCmd s c .ok 0 (imgSeq s.cset.active)
     | none => s)
  | none => s

/-- The swap point of an admitted substitution whose drain is over. -/
def swapNow (s : State) (r : SwapReq) (plan : List (Nat × Nat) × List (Nat × Nat)) : State :=
  let m := s.cset.bench
  let port := setPort m
  let id := imgModule m
  match (if port = s.owner then some s else recordFirst s r) with
  | none => s
  | some s1 =>
    let s2 := exchange (movePages s1 m plan)
    let s3 := if port = s.owner then s2 else changeOwner s2 port
    let s4 := umpEnd (boundaryFields s s3) rkSwap 0 (swapInfo r.issuer)
    let s5 := allRegions s4 (fun _ x => x)
    endSwap (csetEvent (if id = selfId s then s5 else relearn s5) 1) r

/-- SWAP_POINT (R372, R373). -/
def swapPoint (s : State) : State :=
  match s.cset.pending with
  | some r =>
    if !r.admitted || (drainDiffers s.cset.active s.cset.bench && drainBusy s) then s
    else
      match swapPlan s s.cset.bench with
      | some plan => swapNow s r plan
      | none => refuseSwap s r 0x14
  | none => s

def execSwapPoint (s : State) : Host.Outcome State Fault Refusal := .next (swapPoint s)

end Sys2Proof.Machine
end

