-- ==== Sys2Proof/Machine/Mgmt.lean ====
section
/-! DEFINITION. Barista, the security block and the calendar clock: management messages over MCTP, PLDM and SPDM, the event log, firmware
update and activation, attestation (R419 to R435, R438 to R443). -/

namespace Sys2Proof.Machine

/-- A message that Barista sends. -/
def mgmtSend (s : State) (m : MgmtOut) : State := { s with out := { s.out with mgmt := s.out.mgmt ++ [m] } }

/-- R419: an endpoint that Barista answers on: the host ports' need a ready function. -/
def epAnswers (s : State) (ep : Nat) : Bool :=
  baristaUp s && decide (ep < 3) && (ep == 2 || (hostPortOf s ep).ready)

/-- A message of an endpoint, answered where Barista answers. -/
def onEp (ep : Nat) (f : State → State) (s : State) : State := if epAnswers s ep then f s else s

/-! ### The event log (R421, R422, R443) -/

/-- R422: records written to the ring of 524,288; a full ring loses its oldest 1,024 first. -/
def ringAdd (l : List LogRec) (r : LogRec) : List LogRec := if l.length < 524288 then l ++ [r] else l.drop 1024 ++ [r]

/-- A flush that the Umpire has admitted. -/
def flushLog (s : State) : State :=
  umpEnd { s with mgmt := { s.mgmt with logFlash := s.mgmt.logBuffer.foldl ringAdd s.mgmt.logFlash, logBuffer := [] } } rkLog 0 (0, 0)

/-- R422: 256 records, or one that is 1 s old. -/
def flushDue (s : State) : Bool :=
  decide (256 ≤ s.mgmt.logBuffer.length) ||
  (match s.mgmt.logBuffer with
   | r :: _ => decide (us 1000000 ≤ since s r.time)
   | [] => false)

/-- LOG_FLUSH (R422). -/
def logFlush (s : State) : State :=
  if !(baristaUp s) || !(flushDue s) || umpKnown s rkLog 0 (0, 0) then s
  else
    let s1 := umpAsk s rkLog 0 (0, 0)
    if umpRuns s1 rkLog 0 (0, 0) then flushLog s1 else s1

def execLogFlush (s : State) : Host.Outcome State Fault Refusal := .next (logFlush s)

/-- The records that are still held. -/
def heldLog (s : State) : List LogRec := s.mgmt.logFlash ++ s.mgmt.logBuffer

/-- LOG_SELECT (R443): a write of MGT_LOG_SEL_LO. -/
def logSelect (lo : Nat) (s : State) : State :=
  { s with regs := { s.regs with logSel := w64 (s.regs.logSel.toNat / 2 ^ 32 * 2 ^ 32 + lo % 2 ^ 32) } }

def execLogSelect (lo : Nat) (s : State) : Host.Outcome State Fault Refusal := .next (barWrite s 0x500040 4 lo (logSelect lo))

/-- LOG_READ (R421): 1 to 16 records from a seq that is still held. -/
def logRead (ep first count : Nat) (s : State) : State :=
  let rs := heldLog s
  let held := rs.any (fun r => r.seq.toNat == first)
  let out := if held ∧ 1 ≤ count ∧ count ≤ 16 then (rs.filter (fun r => decide (first ≤ r.seq.toNat))).take count else []
  mgmtSend s (.logRecords ep out)

def execLogRead (ep first count : Nat) (s : State) : Host.Outcome State Fault Refusal := .next (onEp ep (logRead ep first count) s)

/-- WAKE (R416, R421): a wake event in standby or its entry. -/
def wake (ep : Nat) (s : State) : State :=
  let s1 := mgmtSend s (.wakeAck ep)
  match s1.standby with
  | some b => { s1 with standby := some (markWake s1 b 2) }
  | none => s1

def execWake (ep : Nat) (s : State) : Host.Outcome State Fault Refusal := .next (onEp ep (wake ep) s)

/-! ### The calendar (R434, R435, R448) -/

/-- CALENDAR_SET (R435): a write of set to MGT_CAL_CTL. -/
def calendarSet (s : State) : State :=
  let s1 := logEvent s lsBarista 0 0x0060 0xFFFF (s.mgmt.calCount.toNat + 2 ^ 64 * s.regs.calSet.toNat)
  { s1 with mgmt := { s1.mgmt with calCount := s.regs.calSet, calValid := true, lostAt := none } }

def execCalendarSet (s : State) : Host.Outcome State Fault Refusal := .next (barWrite s 0x500030 4 1 calendarSet)

/-- CAL_VBAT_CHANGE (R434, R438, R448): the backup pin enters or leaves its range; a pin that is there already changes nothing. -/
def calVbatChange (inRange : Bool) (s : State) : State :=
  if s.mgmt.backupPin = inRange then s
  else
    let s1 := if s.phase = .off then calendarBack s else s
    let off := s.phase == .off && !inRange
    { s1 with mgmt := { s1.mgmt with backupPin := inRange, lostAt := if off then some (s1.mgmt.lostAt.getD s1.mgmt.calCount) else none } }

def execCalVbatChange (inRange : Bool) (s : State) : Host.Outcome State Fault Refusal := .next (calVbatChange inRange s)

/-! ### MCTP control (R419) -/

/-- The message types that the endpoints support. -/
def mctpTypes : List Nat := [0x00, 0x01, 0x05, 0x06, 0x7E]

/-- The values of a response that a published standard fixes (log entry 15). -/
def opaqueValues (item : Nat) (input : List Nat) : List Nat := (Config.mgmtBytes item input).map BitVec.toNat

/-- SET_ENDPOINT_ID: an endpoint takes the identifier that its bus owner assigns. -/
def setEndpointId (ep eid : Nat) (s : State) : State :=
  mgmtSend { s with mgmt := { s.mgmt with eids := aput s.mgmt.eids ep (eid % 256) } } (.mctp ep 1 [eid % 256])

def execSetEndpointId (ep eid : Nat) (s : State) : Host.Outcome State Fault Refusal := .next (onEp ep (setEndpointId ep eid) s)

def getEndpointId (ep : Nat) (s : State) : State := mgmtSend s (.mctp ep 2 [aget s.mgmt.eids ep 0])
def execGetEndpointId (ep : Nat) (s : State) : Host.Outcome State Fault Refusal := .next (onEp ep (getEndpointId ep) s)

def getEndpointUuid (ep : Nat) (s : State) : State := mgmtSend s (.mctp ep 3 (opaqueValues 3 []))
def execGetEndpointUuid (ep : Nat) (s : State) : Host.Outcome State Fault Refusal := .next (onEp ep (getEndpointUuid ep) s)

/-- GET_MCTP_VERSION_SUPPORT: a message type that is not supported is answered as unsupported. -/
def getMctpVersionSupport (ep t : Nat) (s : State) : State :=
  mgmtSend s (.mctp ep 4 (if mctpTypes.contains t || t == 0xFF then opaqueValues 4 [t] else []))
def execGetMctpVersionSupport (ep msgType : Nat) (s : State) : Host.Outcome State Fault Refusal :=
  .next (onEp ep (getMctpVersionSupport ep msgType) s)

def getMessageTypeSupport (ep : Nat) (s : State) : State := mgmtSend s (.mctp ep 5 mctpTypes)
def execGetMessageTypeSupport (ep : Nat) (s : State) : Host.Outcome State Fault Refusal := .next (onEp ep (getMessageTypeSupport ep) s)

/-- GET_VENDOR_DEFINED_MESSAGE_SUPPORT: one vendor, Grenhar's PCI-SIG identifier (R381). -/
def getVendorDefinedMessageSupport (ep selector : Nat) (s : State) : State :=
  mgmtSend s (.mctp ep 6 (if selector = 0 then [0x1F6C] else []))
def execGetVendorDefinedMessageSupport (ep selector : Nat) (s : State) : Host.Outcome State Fault Refusal :=
  .next (onEp ep (getVendorDefinedMessageSupport ep selector) s)

/-! ### PLDM base and monitoring (R420) -/

def pldmTypes : List Nat := [0, 2, 5]

def getTid (ep : Nat) (s : State) : State := mgmtSend s (.pldm ep 2 [s.mgmt.tid])
def execGetTid (ep : Nat) (s : State) : Host.Outcome State Fault Refusal := .next (onEp ep (getTid ep) s)

def setTid (ep tid : Nat) (s : State) : State := mgmtSend { s with mgmt := { s.mgmt with tid := tid % 256 } } (.pldm ep 1 [])
def execSetTid (ep tid : Nat) (s : State) : Host.Outcome State Fault Refusal := .next (onEp ep (setTid ep tid) s)

def getPldmVersion (ep t : Nat) (s : State) : State :=
  mgmtSend s (if pldmTypes.contains t then .pldm ep 3 (opaqueValues 13 [t]) else .pldmError ep)
def execGetPldmVersion (ep pldmType : Nat) (s : State) : Host.Outcome State Fault Refusal := .next (onEp ep (getPldmVersion ep pldmType) s)

def getPldmTypes (ep : Nat) (s : State) : State := mgmtSend s (.pldm ep 4 pldmTypes)
def execGetPldmTypes (ep : Nat) (s : State) : Host.Outcome State Fault Refusal := .next (onEp ep (getPldmTypes ep) s)

def getPldmCommands (ep t : Nat) (s : State) : State :=
  mgmtSend s (if pldmTypes.contains t then .pldm ep 5 (opaqueValues 15 [t]) else .pldmError ep)
def execGetPldmCommands (ep pldmType : Nat) (s : State) : Host.Outcome State Fault Refusal := .next (onEp ep (getPldmCommands ep pldmType) s)

/-- R420: the sensor identifiers: the temperature sensors of R406, the input, and the rails. -/
def sensorIds : List Nat :=
  (List.range 171).map (· + 1) ++ [0x100, 0x101, 0x102] ++ (List.range 16).map (0x110 + ·) ++ (List.range 16).map (0x120 + ·)
    ++ (List.range 9).map (0x130 + ·)

def getPdrRepositoryInfo (ep : Nat) (s : State) : State := mgmtSend s (.pldm ep 0x50 (opaqueValues 0x50 [sensorIds.length]))
def execGetPdrRepositoryInfo (ep : Nat) (s : State) : Host.Outcome State Fault Refusal := .next (onEp ep (getPdrRepositoryInfo ep) s)

/-- GET_PDR: a sensor's record carries its identifier and, of a temperature sensor, its three thresholds. -/
def getPdr (ep record : Nat) (s : State) : State :=
  mgmtSend s (if sensorIds.contains record then .pldm ep 0x51 (record :: (if record ≤ 171 then sensorLimits (record - 1) else []))
              else .pldmError ep)
def execGetPdr (ep record : Nat) (s : State) : Host.Outcome State Fault Refusal := .next (onEp ep (getPdr ep record) s)

/-- A sensor's reading: temperatures in 1/16 °C; currents and voltage are free values (log entry 58). -/
def sensorValue (s : State) (id : Nat) : Nat :=
  if id ≤ 171 then (aget s.power.temps (id - 1) 0#16).toNat
  else if id = 0x102 then s.power.inputW
  else Config.amount 7 [id, s.localTime.toNat]

/-- GET_SENSOR_READING: enabled or not, and the reading. -/
def getSensorReading (ep sensor : Nat) (s : State) : State :=
  mgmtSend s (if !(sensorIds.contains sensor) then .pldmError ep
              else if s.mgmt.sensorsOff.contains sensor then .pldm ep 0x11 [0]
              else .pldm ep 0x11 [1, sensorValue s sensor])
def execGetSensorReading (ep sensor : Nat) (s : State) : Host.Outcome State Fault Refusal := .next (onEp ep (getSensorReading ep sensor) s)

def setNumericSensorEnable (ep sensor : Nat) (on : Bool) (s : State) : State :=
  if sensorIds.contains sensor then
    mgmtSend { s with mgmt := { s.mgmt with sensorsOff := if on then srem s.mgmt.sensorsOff sensor else sins s.mgmt.sensorsOff sensor } }
      (.pldm ep 0x10 [])
  else mgmtSend s (.pldmError ep)
def execSetNumericSensorEnable (ep sensor : Nat) (enable : Bool) (s : State) : Host.Outcome State Fault Refusal :=
  .next (onEp ep (setNumericSensorEnable ep sensor enable) s)

def setEventReceiver (ep receiver : Nat) (s : State) : State :=
  mgmtSend { s with mgmt := { s.mgmt with receiver := some receiver } } (.pldm ep 0x04 [])
def execSetEventReceiver (ep receiver : Nat) (s : State) : Host.Outcome State Fault Refusal := .next (onEp ep (setEventReceiver ep receiver) s)

/-- POLL_FOR_PLATFORM_EVENT_MESSAGE: events go out as they happen, so none waits (log entry 15). -/
def pollForPlatformEventMessage (ep : Nat) (s : State) : State := mgmtSend s (.pldm ep 0x0B [])
def execPollForPlatformEventMessage (ep : Nat) (s : State) : Host.Outcome State Fault Refusal :=
  .next (onEp ep (pollForPlatformEventMessage ep) s)

/-! ### Firmware images (R425, R426, R429) -/

/-- R425, R426: a staged image as a bank, with whether it verifies. -/
def imageBank (owner : Option (List Byte)) (floor : Nat) (bs : List Byte) : Bank :=
  let pk := (bs.drop 16).take 64
  let head := bs.take 512
  let part := fun i => ((bs.drop (bytesNat bs (96 + 80 * i) 4)).take (bytesNat bs (100 + 80 * i) 4))
  let digest := fun i => (bs.drop (112 + 80 * i)).take 64
  let ok := shake256 pk 64 == Config.maskKeyDigest && Config.slhVerify pk head ((bs.drop 512).take 29792)
    && (match owner with | none => true | some k => Config.slhVerify k head ((bs.drop 30304).take 29792))
    && (List.range 5).all (fun i => shake256 (part i) 64 == digest i) && decide (floor ≤ bytesNat bs 8 4)
  { valid := ok, secVer := bytesNat bs 8 4, digests := (List.range 5).map digest, section4 := mwrite [] 0 ((part 4).take 65536) }

/-- R429: an owner key record: the key of 64 bytes, its own signature, and the enrolled key's. -/
def ownerRecord (s : State) (ep : Nat) (bs : List Byte) : Option (List Byte) :=
  let key := bs.take 64
  let removal := key.all (· == 0)
  let own := removal || Config.slhVerify key key ((bs.drop 64).take 29792)
  let allowed := match s.mgmt.ownerKey with
    | none => !removal && ep == s.owner
    | some k => Config.slhVerify k key ((bs.drop 29856).take 29792)
  if own && allowed && key.length == 64 then some key else none

/-! ### Firmware update (R427) -/

/-- The update in progress of an endpoint. -/
def updateOf (s : State) (ep : Nat) : Option Update := s.mgmt.update.filter (fun u => u.ep == ep)

def putUpdate (s : State) (u : Update) : State := { s with mgmt := { s.mgmt with update := some { u with lastTime := s.localTime } } }

/-- A request that needs an update in progress of its endpoint. -/
def inUpdate (ep : Nat) (f : Update → State → State) (s : State) : State :=
  match updateOf s ep with
  | some u => f u s
  | none => mgmtSend s (.pldmError ep)

def queryDeviceIdentifiers (ep : Nat) (s : State) : State := mgmtSend s (.pldm ep 0x501 [0x1F6C, 0x0250, 0x1F6C, 0x0001])
def execQueryDeviceIdentifiers (ep : Nat) (s : State) : Host.Outcome State Fault Refusal := .next (onEp ep (queryDeviceIdentifiers ep) s)

/-- GET_FIRMWARE_PARAMETERS: component 0x0001 with the versions of the active and, where it is valid, of the other bank. -/
def getFirmwareParameters (ep : Nat) (s : State) : State :=
  let o := bankOf s (1 - s.mgmt.activeBank)
  mgmtSend s (.pldm ep 0x502 ([1, (bankOf s s.mgmt.activeBank).secVer] ++ (if o.valid then [o.secVer] else [])))
def execGetFirmwareParameters (ep : Nat) (s : State) : Host.Outcome State Fault Refusal := .next (onEp ep (getFirmwareParameters ep) s)

/-- REQUEST_UPDATE (R427): one agent at a time; the bank that is not active becomes not valid. -/
def requestUpdate (ep : Nat) (s : State) : State :=
  if s.mgmt.update.isSome then mgmtSend s (.alreadyInUpdateMode ep)
  else
    let b := 1 - s.mgmt.activeBank
    let s1 := putUpdate (setBank s b { bankOf s b with valid := false }) { ep := ep, bank := b }
    mgmtSend s1 (.pldm ep 0x510 [])
def execRequestUpdate (ep : Nat) (s : State) : Host.Outcome State Fault Refusal := .next (onEp ep (requestUpdate ep) s)

def passComponentTable (ep component : Nat) (s : State) : State :=
  inUpdate ep (fun u s => mgmtSend (putUpdate s u) (.pldm ep 0x513 [component])) s
def execPassComponentTable (ep component : Nat) (s : State) : Host.Outcome State Fault Refusal :=
  .next (onEp ep (passComponentTable ep component) s)

/-- R427: a slice of 1 MiB. -/
def sliceSize : Nat := 1048576

/-- The next slice that Barista asks for. -/
def askSlice (s : State) (u : Update) : State :=
  if u.data.length < u.size then mgmtSend s (.requestFirmwareData u.ep u.data.length (min sliceSize (u.size - u.data.length))) else s

/-- UPDATE_COMPONENT (R427, R429): the image, 0x0001, of at most 32 MiB, or an owner key record, 0x0002. -/
def updateComponent (ep component size : Nat) (s : State) : State :=
  inUpdate ep (fun u s =>
    if (component = 1 ∨ component = 2) ∧ size ≤ 2 ^ 25 then
      let u1 := { u with component := some component, size := size, data := [], slice := none, verified := none }
      askSlice (mgmtSend (putUpdate s u1) (.pldm ep 0x514 [])) u1
    else mgmtSend s (.pldmError ep)) s
def execUpdateComponent (ep component size : Nat) (s : State) : Host.Outcome State Fault Refusal :=
  .next (onEp ep (updateComponent ep component size) s)

/-- A slice that the Umpire has admitted is written to flash. -/
def writeSlice (s : State) : State :=
  let s1 := umpEnd s rkStaging 0 (0, 0)
  match s.mgmt.update with
  | some u =>
    (match u.slice with
     | some bs =>
       let u1 := { u with data := (u.data ++ bs).take u.size, slice := none }
       askSlice (putUpdate s1 u1) u1
     | none => s1)
  | none => s1

/-- FIRMWARE_DATA (R427): data that Barista asked for. -/
def firmwareData (ep : Nat) (bs : List Byte) (s : State) : State :=
  match updateOf s ep with
  | some u =>
    if u.component.isNone || u.slice.isSome || u.size ≤ u.data.length then s
    else
      let s1 := putUpdate s { u with slice := some (bs.take (min sliceSize (u.size - u.data.length))) }
      let s2 := umpAsk s1 rkStaging 0 (0, 0)
      if umpRuns s2 rkStaging 0 (0, 0) then writeSlice s2 else s2
  | none => s
def execFirmwareData (ep : Nat) (data : List Byte) (s : State) : Host.Outcome State Fault Refusal :=
  .next (onEp ep (firmwareData ep data) s)

/-- R427, step 3: the outcome of a transfer. -/
def endTransfer (s : State) (u : Update) (ok : Bool) : State :=
  let s1 := putUpdate s { u with component := none, data := [], verified := some ok }
  let s2 := mgmtSend s1 (.verifyComplete u.ep ok)
  if ok then mgmtSend s2 (.applyComplete u.ep) else s2

/-- TRANSFER_COMPLETE (R426, R427, R429, R439). -/
def transferComplete (ep : Nat) (s : State) : State :=
  inUpdate ep (fun u s =>
    match u.component with
    | some 1 =>
      let b := imageBank s.mgmt.ownerKey s.mgmt.floor u.data
      let ok := b.valid && u.data.length == u.size
      let s1 := setBank s u.bank { b with valid := ok }
      endTransfer (if ok then logEvent (mgmtEvent s1 0) lsBarista 0 0x0050 0xFFFF u.bank else s1) u ok
    | some _ =>
      (match ownerRecord s ep u.data with
       | some k => endTransfer { s with mgmt := { s.mgmt with stagedOwner := some k } } u true
       | none => endTransfer s u false)
    | none => mgmtSend s (.pldmError ep)) s
def execTransferComplete (ep : Nat) (s : State) : Host.Outcome State Fault Refusal := .next (onEp ep (transferComplete ep) s)

/-! ### Activation (R428, R440) -/

/-- The staged bank. -/
def stagedBank (s : State) : Nat := 1 - s.mgmt.activeBank

/-- R428: an activation that the Umpire has admitted: a module reset from the staged bank. -/
def activateNow (s : State) : State :=
  resetModule { s with mgmt := { s.mgmt with activating := some (stagedBank s) } } mrActivation true

/-- R428: an activation of a valid staged bank is requested. -/
def requestActivation (s : State) : State :=
  if !((bankOf s (stagedBank s)).valid) || umpKnown s rkActivate 0 (0, 0) then s
  else
    let s1 := umpAsk s rkActivate 0 (0, 0)
    if umpRuns s1 rkActivate 0 (0, 0) then activateNow s1 else s1

/-- FW_ACTIVATE (R428, R440): a write of activate to MGT_FW_CTL. -/
def fwActivate (s : State) : State := requestActivation s

def execFwActivate (s : State) : Host.Outcome State Fault Refusal := .next (barWrite s 0x50000C 4 1 fwActivate)

/-- CANCEL_PENDING (R440): a write of cancel_pending to MGT_FW_CTL. -/
def cancelPending (s : State) : State := { s with mgmt := { s.mgmt with pendingBank := none } }

def execCancelPending (s : State) : Host.Outcome State Fault Refusal := .next (barWrite s 0x50000C 4 2 cancelPending)

/-- ACTIVATE_FIRMWARE (R428): now, or at the next reset. The update is over. -/
def activateFirmware (ep : Nat) (now : Bool) (s : State) : State :=
  if !((bankOf s (stagedBank s)).valid) then mgmtSend s (.pldmError ep)
  else
    let s1 := mgmtSend { s with mgmt := { s.mgmt with update := none } } (.pldm ep 0x51A [])
    if now then requestActivation s1 else { s1 with mgmt := { s1.mgmt with pendingBank := some (stagedBank s) } }
def execActivateFirmware (ep : Nat) (selfContained : Bool) (s : State) : Host.Outcome State Fault Refusal :=
  .next (onEp ep (activateFirmware ep selfContained) s)

/-- GET_STATUS: whether an update is in progress, and how far its transfer is. -/
def getStatus (ep : Nat) (s : State) : State :=
  mgmtSend s (.pldm ep 0x51B (match s.mgmt.update with | some u => [1, u.data.length] | none => [0]))
def execGetStatus (ep : Nat) (s : State) : Host.Outcome State Fault Refusal := .next (onEp ep (getStatus ep) s)

/-- The Umpire without the staging slice of an update that ends. -/
def dropStaging (s : State) : State := umpEnd s rkStaging 0 (0, 0)

/-- CANCEL_UPDATE_COMPONENT (R427). -/
def cancelUpdateComponent (ep : Nat) (s : State) : State :=
  inUpdate ep (fun u s => mgmtSend (putUpdate (dropStaging s) { u with component := none, data := [], slice := none }) (.pldm ep 0x51C [])) s
def execCancelUpdateComponent (ep : Nat) (s : State) : Host.Outcome State Fault Refusal := .next (onEp ep (cancelUpdateComponent ep) s)

/-- CANCEL_UPDATE (R427). -/
def cancelUpdate (ep : Nat) (s : State) : State :=
  inUpdate ep (fun _ s => mgmtSend (dropStaging { s with mgmt := { s.mgmt with update := none } }) (.pldm ep 0x51D [])) s
def execCancelUpdate (ep : Nat) (s : State) : Host.Outcome State Fault Refusal := .next (onEp ep (cancelUpdate ep) s)

/-- UPDATE_TIMEOUT (R427): the agent has been silent for 60 s. -/
def updateTimeout (s : State) : State :=
  match s.mgmt.update with
  | some u => if decide (us 60000000 ≤ since s u.lastTime) then dropStaging { s with mgmt := { s.mgmt with update := none } } else s
  | none => s
def execUpdateTimeout (s : State) : Host.Outcome State Fault Refusal := .next (updateTimeout s)

/-! ### SPDM (R430 to R432) -/

/-- The endpoint of an SPDM transport: a DOE mailbox lies on its host port. -/
def trAnswers (s : State) (tr : Nat) : Bool :=
  if tr < 2 then baristaUp s && (hostPortOf s tr).ready else epAnswers s (tr - 2)

def spdmSend (s : State) (tr item : Nat) (bs : List Byte) : State := mgmtSend s (.spdm tr item bs)
def spdmFail (s : State) (tr item : Nat) : State := mgmtSend s (.spdmError tr item)

/-- How far a transport's negotiation has come: 1 version, 2 capabilities, 3 algorithms. -/
def spdmLevel (s : State) (tr : Nat) : Nat := aget s.mgmt.spdmState tr 0

def setLevel (s : State) (tr n : Nat) : State := { s with mgmt := { s.mgmt with spdmState := aput s.mgmt.spdmState tr n } }

/-- A request other than GET_VERSION: an error where the identity is not there (R430), or before the negotiation that it needs (log entry
14). -/
def spdmReq (tr item level : Nat) (f : State → State) (s : State) : State :=
  if !(trAnswers s tr) then s
  else if !s.mgmt.identityOk || spdmLevel s tr < level then spdmFail s tr item
  else f s

/-- GET_VERSION. -/
def getVersion (tr : Nat) (s : State) : State :=
  if trAnswers s tr then spdmSend (setLevel s tr 1) tr 0x84 (Config.securityBytes 0x84 []) else s
def execGetVersion (tr : Nat) (s : State) : Host.Outcome State Fault Refusal := .next (getVersion tr s)

def getCapabilities (tr : Nat) (s : State) : State := spdmSend (setLevel s tr 2) tr 0xE1 (Config.securityBytes 0xE1 [])
def execGetCapabilities (tr : Nat) (s : State) : Host.Outcome State Fault Refusal := .next (spdmReq tr 0xE1 1 (getCapabilities tr) s)

/-- NEGOTIATE_ALGORITHMS: the four algorithms of R431, numbered 0 to 3 in its order, must all be offered. -/
def negotiateAlgorithms (tr : Nat) (algorithms : List Nat) (s : State) : State :=
  if (List.range 4).all algorithms.contains then spdmSend (setLevel s tr 3) tr 0xE3 [0, 1, 2, 3] else spdmFail s tr 0xE3
def execNegotiateAlgorithms (tr : Nat) (algorithms : List Nat) (s : State) : Host.Outcome State Fault Refusal :=
  .next (spdmReq tr 0xE3 2 (negotiateAlgorithms tr algorithms) s)

/-- The certificate chain of slot 0 (R430). -/
def certChain : List Byte := Config.securityBytes 1 Config.pufSeed

def getDigests (tr : Nat) (s : State) : State := spdmSend s tr 0x81 (Config.securityBytes 2 certChain)
def execGetDigests (tr : Nat) (s : State) : Host.Outcome State Fault Refusal := .next (spdmReq tr 0x81 3 (getDigests tr) s)

/-- GET_CERTIFICATE: slot 0 only. -/
def getCertificate (tr slot offset length : Nat) (s : State) : State :=
  if slot = 0 then spdmSend s tr 0x82 ((certChain.drop offset).take length) else spdmFail s tr 0x82
def execGetCertificate (tr slot offset length : Nat) (s : State) : Host.Outcome State Fault Refusal :=
  .next (spdmReq tr 0x82 3 (getCertificate tr slot offset length) s)

def challenge (tr slot : Nat) (nonce : List Byte) (s : State) : State :=
  if slot = 0 then spdmSend s tr 0x83 (Config.securityBytes 3 (certChain ++ nonce)) else spdmFail s tr 0x83
def execChallenge (tr slot : Nat) (nonce : List Byte) (s : State) : Host.Outcome State Fault Refusal :=
  .next (spdmReq tr 0x83 3 (challenge tr slot nonce) s)

/-- The sessions of a transport, and one of them. -/
def sessionsOf (s : State) (tr : Nat) : List Session := s.mgmt.sessions.filter (fun x => x.transport == tr)
def findSession (s : State) (tr id : Nat) : Option Session := (sessionsOf s tr).find? (fun x => x.id == id)
def otherSessions (s : State) (tr id : Nat) : List Session := s.mgmt.sessions.filter (fun x => !(x.transport == tr && x.id == id))
def putSession (s : State) (x : Session) : State :=
  { s with mgmt := { s.mgmt with sessions := otherSessions s x.transport x.id ++ [x] } }

/-- KEY_EXCHANGE: at most four sessions per transport. -/
def keyExchange (tr id : Nat) (exchange : List Byte) (s : State) : State :=
  if (sessionsOf s tr).length < 4 ∧ (findSession s tr id).isNone then
    spdmSend (putSession s { transport := tr, id := id }) tr 0xE4 (Config.securityBytes 4 exchange)
  else spdmFail s tr 0xE4
def execKeyExchange (tr session : Nat) (exchange : List Byte) (s : State) : Host.Outcome State Fault Refusal :=
  .next (spdmReq tr 0xE4 3 (keyExchange tr session exchange) s)

/-- FINISH: the session is established where the requester's verify data are right. -/
def finish (tr id : Nat) (verifyData : List Byte) (s : State) : State :=
  match findSession s tr id with
  | some x =>
    if x.established then spdmFail s tr 0xE5
    else if verifyData = Config.securityBytes 5 (leBytes 4 id) then
      spdmSend (putSession s { x with established := true }) tr 0xE5 (Config.securityBytes 6 (leBytes 4 id))
    else spdmFail { s with mgmt := { s.mgmt with sessions := otherSessions s tr id } } tr 0xE5
  | none => spdmFail s tr 0xE5
def execFinish (tr session : Nat) (verifyData : List Byte) (s : State) : Host.Outcome State Fault Refusal :=
  .next (spdmReq tr 0xE5 3 (finish tr session verifyData) s)

/-- A request inside an established session. -/
def inSession (tr id item : Nat) (f : Session → State → State) (s : State) : State :=
  match findSession s tr id with
  | some x => if x.established then f x s else spdmFail s tr item
  | none => spdmFail s tr item

def heartbeat (tr id : Nat) (s : State) : State := inSession tr id 0xE8 (fun _ s => spdmSend s tr 0xE8 []) s
def execHeartbeat (tr session : Nat) (s : State) : Host.Outcome State Fault Refusal := .next (spdmReq tr 0xE8 3 (heartbeat tr session) s)

/-- KEY_UPDATE: operations 1 and 2 update keys, and 3 verifies them. -/
def keyUpdate (tr id op : Nat) (s : State) : State :=
  inSession tr id 0xE9 (fun x s =>
    if op = 1 ∨ op = 2 then spdmSend (putSession s { x with keyGen := x.keyGen + 1 }) tr 0xE9 []
    else if op = 3 then spdmSend s tr 0xE9 []
    else spdmFail s tr 0xE9) s
def execKeyUpdate (tr session op : Nat) (s : State) : Host.Outcome State Fault Refusal := .next (spdmReq tr 0xE9 3 (keyUpdate tr session op) s)

def endSession (tr id : Nat) (s : State) : State :=
  inSession tr id 0xEC (fun _ s => spdmSend { s with mgmt := { s.mgmt with sessions := otherSessions s tr id } } tr 0xEC []) s
def execEndSession (tr session : Nat) (s : State) : Host.Outcome State Fault Refusal := .next (spdmReq tr 0xEC 3 (endSession tr session) s)

/-! ### Reports (R432) -/

/-- A legal range of a report. -/
def reportRange (s : State) (r : Nat × Nat) : Bool :=
  r.1 % 64 == 0 && r.2 % 64 == 0 && decide (r.2 ≤ 2 ^ 32) && ownCarafe s r.1 && decide (gaOff r.1 + r.2 ≤ 2 ^ 39)

/-- A measurement: index, 15 reserved bytes, digest. -/
def measurement (i : Nat) (d : List Byte) : List Byte := leBytes 1 i ++ leBytes 15 0 ++ d

/-- The report without its signature. -/
def reportBody (s : State) (nonce : List Byte) (ranges : List (Nat × Nat)) : List Byte :=
  let b := bankOf s s.mgmt.activeBank
  let ms := ((List.range 5).map (fun i => measurement i (b.digests.getD i []))).flatten
    ++ measurement 16 (shake256 (mread s.cset.active 0 (imgLength s.cset.active)) 64)
    ++ ((List.range ranges.length).map (fun i => let r := ranges.getD i (0, 0); measurement (32 + i) (rangeDigest s.mem r.1 r.2))).flatten
  leBytes 4 0x52544847 ++ leBytes 2 1 ++ leBytes 2 (6 + ranges.length) ++ nonce ++ leBytes 8 (calStamp s).toNat
    ++ leBytes 8 s.localTime.toNat ++ leBytes 4 s.links.incarnation.toNat ++ leBytes 4 b.secVer ++ ms

/-- REPORT (R432): pages that are EVICTED are recalled; FREE, LOST or poisoned lines make the response an error. -/
def report (tr : Nat) (nonce : List Byte) (ranges : List (Nat × Nat)) (s : State) : State :=
  if nonce.length ≠ 32 ∨ 8 < ranges.length ∨ !(ranges.all (reportRange s)) then spdmFail s tr 0xFE
  else
    match apPages s (ranges.flatMap (fun r => rangePages r.1 r.2)) with
    | .here s1 =>
      if (linesOfAll ranges).any s1.poison.contains then spdmFail s1 tr 0xFE
      else
        let body := reportBody s1 nonce ranges
        spdmSend s1 tr 0xFE (body ++ Config.securityBytes 7 body)
    | _ => spdmFail s tr 0xFE
def execReport (tr : Nat) (nonce : List Byte) (ranges : List (Nat × Nat)) (s : State) : Host.Outcome State Fault Refusal :=
  .next (spdmReq tr 0xFE 3 (report tr nonce ranges) s)

end Sys2Proof.Machine
end

