-- ==== Sys2Proof/Machine/Admit.lean ====
section
/-! DEFINITION. UMPIRE_ADMIT: what the admission of a queued activity starts (R436, R437). -/

namespace Sys2Proof.Machine

/-- What an admitted activity does at once. Retirements, snapshots and patrol slices go on with their own rows. -/
def startActivity (s : State) (a : Activity) : State :=
  match a.rank with
  | 2 => runChannel s a.scope
  | 3 => if portUp s a.scope then portTo s a.scope .recovering else umpEnd s rkLink a.scope (0, 0)
  | 4 => recalibrate s a.info.1
  | 5 => flushLog s
  | 7 => swapAdmitted s
  | 8 => writeSlice s
  | 9 => activateNow s
  | _ => s

/-- UMPIRE_ADMIT (R437). -/
def umpireAdmit (s : State) : State :=
  match umpNext s with
  | some a => startActivity (umpMove s a) a
  | none => s

def execUmpireAdmit (s : State) : Host.Outcome State Fault Refusal := .next (umpireAdmit s)

end Sys2Proof.Machine
end

