-- ==== Sys2Proof/Machine/Regs.lean ====
section
/-! DEFINITION. The register map of BAR0: what each register reads, and what a write to it does (R7 to R10, R343, R344, R375, and the
register tables of every chapter). -/

namespace Sys2Proof.Machine

/-! ### Helpers -/

def b2n (b : Bool) : Nat := if b then 1 else 0

def lo32 (a : W64) : Nat := a.toNat % 2 ^ 32
def hi32 (a : W64) : Nat := a.toNat / 2 ^ 32

/-- A 64-bit value with its low or its high half written; the low `k` bits are reserved. -/
def putLo (a : W64) (v k : Nat) : W64 := w64 (hi32 a * 2 ^ 32 + v % 2 ^ 32 / 2 ^ k * 2 ^ k)
def putHi (a : W64) (v : Nat) : W64 := w64 (v % 2 ^ 32 * 2 ^ 32 + lo32 a)

/-- R7, code W1C. -/
def w1c (e : W32) (v : Nat) : W32 := e &&& ~~~(w32 v)

/-- The place of an offset in a table of words: its index, where it lies in it. -/
def idxIn (o base n : Nat) : Option Nat := if base ≤ o ∧ o < base + 4 * n ∧ o % 4 = 0 then some ((o - base) / 4) else none

/-- Words of a list of bytes. -/
def wordAt (bs : List Byte) (i : Nat) : Nat := leNat ((bs.drop (4 * i)).take 4)

/-! ### Reads -/

/-- HUB (R282, R338, R341, R381, R383). -/
def readHub (s : State) (o : Nat) : Nat :=
  match o with
  | 0x00 => 0x1F6C + 2 ^ 16 * 0x0250
  | 0x04 => 0xB0 + 2 ^ 8 * 0x01
  | 0x14 => s.regs.svcMode.toNat
  | 0x18 => lo32 s.localTime
  | 0x1C => s.timeLatch.toNat
  | 0x20 => b2n s.recov.refereeHeld + 2 * b2n s.recov.baristaHeld + 4 * b2n s.recov.standingIn + 2 ^ 8 * min 255 s.recov.restarts
      + 2 ^ 16 * min 65535 s.recov.logDropped
  | 0x24 => s.recov.evt.toNat
  | 0x28 => s.recov.evtCnt.toNat
  | _ => 0

/-- CSET (R376 to R380). A check or load takes no time here, so busy reads 0. -/
def readCset (s : State) (o : Nat) : Nat :=
  match o with
  | 0x04 => b2n s.cset.shadowValid + 4 * b2n s.cset.pending.isSome + 8 * b2n s.cset.flashBad + 2 ^ 8 * s.cset.checkResult
      + 2 ^ 16 * s.cset.swapResult
  | 0x08 => lo32 s.cset.loadAddr
  | 0x0C => hi32 s.cset.loadAddr
  | 0x18 => s.cset.evt.toNat
  | 0x1C => s.cset.evtCnt.toNat
  | _ => match idxIn o 0x20 8 with
    | some n => (s.cset.admin.toNat / 2 ^ (32 * n)) % 2 ^ 32
    | none => 0

/-- The code of a link state (R357). -/
def hostLinkCode : HostLink → Nat
  | .down => 0
  | .up => 1
  | .recovering => 2
  | .lowPower => 3

/-- R357, R409. -/
def portStat (s : State) (p : Nat) : Nat :=
  let h := hostPortOf s p
  b2n (p == s.owner && s.phase != .bootFailed) + 2 * hostLinkCode h.link + 8 * h.speed + 2 ^ 6 * h.width + 2 ^ 11 * b2n h.flitMode
    + 2 ^ 12 * b2n h.lost + 2 ^ 13 * b2n (!h.streams.isEmpty)

/-- PCI (R357 to R362), as the function of a port reads it. -/
def readPci (s : State) (p o : Nat) : Nat :=
  match o with
  | 0x00 => portStat s 0
  | 0x04 => portStat s 1
  | 0x08 => (hostPortOf s 0).evt.toNat
  | 0x0C => (hostPortOf s 1).evt.toNat
  | 0x10 => (hostPortOf s 0).evtCnt.toNat
  | 0x14 => (hostPortOf s 1).evtCnt.toNat
  | 0x18 => b2n (s.regs.release && p == s.owner)
  | 0x1C => b2n ((hostPortOf s p).request && p != s.owner)
  | 0x20 => 2 ^ 25 * s.regs.apertureLo.toNat
  | 0x24 => s.regs.apertureHi.toNat
  | 0x28 => b2n (hostPortOf s 0).require
  | 0x2C => b2n (hostPortOf s 1).require
  | _ => match idxIn o 0x40 8 with
    | some n => (aget s.regs.sysVec n 0#32).toNat
    | none => 0

/-- The code of a residency state (R272). -/
def resCode : ResState → Nat
  | .resident => 0
  | .saving => 1
  | .swapped => 2
  | .restoring => 3

/-- R257. -/
def ctxStat (s : State) (n : Nat) : Nat :=
  ctxStateCode (ctxState s n) + 8 * haltCode (ctxOf s n).haltReason + 2 ^ 6 * inFlight s n

/-- One context (R254 to R259, R283 to R286, R339, R340, R384, R385). -/
def readCtx (s : State) (n o : Nat) : Nat :=
  let c := ctxOf s n
  match o with
  | 0x00 => lo32 c.sqAddr
  | 0x04 => hi32 c.sqAddr
  | 0x08 => lo32 c.cqAddr
  | 0x0C => hi32 c.cqAddr
  | 0x10 => lo32 c.dbAddr
  | 0x14 => hi32 c.dbAddr
  | 0x18 => c.sqLog2 + 2 ^ 5 * c.cqLog2 + 2 ^ 10 * c.svc + 2 ^ 12 * c.msixVector + 2 ^ 23 * c.irqHoldoff
  | 0x20 => ctxStat s n
  | 0x24 => c.haltIdx.toNat
  | 0x28 => c.evt.toNat
  | 0x2C => c.evtCnt.toNat
  | 0x30 => resCode c.res + 4 * b2n (!(conflicting s n).isEmpty) + 8 * b2n c.marked + 2 ^ 16 * c.evictions.toNat
  | 0x34 => c.saveLo.toNat
  | 0x38 => c.saveHi.toNat
  | 0x3C => c.marksLo.toNat
  | 0x40 => c.marksHi.toNat
  | 0x44 => c.overBudget.toNat + 2 ^ 16 * c.overCost.toNat
  | 0x48 => c.snapInt.toNat % 2 ^ 22 + 2 ^ 22 * b2n c.snapDue
  | 0x4C => c.snapCost.toNat
  | 0x50 => c.snapMtbf.toNat
  | 0x54 => c.aclLo.toNat
  | 0x58 => c.aclHi.toNat
  | 0x5C => b2n c.aclAccepted + 2 * b2n c.aclRefused + 4 * b2n c.aclIgnored
  | 0x60 => lo32 c.keyReg
  | 0x64 => hi32 c.keyReg
  | _ => 0

/-- R222: what a spare stands for. -/
def spareCode : Spare → Nat
  | .free => 0x7F
  | .retired => 0x7E
  | .standsFor c => c

/-- R222. -/
def carafeStat (s : State) (d : Nat) : Nat :=
  let k := carafeOf s d
  spareCode k.s0 + 2 ^ 7 * spareCode k.s1 + 2 ^ 14 * k.remapped.getD 0x7F + 2 ^ 21 * b2n k.remapped.isSome + 2 ^ 22 * b2n k.failed
    + 2 ^ 23 * b2n k.busy.isSome + 2 ^ 24 * b2n (retireFull k) + 2 ^ 25 * k.throttle

/-- R224. -/
def retireEntry0 (s : State) : Nat :=
  match s.retireQ with
  | (p, d, r) :: _ => p % 2 ^ 23 + 2 ^ 23 * (d % 16) + 2 ^ 27 * (r % 4) + 2 ^ 31
  | [] => 0

/-- MEM (R118, R147, R148, R222 to R224). -/
def readMem (s : State) (o : Nat) : Nat :=
  match o with
  | 0x00 => b2n s.regs.walkForce
  | 0x10 => lo32 s.regs.branchDir + b2n s.regs.branchDirOn
  | 0x14 => hi32 s.regs.branchDir
  | 0x18 => s.regs.stateCeil
  | 0x1C => s.branches.length
  | 0x20 => s.retireQ.length + 2 ^ 9 * b2n s.retireOvf
  | 0x24 => retireEntry0 s
  | 0x2C => s.retireOvfCnt.toNat
  | _ =>
    match idxIn o 0x100 16, idxIn o 0x140 16, idxIn o 0x180 16 with
    | some d, _, _ => carafeStat s d
    | _, some d, _ => (carafeOf s d).evt.toNat
    | _, _, some d => (carafeOf s d).evtCnt.toNat
    | _, _, _ => 0

/-- R290, R315. -/
def portStateCode : PortState → Nat
  | .down => 0
  | .training => 1
  | .up => 2
  | .recovering => 3
  | .disabled => 4

def lnkPortStat (s : State) (p : Nat) : Nat :=
  let x := portOf s p
  portStateCode x.state + 8 * (x.peer % 2 ^ 14) + 2 ^ 17 * b2n x.peerValid

/-- LNK (R314 to R319). -/
def readLnk (s : State) (o : Nat) : Nat :=
  match o with
  | 0x400 => s.regs.routeIdx.toNat
  | 0x404 => s.regs.routeData0.toNat
  | 0x408 => s.regs.routeData1.toNat
  | 0x410 => s.regs.dropMax
  | 0x420 => s.regs.deadModule.toNat
  | 0x424 => s.links.evt.toNat
  | 0x428 => s.links.evtCnt.toNat
  | 0x42C => s.links.lastDead % 2 ^ 14
  | _ =>
    let x := portOf s (o % 0x80 / 4)
    match o / 0x80 with
    | 0 => b2n x.enable
    | 1 => lnkPortStat s (o % 0x80 / 4)
    | 2 => x.evt.toNat
    | 3 => x.evtCnt.toNat
    | 4 => x.replayCnt.toNat
    | _ => 0

/-- R405: the region selected. -/
def selRegion (s : State) : Nat := 4 * (s.regs.regionSel.toNat % 16) + s.regs.regionSel.toNat / 16

/-- R405. -/
def regionStat (s : State) (r : Nat) : Nat :=
  let x := regionOf s r
  x.setMhz % 2 ^ 11 + 2 ^ 11 * (x.effMhz % 2 ^ 11) + 2 ^ 22 * b2n (regionReserved s r) + 2 ^ 23 * b2n x.gated + 2 ^ 24 * x.duty
    + 2 ^ 28 * b2n (decide (x.throttle < 1500))

/-- PWR (R402 to R406). -/
def readPwr (s : State) (o : Nat) : Nat :=
  match o with
  | 0x00 => profile s % 4 + 4 * b2n s.power.emergency + 8 * b2n s.power.overBudget
      + 16 * b2n ((List.range 64).any (fun r => decide (1250 < (regionOf s r).setMhz))) + 32 * b2n s.power.tripped
      + 64 * b2n s.power.coolantHot
  | 0x04 => s.power.evt.toNat
  | 0x08 => s.power.evtCnt.toNat
  | 0x0C => s.power.inputW % 2 ^ 16 + 2 ^ 16 * budgetW (profile s)
  | 0x10 => s.regs.regionSel.toNat
  | 0x14 => regionStat s (selRegion s)
  | 0x18 => s.regs.tempSel
  | 0x1C => (aget s.power.temps s.regs.tempSel 0#16).toNat + 2 ^ 16 * b2n (aget? s.power.temps s.regs.tempSel).isSome
  | _ => 0

/-- R423: the 64 bytes of a record. -/
def logBytes (r : LogRec) : List Byte :=
  leBytes 8 r.seq.toNat ++ leBytes 8 r.calStamp.toNat ++ leBytes 8 r.time.toNat ++ leBytes 4 r.incarn.toNat ++ leBytes 1 r.source
    ++ leBytes 1 r.severity ++ leBytes 2 r.code ++ leBytes 2 r.unit ++ leBytes 6 0 ++ leBytes 24 r.data

/-- R443: the selected record, or 64 zero bytes. -/
def logShown (s : State) : List Byte :=
  match (heldLog s).find? (fun r => r.seq == s.regs.logSel) with
  | some r => logBytes r
  | none => List.replicate 64 0

/-- R442: a bit for each rank of a list of activities. -/
def rankBits (as : List Activity) : Nat :=
  ((List.range 10).filter (fun i => as.any (fun a => a.rank == i + 1))).foldl (fun v i => v + 2 ^ i) 0

/-- MGT (R438 to R443). -/
def readMgt (s : State) (o : Nat) : Nat :=
  let g := s.mgmt
  match o with
  | 0x00 => b2n (baristaUp s) + 2 * b2n g.sideband + 4 * g.activeBank + 8 * b2n g.fallback + 16 * b2n g.bank0.valid + 32 * b2n g.bank1.valid
      + 64 * b2n g.pendingBank.isSome + 128 * b2n g.ownerKey.isSome + 256 * b2n g.identityOk + 512 * b2n g.calValid
      + 1024 * b2n g.backupPin + 2048 * b2n g.update.isSome
  | 0x04 => g.evt.toNat
  | 0x08 => g.evtCnt.toNat
  | 0x10 => g.floor
  | 0x20 => lo32 g.calCount
  | 0x24 => g.calLatch.toNat
  | 0x28 => lo32 s.regs.calSet
  | 0x2C => hi32 s.regs.calSet
  | 0x38 => rankBits g.running + 2 ^ 16 * rankBits g.queued
  | 0x40 => lo32 s.regs.logSel
  | 0x44 => hi32 s.regs.logSel
  | 0x48 => lo32 g.newestSeq
  | 0x4C => hi32 g.newestSeq
  | _ => match idxIn o 0x80 16 with
    | some n => wordAt (logShown s) n
    | none => 0

/-- R52: the cluster selected; R119: its region. -/
def selCluster (s : State) : Nat :=
  let v := s.regs.clusterSel.toNat
  32 * (v % 16) + 8 * (v / 16 % 4) + v / 64

/-- DBG (R52, R119, R363). -/
def readDbg (s : State) (o : Nat) : Nat :=
  let k := clusterOf s (selCluster s)
  let r := regionOf s (selCluster s / 8)
  match o with
  | 0x00 => s.regs.clusterSel.toNat
  | 0x10 => k.cnt0.toNat
  | 0x14 => k.cnt1.toNat
  | 0x18 => k.cnt2.toNat
  | 0x1C => k.cnt3.toNat
  | 0x20 => r.cntHits.toNat
  | 0x24 => r.cntFills.toNat
  | 0x28 => r.cntGens.toNat
  | 0x2C => r.cntPages.toNat
  | 0x40 => b2n s.regs.traceOn + 2 * s.regs.traceEvents.toNat + 2 ^ 16 * s.regs.traceCtx.toNat + 2 ^ 24 * b2n s.regs.traceFilter
  | 0x44 => s.trace.head.toNat
  | 0x48 => s.trace.dropped.toNat
  | _ => 0

/-- R343: the MSI-X table and pending bits of a port's function. An entry never written is masked (log entry 4). -/
def readMsix (s : State) (p o : Nat) : Nat :=
  let h := hostPortOf s p
  if o < 0x8000 then ((aget h.msixTable (o / 16) (1#128 <<< 96)).toNat / 2 ^ (32 * (o % 16 / 4))) % 2 ^ 32
  else if o < 0x8100 then ((List.range 32).filter (fun i => h.pba.contains (8 * (o - 0x8000) + i))).foldl (fun v i => v + 2 ^ i) 0
  else 0

/-- The word at an offset of BAR0 as the owning function reads it (R343, R375). -/
def readWord (s : State) (p o : Nat) : Nat :=
  if o < 0x10000 then readHub s o
  else if o < 0x20000 then readCset s (o - 0x10000)
  else if o < 0x30000 then mnat (sealImage s.cset.bench) (o - 0x20000) 4
  else if o < 0x40000 then mnat s.cset.active (o - 0x30000) 4
  else if o < 0x50000 then readPci s p (o - 0x40000)
  else if 0x100000 ≤ o ∧ o < 0x110000 then readCtx s ((o - 0x100000) / 0x100) (o % 0x100)
  else if 0x200000 ≤ o ∧ o < 0x210000 then readMem s (o - 0x200000)
  else if 0x300000 ≤ o ∧ o < 0x310000 then readLnk s (o - 0x300000)
  else if 0x400000 ≤ o ∧ o < 0x410000 then readPwr s (o - 0x400000)
  else if 0x500000 ≤ o ∧ o < 0x510000 then readMgt s (o - 0x500000)
  else if 0x600000 ≤ o ∧ o < 0x610000 then readDbg s (o - 0x600000)
  else if 0x1FF0000 ≤ o ∧ o < 0x1FF8100 then readMsix s p (o - 0x1FF0000)
  else 0

/-- R344: the offsets that the reduced function decodes. -/
def reducedReads (o : Nat) : Bool :=
  decide (o = 0 ∨ o = 4 ∨ o = 0x14 ∨ o = 0x20 ∨ (0x40000 ≤ o ∧ o < 0x40010) ∨ o = 0x4001C
    ∨ (0x100000 ≤ o ∧ o < 0x110000 ∧ o % 0x100 = 0x20) ∨ (0x200100 ≤ o ∧ o < 0x200140) ∨ (0x300080 ≤ o ∧ o < 0x300100)
    ∨ (0x1FF0000 ≤ o ∧ o < 0x1FF8100))

/-- Whether a port's function has the reduced role (R344, R409). -/
def isReduced (s : State) (p : Nat) : Bool := p != s.owner || s.phase == .bootFailed

/-- A word of BAR0 as the function of a port reads it: 0 until step 8 of start-up has ended (R408). -/
def regRead (s : State) (p o : Nat) : Nat :=
  if isReduced s p then (if (hostPortOf s p).ready && reducedReads o then readWord s p o else 0)
  else if barOpen s then readWord s p o
  else 0

/-! ### Writes -/

/-- HUB. -/
def writeHub (o v : Nat) (s : State) : State :=
  match o with
  | 0x10 => if bit v 0 then resetModule s mrRegister true else s
  | 0x14 => { s with regs := { s.regs with svcMode := BitVec.ofNat 2 v } }
  | 0x24 => { s with recov := { s.recov with evt := w1c s.recov.evt v } }
  | _ => s

/-- The image that a load reads in host space. -/
def hostImage (s : State) : Option (List Byte) :=
  if hostUp s then some (mread s.mem (hostAddr s s.cset.loadAddr.toNat) benchSize) else none

/-- CSET: the lowest bit of CSET_CTL acts; the addresses and the others are quiescent while no substitution is pending (R375, R376). -/
def writeCset (o v : Nat) (s : State) : State :=
  match o with
  | 0x00 =>
    if bit v 0 then benchCheck s
    else if bit v 1 then benchLoad (hostImage s) s
    else if bit v 2 then swapWrite s
    else s
  | 0x08 => if s.cset.pending.isSome then s else { s with cset := { s.cset with loadAddr := putLo s.cset.loadAddr v 6 } }
  | 0x0C => if s.cset.pending.isSome then s else { s with cset := { s.cset with loadAddr := putHi s.cset.loadAddr v } }
  | 0x18 => { s with cset := { s.cset with evt := w1c s.cset.evt v } }
  | _ => match idxIn o 0x20 8 with
    | some n =>
      let a := s.cset.admin.toNat
      let old := a / 2 ^ (32 * n) % 2 ^ 32
      { s with cset := { s.cset with admin := BitVec.ofNat 256 (a - old * 2 ^ (32 * n) + v % 2 ^ 32 * 2 ^ (32 * n)) } }
    | none => s

/-- W1C flags of a host port. -/
def clearPci (p v : Nat) (s : State) : State := modHostPort s p (fun h => { h with evt := w1c h.evt v })

/-- PCI, written by the owning function. -/
def writePci (o v : Nat) (s : State) : State :=
  match o with
  | 0x08 => clearPci 0 v s
  | 0x0C => clearPci 1 v s
  | 0x18 => { s with regs := { s.regs with release := bit v 0 } }
  | 0x20 => { s with regs := { s.regs with apertureLo := BitVec.ofNat 7 (v / 2 ^ 25) } }
  | 0x24 => { s with regs := { s.regs with apertureHi := BitVec.ofNat 7 v } }
  | 0x28 => modHostPort s 0 (fun h => { h with require := bit v 0 })
  | 0x2C => modHostPort s 1 (fun h => { h with require := bit v 0 })
  | _ => match idxIn o 0x40 8 with
    | some n => { s with regs := { s.regs with sysVec := aput s.regs.sysVec n (w32 (v % 2 ^ 11 + 2 ^ 31 * b2n (bit v 31))) } }
    | none => s

/-- R358: PCI_HANDOVER, written by the reduced function of its own port. -/
def writeHandover (p v : Nat) (s : State) : State :=
  let s1 := if bit v 0 then handoverRequest p s else modHostPort s p (fun h => { h with request := false })
  if bit v 1 then takeover p s1 else s1

/-- R255, R10: RING_CFG; a field with an encoding that is not listed keeps its value. -/
def writeRingCfg (v : Nat) (k : Ctx) : Ctx :=
  let sq := bits v 4 0
  let cq := bits v 9 5
  let svc := bits v 11 10
  { k with sqLog2 := if 6 ≤ sq ∧ sq ≤ 16 then sq else k.sqLog2, cqLog2 := if 6 ≤ cq ∧ cq ≤ 16 then cq else k.cqLog2
           svc := if svc = 3 then k.svc else svc, msixVector := bits v 22 12, irqHoldoff := bits v 30 23 }

/-- R9: a quiescent field of a DISABLED context. -/
def whileDisabled (n : Nat) (f : Ctx → Ctx) (s : State) : State := if (ctxOf s n).state = .disabled then modCtx s n f else s

/-- R256: CTX_CTL: reset if it is set, and otherwise the lowest set bit. -/
def writeCtl (n v : Nat) (s : State) : State :=
  if bit v 3 then contextReset n s
  else if bit v 0 then contextEnable n s
  else if bit v 1 then contextStop n s
  else if bit v 2 then contextResume n s
  else s

/-- The bytes of an access list in host space; none where they cannot be read. -/
def hostAcl (s : State) (n lo : Nat) : List Byte :=
  let a := hi32 (w64 ((ctxOf s n).aclHi.toNat * 2 ^ 32)) * 2 ^ 32 + lo % 2 ^ 32 / 64 * 64
  if hostUp s then mread s.mem (hostAddr s a) (64 + 32 * 64) else []

/-- One context. -/
def writeCtx (n o v : Nat) (s : State) : State :=
  match o with
  | 0x00 => whileDisabled n (fun k => { k with sqAddr := putLo k.sqAddr v 12 }) s
  | 0x04 => whileDisabled n (fun k => { k with sqAddr := putHi k.sqAddr v }) s
  | 0x08 => whileDisabled n (fun k => { k with cqAddr := putLo k.cqAddr v 12 }) s
  | 0x0C => whileDisabled n (fun k => { k with cqAddr := putHi k.cqAddr v }) s
  | 0x10 => whileDisabled n (fun k => { k with dbAddr := putLo k.dbAddr v 6 }) s
  | 0x14 => whileDisabled n (fun k => { k with dbAddr := putHi k.dbAddr v }) s
  | 0x18 => whileDisabled n (writeRingCfg v) s
  | 0x1C => writeCtl n v s
  | 0x28 => modCtx s n (fun k => { k with evt := w1c k.evt v })
  | 0x34 => whileDisabled n (fun k => { k with saveLo := w32 v }) s
  | 0x38 => whileDisabled n (fun k => { k with saveHi := w32 v }) s
  | 0x3C => whileDisabled n (fun k => { k with marksLo := w32 (v % 2 ^ 32 / 64 * 64) }) s
  | 0x40 => whileDisabled n (fun k => { k with marksHi := w32 v }) s
  | 0x54 => aclLoad n v (hostAcl s n v) s
  | 0x58 => modCtx s n (fun k => { k with aclHi := w32 v })
  | 0x60 => whileDisabled n (fun k => { k with keyReg := putLo k.keyReg v 0 }) s
  | 0x64 => whileDisabled n (fun k => { k with keyReg := putHi k.keyReg v }) s
  | _ => s

/-- R118: no command that walks a table is in flight. -/
def walksFly (s : State) : Bool := s.cmds.any (fun c => !(tablesOf s c).isEmpty)

/-- MEM. -/
def writeMem (o v : Nat) (s : State) : State :=
  match o with
  | 0x00 =>
    let s1 := if walksFly s then s else { s with regs := { s.regs with walkForce := bit v 0 } }
    if bit v 1 then invAll s1 else s1
  | 0x10 => branchDirEnable v s
  | 0x14 => if branchOpsFly s then s else { s with regs := { s.regs with branchDir := putHi s.regs.branchDir v } }
  | 0x18 => if branchOpsFly s || 512 < bits v 9 0 then s else { s with regs := { s.regs with stateCeil := bits v 9 0 } }
  | 0x20 => if bit v 9 then { s with retireOvf := false } else s
  | 0x28 => if bit v 0 then retireQueuePop s else s
  | _ => match idxIn o 0x140 16 with
    | some d => modCarafe s d (fun k => { k with evt := w1c k.evt v })
    | none => s

/-- R318: a collective is in flight. -/
def collFly (s : State) : Bool := s.cmds.any (fun c => hClass c.desc == 4)

/-- R317: LNK_ROUTE_IDX. -/
def writeRouteIdx (v : Nat) (s : State) : State := if bit v 31 then routeStore (v % 2 ^ 14) s else routeLoad (v % 2 ^ 14) s

/-- R317, R10: src_route and hops, and hop_count where its value is listed. -/
def writeRouteData1 (old : BitVec 29) (v : Nat) : BitVec 29 :=
  let h := bits v 3 1
  let keep := bits old.toNat 3 1
  BitVec.ofNat 29 (bits v 0 0 + 2 * (if 1 ≤ h ∧ h ≤ 5 then h else keep) + 2 ^ 4 * bits v 28 4)

/-- LNK_PORT_CTL (R314). -/
def writePortCtl (p v : Nat) (s : State) : State :=
  let s1 := portEnable p (bit v 0) s
  if bit v 1 then portRetrain p s1 else s1

/-- LNK. -/
def writeLnk (o v : Nat) (s : State) : State :=
  match o with
  | 0x400 => writeRouteIdx v s
  | 0x404 => { s with regs := { s.regs with routeData0 := w32 v } }
  | 0x408 => { s with regs := { s.regs with routeData1 := writeRouteData1 s.regs.routeData1 v } }
  | 0x410 => if collFly s || 16384 < bits v 14 0 then s else { s with regs := { s.regs with dropMax := bits v 14 0 } }
  | 0x420 =>
    let s1 := { s with regs := { s.regs with deadModule := BitVec.ofNat 14 v } }
    if bit v 31 then declareDead (v % 2 ^ 14) s1 else s1
  | 0x424 => { s with links := { s.links with evt := w1c s.links.evt v } }
  | _ =>
    match idxIn o 0x000 32, idxIn o 0x100 32 with
    | some p, _ => writePortCtl p v s
    | _, some p => setPortRec s p { portOf s p with evt := w1c (portOf s p).evt v }
    | _, _ => s

/-- PWR. -/
def writePwr (o v : Nat) (s : State) : State :=
  match o with
  | 0x04 => { s with power := { s.power with evt := w1c s.power.evt v } }
  | 0x10 => { s with regs := { s.regs with regionSel := BitVec.ofNat 6 v } }
  | 0x18 => if 170 < v % 256 then s else { s with regs := { s.regs with tempSel := v % 256 } }
  | _ => s

/-- MGT. -/
def writeMgt (o v : Nat) (s : State) : State :=
  match o with
  | 0x04 => { s with mgmt := { s.mgmt with evt := w1c s.mgmt.evt v } }
  | 0x0C =>
    let s1 := if bit v 1 then cancelPending s else s
    if bit v 0 then fwActivate s1 else s1
  | 0x28 => { s with regs := { s.regs with calSet := putLo s.regs.calSet v 0 } }
  | 0x2C => { s with regs := { s.regs with calSet := putHi s.regs.calSet v } }
  | 0x30 => if bit v 0 then calendarSet s else s
  | 0x40 => logSelect v s
  | 0x44 => { s with regs := { s.regs with logSel := putHi s.regs.logSel v } }
  | _ => s

/-- R363: DBG_TRACE_CTL; its other fields are quiescent while enable is 0. -/
def writeTrace (v : Nat) (s : State) : State :=
  let s1 := if s.regs.traceOn then s
    else { s with regs := { s.regs with traceEvents := BitVec.ofNat 6 (bits v 6 1), traceCtx := BitVec.ofNat 8 (bits v 23 16), traceFilter := bit v 24 } }
  if bit v 0 then traceEnable s1 else { s1 with regs := { s1.regs with traceOn := false } }

/-- DBG. -/
def writeDbg (o v : Nat) (s : State) : State :=
  match o with
  | 0x00 => { s with regs := { s.regs with clusterSel := BitVec.ofNat 9 v } }
  | 0x40 => writeTrace v s
  | _ => s

/-- A word of an MSI-X table entry; a vector that is open now sends what its pending bit holds (R348). -/
def writeMsix (p o v : Nat) (s : State) : State :=
  if o < 0x8000 then
    let k := o % 16 / 4
    sendPending (modHostPort s p (fun h => { h with msixTable := amod h.msixTable (o / 16) (1#128 <<< 96) (fun e =>
      let old := e.toNat / 2 ^ (32 * k) % 2 ^ 32
      let new := if k = 3 then v % 2 else v % 2 ^ 32
      BitVec.ofNat 128 (e.toNat - old * 2 ^ (32 * k) + new * 2 ^ (32 * k))) })) p
  else s

/-- A word written by the owning function (R343, R375). -/
def writeWord (p o v : Nat) (s : State) : State :=
  if o < 0x10000 then writeHub o v s
  else if o < 0x20000 then writeCset (o - 0x10000) v s
  else if o < 0x30000 then benchWrite (o - 0x20000) (leBytes 4 v) s
  else if o < 0x40000 then s
  else if o < 0x50000 then writePci (o - 0x40000) v s
  else if 0x100000 ≤ o ∧ o < 0x110000 then writeCtx ((o - 0x100000) / 0x100) (o % 0x100) v s
  else if 0x200000 ≤ o ∧ o < 0x210000 then writeMem (o - 0x200000) v s
  else if 0x300000 ≤ o ∧ o < 0x310000 then writeLnk (o - 0x300000) v s
  else if 0x400000 ≤ o ∧ o < 0x410000 then writePwr (o - 0x400000) v s
  else if 0x500000 ≤ o ∧ o < 0x510000 then writeMgt (o - 0x500000) v s
  else if 0x600000 ≤ o ∧ o < 0x610000 then writeDbg (o - 0x600000) v s
  else if 0x1FF0000 ≤ o ∧ o < 0x1FF8100 then writeMsix p (o - 0x1FF0000) v s
  else s

/-- R344: a word written by the reduced function. -/
def writeReduced (p o v : Nat) (s : State) : State :=
  if o = 0x40008 + 4 * p then clearPci p v s
  else if o = 0x4001C then writeHandover p v s
  else if 0x1FF0000 ≤ o ∧ o < 0x1FF8100 then writeMsix p (o - 0x1FF0000) v s
  else s

/-- An aligned access of 4 or 8 bytes as words: the high half of an 8-byte write takes effect first, so that a low half which acts
finds it (R384). -/
def asWords (o size v : Nat) (f : Nat → Nat → State → State) (s : State) : State :=
  if size = 8 then f o (v % 2 ^ 32) (f (o + 4) (v / 2 ^ 32 % 2 ^ 32) s) else f o (v % 2 ^ 32) s

/-- R343: a register access is an aligned word or double word. -/
def accessOk (o size : Nat) : Bool := (size == 4 || size == 8) && o % size == 0

/-- A write of the owning function that is not held. -/
def ownWrite (o size v : Nat) (s : State) : State :=
  if 0x2000000 ≤ o then apertureWrite (o - 0x2000000) (leBytes size v) s
  else if 0x20000 ≤ o ∧ o + size ≤ 0x30000 ∧ 8 < size then benchWrite (o - 0x20000) (leBytes size v) s
  else if accessOk o size then asWords o size v (writeWord s.owner) s
  else badAccess s

/-- R418: the writes that act at once during a standby: HUB_RESET, and a stop or reset of the context that enters. -/
def actsAtOnce (s : State) (o v : Nat) : Bool :=
  (o == 0x10 && bit v 0) ||
  (decide (0x100000 ≤ o ∧ o < 0x110000) && o % 0x100 == 0x1C && entering s ((o - 0x100000) / 0x100)
    && (bit v 3 || (!(bit v 0) && bit v 1)))

/-- REGISTER_WRITE (R7 to R10, R343, R344, R416). -/
def registerWrite (p o size v : Nat) (s : State) : State :=
  if 2 ≤ p then s
  else if isReduced s p then
    if !((hostPortOf s p).ready) || !((hostPortOf s p).memSpace) then s
    else if accessOk o size then asWords o size v (writeReduced p) s
    else pciEvent s p 4
  else if barOpen s && actsAtOnce s o v then ownWrite o size v s
  else barWrite s o size v (ownWrite o size v)

/-- R343: BAR0 has 64 MiB. -/
def execRegisterWrite (port offset size value : Nat) (s : State) : Host.Outcome State Fault Refusal :=
  if 2 ^ 26 < offset + size then .fault .noSuchAddress else .next (registerWrite port offset size value s)

end Sys2Proof.Machine
end

