-- ==== Sys2Proof/Machine/Standby.lean ====
section
/-! DEFINITION. Standby: its entry, its refusal, the wake and what the wake restores (R413 to R418). -/

namespace Sys2Proof.Machine

/-! ### STANDBY (R413) -/

def sbWake (d : Desc) : Nat := fld d 16 4

/-- R413. -/
def standbyChecks (s : State) (c : Cmd) : List Check :=
  [headerCheck c.desc, ⟨1, .format, resZero c.desc [(20, 108)]⟩, ⟨2, .format, decide (sbWake c.desc ≤ 86400000)⟩, svcCheck s c 3]
    ++ branchChecks s c 3 ++ [⟨3, .permission, s.cset.admin.getLsbD c.ctx⟩]

/-- R413, R414, step 1: polling stops and the entry begins once every earlier descriptor has completed. -/
def standbyAct (s : State) (c : Cmd) : State :=
  if earlierDone s c && s.standby.isNone then
    { s with standby := some { ctx := c.ctx, idx := c.idx, stage := .draining, wakeMs := sbWake c.desc, enteredAt := s.localTime } }
  else s

/-- STANDBY (R413). -/
def execStandby (ctx idx : Nat) (s : State) : Host.Outcome State Fault Refusal :=
  .next (controlStep (isOp 5 7) standbyChecks standbyAct ctx idx s)

/-! ### Held writes (R416, R417) -/

/-- A held write takes effect: port, offset, size and value. -/
def applyHeld (s : State) (w : Nat × Nat × Nat × Nat) : State := if barOpen s then ownWrite w.2.1 w.2.2.1 w.2.2.2 s else s

/-- The standby is over: what it held is applied in arrival order. -/
def endStandby (s : State) (b : Standby) : State := seqAll { s with standby := none } b.held applyHeld

/-! ### The checks of an entry (R414, steps 2 and 3) -/

/-- A command of another context in flight. -/
def othersFly (s : State) (n : Nat) : Bool := s.cmds.any (fun c => c.ctx != n)

/-- A substitution, retrain or remap of a channel runs. -/
def channelsBusy (s : State) : Bool := s.carafes.any (fun k => k.2.busy.isSome)

/-- R414: remote work of the module that is outstanding. -/
def standbyRemote (s : State) : Bool :=
  !s.links.reads.isEmpty || s.cmds.any (fun c => c.holdsSent && c.stage != .decided) || s.cmds.any (fun c => c.coll.isSome && c.stage != .decided)
    || s.cmds.any huddling

/-- R414: a firmware activation is in progress. -/
def activating (s : State) : Bool := (s.mgmt.running ++ s.mgmt.queued).any (fun a => a.rank == rkActivate)

/-- R414: the refusal table. -/
def standbyRefused (s : State) (n : Nat) : Bool :=
  othersFly s n || channelsBusy s
    || s.branches.any (fun b => !(b.2.parked) && b.2.granules != 0)
    || standbyRemote s
    || s.cset.pending.isSome || activating s
    || !((hostPortOf s s.owner).aspmL1)

/-- A STANDBY whose status is decided. -/
def decideStandby (s : State) (b : Standby) (st : Status) (result : Nat) : State :=
  match findCmd s b.ctx b.idx with
  | some c => if c.stage = .validated then failCmd s c st 0 result else s
  | none => s

/-- STANDBY_QUIESCED (R414, steps 2 to 4): the other contexts have drained, or 1 ms has passed; the checks run, and the saves begin. -/
def standbyQuiesced (s : State) : State :=
  match s.standby with
  | some b =>
    if b.stage != .draining || s.phase != .running then s
    else if (othersFly s b.ctx || channelsBusy s) && decide (since s b.enteredAt < us 1000) then s
    else if standbyRefused s b.ctx then endStandby (decideStandby s b .state 0) b
    else standbySave { s with standby := some { b with stage := .saving } }
  | none => s

def execStandbyQuiesced (s : State) : Host.Outcome State Fault Refusal := .next (standbyQuiesced s)

/-! ### Power off (R414, step 5) -/

/-- R415: the scratch of contexts that stay RESIDENT is lost, with its poison. -/
def loseScratch (s : State) : State :=
  seqAll s ((s.ctxs.filter (fun k => k.2.state != .disabled && k.2.res == .resident)).map Prod.fst) (fun s n =>
    seqAll s (scratchRanges s n) (fun s r => wipe s r.1 r.2))

/-- The owning link in L1, or back from it. -/
def ownLink (s : State) (old new : HostLink) : State :=
  if (hostPortOf s s.owner).link = old then modHostPort s s.owner (fun h => { h with link := new }) else s

/-- STANDBY_POWER_OFF (R414 to R416): the saves have ended; the link enters L1 and the dies lose power. A wake event that arrived during
entry takes effect now. -/
def standbyPowerOff (s : State) : State :=
  match s.standby with
  | some b =>
    if b.stage = .saving ∧ s.ctxs.all (fun k => k.2.res != .saving && k.2.res != .restoring) then
      let s1 := seqAll (loseScratch s) (List.range 32) (fun s p => portTo s p .down)
      ownLink { s1 with standby := some { b with stage := .asleep, enteredAt := s.localTime, wakeAt := s.localTime } } .up .lowPower
    else s
  | none => s

def execStandbyPowerOff (s : State) : Host.Outcome State Fault Refusal := .next (standbyPowerOff s)

/-! ### Wake (R416, R417) -/

/-- WAKE_TIMER (R416): wake_after_ms has passed since the end of entry. -/
def wakeTimer (s : State) : State :=
  match s.standby with
  | some b =>
    if b.stage = .asleep ∧ b.wakeMs ≠ 0 ∧ us (1000 * b.wakeMs) ≤ since s b.enteredAt then
      { s with standby := some (markWake s b 1) }
    else s
  | none => s

def execWakeTimer (s : State) : Host.Outcome State Fault Refusal := .next (wakeTimer s)

/-- R417: the result word: the wake cause, and the whole milliseconds between the end of entry and the wake event (log entry 59). -/
def standbyResult (b : Standby) (cause : Nat) : Nat :=
  cause + 2 ^ 32 * min (2 ^ 32 - 1) ((b.wakeAt - b.enteredAt).toNat / us 1000)

/-- R417: the dies have power again: scratchpads, accumulators and line buffers hold zeros, trackers are clear, no region is gated, and
the ports that are enabled train. -/
def wakeDies (s : State) (b : Standby) : State :=
  let s1 := wipeScratch s
  let s2 := { s1 with regions := s1.regions.map (fun r => (r.1, { r.2 with gated := false, idleSince := s.localTime }))
                      clusters := s1.clusters.map (fun k => (k.1, { k.2 with arrivals := [], rowOwner := none }))
                      links := { s1.links with reads := [] }
                      ageAt := s1.ageAt + (s.localTime - b.enteredAt) }
  seqAll s2 (List.range 32) (fun s p =>
    if (portOf s p).enable then startTraining s p else portTo s p .disabled)

/-- R417: polling resumes at poll_max, or 1 µs for Live, which needs no interval of its own. -/
def resumePolls (s : State) : State :=
  { s with ctxs := s.ctxs.map (fun k =>
      if k.2.state = .active then (k.1, { k.2 with pollI := pollMax s, idlePolls := 0, polling := false, lastPoll := s.localTime }) else k) }

/-- STANDBY_RESUME (R417, R418): 1.5 ms after the wake event. The STANDBY completes before a stop or reset that was held takes effect. -/
def standbyResume (s : State) : State :=
  match s.standby with
  | some b =>
    if b.stage = .leaving then endStandby s b
    else
      match b.cause with
      | some k =>
        if b.stage = .asleep ∧ us 1500 ≤ since s b.wakeAt then
          let s1 := wakeDies (ownLink { s with standby := none } .lowPower .up) b
          endStandby (decideStandby (resumePolls s1) b .ok (standbyResult b k)) b
        else s
      | none => s
  | none => s

def execStandbyResume (s : State) : Host.Outcome State Fault Refusal := .next (standbyResume s)

end Sys2Proof.Machine
end

