-- ==== Sys2Proof/Machine/Dispatch.lean ====
section
/-! DEFINITION. One arm for every command: its effect on everything but the queue of commands. -/

namespace Sys2Proof.Machine

def exec (i : Instr) (s : State) : Host.Outcome State Fault Refusal :=
  match i with
  | .matmul ctx idx => Sys2Proof.Machine.execMatmul ctx idx s
  | .convert ctx idx => Sys2Proof.Machine.execConvert ctx idx s
  | .attend ctx idx => Sys2Proof.Machine.execAttend ctx idx s
  | .attendBwd ctx idx => Sys2Proof.Machine.execAttendBwd ctx idx s
  | .fold ctx idx => Sys2Proof.Machine.execFold ctx idx s
  | .scan ctx idx => Sys2Proof.Machine.execScan ctx idx s
  | .eltwise ctx idx => Sys2Proof.Machine.execEltwise ctx idx s
  | .window ctx idx => Sys2Proof.Machine.execWindow ctx idx s
  | .detect ctx idx => Sys2Proof.Machine.execDetect ctx idx s
  | .pageMove ctx idx => Sys2Proof.Machine.execPageMove ctx idx s
  | .tileMove ctx idx => Sys2Proof.Machine.execTileMove ctx idx s
  | .alloc ctx idx => Sys2Proof.Machine.execAlloc ctx idx s
  | .free ctx idx => Sys2Proof.Machine.execFree ctx idx s
  | .pin ctx idx => Sys2Proof.Machine.execPin ctx idx s
  | .unpin ctx idx => Sys2Proof.Machine.execUnpin ctx idx s
  | .evict ctx idx => Sys2Proof.Machine.execEvict ctx idx s
  | .retire ctx idx => Sys2Proof.Machine.execRetire ctx idx s
  | .recall ctx idx => Sys2Proof.Machine.execRecall ctx idx s
  | .append ctx idx => Sys2Proof.Machine.execAppend ctx idx s
  | .tableUpdate ctx idx => Sys2Proof.Machine.execTableUpdate ctx idx s
  | .verify ctx idx => Sys2Proof.Machine.execVerify ctx idx s
  | .prefixMatch ctx idx => Sys2Proof.Machine.execPrefixMatch ctx idx s
  | .fork ctx idx => Sys2Proof.Machine.execFork ctx idx s
  | .prune ctx idx => Sys2Proof.Machine.execPrune ctx idx s
  | .promote ctx idx => Sys2Proof.Machine.execPromote ctx idx s
  | .park ctx idx => Sys2Proof.Machine.execPark ctx idx s
  | .unpark ctx idx => Sys2Proof.Machine.execUnpark ctx idx s
  | .reduce ctx idx => Sys2Proof.Machine.execReduce ctx idx s
  | .allReduce ctx idx => Sys2Proof.Machine.execAllReduce ctx idx s
  | .allGather ctx idx => Sys2Proof.Machine.execAllGather ctx idx s
  | .broadcast ctx idx => Sys2Proof.Machine.execBroadcast ctx idx s
  | .fence ctx idx => Sys2Proof.Machine.execFence ctx idx s
  | .wait ctx idx => Sys2Proof.Machine.execWait ctx idx s
  | .signal ctx idx => Sys2Proof.Machine.execSignal ctx idx s
  | .huddle ctx idx => Sys2Proof.Machine.execHuddle ctx idx s
  | .setSwap ctx idx => Sys2Proof.Machine.execSetSwap ctx idx s
  | .take ctx idx => Sys2Proof.Machine.execTake ctx idx s
  | .vote ctx idx => Sys2Proof.Machine.execVote ctx idx s
  | .takeIf ctx idx => Sys2Proof.Machine.execTakeIf ctx idx s
  | .restore ctx idx => Sys2Proof.Machine.execRestore ctx idx s
  | .query ctx idx => Sys2Proof.Machine.execQuery ctx idx s
  | .digest ctx idx => Sys2Proof.Machine.execDigest ctx idx s
  | .check ctx idx => Sys2Proof.Machine.execCheck ctx idx s
  | .standby ctx idx => Sys2Proof.Machine.execStandby ctx idx s
  | .doorbellPoll ctx => Sys2Proof.Machine.execDoorbellPoll ctx s
  | .pollResult ctx sqTail cqHead => Sys2Proof.Machine.execPollResult ctx sqTail cqHead s
  | .ringAccessError ctx => Sys2Proof.Machine.execRingAccessError ctx s
  | .descriptorFetch ctx desc => Sys2Proof.Machine.execDescriptorFetch ctx desc s
  | .commandPlace ctx idx => Sys2Proof.Machine.execCommandPlace ctx idx s
  | .rowInstructionIssue ctx idx => Sys2Proof.Machine.execRowInstructionIssue ctx idx s
  | .lineArrival q counter address line poisoned => Sys2Proof.Machine.execLineArrival q counter address line poisoned s
  | .tileDrain ctx idx => Sys2Proof.Machine.execTileDrain ctx idx s
  | .lookasideFill region head token => Sys2Proof.Machine.execLookasideFill region head token s
  | .generationRetry ctx idx => Sys2Proof.Machine.execGenerationRetry ctx idx s
  | .haloSignalPoll ctx idx => Sys2Proof.Machine.execHaloSignalPoll ctx idx s
  | .commandCommit ctx idx => Sys2Proof.Machine.execCommandCommit ctx idx s
  | .completionRecordWrite ctx idx => Sys2Proof.Machine.execCompletionRecordWrite ctx idx s
  | .irqHoldoffExpiry ctx => Sys2Proof.Machine.execIrqHoldoffExpiry ctx s
  | .commandKill ctx idx => Sys2Proof.Machine.execCommandKill ctx idx s
  | .contextEnable ctx => Sys2Proof.Machine.execContextEnable ctx s
  | .contextStop ctx => Sys2Proof.Machine.execContextStop ctx s
  | .contextStopDone ctx => Sys2Proof.Machine.execContextStopDone ctx s
  | .contextResume ctx => Sys2Proof.Machine.execContextResume ctx s
  | .contextReset ctx => Sys2Proof.Machine.execContextReset ctx s
  | .contextResetDone ctx => Sys2Proof.Machine.execContextResetDone ctx s
  | .waitPoll ctx idx => Sys2Proof.Machine.execWaitPoll ctx idx s
  | .waitTimeout ctx idx => Sys2Proof.Machine.execWaitTimeout ctx idx s
  | .huddleTimeout h => Sys2Proof.Machine.execHuddleTimeout h s
  | .contextEvict ctx runnable => Sys2Proof.Machine.execContextEvict ctx runnable s
  | .markWaitTimeout ctx => Sys2Proof.Machine.execMarkWaitTimeout ctx s
  | .contextSaveDone ctx => Sys2Proof.Machine.execContextSaveDone ctx s
  | .contextRestore ctx => Sys2Proof.Machine.execContextRestore ctx s
  | .contextRestoreDone ctx => Sys2Proof.Machine.execContextRestoreDone ctx s
  | .placementLoop rates moves => Sys2Proof.Machine.execPlacementLoop rates moves s
  | .dieReset die => Sys2Proof.Machine.execDieReset die s
  | .linkDieReset ld => Sys2Proof.Machine.execLinkDieReset ld s
  | .carafeUncorrectable address reason => Sys2Proof.Machine.execCarafeUncorrectable address reason s
  | .ageingPeriod => Sys2Proof.Machine.execAgeingPeriod s
  | .pageEviction die mode sel => Sys2Proof.Machine.execPageEviction die mode sel s
  | .pageRecall page => Sys2Proof.Machine.execPageRecall page s
  | .patrolScrub die channel lines found periodEnd => Sys2Proof.Machine.execPatrolScrub die channel lines found periodEnd s
  | .channelSubstitution die channel cause => Sys2Proof.Machine.execChannelSubstitution die channel cause s
  | .channelSwitch die => Sys2Proof.Machine.execChannelSwitch die s
  | .channelRetrainDone die passed => Sys2Proof.Machine.execChannelRetrainDone die passed s
  | .channelRemap die => Sys2Proof.Machine.execChannelRemap die s
  | .carafeThrottle die layer temp => Sys2Proof.Machine.execCarafeThrottle die layer temp s
  | .retireQueuePop => Sys2Proof.Machine.execRetireQueuePop s
  | .invAll => Sys2Proof.Machine.execInvAll s
  | .branchDirEnable lo => Sys2Proof.Machine.execBranchDirEnable lo s
  | .aclLoad ctx lo list => Sys2Proof.Machine.execAclLoad ctx lo list s
  | .readReq port f => Sys2Proof.Machine.execReadReq port f s
  | .readReply port f => Sys2Proof.Machine.execReadReply port f s
  | .writeData port f => Sys2Proof.Machine.execWriteData port f s
  | .hold port f => Sys2Proof.Machine.execHold port f s
  | .commit port f => Sys2Proof.Machine.execCommit port f s
  | .ack port f => Sys2Proof.Machine.execAck port f s
  | .holdLapse src tag => Sys2Proof.Machine.execHoldLapse src tag s
  | .collLine port f => Sys2Proof.Machine.execCollLine port f s
  | .collAbort port f => Sys2Proof.Machine.execCollAbort port f s
  | .signalMsg port f => Sys2Proof.Machine.execSignalMsg port f s
  | .huddleMsg port f => Sys2Proof.Machine.execHuddleMsg port f s
  | .deathNotice port f => Sys2Proof.Machine.execDeathNotice port f s
  | .present port f => Sys2Proof.Machine.execPresent port f s
  | .flitReplay port => Sys2Proof.Machine.execFlitReplay port s
  | .rallySlot ld => Sys2Proof.Machine.execRallySlot ld s
  | .segmentDeadline ctx idx segment => Sys2Proof.Machine.execSegmentDeadline ctx idx segment s
  | .portEnable port enable => Sys2Proof.Machine.execPortEnable port enable s
  | .portRetrain port => Sys2Proof.Machine.execPortRetrain port s
  | .portTrained port peer => Sys2Proof.Machine.execPortTrained port peer s
  | .portTrainingTimeout port => Sys2Proof.Machine.execPortTrainingTimeout port s
  | .portRetryTimer port => Sys2Proof.Machine.execPortRetryTimer port s
  | .replayStorm port => Sys2Proof.Machine.execReplayStorm port s
  | .portLockLoss port => Sys2Proof.Machine.execPortLockLoss port s
  | .portRecovered port => Sys2Proof.Machine.execPortRecovered port s
  | .recoveryTimeout port => Sys2Proof.Machine.execRecoveryTimeout port s
  | .unreachableTimeout target => Sys2Proof.Machine.execUnreachableTimeout target s
  | .routeStore index => Sys2Proof.Machine.execRouteStore index s
  | .routeLoad index => Sys2Proof.Machine.execRouteLoad index s
  | .declareDead target => Sys2Proof.Machine.execDeclareDead target s
  | .hubHeartbeatLoss => Sys2Proof.Machine.execHubHeartbeatLoss s
  | .watchdogTimeout byReferee => Sys2Proof.Machine.execWatchdogTimeout byReferee s
  | .baristaRestart => Sys2Proof.Machine.execBaristaRestart s
  | .powerOnReset => Sys2Proof.Machine.execPowerOnReset s
  | .moduleReset => Sys2Proof.Machine.execModuleReset s
  | .perst port => Sys2Proof.Machine.execPerst port s
  | .reducedFunctionReset port => Sys2Proof.Machine.execReducedFunctionReset port s
  | .powerLoss => Sys2Proof.Machine.execPowerLoss s
  | .pcieLinkChange port link speed width flit => Sys2Proof.Machine.execPcieLinkChange port link speed width flit s
  | .completionTimeout port => Sys2Proof.Machine.execCompletionTimeout port s
  | .owningPortLost => Sys2Proof.Machine.execOwningPortLost s
  | .takeover port => Sys2Proof.Machine.execTakeover port s
  | .handoverRequest port => Sys2Proof.Machine.execHandoverRequest port s
  | .apertureRead offset size => Sys2Proof.Machine.execApertureRead offset size s
  | .apertureWrite offset data => Sys2Proof.Machine.execApertureWrite offset data s
  | .apertureAtomic offset size op operand compare => Sys2Proof.Machine.execApertureAtomic offset size op operand compare s
  | .msixUnmask vector => Sys2Proof.Machine.execMsixUnmask vector s
  | .ideKm port stream op => Sys2Proof.Machine.execIdeKm port stream op s
  | .ideIntegrityFail port stream => Sys2Proof.Machine.execIdeIntegrityFail port stream s
  | .traceEnable => Sys2Proof.Machine.execTraceEnable s
  | .benchWrite offset data => Sys2Proof.Machine.execBenchWrite offset data s
  | .benchCheck => Sys2Proof.Machine.execBenchCheck s
  | .benchLoad image => Sys2Proof.Machine.execBenchLoad image s
  | .swap => Sys2Proof.Machine.execSwap s
  | .umpireAdmit => Sys2Proof.Machine.execUmpireAdmit s
  | .drainTimeout => Sys2Proof.Machine.execDrainTimeout s
  | .swapPoint => Sys2Proof.Machine.execSwapPoint s
  | .powerCapPeriod watts => Sys2Proof.Machine.execPowerCapPeriod watts s
  | .boostStep region => Sys2Proof.Machine.execBoostStep region s
  | .voltageLoop region marginLow => Sys2Proof.Machine.execVoltageLoop region marginLow s
  | .droopStretch region => Sys2Proof.Machine.execDroopStretch region s
  | .regionGate region => Sys2Proof.Machine.execRegionGate region s
  | .dieThrottleStep die reading => Sys2Proof.Machine.execDieThrottleStep die reading s
  | .dieThrottleRelease die reading => Sys2Proof.Machine.execDieThrottleRelease die reading s
  | .thermalEmergencyEnter sensor reading => Sys2Proof.Machine.execThermalEmergencyEnter sensor reading s
  | .thermalEmergencyExit => Sys2Proof.Machine.execThermalEmergencyExit s
  | .thermalTrip sensor reading => Sys2Proof.Machine.execThermalTrip sensor reading s
  | .coolantHot reading => Sys2Proof.Machine.execCoolantHot reading s
  | .sensorRecalibration die sensor => Sys2Proof.Machine.execSensorRecalibration die sensor s
  | .standbyQuiesced => Sys2Proof.Machine.execStandbyQuiesced s
  | .standbyPowerOff => Sys2Proof.Machine.execStandbyPowerOff s
  | .wakeTimer => Sys2Proof.Machine.execWakeTimer s
  | .standbyResume => Sys2Proof.Machine.execStandbyResume s
  | .logFlush => Sys2Proof.Machine.execLogFlush s
  | .logSelect lo => Sys2Proof.Machine.execLogSelect lo s
  | .calendarSet => Sys2Proof.Machine.execCalendarSet s
  | .fwActivate => Sys2Proof.Machine.execFwActivate s
  | .cancelPending => Sys2Proof.Machine.execCancelPending s
  | .logRead ep first count => Sys2Proof.Machine.execLogRead ep first count s
  | .wake ep => Sys2Proof.Machine.execWake ep s
  | .setEndpointId ep eid => Sys2Proof.Machine.execSetEndpointId ep eid s
  | .getEndpointId ep => Sys2Proof.Machine.execGetEndpointId ep s
  | .getEndpointUuid ep => Sys2Proof.Machine.execGetEndpointUuid ep s
  | .getMctpVersionSupport ep msgType => Sys2Proof.Machine.execGetMctpVersionSupport ep msgType s
  | .getMessageTypeSupport ep => Sys2Proof.Machine.execGetMessageTypeSupport ep s
  | .getVendorDefinedMessageSupport ep selector => Sys2Proof.Machine.execGetVendorDefinedMessageSupport ep selector s
  | .getTid ep => Sys2Proof.Machine.execGetTid ep s
  | .setTid ep tid => Sys2Proof.Machine.execSetTid ep tid s
  | .getPldmVersion ep pldmType => Sys2Proof.Machine.execGetPldmVersion ep pldmType s
  | .getPldmTypes ep => Sys2Proof.Machine.execGetPldmTypes ep s
  | .getPldmCommands ep pldmType => Sys2Proof.Machine.execGetPldmCommands ep pldmType s
  | .getPdrRepositoryInfo ep => Sys2Proof.Machine.execGetPdrRepositoryInfo ep s
  | .getPdr ep record => Sys2Proof.Machine.execGetPdr ep record s
  | .getSensorReading ep sensor => Sys2Proof.Machine.execGetSensorReading ep sensor s
  | .setNumericSensorEnable ep sensor enable => Sys2Proof.Machine.execSetNumericSensorEnable ep sensor enable s
  | .setEventReceiver ep receiver => Sys2Proof.Machine.execSetEventReceiver ep receiver s
  | .pollForPlatformEventMessage ep => Sys2Proof.Machine.execPollForPlatformEventMessage ep s
  | .queryDeviceIdentifiers ep => Sys2Proof.Machine.execQueryDeviceIdentifiers ep s
  | .getFirmwareParameters ep => Sys2Proof.Machine.execGetFirmwareParameters ep s
  | .requestUpdate ep => Sys2Proof.Machine.execRequestUpdate ep s
  | .passComponentTable ep component => Sys2Proof.Machine.execPassComponentTable ep component s
  | .updateComponent ep component size => Sys2Proof.Machine.execUpdateComponent ep component size s
  | .firmwareData ep data => Sys2Proof.Machine.execFirmwareData ep data s
  | .transferComplete ep => Sys2Proof.Machine.execTransferComplete ep s
  | .activateFirmware ep selfContained => Sys2Proof.Machine.execActivateFirmware ep selfContained s
  | .getStatus ep => Sys2Proof.Machine.execGetStatus ep s
  | .cancelUpdateComponent ep => Sys2Proof.Machine.execCancelUpdateComponent ep s
  | .cancelUpdate ep => Sys2Proof.Machine.execCancelUpdate ep s
  | .updateTimeout => Sys2Proof.Machine.execUpdateTimeout s
  | .getVersion tr => Sys2Proof.Machine.execGetVersion tr s
  | .getCapabilities tr => Sys2Proof.Machine.execGetCapabilities tr s
  | .negotiateAlgorithms tr algorithms => Sys2Proof.Machine.execNegotiateAlgorithms tr algorithms s
  | .getDigests tr => Sys2Proof.Machine.execGetDigests tr s
  | .getCertificate tr slot offset length => Sys2Proof.Machine.execGetCertificate tr slot offset length s
  | .challenge tr slot nonce => Sys2Proof.Machine.execChallenge tr slot nonce s
  | .keyExchange tr session exchange => Sys2Proof.Machine.execKeyExchange tr session exchange s
  | .finish tr session verifyData => Sys2Proof.Machine.execFinish tr session verifyData s
  | .heartbeat tr session => Sys2Proof.Machine.execHeartbeat tr session s
  | .keyUpdate tr session op => Sys2Proof.Machine.execKeyUpdate tr session op s
  | .endSession tr session => Sys2Proof.Machine.execEndSession tr session s
  | .report tr nonce ranges => Sys2Proof.Machine.execReport tr nonce ranges s
  | .registerWrite port offset size value => Sys2Proof.Machine.execRegisterWrite port offset size value s
  | .scratchpadUncorrectable q address accumulator => Sys2Proof.Machine.execScratchpadUncorrectable q address accumulator s
  | .dieResetDone link die => Sys2Proof.Machine.execDieResetDone link die s
  | .perstRelease port => Sys2Proof.Machine.execPerstRelease port s
  | .functionReady port => Sys2Proof.Machine.execFunctionReady port s
  | .startupComplete => Sys2Proof.Machine.execStartupComplete s
  | .transitMessage port msgType f => Sys2Proof.Machine.execTransitMessage port msgType f s
  | .localTimeLoRead calendar => Sys2Proof.Machine.execLocalTimeLoRead calendar s
  | .calVbatChange inRange => Sys2Proof.Machine.execCalVbatChange inRange s

end Sys2Proof.Machine
end

