-- ==== Sys2Proof/Machine/Step.lean ====
section
/-! DEFINITION. The step: the command at the front of the queue, or with an empty queue one H-cycle (R5, R387). -/

namespace Sys2Proof.Machine

/-- The state without the command at the front of its queue. -/
def State.withQueue (s : State) (q : List Instr) : State := { s with pending := q }

/-- R387, R434: one H-cycle with no command: the local time counter advances, and the calendar clock where a C-cycle ends in it (log
entry 5). -/
def tick (s : State) : State :=
  { s with localTime := s.localTime + 1
           mgmt := { s.mgmt with calCount := if Config.calEdge s.localTime then s.mgmt.calCount + 1 else s.mgmt.calCount } }

/-- One step. -/
def step (s : State) : Host.Outcome State Fault Refusal :=
  match s.pending with
  | [] => .next (tick s)
  | i :: q => exec i (s.withQueue q)

/-- The state with the command that a word spells at the front of its queue. -/
def State.withFetchWord (s : State) (nbits w : Nat) : State :=
  match decodeTableWord nbits w with
  | some i => s.withQueue (i :: s.pending)
  | none => s

end Sys2Proof.Machine
end

