-- ==== Sys2Proof/Safety.lean ====
section
/-! DEFINITION. What counts as a good state and a good step of the module, in the terms that the statements use. -/

namespace Sys2Proof.Machine

/-- The canonical form of the two memories (log entry 3): equal memories are equal data. -/
abbrev State.canonical (s : State) : Prop := s.mem.wf = true ∧ s.brMem.wf = true

/-- The stops of the model are the accesses beyond a window that R343 gives: the aperture of 32 MiB, the bench window of 64 KiB, and
BAR0 of 64 MiB. -/
def inWindow : Instr → Prop
  | .apertureRead o n => o + n ≤ 2 ^ 25
  | .apertureWrite o bs => o + bs.length ≤ 2 ^ 25
  | .apertureAtomic o n _ _ _ => o + n ≤ 2 ^ 25
  | .benchWrite o bs => o + bs.length ≤ 65536
  | .registerWrite _ o n _ => o + n ≤ 2 ^ 26
  | _ => True

/-! ### The stages of a command (R237) -/

/-- A command of a class and opcode stands placed on a context's ring index, with every operand line landed, no error of a peer, and the
rows of its cluster free (R30, R31, R49): its issue is due. -/
abbrev issueDue (s : State) (n i cls op : Nat) (c : Cmd) : Prop :=
  findCmd s n i = some c ∧ hClass c.desc = cls ∧ hOp c.desc = op ∧ c.stage = .placed ∧ c.peerError = none
    ∧ awaits s c = false ∧ rowsFree s c = true

/-- R237, R238: what the end of issue leaves, for a command `c` whose issue has come to `d`. It holds the work that its commit will make
visible and the generations that the commit reads again, with its descriptor, status and epoch unchanged and no lines awaited; every other
command is as before; its cluster is no longer its own (R31, R49) and every other cluster is as before; nothing else of the state changes
but the cluster's region: no byte of memory, no page, no branch. -/
def issued (s t : State) (c d : Cmd) : Prop :=
  (∃ k, findCmd t c.ctx c.idx = some k ∧ k.stage = .issued ∧ k.status = c.status ∧ k.desc = c.desc ∧ k.work = d.work ∧ k.gens = d.gens
    ∧ k.leadGens = d.leadGens ∧ k.await = [] ∧ k.epoch = c.epoch)
  ∧ (∀ n i, ¬ (c.ctx = n ∧ c.idx = i) → findCmd t n i = findCmd s n i)
  ∧ (∀ q, c.pos = some q → (clusterOf t q).rowOwner ≠ some (c.ctx, c.idx))
  ∧ (∀ q, c.pos ≠ some q → clusterOf t q = clusterOf s q)
  ∧ t = { s with cmds := t.cmds, clusters := t.clusters, regions := t.regions }

/-- A command's status is decided, with a result. -/
def decidedAs (t : State) (n i : Nat) (st : Status) (result : Nat) : Prop :=
  ∃ k, findCmd t n i = some k ∧ k.stage = .decided ∧ k.status = st ∧ k.work.result = result

/-- The owning function takes register writes and none is held (R408, R416). -/
abbrev takesWrites (s : State) : Prop := barOpen s = true ∧ s.standby = none

/-- A standby stands at a stage with no held write. -/
abbrev standbyAt (s : State) (b : Standby) (g : StandbyStage) : Prop := s.standby = some b ∧ b.stage = g ∧ b.held = []

/-! ### Ports and messages -/

/-- R290, R316: a port has changed its state now: the flag state_changed is set, the event counter has counted, and every other port is as
before. -/
def portMoved (s t : State) (p : Nat) (g : PortState) : Prop :=
  (portOf t p).state = g ∧ (portOf t p).since = s.localTime ∧ (portOf t p).evt = withFlag (portOf s p).evt 0
    ∧ (portOf t p).evtCnt = (portOf s p).evtCnt + 1 ∧ (portOf t p).enable = (portOf s p).enable
    ∧ (portOf t p).replayCnt = (portOf s p).replayCnt ∧ (∀ o, o ≠ p → portOf t o = portOf s o)

/-- Nothing changes but the links, what an event source sends to the host (R361), and the Umpire's activities (R436). -/
def linksOnly (s t : State) : Prop :=
  t = { s with links := t.links, out := t.out, hostPorts := t.hostPorts,
               mgmt := { s.mgmt with running := t.mgmt.running, queued := t.mgmt.queued } }

/-- R287, R288, R291: a message for this module arrives on an UP port, and none is held back. -/
abbrev arrivesOn (s : State) (p : Nat) (f : Flit) : Prop :=
  linksLive s = true ∧ s.phase ≠ .hubDead ∧ p < 32 ∧ portUp s p = true ∧ f.dst = selfId s ∧ s.links.early = []

/-- R294: it is the next in its order. -/
abbrev nextInOrder (s : State) (p : Nat) (f : Flit) : Prop := arrivesOn s p f ∧ f.seq = expected s f

/-- R294: the next number is expected from the same source and class, and no message is held back. -/
def turnTaken (_s t : State) (f : Flit) : Prop :=
  aget t.links.seqIn (inKey f) 0#32 = w32 (f.seq + 1) ∧ t.links.early = []

/-- A message to a module would leave at once: a port of its route is UP (R292). -/
abbrev leavesBy (s : State) (dst address p : Nat) : Prop := choosePort (routePorts s dst 0) address = some p

/-- The hub holds one descriptor of each context and ring index. -/
abbrev onlyOne (s : State) (c : Cmd) : Prop := ∀ d ∈ s.cmds, d.ctx = c.ctx → d.idx = c.idx → d = c

/-- R237: the end of issue of a collective: its work is the elements of dst that its segments hold, and its result word (R304). -/
def collIssued (s t : State) (c : Cmd) (r : CollRun) : Prop :=
  (∃ k, findCmd t c.ctx c.idx = some k ∧ k.stage = .issued ∧ k.work.writes = coCells s.mem (coOf c.desc) r
    ∧ k.work.result = coResultWord c (coOf c.desc) r)
  ∧ (∀ n i, ¬ (c.ctx = n ∧ c.idx = i) → findCmd t n i = findCmd s n i)
  ∧ t = { s with cmds := t.cmds }

/-- A descriptor of a class and opcode whose validation has passed. -/
abbrev validatedAs (s : State) (n i cls op : Nat) (c : Cmd) : Prop :=
  findCmd s n i = some c ∧ hClass c.desc = cls ∧ hOp c.desc = op ∧ c.stage = .validated

/-- The hub holds one descriptor of each context and ring index. -/
abbrev hubKeys (s : State) : Prop := ∀ d ∈ s.cmds, onlyOne s d

/-- Every other context is as before. -/
def otherCtxs (s t : State) (n : Nat) : Prop := ∀ m, m ≠ n → ctxOf t m = ctxOf s m

/-- R267, R268: a killed command that runs again: validated as before, under the next epoch tag, with nothing placed and no work done. -/
def rerunOf (t : State) (c : Cmd) : Prop :=
  ∃ k, findCmd t c.ctx c.idx = some k ∧ k.stage = .validated ∧ k.rerun = true ∧ k.epoch = c.epoch + 1 ∧ k.pos = none ∧ k.held = []
    ∧ k.work = {} ∧ k.desc = c.desc ∧ k.draws = c.draws ∧ k.list = c.list

/-- An issued command whose commit is due: no error of a peer, no line awaited, and every earlier command that touches its tables has
completed (R92). -/
abbrev commitDue (s : State) (n i : Nat) (c : Cmd) : Prop :=
  findCmd s n i = some c ∧ c.stage = .issued ∧ c.peerError = none ∧ awaits s c = false ∧ tablesFree s c true = true

/-- R238: the bytes that a command's work makes visible: what it writes, and the sums of its statistics buffer (R71). -/
def allCells (s : State) (w : Work) : List Host.Cell := w.writes ++ addedStats s w

/-! ### Maintenance and management -/

/-- R436, R437: an activity would run at once: nothing waits, it is not known yet, and everything that runs is compatible with it. -/
abbrev umpireFree (s : State) (rank scope : Nat) (info : Nat × Nat) : Prop :=
  umpKnown s rank scope info = false ∧ s.mgmt.queued = []
    ∧ ∀ a ∈ s.mgmt.running, compatible { rank := rank, scope := scope, since := s.localTime, info := info } a = true

/-- An activity has joined those that run, and the Umpire is else as before. -/
def umpireRuns (s t : State) (rank scope : Nat) (info : Nat × Nat) : Prop :=
  t.mgmt.running = s.mgmt.running ++ [{ rank := rank, scope := scope, since := s.localTime, info := info }] ∧ t.mgmt.queued = s.mgmt.queued

/-- Barista sends one message, and nothing else changes. -/
def answers (s t : State) (m : MgmtOut) : Prop := t = { s with out := { s.out with mgmt := s.out.mgmt ++ [m] } }

/-- A carafe with nothing running and nothing waiting, whose channel activity the Umpire would let run at once (R215, R437). -/
abbrev carafeIdle (s : State) (d : Nat) : Prop :=
  (carafeOf s d).failed = false ∧ (carafeOf s d).busy = none ∧ (carafeOf s d).waiting = [] ∧ umpireFree s rkChannel d (0, 0)

/-- Every other carafe is as before. -/
def otherCarafes (s t : State) (d : Nat) : Prop := ∀ x, x ≠ d → carafeOf t x = carafeOf s x

/-- Every other host port is as before. -/
def otherHostPorts (s t : State) (p : Nat) : Prop := ∀ o, o ≠ p → hostPortOf t o = hostPortOf s o

/-- R350: every active context has halted at its ring access, and the owning port counts as lost. -/
def ownerLost (s t : State) : Prop :=
  (hostPortOf t s.owner).lost = true ∧ t.owner = s.owner
    ∧ ∀ n, (ctxOf s n).state = .active → (ctxOf t n).state = .halted ∧ (ctxOf t n).haltReason = .ringAccess

/-- An aperture access that the owning function answers now, and whose pages are RESIDENT (R346). -/
abbrev apertureOpen (s : State) (o n : Nat) : Prop :=
  s.phase ≠ .hubDead ∧ asleep s = false ∧ barOpen s = true ∧ o + n ≤ 2 ^ 25
    ∧ ∀ i, i < n → pageState s (pageOf (apertureAddr s o + i)) = some .resident

/-- A substitution that nothing keeps from its admission (R369, R437). -/
abbrev mayRequest (s : State) (i : Option (Nat × Nat)) : Prop := s.cset.pending = none ∧ umpireFree s rkSwap 0 (swapInfo i)

/-- A substitution has been admitted now, and no set has changed (R372). -/
def swapPends (s t : State) (i : Option (Nat × Nat)) (expect : Nat) : Prop :=
  t.cset = { s.cset with pending := some { issuer := i, expect := expect, admitted := true, since := s.localTime } }

/-- R370: a substitution has been refused with a code; no set has changed. -/
def swapRefused (s t : State) (code : Nat) : Prop :=
  t.cset = { s.cset with pending := none, swapResult := code, evt := withFlag s.cset.evt 2, evtCnt := s.cset.evtCnt + 1 }

/-- An SPDM request that is served: its endpoint answers, the identity is there, and the negotiation has come far enough. -/
abbrev spdmServed (s : State) (tr level : Nat) : Prop := trAnswers s tr = true ∧ s.mgmt.identityOk = true ∧ level ≤ spdmLevel s tr

/-- The value of an encoding or of a finite input as a rational number; 0 stands for what is no number. -/
def fvRat : FV → ℚ
  | .fin neg n d e => (if neg then -1 else 1) * (n / d) * 2 ^ e
  | _ => 0

/-- A bank may be chosen at start-up or not: a module reset that has been performed has started anew, with every context and command gone. -/
def startedAnew (s t : State) : Prop :=
  t.cmds = [] ∧ t.ctxs = [] ∧ t.branches = [] ∧ t.links.incarnation = s.links.incarnation + 1
    ∧ (chooseBank s ≠ none → t.phase = .startup true) ∧ (chooseBank s = none → t.phase = .bootFailed)

end Sys2Proof.Machine
end

