-- ==== Sys2Proof/Certificates/Slice0/Obligations.lean ====
section
/-! DEFINITION. The statements of this model, for the provers: what the commands of the module do, by the numbered rules of spec/,
with the frame of each, and what every step keeps. The words that they use are those of Safety.lean and of the machine. -/

open Sys2Proof Sys2Proof.Machine

/-- R237: the command at the front of the queue runs on the state with the queue's rest, whatever it is. -/
def Obligations.StepRunsFront : Prop :=
  ∀ (s : State) (c : Instr) (q : List Instr), s.pending = c :: q → step s = exec c (s.withQueue q)

/-- R387: with no command waiting, a step is one H-cycle: local time advances by 1 (modulo 2^64) and nothing else changes but the
calendar count, which advances by 1 at the end of a C-cycle and else stays. That an idle step is an H-cycle is the model's choice
(log entry 5). -/
def Obligations.IdleStepIsOneHCycle : Prop :=
  ∀ (s : State), s.pending = [] → ∃ t, step s = .next t ∧ t.localTime = s.localTime + 1
    ∧ (t.mgmt.calCount = s.mgmt.calCount ∨ t.mgmt.calCount = s.mgmt.calCount + 1)
    ∧ t = { s with localTime := t.localTime, mgmt := { s.mgmt with calCount := t.mgmt.calCount } }

/-- The log entries 1 and 5 of the model: a command takes no time and consumes no other command: whatever the command, where it gives a
next state the queue is the one it was given, and local time is what it was unless the command is POWER_ON_RESET (R387: the counter
starts with a power-on reset). -/
def Obligations.CommandsKeepQueueAndTime : Prop :=
  ∀ (i : Instr) (s t : State), exec i s = .next t →
    t.pending = s.pending ∧ (i ≠ .powerOnReset → t.localTime = s.localTime)

/-- From every state with canonical memories, every step that gives a next state leaves canonical memories: addresses strictly rising,
no byte of 0 listed, in the global memory and in the recurrent state. -/
def Obligations.StepKeepsCanonicalMemory : Prop :=
  ∀ (s t : State), s.canonical → step s = .next t → t.canonical

/-- No command is refused, in any state: every command answers a next state, unless it is an access beyond the window that R343 gives,
and there it stops with noSuchAddress.
Every well-formed command lies within its window and so answers a next state. -/
def Obligations.CommandsAnswer : Prop :=
  (∀ (i : Instr) (s : State), (inWindow i → ∃ t, exec i s = .next t) ∧ (¬ inWindow i → exec i s = .fault .noSuchAddress))
  ∧ (∀ (i : Instr) (s : State), i.wf = true → ∃ t, exec i s = .next t)

/-- R412, column Power-on reset, with R407 steps 2 and 3: local time is 0; the incarnation advances by 1; no command, branch record,
context register, huddle counter, retirement, route or logged death is left; every page is FREE; HUB_SVC_MODE reads STARTUP and the trace
is disabled; arrival counters are clear; flash keeps the retired granules, the spares, the remap table, the retired frames and the log.
Where a firmware bank verifies start-up begins, waiting for PERST's release; where none does the module stands at a boot failure (R409). -/
def Obligations.PowerOnResetClears : Prop :=
  ∀ (s : State), ∃ t, exec .powerOnReset s = .next t
    ∧ t.localTime = 0 ∧ t.links.incarnation = s.links.incarnation + 1
    ∧ t.cmds = [] ∧ t.branches = [] ∧ t.ctxs = [] ∧ t.pool = [] ∧ t.huddles = [] ∧ t.retireQ = []
    ∧ t.links.routes = [] ∧ t.links.deathLog = [] ∧ t.regs.svcMode = 1 ∧ t.regs.traceOn = false
    ∧ (∀ q, (clusterOf t q).arrivals = [] ∧ (clusterOf t q).retired = (clusterOf s q).retired)
    ∧ (∀ d, (carafeOf t d).s0 = (carafeOf s d).s0 ∧ (carafeOf t d).s1 = (carafeOf s d).s1
        ∧ (carafeOf t d).remapped = (carafeOf s d).remapped ∧ (carafeOf t d).retired = (carafeOf s d).retired)
    ∧ t.mgmt.logFlash = s.mgmt.logFlash
    ∧ (chooseBank s ≠ none → t.phase = .startup false) ∧ (chooseBank s = none → t.phase = .bootFailed)

/-- R412, column Module reset: a write of module_reset that the module takes ends every command without trace, frees every branch record,
disables every context, and clears huddle counters, retirements and arrival counters; it keeps local time, every page's state and pin,
routes, the death log, the owning role, spares, remap tables and retired frames; the incarnation advances by 1. -/
def Obligations.ModuleResetKeepsAndClears : Prop :=
  ∀ (s : State), barOpen s = true → ∃ t, exec .moduleReset s = .next t
    ∧ t.cmds = [] ∧ t.branches = [] ∧ t.ctxs = [] ∧ t.huddles = [] ∧ t.retireQ = [] ∧ t.regs.svcMode = 1 ∧ t.regs.traceOn = false
    ∧ (∀ q, (clusterOf t q).arrivals = [] ∧ (clusterOf t q).retired = (clusterOf s q).retired)
    ∧ t.localTime = s.localTime ∧ t.owner = s.owner
    ∧ (∀ p, pageState t p = pageState s p ∧ (aget? t.pool p).map Page.pinned = (aget? s.pool p).map Page.pinned)
    ∧ t.links.routes = s.links.routes ∧ t.links.deathLog = s.links.deathLog ∧ t.links.incarnation = s.links.incarnation + 1
    ∧ (∀ d, (carafeOf t d).s0 = (carafeOf s d).s0 ∧ (carafeOf t d).s1 = (carafeOf s d).s1
        ∧ (carafeOf t d).remapped = (carafeOf s d).remapped ∧ (carafeOf t d).retired = (carafeOf s d).retired)
    ∧ (chooseBank s ≠ none → t.phase = .startup true) ∧ (chooseBank s = none → t.phase = .bootFailed)

/-- R407 steps 4 and 5, R412: after a power-on reset every byte of the own carafes and scratch windows reads 0; a module reset zeroes the
scratch windows and keeps every byte of the carafes. -/
def Obligations.ResetsAndMemory : Prop :=
  ∀ (s : State), s.mem.wf = true →
    (∃ t, exec .powerOnReset s = .next t
      ∧ (∀ o, o < 2 ^ 39 → mget t.mem (2 ^ 50 * selfId t + o) = 0)
      ∧ (∀ o, o < 2 ^ 32 → mget t.mem (2 ^ 50 * selfId t + 2 ^ 46 + o) = 0))
    ∧ (barOpen s = true → ∃ t, exec .moduleReset s = .next t
      ∧ (∀ o, o < 2 ^ 32 → mget t.mem (2 ^ 50 * selfId t + 2 ^ 46 + o) = 0)
      ∧ (∀ o, o < 2 ^ 39 → mget t.mem (2 ^ 50 * selfId t + o) = mget s.mem (2 ^ 50 * selfId s + o)))

/-- R353, R354, R407, R448, R449: PERST on the owning port is a module reset after which start-up waits for the release and the owning role
stays; PERST on the other port resets only its reduced function; the release of the owning port's PERST starts t; a function then becomes
ready; step 8 ends in the running phase, with Barista answering and every enabled port that was DOWN on a link die in service training; a
loss of 54 V leaves no command, context or page and loses the records in Barista's buffer. -/
def Obligations.StartUpAndPower : Prop :=
  (∀ (s : State) (p : Nat), p = s.owner → hasPower s = true → ∃ t, exec (.perst p) s = .next t
    ∧ t.cmds = [] ∧ t.ctxs = [] ∧ t.owner = s.owner ∧ (hostPortOf t p).perst = true
    ∧ t.links.incarnation = s.links.incarnation + 1 ∧ t.localTime = s.localTime
    ∧ (chooseBank s ≠ none → t.phase = .startup false))
  ∧ (∀ (s : State) (p : Nat), p < 2 → p ≠ s.owner → ∃ t, exec (.reducedFunctionReset p) s = .next t
    ∧ (hostPortOf t p).ready = false ∧ (hostPortOf t p).request = false ∧ (hostPortOf t p).msixTable = [] ∧ (hostPortOf t p).pba = []
    ∧ (hostPortOf t p).streams = [] ∧ (∀ o, o ≠ p → hostPortOf t o = hostPortOf s o)
    ∧ t = { s with hostPorts := t.hostPorts })
  ∧ (∀ (s : State) (p : Nat), p < 2 → p = s.owner → s.phase = .startup false → ∃ t, exec (.perstRelease p) s = .next t
    ∧ t.phase = .startup true ∧ (hostPortOf t p).perst = false ∧ (∀ o, o ≠ p → hostPortOf t o = hostPortOf s o)
    ∧ t = { s with phase := .startup true, hostPorts := t.hostPorts })
  ∧ (∀ (s : State) (p : Nat), p < 2 → (hostPortOf s p).ready = false → s.phase = .startup true ∨ s.phase = .bootFailed →
    ∃ t, exec (.functionReady p) s = .next t ∧ (hostPortOf t p).ready = true ∧ (∀ o, o ≠ p → hostPortOf t o = hostPortOf s o)
      ∧ t = { s with hostPorts := t.hostPorts })
  ∧ (∀ (s : State), s.phase = .startup true → ∃ t, exec .startupComplete s = .next t
    ∧ t.phase = .running ∧ t.mgmt.ready = true
    ∧ (∀ p, p < 32 → (portOf s p).enable = true → (portOf s p).state = .down → (linkDieOf s (p / 4)).resetting = false →
        (portOf t p).state = .training)
    ∧ t.mem = s.mem ∧ t.pool = s.pool ∧ t.ctxs = s.ctxs ∧ t.cmds = s.cmds)
  ∧ (∀ (s : State), s.phase ≠ .off → ∃ t, exec .powerLoss s = .next t
    ∧ t.phase = .off ∧ t.cmds = [] ∧ t.ctxs = [] ∧ t.pool = [] ∧ t.mgmt.logBuffer = [] ∧ t.mgmt.logFlash = s.mgmt.logFlash
    ∧ (∀ p, (portOf t p).state = .down) ∧ (s.mgmt.backupPin = true → t.mgmt.lostAt = none)
    ∧ t.mgmt.calCount = s.mgmt.calCount)

/-- R413 to R417, as far as the state of the module shows them: the entry is refused with E_STATE where a row of R414's table applies, and
else its saves begin; the power-off leaves every byte of the carafes and takes every port DOWN and the owning link into L1; the timer wakes
with cause 1; the resume completes the STANDBY with its cause and its time, with scratch zeroed and the enabled ports training. -/
def Obligations.StandbyStages : Prop :=
  (∀ (s : State) (n i : Nat) (c : Cmd), validatedAs s n i 5 7 c → earlierDone s c = true → s.standby = none →
    exec (.standby n i) s
      = .next { s with standby := some { ctx := n, idx := i, stage := .draining, wakeMs := fld c.desc 16 4, enteredAt := s.localTime } })
  ∧ (∀ (s : State) (b : Standby), standbyAt s b .draining → s.phase = .running →
    ((othersFly s b.ctx = false ∧ channelsBusy s = false) ∨ us 1000 ≤ since s b.enteredAt) →
    (standbyRefused s b.ctx = true → (∃ c, findCmd s b.ctx b.idx = some c ∧ c.stage = .validated) →
      ∃ t, exec .standbyQuiesced s = .next t ∧ t.standby = none ∧ decidedAs t b.ctx b.idx .state 0 ∧ t.mem = s.mem ∧ t.pool = s.pool)
    ∧ (standbyRefused s b.ctx = false → ∃ t, exec .standbyQuiesced s = .next t ∧ t.standby = some { b with stage := .saving }))
  ∧ (∀ (s : State) (b : Standby), standbyAt s b .saving →
    (∀ k ∈ s.ctxs, k.2.res ≠ .saving ∧ k.2.res ≠ .restoring) →
    ∃ t, exec .standbyPowerOff s = .next t
      ∧ t.standby = some { b with stage := .asleep, enteredAt := s.localTime, wakeAt := s.localTime }
      ∧ (∀ p, p < 32 → (portOf t p).state = .down)
      ∧ (∀ a, isCarafe a = true → a < 2 ^ 64 → mget t.mem a = mget s.mem a)
      ∧ ((hostPortOf s s.owner).link = .up → (hostPortOf t t.owner).link = .lowPower))
  ∧ (∀ (s : State) (b : Standby), s.standby = some b → b.stage = .asleep → b.cause = none → b.wakeMs ≠ 0 →
    us (1000 * b.wakeMs) ≤ since s b.enteredAt →
    exec .wakeTimer s = .next { s with standby := some { b with cause := some 1, wakeAt := s.localTime } })
  ∧ (∀ (s : State) (b : Standby) (k : Nat), standbyAt s b .asleep → b.cause = some k → us 1500 ≤ since s b.wakeAt →
    (∃ c, findCmd s b.ctx b.idx = some c ∧ c.stage = .validated) →
    ∃ t, exec .standbyResume s = .next t ∧ t.standby = none
      ∧ decidedAs t b.ctx b.idx .ok (k + 2 ^ 32 * min (2 ^ 32 - 1) ((b.wakeAt - b.enteredAt).toNat / us 1000))
      ∧ (∀ p, p < 32 → (portOf s p).enable = true → (portOf s p).state = .down → (linkDieOf s (p / 4)).resetting = false →
          (portOf t p).state = .training)
      ∧ (∀ q, (clusterOf t q).arrivals = []))

/-- R290, R314, R316: the states of a port and what moves it. enable 0 makes it DISABLED, enable 1 makes a DISABLED port train; training
ends UP with the neighbour known, or DOWN after 100 ms, and trains again 1 ms later; a replay is counted; more than 256 replays within 1 ms,
a loss of lock and an admitted retrain lead to RECOVERING; RECOVERING ends UP, or DOWN after 2 ms. Each change is an event of the port;
every other port, memory, and every context and command are as before. -/
def Obligations.PortStates : Prop :=
  (∀ (s : State) (p : Nat), p < 32 → takesWrites s → ∃ t, exec (.portEnable p false) s = .next t
    ∧ (portOf t p).state = .disabled ∧ (portOf t p).enable = false ∧ (∀ o, o ≠ p → portOf t o = portOf s o) ∧ linksOnly s t)
  ∧ (∀ (s : State) (p : Nat), p < 32 → takesWrites s → (portOf s p).state = .disabled → (linkDieOf s (p / 4)).resetting = false →
    ∃ t, exec (.portEnable p true) s = .next t
      ∧ (portOf t p).state = .training ∧ (portOf t p).enable = true ∧ (∀ o, o ≠ p → portOf t o = portOf s o) ∧ linksOnly s t)
  ∧ (∀ (s : State) (p peer : Nat), p < 32 → linksLive s = true → (portOf s p).state = .training → ∃ t, exec (.portTrained p peer) s = .next t
    ∧ portMoved s t p .up ∧ (portOf t p).peer = peer % 16384 ∧ (portOf t p).peerValid = true ∧ linksOnly s t)
  ∧ (∀ (s : State) (p : Nat), p < 32 → linksLive s = true → (portOf s p).state = .training → us 100000 ≤ since s (portOf s p).since →
    ∃ t, exec (.portTrainingTimeout p) s = .next t ∧ portMoved s t p .down ∧ linksOnly s t)
  ∧ (∀ (s : State) (p : Nat), p < 32 → linksLive s = true → (portOf s p).state = .down → us 1000 ≤ since s (portOf s p).since →
    (portOf s p).enable = true → (linkDieOf s (p / 4)).resetting = false →
    ∃ t, exec (.portRetryTimer p) s = .next t ∧ portMoved s t p .training ∧ linksOnly s t)
  ∧ (∀ (s : State) (p : Nat), p < 32 → (portOf s p).state = .up → ∃ t, exec (.flitReplay p) s = .next t
    ∧ (portOf t p).replayCnt = (portOf s p).replayCnt + 1 ∧ (portOf t p).state = .up ∧ (portOf t p).evt = (portOf s p).evt
    ∧ (∀ o, o ≠ p → portOf t o = portOf s o) ∧ t = { s with links := { s.links with ports := t.links.ports } })
  ∧ (∀ (s : State) (p : Nat), p < 32 → linksLive s = true → (portOf s p).state = .up → 256 < (portOf s p).replays →
    ∃ t, exec (.replayStorm p) s = .next t ∧ (portOf t p).state = .recovering ∧ (portOf t p).evt = (portOf s p).evt ||| 3#32
      ∧ (portOf t p).evtCnt = (portOf s p).evtCnt + 1 ∧ (∀ o, o ≠ p → portOf t o = portOf s o) ∧ linksOnly s t)
  ∧ (∀ (s : State) (p : Nat), p < 32 → linksLive s = true → (portOf s p).state = .up →
    ∃ t, exec (.portLockLoss p) s = .next t ∧ portMoved s t p .recovering ∧ linksOnly s t)
  ∧ (∀ (s : State) (p : Nat), p < 32 → takesWrites s → linksLive s = true → (portOf s p).state = .up →
    umpKnown s rkLink p (0, 0) = false → s.mgmt.queued = [] →
    (∀ a ∈ s.mgmt.running, compatible { rank := rkLink, scope := p, since := s.localTime, info := (0, 0) } a = true) →
    ∃ t, exec (.portRetrain p) s = .next t ∧ portMoved s t p .recovering ∧ linksOnly s t)
  ∧ (∀ (s : State) (p : Nat), p < 32 → linksLive s = true → (portOf s p).state = .recovering →
    ∃ t, exec (.portRecovered p) s = .next t ∧ portMoved s t p .up ∧ linksOnly s t)
  ∧ (∀ (s : State) (p : Nat), p < 32 → linksLive s = true → (portOf s p).state = .recovering → us 2000 ≤ since s (portOf s p).since →
    ∃ t, exec (.recoveryTimeout p) s = .next t ∧ portMoved s t p .down ∧ linksOnly s t)

/-- R317: a write of LNK_ROUTE_IDX with commit 1 stores the two data registers into the entry and changes no other; with commit 0 it loads
the entry into the data registers and changes no entry. -/
def Obligations.RouteTable : Prop :=
  (∀ (s : State) (i : Nat), i < 16384 → takesWrites s → ∃ t, exec (.routeStore i) s = .next t
    ∧ (routeOf t i).mask = s.regs.routeData0 ∧ (routeOf t i).hop = s.regs.routeData1.zeroExtend 32
    ∧ (∀ j, j ≠ i → routeOf t j = routeOf s j) ∧ t.regs.routeIdx = BitVec.ofNat 14 i
    ∧ t = { s with links := t.links, regs := { s.regs with routeIdx := t.regs.routeIdx } })
  ∧ (∀ (s : State) (i : Nat), i < 16384 → takesWrites s → ∃ t, exec (.routeLoad i) s = .next t
    ∧ t.regs.routeData0 = (routeOf s i).mask ∧ t.regs.routeData1 = (routeOf s i).hop.truncate 29 ∧ t.regs.routeIdx = BitVec.ofNat 14 i
    ∧ t = { s with regs := t.regs })

/-- R292: a message of any type for another module leaves on the UP port of this module's route that the address chooses, unchanged, and
nothing of this module changes but what it sends; that it leaves by this module's table even under a hop list is the model's reading
(log entry 61). -/
def Obligations.TransitForwards : Prop :=
  ∀ (s : State) (p k o : Nat) (f : Flit), linksLive s = true → p < 32 → portUp s p = true → 1 ≤ k → k ≤ 12 → f.dst ≠ selfId s →
    leavesBy s f.dst f.address o →
    exec (.transitMessage p k f) s = .next { s with links := { s.links with out := s.links.out ++ [(o, { mtype := k, flit := f })] } }

/-- R193, R203, R296: a READ_REQ of a line of an own RESIDENT page is answered with a READ_REPLY of its tag that carries the line's 256 bytes as
they stand; no byte of memory changes.
R31, R268, R296: a READ_REPLY without error frees its tracker entry and lands for the command of the placement that asked: the 256 bytes
read there as the peer sent them, no other byte changes, and the command no longer awaits the line. -/
def Obligations.RemoteReads : Prop :=
  (∀ (s : State) (p o : Nat) (f : Flit) (e : Page), nextInOrder s p f → ownCarafe s (256 * (f.address / 256)) = true → gaOff f.address < 2 ^ 39 →
     aget? s.pool (pageOf f.address) = some e → e.state = .resident →
     leavesBy s f.src (256 * (f.address / 256) + poisonMask s (f.address / 256)) o →
     ∃ t m, exec (.readReq p f) s = .next t ∧ turnTaken s t f ∧ t.links.out = s.links.out ++ [(o, m)]
       ∧ m.mtype = 2 ∧ m.flit.dst = f.src ∧ m.flit.src = selfId s ∧ m.flit.tag = f.tag ∧ m.flit.cls = f.cls
       ∧ m.flit.data = mread s.mem (256 * (f.address / 256)) 256 ∧ t.mem = s.mem ∧ t.cmds = s.cmds)
  ∧ (∀ (s : State) (p : Nat) (f : Flit) (r : ReadOut) (c : Cmd), s.mem.wf = true → nextInOrder s p f → f.data.length = 256 → bits f.address 5 4 = 0 →
     s.links.reads.find? (fun r => r.tag == f.tag && r.module == f.src) = some r →
     findCmd s r.ctx r.idx = some c → c.epoch = r.epoch → c.epoch.toNat = f.epoch → c.stage = .placed →
     ∃ t k, exec (.readReply p f) s = .next t
       ∧ (∀ i, i < 256 → mget t.mem (256 * r.line + i) = f.data.getD i 0)
       ∧ (∀ a, a / 256 ≠ r.line → mget t.mem a = mget s.mem a)
       ∧ findCmd t r.ctx r.idx = some k ∧ k.await = c.await.filter (fun l => l / 4 != r.line) ∧ k.stage = .placed)

/-- R297, the peer's side: a HOLD of an own RESIDENT page is held and answered; WRITE_DATA stays invisible; a COMMIT applies what it holds at
once, on pages that are RESIDENT, and the hold ends; a hold whose commit has not begun lapses after 100 µs. The layout of the data is the
model's (log entry 43).
R297, the writer's side: the ACK of a HOLD ends the wait for that page, and for it alone. -/
def Obligations.RemoteWrites : Prop :=
  ((∀ (s : State) (p o : Nat) (f : Flit) (e : Page), nextInOrder s p f → ownCarafe s f.address = true →
     aget? s.pool (pageOf f.address) = some e → e.state = .resident → leavesBy s f.src f.address o →
     ∃ t m, exec (.hold p f) s = .next t ∧ turnTaken s t f ∧ (holdFor t f.src f.tag).pages = sins (holdFor s f.src f.tag).pages (pageOf f.address)
       ∧ t.links.out = s.links.out ++ [(o, m)] ∧ m.mtype = 6 ∧ m.flit.tag = f.tag ∧ m.flit.dst = f.src ∧ m.flit.data = [0]
       ∧ t = { s with links := t.links })
   ∧ (∀ (s : State) (p : Nat) (f : Flit), nextInOrder s p f → ∃ t, exec (.writeData p f) s = .next t ∧ turnTaken s t f
       ∧ (holdFor t f.src f.tag).data = (holdFor s f.src f.tag).data ++ writeCells f ∧ t = { s with links := t.links })
   ∧ (∀ (s : State) (p o : Nat) (f : Flit), nextInOrder s p f →
     (∀ c ∈ (holdFor s f.src f.tag).data, ownCarafe s c.1 = true ∧ pageState s (pageOf c.1) = some .resident) →
     leavesBy s f.src f.address o →
     ∃ t m, exec (.commit p f) s = .next t ∧ turnTaken s t f ∧ t.mem = mapply s.mem (holdFor s f.src f.tag).data
       ∧ (∀ h ∈ t.links.holdsIn, ¬ (h.src = f.src ∧ h.tag = f.tag)) ∧ t.links.out = s.links.out ++ [(o, m)] ∧ m.mtype = 6
       ∧ m.flit.tag = f.tag ∧ (∀ q, pageState t q = pageState s q) ∧ t.cmds = s.cmds ∧ t.ctxs = s.ctxs)
   ∧ (∀ (s : State) (src tag : Nat), us 100 ≤ since s (holdFor s src tag).since → (holdFor s src tag).data = [] →
     ∃ t, exec (.holdLapse src tag) s = .next t ∧ (∀ h ∈ t.links.holdsIn, ¬ (h.src = src ∧ h.tag = tag))
       ∧ (∀ h, ¬ (h.src = src ∧ h.tag = tag) → (h ∈ t.links.holdsIn ↔ h ∈ s.links.holdsIn))
       ∧ t = { s with links := { s.links with holdsIn := t.links.holdsIn } }))
  ∧ (∀ (s : State) (p : Nat) (f : Flit) (c : Cmd), nextInOrder s p f → findTag s f.tag = some c → c.epoch.toNat = f.epoch → c.stage = .issued →
     (f.src, pageOf f.address) ∈ c.holdsDue → f.data = [0] →
     ∃ t k, exec (.ack p f) s = .next t ∧ turnTaken s t f ∧ findCmd t c.ctx c.idx = some k
       ∧ k.holdsDue = c.holdsDue.filter (· != (f.src, pageOf f.address)) ∧ k.stage = .issued ∧ t.mem = s.mem)

/-- R299, R327, R319: a DEATH_NOTICE not older than the last PRESENT of the module, and a driver's declaration, make the module count as dead
and enter the death log once; a PRESENT with a newer incarnation makes it alive again. -/
def Obligations.DeathAndPresence : Prop :=
  (∀ (s : State) (p m : Nat) (inc : W32) (f : Flit), nextInOrder s p f → lineNat f 0 2 = m → lineNat f 4 4 = inc.toNat → m < 16384 → m ≠ selfId s →
    (aget s.links.presents m 0#32).toNat ≤ inc.toNat → deathKnown s m inc = false →
    ∃ t, exec (.deathNotice p f) s = .next t ∧ turnTaken s t f ∧ aget? t.links.dead m = some inc ∧ t.links.lastDead = m
      ∧ t.links.deathLog = logDeath s.links.deathLog { module := m, incarnation := inc, cause := lineNat f 8 1, time := s.localTime })
  ∧ (∀ (s : State) (m : Nat), m < 16384 → m ≠ selfId s → takesWrites s → deathKnown s m (aget s.links.presents m 0#32) = false →
    ∃ t, exec (.declareDead m) s = .next t ∧ aget? t.links.dead m = some (aget s.links.presents m 0#32) ∧ t.links.lastDead = m
      ∧ t.links.deathLog
        = logDeath s.links.deathLog { module := m, incarnation := aget s.links.presents m 0#32, cause := 3, time := s.localTime })
  ∧ (∀ (s : State) (p m : Nat) (inc : W32) (f : Flit), nextInOrder s p f → f.src ≠ m → lineNat f 0 2 = m → lineNat f 4 4 = inc.toNat → m < 16384 →
    m ≠ selfId s → newPresent s m inc = true →
    ∃ t, exec (.present p f) s = .next t ∧ aget? t.links.presents m = some inc ∧ aget? t.links.dead m = none
      ∧ m ∉ t.links.unreachable ∧ aget? t.links.waitSince m = none)
  ∧ (∀ (s : State) (p m : Nat) (inc : W32) (f : Flit), arrivesOn s p f → f.src = m → f.seq < 2 ^ 32 → lineNat f 0 2 = m →
    lineNat f 4 4 = inc.toNat → m < 16384 → m ≠ selfId s → newPresent s m inc = true →
    ∃ t, exec (.present p f) s = .next t ∧ turnTaken s t f ∧ aget? t.links.presents m = some inc ∧ aget? t.links.dead m = none
      ∧ m ∉ t.links.unreachable ∧ aget? t.links.waitSince m = none)
  ∧ (∀ (s : State) (m : Nat) (w : W64), aget? s.links.waitSince m = some w → us 10000 < since s w → routePorts s m 0 = [] →
    m ∉ s.links.unreachable → ∃ t, exec (.unreachableTimeout m) s = .next t ∧ m ∈ t.links.unreachable ∧ t.links.deathLog = s.links.deathLog
      ∧ t.links.dead = s.links.dead)

/-- R338, R299, R341: the Referee or Barista takes hold of the other, never both; Barista's restart counts and releases the hold, unless it
has been restarted three times within 60 s; a loss of the hub's heartbeat makes the link dies signal the death of the module. -/
def Obligations.Watchdogs : Prop :=
  (∀ (s : State), s.recov.refereeHeld = false → s.recov.baristaHeld = false → ∃ t, exec (.watchdogTimeout true) s = .next t
    ∧ t.recov.baristaHeld = true ∧ t.recov.baristaDown = true ∧ t.recov.refereeHeld = false ∧ t.recov.evt = withFlag s.recov.evt 0
    ∧ t.recov.evtCnt = s.recov.evtCnt + 1 ∧ t = { s with recov := t.recov, out := t.out, hostPorts := t.hostPorts })
  ∧ (∀ (s : State), s.recov.refereeHeld = false → s.recov.baristaHeld = false → ∃ t, exec (.watchdogTimeout false) s = .next t
    ∧ t.recov.refereeHeld = true ∧ t.recov.standingIn = true ∧ t.recov.baristaHeld = false ∧ t.recov.evtCnt = s.recov.evtCnt + 1
    ∧ t = { s with recov := t.recov, out := t.out, hostPorts := t.hostPorts })
  ∧ (∀ (s : State), s.recov.baristaHeld = true → recentRestarts s < 3 → ∃ t, exec .baristaRestart s = .next t
    ∧ t.recov.baristaHeld = false ∧ t.recov.baristaDown = false ∧ t.recov.restarts = min 255 (s.recov.restarts + 1)
    ∧ t.recov.evtCnt = s.recov.evtCnt + 1 ∧ t.mgmt.logHub = []
    ∧ t.mgmt.logBuffer = (s.mgmt.logBuffer ++ s.mgmt.logHub).take 4096)
  ∧ (∀ (s : State), s.phase = .running → ∃ t, exec .hubHeartbeatLoss s = .next t ∧ t.phase = .hubDead
    ∧ t.links.out.map (fun m => (m.1, m.2.mtype)) = s.links.out.map (fun m => (m.1, m.2.mtype)) ++ (upPorts s).map (fun q => (q, 11))
    ∧ t = { s with links := t.links, phase := .hubDead })

/-- R304, R305, R307: a collective whose every segment has committed at this member ends its issue: its work holds the elements of dst
and the result word; nothing is visible yet.
R302, R310: a segment whose deadline has passed ends its collective with E_DEADLINE; an abort received ends it with E_STATE or
E_DEADLINE, as its cause says; the step is remembered as ended without success and leaves its channel. -/
def Obligations.CollectivesEnd : Prop :=
  (∀ (s : State) (n i : Nat) (c : Cmd) (r : CollRun), findCmd s n i = some c → hClass c.desc = 4 → c.stage = .placed →
     c.peerError = none → c.coll = some r → awaits s c = false → r.started = true → r.committed.length = r.segments →
     fedNow s c (coOf c.desc) = .ready →
     (hOp c.desc = 1 → ∃ t, exec (.reduce n i) s = .next t ∧ collIssued s t c r)
     ∧ (hOp c.desc = 2 → ∃ t, exec (.allReduce n i) s = .next t ∧ collIssued s t c r)
     ∧ (hOp c.desc = 3 → ∃ t, exec (.allGather n i) s = .next t ∧ collIssued s t c r)
     ∧ (hOp c.desc = 4 → ∃ t, exec (.broadcast n i) s = .next t ∧ collIssued s t c r))
  ∧ ((∀ (s : State) (n i g : Nat) (c : Cmd) (r : CollRun), findCmd s n i = some c → c.coll = some r → r.started = true → c.stage = .placed →
     g < r.segments → g ∉ r.committed → us (coOf c.desc).deadline ≤ since s r.sentAt →
     ∃ t, exec (.segmentDeadline n i g) s = .next t ∧ decidedAs t n i .deadline 0
       ∧ (chanOf t r.channel).lastSteps = (r.step, false, r.members) :: (chanOf s r.channel).lastSteps
       ∧ (n, i) ∉ (chanOf t r.channel).queue ∧ t.mem = s.mem)
   ∧ (∀ (s : State) (p : Nat) (f : Flit) (c : Cmd) (r : CollRun), nextInOrder s p f → collCmd s (lineChannel f) f.tag = some c → onlyOne s c →
     c.stage = .placed → c.coll = some r → r.channel = lineChannel f → r.started = true → f.data.length = 1 →
     ∃ t, exec (.collAbort p f) s = .next t ∧ turnTaken s t f
       ∧ decidedAs t c.ctx c.idx (if lineNat f 0 1 = 1 then .state else .deadline) 0 ∧ t.mem = s.mem))

/-- R302, R305, R306, R309: a line of contributions to a started REDUCE or ALL_REDUCE enters each of its elements, widened, once: an element
already held or already formed keeps its value.
R301, R306, R307: a slot of a rally engine adds the lines that wait: each element of the first of them becomes the combination, in
ascending rank, of the contributions of every rank still counted, converted to dst's format, with the number of ranks added. -/
def Obligations.ReductionAdds : Prop :=
  (∀ (s : State) (p : Nat) (f : Flit) (c : Cmd) (r : CollRun), nextInOrder s p f → collCmd s (lineChannel f) f.tag = some c → onlyOne s c →
     c.stage = .placed → c.coll = some r → r.started = true → f.data.length ≠ 1 → coReduces (coOf c.desc) = true →
     memberAt r (lineRank f) = f.src → lineRank f < r.members.length → lineSegment f ≠ descSegment → lineNat f 0 4 = r.groupId →
     lineNat f 4 4 < 2 ^ 31 →
     ∃ t k r1, exec (.collLine p f) s = .next t ∧ turnTaken s t f ∧ findCmd t c.ctx c.idx = some k ∧ k.coll = some r1
       ∧ r1.results = r.results ∧ r1.committed = r.committed ∧ t.mem = s.mem
       ∧ (∀ e, e < min 32 ((coOf c.desc).count - lineNat f 4 4) →
           aget? r1.contribs ((lineNat f 4 4 + e) * 16384 + lineRank f)
             = if (aget? r.contribs ((lineNat f 4 4 + e) * 16384 + lineRank f)).isSome || (aget? r.results (lineNat f 4 4 + e)).isSome
               then aget? r.contribs ((lineNat f 4 4 + e) * 16384 + lineRank f)
               else some (widen (coOf c.desc) (lineNat f (8 + (fmtAt (coOf c.desc).fmtS).width / 8 * e) ((fmtAt (coOf c.desc).fmtS).width / 8))
                 (lineNat f (8 + (fmtAt (coOf c.desc).fmtS).width / 8 * min 32 ((coOf c.desc).count - lineNat f 4 4))
                   (if groupSize (coOf c.desc).cfgS = 0 then 0 else scaleBytes (coOf c.desc).cfgS)))))
  ∧ (∀ (s : State) (ld n i e : Nat) (c : Cmd) (r : CollRun) (es : List Nat), (aget s.linkDies ld {}).resetting = false →
     findCmd s n i = some c → slotCandidates s ld = [c] → c.coll = some r → (lineStarts (coOf c.desc)).filter (lineReady (coOf c.desc) r) = e :: es →
     ∃ t k r1, exec (.rallySlot ld) s = .next t ∧ findCmd t n i = some k ∧ k.coll = some r1 ∧ (chanOf t r.channel).lastSlot = s.localTime
       ∧ (∀ j, j < min 32 ((coOf c.desc).count - e) →
           aget? r1.results (e + j) = some (w32 (coResult s.mem (coOf c.desc) (e + j) (combineRanks (coOf c.desc)
             ((counted r).map (fun q => aget r.contribs ((e + j) * 16384 + q) fpZero)))), (counted r).length))
       ∧ t.mem = s.mem)

/-- R250: a WAIT, when validated and at each poll, reads its word: it completes with the value read where the condition holds (op 0: at
least value; op 1: equal), and else goes on waiting with the value noted; after timeout_us it completes with E_DEADLINE and the value last
read. The word lies in the module's own carafe or in host space; R249 has the module read a peer's word by message. -/
def Obligations.WaitReads : Prop :=
  (∀ (s : State) (n i : Nat) (c : Cmd), validatedAs s n i 5 2 c → peerCarafe s (sgOf c.desc).addr = false →
    meetLine s true (sgOf c.desc).addr = .fine → s.poison.contains ((sgOf c.desc).addr / 64) = false →
    ∀ v, v = mnat s.mem (sgOf c.desc).addr 8 →
    ((if (sgOf c.desc).op = 0 then (sgOf c.desc).value ≤ v else v = (sgOf c.desc).value) →
      (∃ t, exec (.wait n i) s = .next t ∧ decidedAs t n i .ok v ∧ t.mem = s.mem)
      ∧ (∃ t, exec (.waitPoll n i) s = .next t ∧ decidedAs t n i .ok v ∧ t.mem = s.mem))
    ∧ (¬ (if (sgOf c.desc).op = 0 then (sgOf c.desc).value ≤ v else v = (sgOf c.desc).value) →
      (∃ t, exec (.wait n i) s = .next t ∧ findCmd t n i = some { c with lastValue := w64 v } ∧ t = { s with cmds := t.cmds })
      ∧ (∃ t, exec (.waitPoll n i) s = .next t ∧ findCmd t n i = some { c with lastValue := w64 v } ∧ t = { s with cmds := t.cmds })))
  ∧ (∀ (s : State) (n i : Nat) (c : Cmd), validatedAs s n i 5 2 c → (sgOf c.desc).timeout ≠ 0 →
    us (sgOf c.desc).timeout ≤ since s c.validatedAt →
    ∃ t, exec (.waitTimeout n i) s = .next t ∧ decidedAs t n i .deadline c.lastValue.toNat ∧ t.mem = s.mem)

/-- R249, R298: a SIGNAL, once every earlier descriptor of its context has completed, writes its value (SET) or the sum modulo 2^64 (ADD) to its
word, and no other byte of memory; ADD's result is the word before. A SIGNAL message from a peer does the same and returns the word before
in its ACK. -/
def Obligations.SignalWrites : Prop :=
  (∀ (s : State) (n i : Nat) (c : Cmd), s.mem.wf = true → validatedAs s n i 5 3 c → earlierDone s c = true →
    peerCarafe s (sgOf c.desc).addr = false → meetLine s true (sgOf c.desc).addr = .fine →
    ((sgOf c.desc).op = 1 → s.poison.contains ((sgOf c.desc).addr / 64) = false ∧ isHost (sgOf c.desc).addr = false) →
    ∃ t, exec (.signal n i) s = .next t
      ∧ mnat t.mem (sgOf c.desc).addr 8 = (if (sgOf c.desc).op = 0 then (sgOf c.desc).value
          else (mnat s.mem (sgOf c.desc).addr 8 + (sgOf c.desc).value) % 2 ^ 64)
      ∧ (∀ a, ¬ ((sgOf c.desc).addr ≤ a ∧ a < (sgOf c.desc).addr + 8) → mget t.mem a = mget s.mem a)
      ∧ decidedAs t n i .ok (if (sgOf c.desc).op = 0 then 0 else mnat s.mem (sgOf c.desc).addr 8))
  ∧ (∀ (s : State) (p o : Nat) (f : Flit) (e : Page), s.mem.wf = true → nextInOrder s p f → ownCarafe s f.address = true →
    aget? s.pool (pageOf f.address) = some e → e.state = .resident → lineNat f 0 1 ≤ 1 → s.poison.contains (f.address / 64) = false →
    leavesBy s f.src f.address o →
    ∃ t m, exec (.signalMsg p f) s = .next t ∧ turnTaken s t f
      ∧ mnat t.mem f.address 8 = (if lineNat f 0 1 = 0 then lineNat f 8 8 else (mnat s.mem f.address 8 + lineNat f 8 8) % 2 ^ 64)
      ∧ (∀ a, ¬ (f.address ≤ a ∧ a < f.address + 8) → mget t.mem a = mget s.mem a)
      ∧ t.links.out = s.links.out ++ [(o, m)] ∧ m.mtype = 6 ∧ m.flit.tag = f.tag ∧ m.flit.dst = f.src
      ∧ lineNat m.flit 8 8 = (if lineNat f 0 1 = 0 then 0 else mnat s.mem f.address 8))

/-- R248: a FENCE has a body that is entirely reserved. It completes with E_OK and result word 0 once every earlier descriptor of its context has
completed, and not before; it changes nothing but its own command, what it reserved, and its cluster. A descriptor after it is not validated until
it has completed. -/
def Obligations.FenceCompletes : Prop :=
  (∀ (s : State) (n i : Nat) (c : Cmd), validatedAs s n i 5 1 c → earlierDone s c = true →
    ∃ t, exec (.fence n i) s = .next t ∧ decidedAs t n i .ok 0
      ∧ (∀ a b, ¬ (n = a ∧ i = b) → findCmd t a b = findCmd s a b)
      ∧ t.mem = s.mem ∧ t.pool = s.pool ∧ t.ctxs = s.ctxs ∧ t.branches = s.branches ∧ t.links = s.links)
  ∧ (∀ (s : State) (n i : Nat) (c : Cmd), validatedAs s n i 5 1 c → earlierDone s c = false → exec (.fence n i) s = .next s)
  ∧ (∀ (s : State) (c x : Cmd), x ∈ earlier s c → hClass x.desc = 5 → hOp x.desc = 1 → mayValidate s c = false)
  ∧ (∀ (s : State) (n i : Nat) (c : Cmd), findCmd s n i = some c → c.stage = .fetched → mayValidate s c = true → awaits s c = false →
    c.peerError = none → hClass c.desc = 5 → hOp c.desc = 1 → (∃ o, 16 ≤ o ∧ o < 128 ∧ fld c.desc o 1 ≠ 0) →
    ∃ t, exec (.fence n i) s = .next t ∧ decidedAs t n i .format 0 ∧ t = { s with cmds := t.cmds, trace := t.trace })

/-- R251, R252: a HUDDLE at its own home is counted; the last participant's arrival completes every HUDDLE counted and begins the next epoch; an
arrival by message is counted the same; the home's answer completes a waiting HUDDLE with its epoch; a timeout aborts the epoch. -/
def Obligations.Huddles : Prop :=
  (∀ (s : State) (n i : Nat) (c : Cmd) (x : Hd), validatedAs s n i 5 4 c → x = hdOf c.desc → c.arrived = false → earlierDone s c = true →
    x.home = selfId s → (huddleOf s x.id).epoch.toNat = x.epoch →
    ((huddleOf s x.id).participants = 0 ∨ ((huddleOf s x.id).participants = x.n ∧ (huddleOf s x.id).timeoutUs = x.timeout)) →
    ((huddleOf s x.id).arrivals.length + 1 < x.n → ∃ t, exec (.huddle n i) s = .next t
      ∧ (huddleOf t x.id).arrivals = (huddleOf s x.id).arrivals ++ [{ module := selfId s, tag := cmdTag c, cls := hSvc c.desc }]
      ∧ (huddleOf t x.id).epoch = (huddleOf s x.id).epoch ∧ findCmd t n i = some { c with arrived := true }
      ∧ t = { s with cmds := t.cmds, huddles := t.huddles })
    ∧ (x.n ≤ (huddleOf s x.id).arrivals.length + 1 → (∀ d ∈ s.cmds, cmdTag d = cmdTag c → d = c) →
      ∃ t, exec (.huddle n i) s = .next t ∧ decidedAs t n i .ok x.epoch ∧ (huddleOf t x.id).arrivals = []
        ∧ (huddleOf t x.id).epoch = (huddleOf s x.id).epoch + 1 ∧ t.mem = s.mem))
  ∧ (∀ (s : State) (p : Nat) (f : Flit) (h : Huddle), nextInOrder s p f → lineNat f 0 1 = 0 → h = huddleOf s (f.address % 1024) →
    h.epoch.toNat = lineNat f 4 4 → (h.participants = 0 ∨ (h.participants = lineNat f 8 4 ∧ h.timeoutUs = lineNat f 12 4)) →
    h.arrivals.length + 1 < lineNat f 8 4 →
    ∃ t, exec (.huddleMsg p f) s = .next t ∧ turnTaken s t f
      ∧ (huddleOf t (f.address % 1024)).arrivals = h.arrivals ++ [{ module := f.src, tag := f.tag, cls := f.cls }]
      ∧ (huddleOf t (f.address % 1024)).epoch = h.epoch ∧ t.cmds = s.cmds ∧ t.mem = s.mem)
  ∧ (∀ (s : State) (p : Nat) (f : Flit) (c : Cmd), nextInOrder s p f → lineNat f 0 1 = 1 → lineNat f 1 1 = 0 → findTag s f.tag = some c →
    huddling c = true → (hdOf c.desc).home = f.src →
    ∃ t, exec (.huddleMsg p f) s = .next t ∧ turnTaken s t f ∧ decidedAs t c.ctx c.idx .ok (lineNat f 4 4) ∧ t.mem = s.mem)
  ∧ (∀ (s : State) (id : Nat), (huddleOf s id).participants ≠ 0 → (huddleOf s id).timeoutUs ≠ 0 →
    us (huddleOf s id).timeoutUs ≤ since s (huddleOf s id).since →
    ∃ t, exec (.huddleTimeout id) s = .next t ∧ (huddleOf t id).arrivals = [] ∧ (huddleOf t id).epoch = (huddleOf s id).epoch + 1
      ∧ (∀ j, j ≠ id → huddleOf t j = huddleOf s j) ∧ t.mem = s.mem)

/-- R229: a poll reads the host half of a doorbell block; where it finds sq_tail advanced within the ring, the interval becomes the larger of
poll_min and I ÷ 2; at the eighth consecutive unchanged poll the smaller of poll_max and 2I; a tail that lies beyond the ring is an event of
the context (R259). No other context changes. -/
def Obligations.Polling : Prop :=
  (∀ (s : State) (n : Nat), takesWork s = true → (ctxOf s n).state = .active → (ctxOf s n).polling = false → hostUp s = true →
    ∃ t, exec (.doorbellPoll n) s = .next t ∧ ctxOf t n = { ctxOf s n with polling := true, lastPoll := s.localTime } ∧ otherCtxs s t n
      ∧ t = { s with ctxs := t.ctxs })
  ∧ (∀ (s : State) (n a h : Nat) (k : Ctx), k = ctxOf s n → k.polling = true → (w32 a - k.sqHead).toNat ≤ 2 ^ k.sqLog2 → w32 a ≠ k.sqTailSeen →
    ∃ t, exec (.pollResult n a h) s = .next t ∧ otherCtxs s t n
      ∧ ctxOf t n = { k with polling := false, cqHeadSeen := w32 h, sqTailSeen := w32 a, idlePolls := 0, pollI := max (pollMin s) (k.pollI / 2) })
  ∧ (∀ (s : State) (n a h : Nat) (k : Ctx), k = ctxOf s n → k.polling = true → (w32 a - k.sqHead).toNat ≤ 2 ^ k.sqLog2 → w32 a = k.sqTailSeen →
    ∃ t, exec (.pollResult n a h) s = .next t ∧ otherCtxs s t n
      ∧ ctxOf t n = (if k.idlePolls + 1 ≥ 8
          then { k with polling := false, cqHeadSeen := w32 h, idlePolls := 0, pollI := min (pollMax s) (2 * k.pollI) }
          else { k with polling := false, cqHeadSeen := w32 h, idlePolls := k.idlePolls + 1 })
      ∧ t = { s with ctxs := t.ctxs, hostPorts := t.hostPorts })
  ∧ (∀ (s : State) (n a h : Nat) (k : Ctx), k = ctxOf s n → k.polling = true → 2 ^ k.sqLog2 < (w32 a - k.sqHead).toNat →
    ∃ t, exec (.pollResult n a h) s = .next t ∧ otherCtxs s t n
      ∧ ctxOf t n = { k with polling := false, cqHeadSeen := w32 h, evt := withFlag k.evt 1, evtCnt := k.evtCnt + 1 })

/-- R228, R236: a fetch copies the descriptor at sq_head into the hub behind the others, unvalidated, and advances sq_head. R230: a ring access
that fails halts the context with halt_reason ring_access at sq_head. -/
def Obligations.FetchAndRingErrors : Prop :=
  (∀ (s : State) (n : Nat) (d : Desc), mayFetch s n = true → ∃ t c, exec (.descriptorFetch n d) s = .next t ∧ t.cmds = s.cmds ++ [c]
    ∧ c.ctx = n ∧ c.idx = (ctxOf s n).sqHead.toNat ∧ c.desc = d ∧ c.stage = .fetched ∧ c.validated = false
    ∧ ctxOf t n = { ctxOf s n with sqHead := (ctxOf s n).sqHead + 1, lastDesc := some d, lastEnd := none } ∧ otherCtxs s t n
    ∧ t.pool = s.pool ∧ t.branches = s.branches ∧ t.links = s.links)
  ∧ (∀ (s : State) (n : Nat) (k : Ctx), k = ctxOf s n → k.state = .active → ∃ t, exec (.ringAccessError n) s = .next t ∧ otherCtxs s t n
    ∧ ctxOf t n = { k with state := .halted, haltReason := .ringAccess, haltIdx := k.sqHead, stopping := false, polling := false,
                           evt := k.evt ||| 9#32, evtCnt := k.evtCnt + 1 }
    ∧ t.cmds = s.cmds)

/-- R234, R235: the record of a command whose status is decided goes to the slot of cq_tail, with its phase, and the command leaves the hub;
cq_tail advances. The slot lies apart from the module half of the doorbell block. At the end of a holdoff one message is sent for the records
written in it, and a new holdoff begins. -/
def Obligations.CompletionRecords : Prop :=
  (∀ (s : State) (n i a : Nat) (c : Cmd) (k : Ctx), s.mem.wf = true → findCmd s n i = some c → c.stage = .decided → k = ctxOf s n →
    hostUp s = true → ¬ (k.state = .halted ∧ k.haltReason = .ringAccess) →
    a = hostAddr s (k.cqAddr.toNat + 32 * (k.cqTail.toNat % 2 ^ k.cqLog2)) →
    (a + 32 ≤ hostAddr s (k.dbAddr.toNat + 32) ∨ hostAddr s (k.dbAddr.toNat + 32) + 32 ≤ a) →
    ∃ t, exec (.completionRecordWrite n i) s = .next t
      ∧ mnat t.mem a 32 = ((recordOf c).toNat + 2 ^ 56 * (if k.cqTail.toNat / 2 ^ k.cqLog2 % 2 = 0 then 1 else 0)) % 2 ^ 256
      ∧ (ctxOf t n).cqTail = k.cqTail + 1 ∧ findCmd t n i = none ∧ t.pool = s.pool ∧ t.branches = s.branches)
  ∧ (∀ (s : State) (n : Nat) (k : Ctx), k = ctxOf s n → k.irqPending = true → k.holdoffEnd.toNat ≤ s.localTime.toNat →
    ∃ t, exec (.irqHoldoffExpiry n) s = .next t
      ∧ ctxOf t n = { k with irqPending := false, holdoffEnd := s.localTime + w64 (us k.irqHoldoff) } ∧ otherCtxs s t n
      ∧ (vectorOpen (hostPortOf s s.owner) k.msixVector = true → t.out.msix = s.out.msix ++ [(s.owner, k.msixVector)])
      ∧ (vectorOpen (hostPortOf s s.owner) k.msixVector = false → t.out.msix = s.out.msix
          ∧ k.msixVector ∈ (hostPortOf t s.owner).pba)
      ∧ t = { s with ctxs := t.ctxs, out := t.out, hostPorts := t.hostPorts })

/-- R245 to R247, R256, R385: CTX_CTL_n. An enabled context starts with every index 0 and its stream record from its key, RESIDENT where no
RESIDENT context conflicts with it (R272); one whose rings or access list are not in order stays DISABLED with an event. A stop holds
validation; when its kills have taken effect every command that had been validated and had not begun to commit is E_KILLED, no unvalidated
descriptor is left, and the context is HALTED at sq_head. A resume makes it ACTIVE again. A reset ends in DISABLED with no command and no
branch left, and keeps the access list and the ring registers. -/
def Obligations.ContextControl : Prop :=
  (∀ (s : State) (n : Nat) (k : Ctx), takesWrites s → k = ctxOf s n → k.state = .disabled → mayEnable k = true →
    ∃ t, exec (.contextEnable n) s = .next t ∧ (ctxOf t n).state = .active ∧ (ctxOf t n).sqHead = 0 ∧ (ctxOf t n).cqTail = 0
      ∧ (ctxOf t n).sqTailSeen = 0 ∧ (ctxOf t n).cqHeadSeen = 0 ∧ (ctxOf t n).streamKey = k.keyReg ∧ (ctxOf t n).streamCtr = 0
      ∧ (ctxOf t n).pollI = pollMax s ∧ ((ctxOf t n).res = .resident ↔ nobodyResident s n = true) ∧ (ctxOf t n).acl = k.acl
      ∧ otherCtxs s t n ∧ t = { s with ctxs := t.ctxs, mem := t.mem, poison := t.poison })
  ∧ (∀ (s : State) (n : Nat) (k : Ctx), takesWrites s → k = ctxOf s n → k.state = .disabled → mayEnable k = false →
    ∃ t, exec (.contextEnable n) s = .next t ∧ ctxOf t n = { k with evt := withFlag k.evt 2, evtCnt := k.evtCnt + 1 } ∧ otherCtxs s t n
      ∧ t = { s with ctxs := t.ctxs, out := t.out, hostPorts := t.hostPorts })
  ∧ (∀ (s : State) (n : Nat), takesWrites s → (ctxOf s n).state = .active → ∃ t, exec (.contextStop n) s = .next t
    ∧ ctxOf t n = { ctxOf s n with stopping := true } ∧ otherCtxs s t n ∧ t = { s with ctxs := t.ctxs })
  ∧ (∀ (s : State) (n : Nat), hubKeys s → s.standby = none → (ctxOf s n).state = .active → (ctxOf s n).stopping = true →
    ∃ t, exec (.contextStopDone n) s = .next t ∧ (ctxOf t n).state = .halted ∧ (ctxOf t n).haltReason = .stop ∧ (ctxOf t n).stopping = false
      ∧ (ctxOf t n).haltIdx = (ctxOf t n).sqHead
      ∧ (∀ d ∈ t.cmds, d.ctx = n → d.stage = .committed ∨ d.stage = .decided)
      ∧ (∀ c ∈ s.cmds, c.ctx = n → killable c = true → decidedAs t n c.idx .killed 0))
  ∧ (∀ (s : State) (n : Nat) (k : Ctx), takesWrites s → k = ctxOf s n → k.state = .halted → k.haltReason ≠ .dieReset →
    ∃ t, exec (.contextResume n) s = .next t ∧ (ctxOf t n).state = .active ∧ (ctxOf t n).haltReason = .none ∧ (ctxOf t n).pollI = pollMax s
      ∧ (ctxOf t n).sqHead = k.sqHead ∧ (hostUp s = true → (ctxOf t n).heldRecords = []
          ∧ (ctxOf t n).cqTail = k.cqTail + w32 k.heldRecords.length) ∧ otherCtxs s t n ∧ t.cmds = s.cmds)
  ∧ (∀ (s : State) (n : Nat) (k : Ctx), takesWrites s → k = ctxOf s n → k.state ≠ .disabled → k.state ≠ .resetting →
    ∃ t, exec (.contextReset n) s = .next t ∧ ctxOf t n = { k with state := .resetting, stopping := true, polling := false }
      ∧ otherCtxs s t n ∧ t = { s with ctxs := t.ctxs, mem := t.mem, poison := t.poison })
  ∧ (∀ (s : State) (n : Nat) (k : Ctx), k = ctxOf s n → k.state = .resetting → (∀ c ∈ s.cmds, c.ctx = n → c.stage ≠ .committed) →
    ∃ t, exec (.contextResetDone n) s = .next t ∧ (ctxOf t n).state = .disabled ∧ (∀ c ∈ t.cmds, c.ctx ≠ n)
      ∧ (ctxOf t n).acl = k.acl ∧ (ctxOf t n).sqAddr = k.sqAddr ∧ (ctxOf t n).cqAddr = k.cqAddr ∧ (ctxOf t n).evtCnt = k.evtCnt
      ∧ (ctxOf t n).streamKey = 0 ∧ (ctxOf t n).heldRecords = [] ∧ (∀ e ∈ t.branches, e.2.ctx ≠ n))

/-- R50, R238, R245, R267, R268: a command that has been validated and has not begun to commit may be killed: under a stop or reset it ends with
E_KILLED; else it runs again under the next epoch tag. No byte of memory, no page and no branch changes. -/
def Obligations.KillsLeaveNoTrace : Prop :=
  (∀ (s : State) (n i : Nat) (c : Cmd), findCmd s n i = some c → killable c = true → s.standby = none → (ctxOf s n).stopping = false →
    ∃ t, exec (.commandKill n i) s = .next t ∧ rerunOf t c ∧ t.mem = s.mem ∧ t.poison = s.poison ∧ t.pool = s.pool ∧ t.branches = s.branches
      ∧ t.brMem = s.brMem)
  ∧ (∀ (s : State) (n i : Nat) (c : Cmd), findCmd s n i = some c → killable c = true → s.standby = none → (ctxOf s n).stopping = true →
    ∃ t, exec (.commandKill n i) s = .next t ∧ decidedAs t n i .killed 0 ∧ t.mem = s.mem ∧ t.poison = s.poison ∧ t.pool = s.pool
      ∧ t.branches = s.branches ∧ t.brMem = s.brMem)

/-- R31, R262 to R269, R274: a command that may be placed goes to the cluster that the front end chooses, under an arrival counter of its own
that expects its operand lines; one that needs no cluster goes to a die; a cluster named outside its service completes it with E_STATE; its
context has run now.
R270, R145: the placement loop runs no more often than every 100 µs; it marks the regions that fall behind the median and moves the state of
a branch that may move to the cluster picked, and of no other. The rates and the picks come with the row (log entry 46). -/
def Obligations.PlacementAndItsLoop : Prop :=
  ((∀ (s : State) (n i q : Nat) (b : Bool) (c : Cmd), findCmd s n i = some c → mayPlace s c = true → needsCluster c.desc = true →
     spot s c = .on q b → (b = true ∨ inTurn s c q = true) →
     ∃ t k j a, exec (.commandPlace n i) s = .next t ∧ findCmd t n i = some k ∧ k.stage = .placed ∧ k.pos = some q ∧ k.die = q / 32
       ∧ k.borrowed = b ∧ k.placedAt = s.localTime ∧ k.counter = some j ∧ j < 64 ∧ aget? (clusterOf t q).arrivals j = some a
       ∧ a.ctx = n ∧ a.idx = i ∧ a.count = 0 ∧ a.expected = k.await.length ∧ (ctxOf t n).lastRun = s.localTime ∧ t.mem = s.mem)
   ∧ (∀ (s : State) (n i : Nat) (c : Cmd), findCmd s n i = some c → mayPlace s c = true → needsCluster c.desc = false →
     trackerUsed s (operandDie s c) < 4096 →
     ∃ t k, exec (.commandPlace n i) s = .next t ∧ findCmd t n i = some k ∧ k.stage = .placed ∧ k.die = operandDie s c
       ∧ k.placedAt = s.localTime ∧ (ctxOf t n).lastRun = s.localTime ∧ t.mem = s.mem ∧ t.clusters = s.clusters)
   ∧ (∀ (s : State) (n i : Nat) (c : Cmd), findCmd s n i = some c → mayPlace s c = true → needsCluster c.desc = true → spot s c = .fails →
     ∃ t, exec (.commandPlace n i) s = .next t ∧ decidedAs t n i .state 0 ∧ t.mem = s.mem))
  ∧ ((∀ (s : State) (rates : List Nat), us 100 ≤ since s s.loopAt → ∃ t, exec (.placementLoop rates []) s = .next t ∧ t.loopAt = s.localTime
     ∧ (∀ r, r < 64 → (regionOf t r).slow = slowNow (regionOf s r) (rates.getD r 0) (twiceMedian ((rates.take 64).filter (· != 0))))
     ∧ t = { s with loopAt := t.loopAt, regions := t.regions })
   ∧ (∀ (s : State) (rates : List Nat) (b q : Nat) (x : Branch), us 100 ≤ since s s.loopAt →
     (∀ r, r < 64 → slowNow (regionOf s r) (rates.getD r 0) (twiceMedian ((rates.take 64).filter (· != 0))) = (regionOf s r).slow) →
     branchOf s b = some x → mayMove s b q = true →
     ∃ t, exec (.placementLoop rates [(b, q)]) s = .next t ∧ branchOf t b = some { x with statePos := qToPos q }
       ∧ (∀ d, d ≠ b → branchOf t d = branchOf s d) ∧ t.brMem = s.brMem ∧ t.cmds = s.cmds))

/-- R272 to R276: an eviction begins a save; a marked one that has waited 100 µs too; when the save is done the context is SWAPPED and its whole
footprint stands in its save area line by line; a runnable context restores when no conflicting one is there, and then its scratch holds the
saved lines again. That the lines stand in rising order is the model's choice (log entry 45). -/
def Obligations.Residency : Prop :=
  (∀ (s : State) (n r : Nat) (k : Ctx), k = ctxOf s n → hubKeys s → k.res = .resident → k.state ≠ .disabled → k.markWait = false → runnable s r = true →
    n ∈ evictable s r → waitedLongest s r = true → leastRun s n r = true →
    (∀ m ∈ conflicting s r, (ctxOf s m).res ≠ .saving ∧ (ctxOf s m).markWait = false) → marks s n = none →
    ∃ t, exec (.contextEvict n r) s = .next t ∧ (ctxOf t n).res = .saving ∧ (ctxOf t n).evictions = k.evictions + 1
      ∧ (ctxOf t n).marked = false ∧ (∀ d ∈ t.cmds, d.ctx = n → d.stage ≠ .placed ∧ d.stage ≠ .issued) ∧ t.mem = s.mem)
  ∧ (∀ (s : State) (n : Nat) (k : Ctx), k = ctxOf s n → k.markWait = true → k.res = .resident → us 100 ≤ since s k.markSince →
    ∃ t, exec (.markWaitTimeout n) s = .next t ∧ (ctxOf t n).res = .saving ∧ (ctxOf t n).evictions = k.evictions + 1
      ∧ (ctxOf t n).marked = false ∧ (ctxOf t n).markWait = false ∧ t.mem = s.mem)
  ∧ (∀ (s : State) (n : Nat) (k : Ctx), s.mem.wf = true → s.standby = none → k = ctxOf s n → k.res = .saving → k.savedRanges = none →
    ∃ t, exec (.contextSaveDone n) s = .next t ∧ (ctxOf t n).res = .swapped ∧ otherCtxs s t n ∧ t.cmds = s.cmds
      ∧ (∀ i j, i < (footLines s n).length → j < 64 →
          mget t.mem (saveBase k + 64 * i + j) = mget s.mem (64 * (footLines s n).getD i 0 + j)))
  ∧ (∀ (s : State) (n : Nat), placing s = true → runnable s n = true → waitedLongest s n = true → granulesBack s n = true →
    (∀ m ∈ conflicting s n, (ctxOf s m).res = .swapped) →
    ∃ t, exec (.contextRestore n) s = .next t ∧ ctxOf t n = { ctxOf s n with res := .restoring } ∧ otherCtxs s t n ∧ t = { s with ctxs := t.ctxs })
  ∧ (∀ (s : State) (n : Nat) (k : Ctx), s.mem.wf = true → s.standby = none → k = ctxOf s n → k.res = .restoring → k.savedRanges = none →
    k.saveEmpty = false →
    ∃ t, exec (.contextRestoreDone n) s = .next t ∧ ctxOf t n = { k with res := .resident, residentAt := s.localTime } ∧ otherCtxs s t n
      ∧ t.cmds = s.cmds
      ∧ (∀ i j, i < (footLines s n).length → j < 64 →
          mget t.mem (64 * (footLines s n).getD i 0 + j) = mget s.mem (saveBase k + 64 * i + j)))

/-- R38, R46, R72, R237, R238: a CONVERT, FOLD, ELTWISE, SCAN, WINDOW, DETECT or MATMUL whose issue is due and whose operands and destination are in
place ends its issue with the work that its chapter gives it, computed from the operands as they stand; nothing of it is visible yet. -/
def Obligations.ComputeRowsIssue : Prop :=
  (∀ (s : State) (n i : Nat) (c : Cmd), issueDue s n i 1 1 c → meet s (mmUsed (mmOf c.desc)) (mmWrites (mmOf c.desc)) = .fine →
    ∃ t d, exec (.matmul n i) s = .next t ∧ issued s t c d
      ∧ d.work.writes = (mmFinish (operandMem s (mmUsed (mmOf c.desc))) (mmOf c.desc) c).work.writes
      ∧ d.work.stats = (mmFinish (operandMem s (mmUsed (mmOf c.desc))) (mmOf c.desc) c).work.stats
      ∧ (d.work.reseq = true ↔ 1 < (mmGroups (mmOf c.desc) c.qFree).length))
  ∧ (∀ (s : State) (n i : Nat) (c : Cmd), issueDue s n i 1 2 c → meet s (cvUsed (cvOf c.desc)) (cvWrites (cvOf c.desc)) = .fine →
    ∃ t, exec (.convert n i) s = .next t
      ∧ issued s t c { c with work := cvWork (operandMem s (cvUsed (cvOf c.desc))) c (cvOf c.desc) })
  ∧ (∀ (s : State) (n i : Nat) (c : Cmd), issueDue s n i 1 5 c → meet s (foGroupRange (foOf c.desc)) (foWrites (foOf c.desc)) = .fine →
    meet s (foUsed (operandMem s (foGroupRange (foOf c.desc))) (foOf c.desc)) (foWrites (foOf c.desc)) = .fine →
    ∃ t, exec (.fold n i) s = .next t
      ∧ issued s t c { c with work := foWork (operandMem s (foUsed (operandMem s (foGroupRange (foOf c.desc))) (foOf c.desc))) (foOf c.desc) })
  ∧ (∀ (s : State) (n i : Nat) (c : Cmd), issueDue s n i 1 6 c → meet s (scUsed (scOf c.desc)) (scWrites (scOf c.desc)) = .fine →
    ((scOf c.desc).src = 0 → ∀ b ∈ headerBranches c.desc, b ∉ s.brPoison) →
    ∃ t, exec (.scan n i) s = .next t
      ∧ issued s t c { c with work := scWork (operandMem s (scUsed (scOf c.desc))) s.brMem c (scOf c.desc) })
  ∧ (∀ (s : State) (n i : Nat) (c : Cmd), issueDue s n i 1 7 c → meet s (elUsed (elOf c.desc)) (elWrites (elOf c.desc)) = .fine →
    ∃ t, exec (.eltwise n i) s = .next t
      ∧ issued s t c { c with work := elWork (operandMem s (elUsed (elOf c.desc))) c (elOf c.desc) })
  ∧ (∀ (s : State) (n i : Nat) (c : Cmd), issueDue s n i 1 8 c → wnHaloWait c (wnOf c.desc) = false →
    meet s (wnUsed (wnOf c.desc)) (wnWrites (wnOf c.desc)) = .fine →
    ∃ t d, exec (.window n i) s = .next t ∧ issued s t c d
      ∧ d.work.writes = (wnWork (operandMem s (wnUsed (wnOf c.desc))) c (wnOf c.desc)).writes
      ∧ d.work.stats = (wnWork (operandMem s (wnUsed (wnOf c.desc))) c (wnOf c.desc)).stats
      ∧ d.work.reseq = wnReseq (wnOf c.desc) c.qFree)
  ∧ (∀ (s : State) (n i : Nat) (c : Cmd), issueDue s n i 1 9 c → meet s (dtUsed (dtOf c.desc)) (dtWrites (dtOf c.desc)) = .fine →
    ∃ t, exec (.detect n i) s = .next t
      ∧ issued s t c { c with work := dtWork (operandMem s (dtUsed (dtOf c.desc))) (dtOf c.desc) })

/-- R91, R94, R104, R110 to R115, R126, R136 to R138: an attention, sequence-cache or branch command whose issue is due and whose reading of its
tables, lists and branches ends well ends its issue with the generations that it has read; nothing of it is visible yet. -/
def Obligations.TableRowsIssue : Prop :=
  (∀ (s : State) (n i : Nat) (c d : Cmd), issueDue s n i 1 3 c → atRun s c = .done d → ∃ t, exec (.attend n i) s = .next t ∧ issued s t c d)
  ∧ (∀ (s : State) (n i : Nat) (c d : Cmd), issueDue s n i 1 4 c → bwdRun s c = .done d →
    ∃ t, exec (.attendBwd n i) s = .next t ∧ issued s t c d)
  ∧ (∀ (s : State) (n i : Nat) (c d : Cmd), issueDue s n i 3 1 c → apSpec.run s c = .done d → ∃ t, exec (.append n i) s = .next t ∧ issued s t c d)
  ∧ (∀ (s : State) (n i : Nat) (c d : Cmd), issueDue s n i 3 2 c → tuSpec.run s c = .done d →
    ∃ t, exec (.tableUpdate n i) s = .next t ∧ issued s t c d)
  ∧ (∀ (s : State) (n i : Nat) (c d : Cmd), issueDue s n i 3 3 c → vfSpec.run s c = .done d → ∃ t, exec (.verify n i) s = .next t ∧ issued s t c d)
  ∧ (∀ (s : State) (n i : Nat) (c d : Cmd), issueDue s n i 3 4 c → pmSpec.run s c = .done d →
    ∃ t, exec (.prefixMatch n i) s = .next t ∧ issued s t c d)
  ∧ (∀ (s : State) (n i : Nat) (c d : Cmd), issueDue s n i 3 5 c → fkRun s c = .done d → ∃ t, exec (.fork n i) s = .next t ∧ issued s t c d)
  ∧ (∀ (s : State) (n i : Nat) (c d : Cmd), issueDue s n i 3 6 c → pnRun s c = .done d → ∃ t, exec (.prune n i) s = .next t ∧ issued s t c d)
  ∧ (∀ (s : State) (n i : Nat) (c d : Cmd), issueDue s n i 3 7 c → prRun s c = .done d → ∃ t, exec (.promote n i) s = .next t ∧ issued s t c d)
  ∧ (∀ (s : State) (n i : Nat) (c : Cmd) (r : Branch), issueDue s n i 3 8 c → pkUnpark c.desc = false → branchOf s (pkBranch c.desc) = some r →
    r.parked = false → meet s [] (saveRange s c.desc) = .fine → ∃ t, exec (.park n i) s = .next t ∧ issued s t c c)
  ∧ (∀ (s : State) (n i : Nat) (c : Cmd) (r : Branch), issueDue s n i 3 8 c → pkUnpark c.desc = true → branchOf s (pkBranch c.desc) = some r →
    r.parked = true → meet s (if r.granules = 0 then [] else [(r.saveAddr.toNat, r.granules * 4096)]) [] = .fine →
    ∃ t, exec (.unpark n i) s = .next t ∧ issued s t c c)

/-- R208, R209: the work of a PAGE_MOVE puts at every byte of each destination the byte that stands at the same offset of its source; the work of
a TILE_MOVE puts at byte j of row r of each W8 tile unit, or takes from it, the byte at the place that the tile's swizzle gives. The ranges of
a move's batch elements lie apart. -/
def Obligations.MoveRowsIssue : Prop :=
  (∀ (s : State) (n i : Nat) (c : Cmd) (x : Mv), s.mem.wf = true → issueDue s n i 2 1 c → x = mvOf c.desc →
    meet s (mvUsed x) (mvWrites x) = .fine → x.dstBs * 64 ≥ x.len → 0 < x.len →
    ∃ t d, exec (.pageMove n i) s = .next t ∧ issued s t c d
      ∧ (∀ e k, e < x.batch → k < x.len → mget (mapply s.mem d.work.writes) (batchAddr x.dst e x.dstBs + k)
          = mget (operandMem s (mvUsed x)) (batchAddr x.src e x.srcBs + k))
      ∧ (∀ a, (∀ e, e < x.batch → ¬ (batchAddr x.dst e x.dstBs ≤ a ∧ a < batchAddr x.dst e x.dstBs + x.len)) →
          mget (mapply s.mem d.work.writes) a = mget s.mem a))
  ∧ (∀ (s : State) (n i : Nat) (c : Cmd) (x : Tl), s.mem.wf = true → issueDue s n i 2 2 c → x = tlOf c.desc →
    meet s (tlUsed x) (tlWrites x) = .fine → 4 ≤ x.ld → 128 * x.ld ≤ x.stride →
    ∃ t d, exec (.tileMove n i) s = .next t ∧ issued s t c d
      ∧ (∀ e r j, e < x.n → r < 128 → j < 256 →
          (x.dir = 0 → mget (mapply s.mem d.work.writes) (x.native + e * x.stride * 64 + r * x.ld * 64 + j)
            = mget (operandMem s (tlUsed x)) (x.w8 + 32768 * e + (256 * (Nat.xor r (r / 16 % 8)) + (j + 16 * (r % 16)) % 256)))
          ∧ (x.dir ≠ 0 → mget (mapply s.mem d.work.writes) (x.w8 + 32768 * e + (256 * (Nat.xor r (r / 16 % 8)) + (j + 16 * (r % 16)) % 256))
            = mget (operandMem s (tlUsed x)) (x.native + e * x.stride * 64 + r * x.ld * 64 + j))))

/-- R196, R210, R237: each pool operation whose issue is due ends its issue; a RETIRE does once the Umpire has admitted every carafe that it
touches (R436). -/
def Obligations.PoolRowsIssue : Prop :=
  ∀ (s : State) (n i : Nat) (c : Cmd), issueDue s n i 2 3 c →
    ((poOf c.desc).op = 1 → ∃ t, exec (.alloc n i) s = .next t ∧ issued s t c c)
    ∧ ((poOf c.desc).op = 2 → ∃ t, exec (.free n i) s = .next t ∧ issued s t c c)
    ∧ ((poOf c.desc).op = 3 → ∃ t, exec (.pin n i) s = .next t ∧ issued s t c c)
    ∧ ((poOf c.desc).op = 4 → ∃ t, exec (.unpin n i) s = .next t ∧ issued s t c c)
    ∧ ((poOf c.desc).op = 5 → ∃ t, exec (.evict n i) s = .next t ∧ issued s t c c)
    ∧ ((poOf c.desc).op = 6 → retireAdmitted s c = true → ∃ t, exec (.retire n i) s = .next t ∧ issued s t c c)
    ∧ ((poOf c.desc).op = 7 → ∃ t, exec (.recall n i) s = .next t ∧ issued s t c c)

/-- R195 to R198, R213: what a pool operation does to one page. ALLOC makes a FREE page RESIDENT, unpinned and of zeros where its zone has a free
frame; FREE makes a page that nothing uses FREE; PIN and UNPIN set and clear the pin of a RESIDENT page; EVICT moves a RESIDENT unpinned page to
a slot of the eviction area with its contents; RETIRE takes a frame out of the page's zone; RECALL brings an EVICTED page back. An operation that
a page's state does not allow fails with E_STATE.
R197, R198: the eviction that the module starts, the recall, and the end of an ageing period. -/
def Obligations.PoolPagesMove : Prop :=
  ((∀ (s : State) (p : Nat), aget? s.pool p = none → 0 < freeFrames s (zoneOf s p) → ∃ t, poPage 1 s p = .done t 1
     ∧ pageState t p = some .resident ∧ (aget? t.pool p).map Page.pinned = some false ∧ (∀ o, o < 65536 → mget t.mem (pageAddr s p + o) = 0)
     ∧ (∀ q, q ≠ p → aget? t.pool q = aget? s.pool q) ∧ t = { s with pool := t.pool, mem := t.mem, poison := t.poison })
   ∧ (∀ (s : State) (p : Nat) (e : Page), aget? s.pool p = some e → poPage 1 s p = .fails .state)
   ∧ (∀ (s : State) (p : Nat) (e : Page), aget? s.pool p = some e → pageInUse s p = false → ∃ t, poPage 2 s p = .done t 1
     ∧ pageState t p = none ∧ (∀ o, o < 65536 → mget t.mem (pageAddr s p + o) = 0) ∧ (∀ q, q ≠ p → aget? t.pool q = aget? s.pool q)
     ∧ t = { s with pool := t.pool, mem := t.mem, poison := t.poison })
   ∧ (∀ (s : State) (p : Nat) (e : Page), aget? s.pool p = some e → pageInUse s p = true → poPage 2 s p = .fails .state)
   ∧ (∀ (s : State) (p : Nat) (e : Page), aget? s.pool p = some e → e.state = .resident →
     (∃ t, poPage 3 s p = .done t (if e.pinned then 0 else 1) ∧ aget? t.pool p = some { e with pinned := true }
       ∧ (∀ q, q ≠ p → aget? t.pool q = aget? s.pool q) ∧ t = { s with pool := t.pool })
     ∧ (∃ t, poPage 4 s p = .done t (if e.pinned then 1 else 0) ∧ aget? t.pool p = some { e with pinned := false }
       ∧ (∀ q, q ≠ p → aget? t.pool q = aget? s.pool q) ∧ t = { s with pool := t.pool }))
   ∧ (∀ (s : State) (p i : Nat) (e : Page), s.mem.wf = true → aget? s.pool p = some e → e.state = .resident → e.pinned = false →
     pageHeld s p = false → slotMeet s = .fine → freeSlot s = some i → ∃ t, poPage 5 s p = .done t 1 ∧ pageState t p = some .evicted
     ∧ (aget? t.pool p).map Page.slot = some i ∧ (∀ o, o < 65536 → mget t.mem (slotAt s i + o) = mget s.mem (pageAddr s p + o))
     ∧ (∀ q, q ≠ p → aget? t.pool q = aget? s.pool q) ∧ t = { s with pool := t.pool, mem := t.mem })
   ∧ (∀ (s : State) (p : Nat) (e : Page), aget? s.pool p = some e → e.state = .resident → 0 < freeFrames s (zoneOf s p) →
     (carafeOf s (zoneOf s p).1).retired.length < 4096 → ∃ t, poPage 6 s p = .done t 1
     ∧ (carafeOf t (zoneOf s p).1).retired = (carafeOf s (zoneOf s p).1).retired ++ [((zoneOf s p).2.1, (zoneOf s p).2.2)]
     ∧ t = { s with carafes := t.carafes })
   ∧ (∀ (s : State) (p : Nat) (e : Page), aget? s.pool p = some e → e.state = .evicted → slotMeet s = .fine → 0 < freeFrames s (zoneOf s p) →
     ∃ t, poPage 7 s p = .done t 1 ∧ pageState t p = some .resident ∧ (∀ q, q ≠ p → aget? t.pool q = aget? s.pool q)
       ∧ t = { s with pool := t.pool })
   ∧ (∀ (s : State) (p k : Nat) (e : Page), aget? s.pool p = some e → e.state = .lost → k = 3 ∨ k = 5 ∨ k = 6 ∨ k = 7 →
     pageHeld s p = false → poPage k s p = .fails .state))
  ∧ ((∀ (s : State) (p : Nat) (e : Page), aget? s.pool p = some e → e.state = .evicted → slotMeet s = .fine → 0 < freeFrames s (zoneOf s p) →
     ∃ t, exec (.pageRecall p) s = .next t ∧ pageState t p = some .resident ∧ (∀ q, q ≠ p → aget? t.pool q = aget? s.pool q)
       ∧ t = { s with pool := t.pool })
   ∧ (∀ (s : State) (d m l p i : Nat), s.mem.wf = true → 64 * freeFrames s (d, m, l) < zoneFrames s.cset.active m → (carafeOf s d).failed = false →
     slotMeet s = .fine → evictChoice s (d, m, l) = some p → freeSlot s = some i →
     ∃ t, exec (.pageEviction d m l) s = .next t ∧ pageState t p = some .evicted ∧ (aget? t.pool p).map Page.slot = some i
       ∧ (∀ q, pageState s q = none ↔ pageState t q = none) ∧ (∀ q e, aget? s.pool q = some e → e.pinned = true → aget? t.pool q = some e)
       ∧ t = { s with pool := t.pool, mem := t.mem })
   ∧ (∀ (s : State), us (agePeriod s.cset.active) ≤ since s s.ageAt → asleep s = false → ∃ t, exec .ageingPeriod s = .next t ∧ t.ageAt = s.localTime
     ∧ (∀ p e, aget? s.pool p = some e → e.state = .resident → e.pinned = false →
         aget? t.pool p = some { e with age := if e.touched then 0 else min 255 (e.age + 1), touched := false })
     ∧ (∀ p, pageState t p = pageState s p) ∧ t = { s with pool := t.pool, ageAt := t.ageAt }))

/-- R71, R211, R237, R238: a commit makes all of a command's work visible at once: every byte that it writes and the sums of its statistics
buffer, and no other byte; poison leaves exactly the lines that it writes whole; its status is E_OK, or E_RESEQUENCED_OK where it was
re-sequenced (R42), with its result. The command is one whose commit reads its own module's structures alone and changes no branch record. -/
def Obligations.CommitMakesVisible : Prop :=
  ∀ (s : State) (n i : Nat) (c : Cmd) (w : Work) (heads : List Nat), commitDue s n i c → isSnapshot c.desc = false → isSignal c.desc = false →
    c.coll = none → ¬ (hClass c.desc = 2 ∧ hOp c.desc = 3) → finalOf s c = .ready s w [] heads →
    meetCells s (allCells s w) = .fine → peerPages s (allCells s w) = [] →
    ∃ t, exec (.commandCommit n i) s = .next t ∧ decidedAs t n i (if w.reseq then .resequencedOk else .ok) w.result
      ∧ t.mem = mapply s.mem (allCells s w) ∧ t.poison = clearPoison s.poison (allCells s w) ∧ t.brMem = mapply s.brMem w.brWrites
      ∧ t.branches = s.branches ∧ t.links = s.links ∧ (∀ p, pageState t p = pageState s p)
      ∧ (∀ a b, ¬ (n = a ∧ i = b) → findCmd t a b = findCmd s a b)

/-- R196, R237: the commit of a pool operation leaves every page as the operation on all its pages leaves it, and its result is the number of
pages changed; where one page does not allow it, it ends with the status of the first and no page changes. -/
def Obligations.PoolCommits : Prop :=
  (∀ (s s1 : State) (n i m : Nat) (c : Cmd), commitDue s n i c → hClass c.desc = 2 → hOp c.desc = 3 → c.work = {} → c.coll = none →
    poolCommit s c = .done s1 m →
    ∃ t, exec (.commandCommit n i) s = .next t ∧ decidedAs t n i .ok m ∧ t.mem = s1.mem
      ∧ (∀ p, pageState t p = pageState s1 p ∧ (aget? t.pool p).map Page.pinned = (aget? s1.pool p).map Page.pinned))
  ∧ (∀ (s : State) (n i : Nat) (c : Cmd) (st : Status), commitDue s n i c → hClass c.desc = 2 → hOp c.desc = 3 → c.coll = none →
    poolCommit s c = .fails st →
    ∃ t, exec (.commandCommit n i) s = .next t ∧ decidedAs t n i st 0 ∧ t.mem = s.mem ∧ t.pool = s.pool)

/-- R136, R137, R126, R138: what the commits of branch commands leave: a PARK of a branch with state moves its bytes to the save area and marks the
record; a root FORK makes the record of the trunk. The branch directory is off. -/
def Obligations.BranchCommits : Prop :=
  (∀ (s : State) (n i : Nat) (c : Cmd) (r : Branch), s.mem.wf = true → commitDue s n i c → hClass c.desc = 3 → hOp c.desc = 8 →
    pkUnpark c.desc = false → c.coll = none → c.work = {} → c.gens = [] → c.leadGens = [] → branchOf s (pkBranch c.desc) = some r → 0 < r.granules →
    pkBranch c.desc ∉ s.brPoison → s.regs.branchDirOn = false → ownCarafe s (pkSave c.desc) = true →
    ownCarafe s (pkSave c.desc + r.granules * 4096 - 1) = true → gaOff (pkSave c.desc) + r.granules * 4096 ≤ 2 ^ 39 →
    accessible s c.ctx true (pkSave c.desc, r.granules * 4096) = true → meet s [] [(pkSave c.desc, r.granules * 4096)] = .fine →
    ∃ t, exec (.commandCommit n i) s = .next t ∧ decidedAs t n i .ok 0
      ∧ (∀ o, o < r.granules * 4096 → mget t.mem (pkSave c.desc + o) = mget s.brMem (brAddr (pkBranch c.desc) o))
      ∧ branchOf t (pkBranch c.desc) = some { r with parked := true, saveAddr := w64 (pkSave c.desc) }
      ∧ (∀ b, b ≠ pkBranch c.desc → branchOf t b = branchOf s b))
  ∧ (∀ (s : State) (n i : Nat) (c : Cmd) (x : Fk), commitDue s n i c → hClass c.desc = 3 → hOp c.desc = 5 → x = fkOf c.desc → fkRoot x = true →
    x.granules = 0 → c.coll = none → c.work = {} → c.gens = [] → c.leadGens = [] → s.regs.branchDirOn = false →
    ∃ t r, exec (.commandCommit n i) s = .next t ∧ decidedAs t n i .ok x.n ∧ branchOf t x.first = some r ∧ r.trunk = true ∧ r.parked = false
      ∧ r.ctx = c.ctx ∧ r.tableCount = x.tables ∧ r.parent = 0xFFFFFFFF#32 ∧ r.tableList = w64 x.list ∧ r.rngKey = w64 x.key ∧ r.rngCounter = 0
      ∧ r.granules = 0 ∧ (∀ b, b ≠ x.first → branchOf t b = branchOf s b) ∧ t.mem = s.mem)

/-- R30, R31, R37, R40, R52: an operand line of the own carafe lands under its arrival counter, which counts it; the next row instruction of a
placed MATMUL issues once every line has landed and accumulates its pass, and the cluster counts it, or counts the waiting; a menu tile whose
last pass is written drains. -/
def Obligations.RowsArriveIssueDrain : Prop :=
  (∀ (s : State) (q j a : Nat) (l : Line) (p : Bool) (k : Arrival) (c : Cmd), ownCarafe s (64 * (a / 64)) = true →
    pageState s (pageOf (64 * (a / 64))) = some .resident → aget? (clusterOf s q).arrivals j = some k → findCmd s k.ctx k.idx = some c →
    c.pos = some q → c.counter = some j → a / 64 ∈ c.await → c.await.Nodup →
    ∃ t d, exec (.lineArrival q j a l p) s = .next t ∧ findCmd t k.ctx k.idx = some d ∧ d.await = c.await.filter (· != a / 64)
      ∧ aget? (clusterOf t q).arrivals j = some { k with count := k.count + 1, poisoned := k.poisoned || s.poison.contains (a / 64) }
      ∧ (∀ o, o ≠ q → clusterOf t o = clusterOf s o) ∧ t = { s with cmds := t.cmds, clusters := t.clusters })
  ∧ (∀ (s : State) (n i q : Nat) (c : Cmd) (x : Mm), issueDue s n i 1 1 c → x = mmOf c.desc → c.pos = some q → groupMayStart x c = true →
    meet s (mmUsed x) (mmWrites x) = .fine → c.rowsIssued < (mmRows x c.qFree).length →
    ∃ t k, exec (.rowInstructionIssue n i) s = .next t ∧ findCmd t n i = some k ∧ k.rowsIssued = c.rowsIssued + 1
      ∧ (∀ r, (mmRows x c.qFree)[c.rowsIssued]? = some r → k.accs = issueRow (operandMem s (mmUsed x)) x c.accs r)
      ∧ (clusterOf t q).cnt0 = (clusterOf s q).cnt0 + 1
      ∧ (c.rowsIssued + 1 < (mmRows x c.qFree).length → (clusterOf t q).rowOwner = some (n, i))
      ∧ t = { s with cmds := t.cmds, clusters := t.clusters })
  ∧ (∀ (s : State) (n i q : Nat) (c : Cmd), findCmd s n i = some c → hClass c.desc = 1 → hOp c.desc = 1 → c.stage = .placed → c.peerError = none →
    c.pos = some q → awaits s c = true → ∃ t, exec (.rowInstructionIssue n i) s = .next t ∧ (clusterOf t q).cnt1 = (clusterOf s q).cnt1 + 1
      ∧ t = { s with clusters := t.clusters })
  ∧ (∀ (s : State) (n i : Nat) (c : Cmd) (x : Mm), findCmd s n i = some c → hClass c.desc = 1 → hOp c.desc = 1 → c.stage = .placed → x = mmOf c.desc →
    mmDrainReady x c = true → meet s (mmUsed x) (mmWrites x) = .fine →
    ∃ t k, exec (.tileDrain n i) s = .next t ∧ findCmd t n i = some k ∧ k.drained = c.drained + 1
      ∧ (∀ r, (mmTiles x c.qFree)[c.drained]? = some r → k.work = drainTile (operandMem s (mmUsed x)) x c c.work r)
      ∧ t = { s with cmds := t.cmds })

/-- R86 to R91, R177: the walker of a region looks a token up: it counts a hit where an entry of the table covers the token, and a fill
otherwise; a failed attempt may be placed again after its 2 µs; a WINDOW's halo rows may load once the signal word has reached sig_value. -/
def Obligations.WalkerAndPolls : Prop :=
  (∀ (s : State) (r head token gen : Nat) (p : Hit) (c : Cmd) (u : Tx), walkerCmd s r head = some c →
    (labResolve head token).run (txStart s c) = .ok (some (gen, p), u) →
    ∃ t, exec (.lookasideFill r head token) s = .next t
      ∧ (((regionOf s r).lab.filter (fun e => e.2.head != head || e.2.gen == gen)).any (fun e => labCovers head token e.2) = true →
          (regionOf t r).cntHits = (regionOf s r).cntHits + 1 ∧ (regionOf t r).cntFills = (regionOf s r).cntFills)
      ∧ (((regionOf s r).lab.filter (fun e => e.2.head != head || e.2.gen == gen)).any (fun e => labCovers head token e.2) = false →
          (regionOf t r).cntFills = (regionOf s r).cntFills + 1 ∧ (regionOf t r).cntHits = (regionOf s r).cntHits
          ∧ ∃ e ∈ (regionOf t r).lab, e.2.head = head ∧ e.2.gen = gen ∧ e.2.page = p.addr ∧ e.2.lead = p.start)
      ∧ (∀ o, o ≠ r → regionOf t o = regionOf s o) ∧ t = { s with regions := t.regions })
  ∧ (∀ (s : State) (n i : Nat) (c : Cmd), findCmd s n i = some c → c.mismatch = true → c.retryAt.toNat ≤ s.localTime.toNat →
    ∃ t, exec (.generationRetry n i) s = .next t ∧ findCmd t n i = some { c with mismatch := false } ∧ t = { s with cmds := t.cmds })
  ∧ (∀ (s : State) (n i : Nat) (c : Cmd) (x : Wn), findCmd s n i = some c → hClass c.desc = 1 → hOp c.desc = 8 → c.stage = .placed →
    x = wnOf c.desc → wnHaloWait c x = true → meet s [(x.sig, 8)] [] = .fine → x.sigValue ≤ mnat (operandMem s [(x.sig, 8)]) x.sig 8 →
    ∃ t, exec (.haloSignalPoll n i) s = .next t ∧ findCmd t n i = some { c with haloReady := true } ∧ t = { s with cmds := t.cmds })

/-- R321 to R333: a SNAPSHOT whose turn ends well ends its issue with the work of its operation; VOTE's interval, due bit and mean time between
failures reach the context's registers at its commit (R328, R339, R340). -/
def Obligations.Snapshots : Prop :=
  (∀ (s : State) (n i : Nat) (c d : Cmd), validatedAs s n i 5 6 c → earlierDone s c = true → awaits s c = false → c.peerError = none →
    snapTurn s c = .done d →
    ((snOf c.desc).op = 0 → ∃ t, exec (.take n i) s = .next t ∧ findCmd t n i = some { d with stage := .issued } ∧ t = { s with cmds := t.cmds })
    ∧ ((snOf c.desc).op = 1 → ∃ t, exec (.vote n i) s = .next t ∧ findCmd t n i = some { d with stage := .issued } ∧ t = { s with cmds := t.cmds })
    ∧ ((snOf c.desc).op = 2 → ∃ t, exec (.takeIf n i) s = .next t ∧ findCmd t n i = some { d with stage := .issued } ∧ t = { s with cmds := t.cmds })
    ∧ ((snOf c.desc).op = 3 → ∃ t, exec (.restore n i) s = .next t ∧ findCmd t n i = some { d with stage := .issued } ∧ t = { s with cmds := t.cmds })
    ∧ ((snOf c.desc).op = 4 → ∃ t, exec (.query n i) s = .next t ∧ findCmd t n i = some { d with stage := .issued } ∧ t = { s with cmds := t.cmds })
    ∧ ((snOf c.desc).op = 5 → ∃ t, exec (.digest n i) s = .next t ∧ findCmd t n i = some { d with stage := .issued } ∧ t = { s with cmds := t.cmds })
    ∧ ((snOf c.desc).op = 6 → ∃ t, exec (.check n i) s = .next t ∧ findCmd t n i = some { d with stage := .issued } ∧ t = { s with cmds := t.cmds }))
  ∧ (∀ (s : State) (n i : Nat) (c : Cmd) (w : Work), commitDue s n i c → hClass c.desc = 5 → hOp c.desc = 6 → (snOf c.desc).op = 1 → c.coll = none →
    finalOf s c = .ready s w [] [] → meetCells s (allCells s w) = .fine → peerPages s (allCells s w) = [] →
    ∃ t, exec (.commandCommit n i) s = .next t ∧ decidedAs t n i (if w.reseq then .resequencedOk else .ok) w.result
      ∧ (ctxOf t c.ctx).snapInt = w32 (c.lastValue.toNat % 2 ^ 22) ∧ (ctxOf t c.ctx).snapMtbf = w32 (c.lastValue.toNat / 2 ^ 32)
      ∧ (ctxOf t c.ctx).snapDue = (w.result % 2 == 1) ∧ t.mem = mapply s.mem (allCells s w))

/-- R20 to R22, R338: a die reset clears the die's scratchpads, arrival counters and look-aside buffers and keeps every byte of the carafes, every
page and the retired granules; a context that had working state on the die halts with halt_reason die_reset, and no command is left in flight
on the die. A second one within 60 s fails the module instead, which signals its death on every UP port. A link die's reset takes its ports down and
runs the commands again that hold writes in its commit buffer; when it returns, its enabled ports train. -/
def Obligations.DieResets : Prop :=
  (∀ (s : State) (d : Nat), hubKeys s → s.phase = .running → s.standby = none → d < 16 → (dieOf s d).resetting = false →
    resetRecent s (dieOf s d) = false →
    ∃ t, exec (.dieReset d) s = .next t ∧ dieOf t d = { dieOf s d with resetting := true, lastReset := some s.localTime }
      ∧ (∀ o, o < 2 ^ 28 → mget t.mem (dieScratch s d + o) = 0)
      ∧ (∀ a, ownCarafe s a = true → mget t.mem a = mget s.mem a)
      ∧ (∀ n, worksOn s d n = true → (ctxOf t n).state = .halted ∧ (ctxOf t n).haltReason = .dieReset)
      ∧ (∀ c ∈ t.cmds, runsOn d c = false)
      ∧ (∀ q, q / 32 = d → (clusterOf t q).arrivals = [] ∧ (clusterOf t q).retired = (clusterOf s q).retired)
      ∧ (∀ r, r / 4 = d → (regionOf t r).lab = [])
      ∧ t.pool = s.pool ∧ t.regs.svcMode = 3)
  ∧ (∀ (s : State) (d : Nat), s.phase = .running → s.standby = none → d < 16 → (dieOf s d).resetting = false → resetRecent s (dieOf s d) = true →
    ∃ t, exec (.dieReset d) s = .next t ∧ t.phase = .failed
      ∧ t.links.out.map (fun m => (m.1, m.2.mtype)) = s.links.out.map (fun m => (m.1, m.2.mtype)) ++ (upPorts s).map (fun q => (q, 11))
      ∧ t.dies = s.dies ∧ t.cmds = s.cmds ∧ t.ctxs = s.ctxs ∧ t.mem = s.mem ∧ t.pool = s.pool)
  ∧ (∀ (s : State) (d : Nat), (dieOf s d).resetting = true → ∃ t, exec (.dieResetDone false d) s = .next t
    ∧ dieOf t d = { dieOf s d with resetting := false } ∧ (∀ e, e ≠ d → dieOf t e = dieOf s e) ∧ t = { s with dies := t.dies })
  ∧ (∀ (s : State) (l : Nat), hubKeys s → s.phase = .running → l < 8 → (linkDieOf s l).resetting = false → resetRecent s (linkDieOf s l) = false →
    ∃ t, exec (.linkDieReset l) s = .next t ∧ linkDieOf t l = { linkDieOf s l with resetting := true, lastReset := some s.localTime }
      ∧ (∀ p, p / 4 = l → (portOf t p).state = if (portOf s p).state = .disabled then .disabled else .down)
      ∧ (∀ p, p / 4 ≠ l → portOf t p = portOf s p)
      ∧ (∀ c ∈ s.cmds, buffersOn s l c = true → rerunOf t c)
      ∧ t.mem = s.mem ∧ t.pool = s.pool ∧ t.ctxs = s.ctxs)
  ∧ (∀ (s : State) (l : Nat), l < 8 → (linkDieOf s l).resetting = true → ∃ t, exec (.dieResetDone true l) s = .next t
    ∧ (linkDieOf t l).resetting = false
    ∧ (∀ p, p / 4 = l → (portOf s p).enable = true → (portOf s p).state = .down → (portOf t p).state = .training)
    ∧ (∀ p, p / 4 ≠ l → portOf t p = portOf s p)
    ∧ t = { s with linkDies := t.linkDies, links := t.links, out := t.out, hostPorts := t.hostPorts })

/-- R18, R32, R211, R212, R224: a line of an own RESIDENT page that cannot be corrected is poisoned, and its page is listed for retirement once,
while the queue of 256 has room, and is counted where it has none; a pop removes the head of the queue alone. A scratchpad line that cannot be
corrected is poisoned; a granule is retired after its second error. -/
def Obligations.LineErrors : Prop :=
  (∀ (s : State) (a k : Nat), ownCarafe s a = true → pageState s (pageOf a) = some .resident →
    ∃ t, exec (.carafeUncorrectable a k) s = .next t ∧ (∀ l, l ∈ t.poison ↔ l = a / 64 ∨ l ∈ s.poison)
      ∧ ((∃ e ∈ s.retireQ, e.1 = pageOf a) → t = { s with poison := t.poison })
      ∧ ((∀ e ∈ s.retireQ, e.1 ≠ pageOf a) → s.retireQ.length < 256 →
          t.retireQ = s.retireQ ++ [(pageOf a, homeDie s (pageOf a), k % 4)] ∧ t.retireOvf = s.retireOvf)
      ∧ ((∀ e ∈ s.retireQ, e.1 ≠ pageOf a) → 256 ≤ s.retireQ.length →
          t.retireQ = s.retireQ ∧ t.retireOvf = true ∧ t.retireOvfCnt = s.retireOvfCnt + 1)
      ∧ t.mem = s.mem ∧ t.pool = s.pool ∧ t.cmds = s.cmds)
  ∧ (∀ (s : State), takesWrites s → exec .retireQueuePop s = .next { s with retireQ := s.retireQ.drop 1 })
  ∧ (∀ (s : State) (q a g : Nat), q < 512 → g = 512 + a % 2 ^ 23 / 4096 →
    ∃ t, exec (.scratchpadUncorrectable q a false) s = .next t
      ∧ (∀ l, l ∈ t.poison ↔ l = (2 ^ 50 * selfId s + 2 ^ 46 + 2 ^ 23 * q + a % 2 ^ 23) / 64 ∨ l ∈ s.poison)
      ∧ aget (clusterOf t q).errors g 0 = aget (clusterOf s q).errors g 0 + 1
      ∧ (1 ≤ aget (clusterOf s q).errors g 0 → g ∈ (clusterOf t q).retired)
      ∧ (aget (clusterOf s q).errors g 0 = 0 → (clusterOf t q).retired = (clusterOf s q).retired)
      ∧ (∀ o, o ≠ q → clusterOf t o = clusterOf s o) ∧ t = { s with poison := t.poison, clusters := t.clusters })
  ∧ (∀ (s : State) (q a g : Nat), q < 512 → g = a / 4096 % 512 →
    ∃ t, exec (.scratchpadUncorrectable q a true) s = .next t
      ∧ aget (clusterOf t q).errors g 0 = aget (clusterOf s q).errors g 0 + 1
      ∧ (1 ≤ aget (clusterOf s q).errors g 0 → g ∈ (clusterOf t q).retired)
      ∧ (∀ o, o ≠ q → clusterOf t o = clusterOf s o)
      ∧ t = { s with clusters := t.clusters, cmds := t.cmds, brPoison := t.brPoison })

/-- R214 to R217, R219, R220, R401: a substitution of a channel begins with a free spare; the spare takes the channel's number; a channel that passes
its retrain gives its spare back; where no spare is free a failed channel is remapped once, and a second one makes the carafe failed, with the
channel's lines poisoned. A layer's report sets the throttle step; a slice of patrol that the Umpire admits sets the channel's scrub period. -/
def Obligations.Channels : Prop :=
  (∀ (s : State) (d c k i : Nat), d < 16 → c < 64 → carafeIdle s d → (carafeOf s d).remapped ≠ some c → freeSpare (carafeOf s d) = some i →
    ∃ t, exec (.channelSubstitution d c k) s = .next t
      ∧ (carafeOf t d).busy = some { channel := c, spare := i, phase := .copying, failed := decide (k < 2) } ∧ (carafeOf t d).waiting = []
      ∧ (carafeOf t d).s0 = (carafeOf s d).s0 ∧ (carafeOf t d).s1 = (carafeOf s d).s1
      ∧ umpireRuns s t rkChannel d (0, 0) ∧ otherCarafes s t d ∧ t.mem = s.mem ∧ t.poison = s.poison ∧ t.pool = s.pool)
  ∧ (∀ (s : State) (d c k : Nat), d < 16 → c < 64 → k < 2 → carafeIdle s d → (carafeOf s d).remapped = none → freeSpare (carafeOf s d) = none →
    ∃ t, exec (.channelSubstitution d c k) s = .next t
      ∧ (carafeOf t d).busy = some { channel := c, spare := 2, phase := .remapping, failed := true }
      ∧ umpireRuns s t rkChannel d (0, 0) ∧ otherCarafes s t d ∧ t.mem = s.mem ∧ t.poison = s.poison)
  ∧ (∀ (s : State) (d c k x : Nat), d < 16 → c < 64 → k < 2 → carafeIdle s d → (carafeOf s d).remapped = some x → x ≠ c →
    freeSpare (carafeOf s d) = none →
    ∃ t, exec (.channelSubstitution d c k) s = .next t ∧ (carafeOf t d).failed = true ∧ (carafeOf t d).busy = none
      ∧ (∀ l, l ∈ t.poison ↔ l ∈ channelLines s d c ∨ l ∈ s.poison) ∧ otherCarafes s t d ∧ t.mem = s.mem ∧ t.pool = s.pool)
  ∧ (∀ (s : State) (d : Nat) (b : Subst), (carafeOf s d).busy = some b → b.phase = .copying →
    ∃ t, exec (.channelSwitch d) s = .next t ∧ spareOf (carafeOf t d) b.spare = .standsFor b.channel
      ∧ (carafeOf t d).busy = some { b with phase := .retraining } ∧ (carafeOf t d).evt = withFlag (carafeOf s d).evt 0
      ∧ (carafeOf t d).evtCnt = (carafeOf s d).evtCnt + 1 ∧ otherCarafes s t d ∧ t.mem = s.mem)
  ∧ (∀ (s : State) (d : Nat) (b : Subst) (ok : Bool), (carafeOf s d).busy = some b → b.phase = .retraining → b.spare < 2 →
    (carafeOf s d).waiting = [] → spareOf (carafeOf s d) b.spare = .standsFor b.channel →
    ∃ t, exec (.channelRetrainDone d ok) s = .next t ∧ (carafeOf t d).busy = none ∧ otherCarafes s t d ∧ t.mem = s.mem
      ∧ (spareOf (carafeOf s d) (1 - b.spare) ≠ .standsFor b.channel →
          spareOf (carafeOf t d) b.spare = (if ok then .free else .standsFor b.channel)
          ∧ spareOf (carafeOf t d) (1 - b.spare) = spareOf (carafeOf s d) (1 - b.spare))
      ∧ (spareOf (carafeOf s d) (1 - b.spare) = .standsFor b.channel →
          spareOf (carafeOf t d) b.spare = .standsFor b.channel
          ∧ spareOf (carafeOf t d) (1 - b.spare) = (if ok then .free else .retired)))
  ∧ (∀ (s : State) (d : Nat) (b : Subst), (carafeOf s d).busy = some b → b.phase = .remapping → (carafeOf s d).waiting = [] →
    ∃ t, exec (.channelRemap d) s = .next t ∧ (carafeOf t d).remapped = some b.channel ∧ (carafeOf t d).busy = none
      ∧ (carafeOf t d).evtCnt = (carafeOf s d).evtCnt + 1 ∧ otherCarafes s t d ∧ t.mem = s.mem)
  ∧ (∀ (s : State) (d l r : Nat), d < 16 → l < 6 → ∃ t, exec (.carafeThrottle d l r) s = .next t
    ∧ aget t.power.temps (64 + 6 * d + l) 0#16 = BitVec.ofNat 16 r
    ∧ (carafeOf t d).throttle = throttleStep (carafeOf s d).throttle (carafeTemp t d)
    ∧ (∀ i, 1 ≤ i → i ≤ 5 → 16 * (95 + 2 * (i - 1)) ≤ carafeTemp t d → i ≤ (carafeOf t d).throttle)
    ∧ (∀ i, 1 ≤ i → i ≤ 5 → carafeTemp t d + 32 ≤ 16 * (95 + 2 * (i - 1)) → (carafeOf t d).throttle < i)
    ∧ otherCarafes s t d ∧ t = { s with carafes := t.carafes, power := t.power, out := t.out })
  ∧ (∀ (s : State) (d c n f : Nat) (e : Bool) (p : Nat), s.phase = .running → s.standby = none → d < 16 → c < 64 → umpireFree s rkScrub d (0, 0) →
    p = aget (carafeOf s d).scrub c 86400 →
    ∃ t, exec (.patrolScrub d c n f e) s = .next t
      ∧ (16 * p < 3600 * (aget (carafeOf s d).scrubFound c 0 + f) → aget (carafeOf t d).scrub c 86400 = max 900 (p / 2))
      ∧ (¬ 16 * p < 3600 * (aget (carafeOf s d).scrubFound c 0 + f) → e = false → aget (carafeOf t d).scrub c 86400 = p)
      ∧ (¬ 16 * p < 3600 * (aget (carafeOf s d).scrubFound c 0 + f) → e = true →
          3600 * (aget (carafeOf s d).scrubFound c 0 + f) < 4 * p → aget (carafeOf t d).scrub c 86400 = min 86400 (p * 2))
      ∧ (∀ x, x ≠ c → aget (carafeOf t d).scrub x 86400 = aget (carafeOf s d).scrub x 86400)
      ∧ otherCarafes s t d ∧ t = { s with carafes := t.carafes })

/-- R88, R118, R147, R192, R193, R348, R356, R363, R384, R434, R435, R440, R443: the actions of set-up registers that a row names. INV_ALL empties
every look-aside buffer; a write of MEM_BRANCH_DIR_0 sets the directory's address and enable while no branch command is in flight; an access
list is taken where it is well formed, refused where it is not, and ignored while the context has a command in flight; MSIX_UNMASK sends what
its vector holds back; TRACE_ENABLE starts the ring at record 0; CALENDAR_SET takes MGT_CAL_SET; a 4-byte read of a low half latches the high half. -/
def Obligations.SetUpActions : Prop :=
  (∀ (s : State), takesWrites s → ∃ t, exec .invAll s = .next t ∧ (∀ r, regionOf t r = { regionOf s r with lab := [] })
    ∧ t = { s with regions := t.regions })
  ∧ (∀ (s : State) (v : Nat), takesWrites s → branchOpsFly s = false → ∃ t, exec (.branchDirEnable v) s = .next t
    ∧ t.regs.branchDirOn = bit v 0 ∧ t.regs.branchDir.toNat % 2 ^ 32 = v % 2 ^ 32 / 64 * 64
    ∧ t.regs.branchDir.toNat / 2 ^ 32 = s.regs.branchDir.toNat / 2 ^ 32
    ∧ (bit v 0 = false → t.mem = s.mem)
    ∧ t = { s with regs := { s.regs with branchDirOn := t.regs.branchDirOn, branchDir := t.regs.branchDir }, mem := t.mem, poison := t.poison })
  ∧ (∀ (s : State) (v : Nat), branchOpsFly s = true → takesWrites s → exec (.branchDirEnable v) s = .next s)
  ∧ (∀ (s : State) (n v : Nat) (bs : List Byte) (adm : Bool) (es : List AclEntry), takesWrites s → ctxBusy s n = false →
    (ctxOf s n).aclHi.toNat < 2 ^ 14 → aclParse bs = some (adm, es) → ∃ t, exec (.aclLoad n v bs) s = .next t
      ∧ ctxOf t n = { ctxOf s n with aclLo := w32 (v / 64 * 64), acl := es, poolAdmin := adm, aclAccepted := true, aclRefused := false,
                                     aclIgnored := false }
      ∧ otherCtxs s t n ∧ t = { s with ctxs := t.ctxs })
  ∧ (∀ (s : State) (n v : Nat) (bs : List Byte), takesWrites s → ctxBusy s n = false → aclParse bs = none →
    ∃ t, exec (.aclLoad n v bs) s = .next t ∧ (ctxOf t n).acl = [] ∧ (ctxOf t n).poolAdmin = false ∧ (ctxOf t n).aclAccepted = false
      ∧ (ctxOf t n).aclRefused = true ∧ otherCtxs s t n ∧ t = { s with ctxs := t.ctxs })
  ∧ (∀ (s : State) (n v : Nat) (bs : List Byte), takesWrites s → ctxBusy s n = true → ∃ t, exec (.aclLoad n v bs) s = .next t
    ∧ (ctxOf t n).acl = (ctxOf s n).acl ∧ (ctxOf t n).poolAdmin = (ctxOf s n).poolAdmin ∧ (ctxOf t n).aclIgnored = true
    ∧ otherCtxs s t n ∧ t = { s with ctxs := t.ctxs })
  ∧ (∀ (s : State) (v : Nat), takesWrites s → v < 2048 → ∃ t, exec (.msixUnmask v) s = .next t
    ∧ vectorMasked (hostPortOf t s.owner) v = false ∧ otherHostPorts s t s.owner ∧ t = { s with hostPorts := t.hostPorts, out := t.out }
    ∧ (v ∈ (hostPortOf s s.owner).pba → vectorOpen (hostPortOf t s.owner) v = true →
        (s.owner, v) ∈ t.out.msix ∧ v ∉ (hostPortOf t s.owner).pba))
  ∧ (∀ (s : State), takesWrites s → exec .traceEnable s
    = .next { s with regs := { s.regs with traceOn := true }, trace := { s.trace with head := 0 } })
  ∧ (∀ (s : State) (v : Nat), takesWrites s → ∃ t, exec (.logSelect v) s = .next t ∧ t.regs.logSel.toNat % 2 ^ 32 = v % 2 ^ 32
    ∧ t.regs.logSel.toNat / 2 ^ 32 = s.regs.logSel.toNat / 2 ^ 32 ∧ t = { s with regs := { s.regs with logSel := t.regs.logSel } })
  ∧ (∀ (s : State), takesWrites s → ∃ t, exec .calendarSet s = .next t ∧ t.mgmt.calCount = s.regs.calSet ∧ t.mgmt.calValid = true
    ∧ t.localTime = s.localTime ∧ t.mem = s.mem ∧ t.ctxs = s.ctxs ∧ t.cmds = s.cmds ∧ t.regs = s.regs)
  ∧ (∀ (s : State), takesWrites s → exec .cancelPending s = .next { s with mgmt := { s.mgmt with pendingBank := none } })
  ∧ (∀ (s : State) (b : Bool), s.phase ≠ .off → s.mgmt.backupPin ≠ b → exec (.calVbatChange b) s
    = .next { s with mgmt := { s.mgmt with backupPin := b, lostAt := none } })
  ∧ (∀ (s : State), s.phase = .off → s.mgmt.backupPin = true → ∃ t, exec (.calVbatChange false) s = .next t
    ∧ t.mgmt.backupPin = false ∧ (s.mgmt.lostAt = none → t.mgmt.lostAt = some s.mgmt.calCount))
  ∧ (∀ (s : State), barOpen s = true → exec (.localTimeLoRead false) s = .next { s with timeLatch := w32 (s.localTime.toNat / 2 ^ 32) })
  ∧ (∀ (s : State), barOpen s = true → exec (.localTimeLoRead true) s
    = .next { s with mgmt := { s.mgmt with calLatch := w32 (s.mgmt.calCount.toNat / 2 ^ 32) } })

/-- R7 to R10, R254, R255, R317, R343, R344, R358, R376 to R380: what writes of registers do. A written field takes its value and nothing else
changes; a W1C field loses the bits written as 1; a quiescent field keeps its value while its context is not DISABLED; an encoding that is
not listed leaves its field; a reserved offset takes nothing; an access that is no aligned word or double word is discarded and reported; the
reduced function writes its own events alone. -/
def Obligations.RegisterWrites : Prop :=
  (∀ (s : State) (v : Nat), takesWrites s → s.owner < 2 →
    exec (.registerWrite s.owner 0x14 4 v) s = .next { s with regs := { s.regs with svcMode := BitVec.ofNat 2 (v % 2 ^ 32) } })
  ∧ (∀ (s : State) (v : Nat), takesWrites s → s.owner < 2 →
    exec (.registerWrite s.owner 0x24 4 v) s = .next { s with recov := { s.recov with evt := s.recov.evt &&& ~~~(w32 v) } })
  ∧ (∀ (s : State) (v : Nat), takesWrites s → s.owner < 2 → exec (.registerWrite s.owner 0x40 4 v) s = .next s)
  ∧ (∀ (s : State) (n v : Nat), takesWrites s → s.owner < 2 → n < 256 → (ctxOf s n).state ≠ .disabled →
    exec (.registerWrite s.owner (0x100000 + 0x100 * n) 4 v) s = .next s
    ∧ exec (.registerWrite s.owner (0x100018 + 0x100 * n) 4 v) s = .next s)
  ∧ (∀ (s : State) (n v : Nat), takesWrites s → s.owner < 2 → n < 256 → (ctxOf s n).state = .disabled →
    ∃ t, exec (.registerWrite s.owner (0x100000 + 0x100 * n) 8 v) s = .next t
      ∧ ctxOf t n = { ctxOf s n with sqAddr := w64 (v % 2 ^ 64 / 4096 * 4096) } ∧ otherCtxs s t n ∧ t = { s with ctxs := t.ctxs })
  ∧ (∀ (s : State) (n v : Nat), takesWrites s → s.owner < 2 → n < 256 → (ctxOf s n).state = .disabled → 6 ≤ bits v 4 0 → bits v 4 0 ≤ 16 →
    bits v 9 5 = 31 → bits v 11 10 = 3 → v < 2 ^ 32 →
    ∃ t, exec (.registerWrite s.owner (0x100018 + 0x100 * n) 4 v) s = .next t
      ∧ ctxOf t n = { ctxOf s n with sqLog2 := bits v 4 0, msixVector := bits v 22 12, irqHoldoff := bits v 30 23 }
      ∧ otherCtxs s t n ∧ t = { s with ctxs := t.ctxs })
  ∧ (∀ (s : State) (o n v : Nat), takesWrites s → s.owner < 2 → o + n ≤ 0x20000 → (n = 4 ∨ n = 8) → o % n ≠ 0 →
    ∃ t, exec (.registerWrite s.owner o n v) s = .next t ∧ (hostPortOf t s.owner).evt = withFlag (hostPortOf s s.owner).evt 4
      ∧ (hostPortOf t s.owner).evtCnt = (hostPortOf s s.owner).evtCnt + 1 ∧ otherHostPorts s t s.owner
      ∧ t = { s with hostPorts := t.hostPorts, out := t.out })
  ∧ (∀ (s : State) (p v : Nat), p < 2 → p ≠ s.owner → (hostPortOf s p).ready = true → (hostPortOf s p).memSpace = true →
    exec (.registerWrite p 0x14 4 v) s = .next s
    ∧ ∃ t, exec (.registerWrite p (0x40008 + 4 * p) 4 v) s = .next t
      ∧ hostPortOf t p = { hostPortOf s p with evt := (hostPortOf s p).evt &&& ~~~(w32 v) } ∧ otherHostPorts s t p
      ∧ t = { s with hostPorts := t.hostPorts })

/-- R408: until step 8 of start-up has ended every register of BAR0 of the owning function reads as 0 and every write to it is discarded; from
then on HUB_ID_0 reads the vendor and device identifiers. -/
def Obligations.BarReadsZeroUntilReady : Prop :=
  (∀ (s : State) (r : Bool) (o : Nat), s.phase = .startup r → regRead s s.owner o = 0)
  ∧ (∀ (s : State) (r : Bool) (o n v : Nat), s.phase = .startup r → s.owner < 2 → o + n ≤ 2 ^ 26 →
      exec (.registerWrite s.owner o n v) s = .next s)
  ∧ (∀ (s : State), barOpen s = true → regRead s s.owner 0 = 0x1F6C + 2 ^ 16 * 0x0250)

/-- R349 to R352, R355, R358, R359, R362: a host link that goes DOWN or comes UP is an event of its port; the sixteenth completion timeout in a row, and a link that
has been DOWN for 100 ms, make the owning port lost and halt every active context; the other host may then take over, which resets the module
under its ownership; a request to own is an event of the owner; IDE_KM messages set and take a stream's keys, and an integrity failure ends
the stream (log entry 54). -/
def Obligations.HostLinks : Prop :=
  (∀ (s : State) (p n w : Nat) (f : Bool), p < 2 → s.phase ≠ .off → (hostPortOf s p).link ≠ .down →
    ∃ t, exec (.pcieLinkChange p 0 n w f) s = .next t ∧ (hostPortOf t p).link = .down ∧ (hostPortOf t p).downSince = some s.localTime
      ∧ (hostPortOf t p).evt = withFlag (hostPortOf s p).evt 1 ∧ (hostPortOf t p).evtCnt = (hostPortOf s p).evtCnt + 1
      ∧ t = { s with hostPorts := t.hostPorts, out := t.out })
  ∧ (∀ (s : State) (p n w : Nat) (f : Bool), p < 2 → s.phase ≠ .off → (hostPortOf s p).link ≠ .up → s.links.early = [] →
    ∃ t, exec (.pcieLinkChange p 1 n w f) s = .next t ∧ (hostPortOf t p).link = .up ∧ (hostPortOf t p).speed = n % 8
      ∧ (hostPortOf t p).width = w % 32 ∧ (hostPortOf t p).flitMode = f ∧ (hostPortOf t p).lost = false ∧ (hostPortOf t p).timeouts = 0
      ∧ (hostPortOf t p).evt = withFlag (hostPortOf s p).evt 1 ∧ t = { s with hostPorts := t.hostPorts, out := t.out })
  ∧ (∀ (s : State), (hostPortOf s s.owner).busMaster = true → (hostPortOf s s.owner).timeouts + 1 < 16 →
    ∃ t, exec (.completionTimeout s.owner) s = .next t
      ∧ hostPortOf t s.owner = { hostPortOf s s.owner with timeouts := (hostPortOf s s.owner).timeouts + 1 }
      ∧ otherHostPorts s t s.owner ∧ t = { s with hostPorts := t.hostPorts })
  ∧ (∀ (s : State), (hostPortOf s s.owner).busMaster = true → (hostPortOf s s.owner).lost = false → 16 ≤ (hostPortOf s s.owner).timeouts + 1 →
    ∃ t, exec (.completionTimeout s.owner) s = .next t ∧ ownerLost s t ∧ t.cmds = s.cmds ∧ t.pool = s.pool)
  ∧ (∀ (s : State) (t0 : W64), (hostPortOf s s.owner).busMaster = true → (hostPortOf s s.owner).lost = false →
    (hostPortOf s s.owner).link = .down → (hostPortOf s s.owner).downSince = some t0 → us 100000 ≤ since s t0 →
    ∃ t, exec .owningPortLost s = .next t ∧ ownerLost s t ∧ t.cmds = s.cmds ∧ t.mem = s.mem ∧ t.pool = s.pool)
  ∧ (∀ (s : State) (p : Nat), p < 2 → p ≠ s.owner → (hostPortOf s p).ready = true → barOpen s = true → (hostPortOf s s.owner).lost = true →
    ∃ t, exec (.takeover p) s = .next t ∧ startedAnew s t ∧ t.owner = p ∧ t.localTime = s.localTime
      ∧ (s.cset.active.wf = true → setPort t.cset.active = p))
  ∧ (∀ (s : State) (p : Nat), p < 2 → p ≠ s.owner → (hostPortOf s p).ready = true → (hostPortOf s p).request = false →
    ∃ t, exec (.handoverRequest p) s = .next t ∧ (hostPortOf t p).request = true
      ∧ (hostPortOf t s.owner).evt = withFlag (hostPortOf s s.owner).evt 3 ∧ t.owner = s.owner ∧ t = { s with hostPorts := t.hostPorts, out := t.out })
  ∧ (∀ (s : State) (p x : Nat), p < 2 → x < 2 → doeSession s p = true →
    (∃ t, exec (.ideKm p x .program) s = .next t ∧ x ∈ (hostPortOf t p).streams
      ∧ aget (hostPortOf t p).keyEpoch x 0 = aget (hostPortOf s p).keyEpoch x 0 + 1 ∧ otherHostPorts s t p ∧ t = { s with hostPorts := t.hostPorts })
    ∧ (∃ t, exec (.ideKm p x .refresh) s = .next t ∧ (hostPortOf t p).streams = (hostPortOf s p).streams
      ∧ (x ∈ (hostPortOf s p).streams → aget (hostPortOf t p).keyEpoch x 0 = aget (hostPortOf s p).keyEpoch x 0 + 1)
      ∧ otherHostPorts s t p ∧ t = { s with hostPorts := t.hostPorts })
    ∧ (∃ t, exec (.ideKm p x .disable) s = .next t ∧ x ∉ (hostPortOf t p).streams ∧ otherHostPorts s t p ∧ t = { s with hostPorts := t.hostPorts })
    ∧ (∀ b, ∃ t, exec (.ideKm p x (.setRequire b)) s = .next t ∧ hostPortOf t p = { hostPortOf s p with require := b } ∧ otherHostPorts s t p
      ∧ t = { s with hostPorts := t.hostPorts }))
  ∧ (∀ (s : State) (p x : Nat), p < 2 → x ∈ (hostPortOf s p).streams → ∃ t, exec (.ideIntegrityFail p x) s = .next t
    ∧ x ∉ (hostPortOf t p).streams ∧ (hostPortOf t p).evt = withFlag (hostPortOf s p).evt 5
    ∧ t = { s with hostPorts := t.hostPorts, out := t.out })

/-- R342, R346, R360: the carafe aperture. A read returns the bytes at the aperture's address, marked poisoned where a line is, and changes nothing
else; a write puts its bytes there and leaves every other byte; an AtomicOp of 4 or 8 bytes returns the value before and leaves the new one;
an access to a FREE page gets Unsupported Request, and one to a LOST page Completer Abort. -/
def Obligations.Aperture : Prop :=
  (∀ (s : State) (o n : Nat), apertureOpen s o n →
    exec (.apertureRead o n) s = .next { s with out := { s.out with host := s.out.host
      ++ [.data o (mread s.mem (apertureAddr s o) n) ((linesOf (apertureAddr s o) n).any s.poison.contains)] } })
  ∧ (∀ (s : State) (o : Nat) (bs : List Byte), s.mem.wf = true → s.standby = none → apertureOpen s o bs.length →
    ∃ t, exec (.apertureWrite o bs) s = .next t ∧ (∀ i, i < bs.length → mget t.mem (apertureAddr s o + i) = bs.getD i 0)
      ∧ (∀ a, a < apertureAddr s o ∨ apertureAddr s o + bs.length ≤ a → mget t.mem a = mget s.mem a)
      ∧ t = { s with mem := t.mem, poison := t.poison })
  ∧ (∀ (s : State) (o n x y : Nat) (op : AtomicOp), s.mem.wf = true → apertureOpen s o n → (n = 4 ∨ n = 8) → o % n = 0 →
    ∃ t, exec (.apertureAtomic o n op x y) s = .next t
      ∧ mnat t.mem (apertureAddr s o) n = (match op with
          | .fetchAdd => (mnat s.mem (apertureAddr s o) n + x) % 2 ^ (8 * n)
          | .swap => x % 2 ^ (8 * n)
          | .cas => if mnat s.mem (apertureAddr s o) n = y % 2 ^ (8 * n) then x % 2 ^ (8 * n) else mnat s.mem (apertureAddr s o) n)
      ∧ (∀ a, a < apertureAddr s o ∨ apertureAddr s o + n ≤ a → mget t.mem a = mget s.mem a)
      ∧ t.out.host = s.out.host ++ [.data o (leBytes n (mnat s.mem (apertureAddr s o) n)) (s.poison.contains (apertureAddr s o / 64))])
  ∧ (∀ (s : State) (o n : Nat), s.phase ≠ .hubDead → asleep s = false → barOpen s = true → 0 < n → n ≤ 64 - o % 64 → o + n ≤ 2 ^ 25 →
    (pageState s (pageOf (apertureAddr s o)) = none → exec (.apertureRead o n) s = .next (hostReply s (.unsupportedRequest o)))
    ∧ (pageState s (pageOf (apertureAddr s o)) = some .lost → exec (.apertureRead o n) s = .next (hostReply s (.completerAbort o))))

/-- R364 to R374: the bench takes bytes and loses its validity; a check reports the code of the first failing check; a load takes an image of the
host; a substitution is refused with the lowest code that applies, or is admitted and waits for its swap point; a drain that lasts 50 µs is refused
with 0x13; at the swap point the two sets exchange, no byte of memory and no page changes, and every poll interval lies within the new set's bounds;
a second SWAP is refused with 0x10 and the first one stands. -/
def Obligations.Substitution : Prop :=
  (∀ (s : State) (o : Nat) (bs : List Byte), takesWrites s → s.cset.pending = none → s.cset.bench.wf = true → o % 4 = 0 → bs.length % 4 = 0 →
    o + bs.length ≤ 65536 → ∃ t, exec (.benchWrite o bs) s = .next t
      ∧ (∀ i, i < bs.length → mget t.cset.bench (o + i) = bs.getD i 0)
      ∧ (∀ a, a < o ∨ o + bs.length ≤ a → mget t.cset.bench a = mget s.cset.bench a)
      ∧ t = { s with cset := { s.cset with bench := t.cset.bench, shadowValid := false } })
  ∧ (∀ (s : State), takesWrites s → s.cset.pending = none → ∃ t, exec .benchCheck s = .next t
    ∧ t.cset = { s.cset with shadowValid := checkImage s.cset.bench == 0, checkResult := checkImage s.cset.bench,
                             evt := withFlag s.cset.evt 0, evtCnt := s.cset.evtCnt + 1 }
    ∧ t = { s with cset := t.cset, out := t.out, hostPorts := t.hostPorts })
  ∧ (∀ (s : State) (bs : List Byte), takesWrites s → s.cset.pending = none → s.cset.loadAddr.toNat < 2 ^ 46 →
    ∃ t, exec (.benchLoad (some bs)) s = .next t ∧ t.cset.checkResult = checkImage t.cset.bench
      ∧ t.cset.shadowValid = (t.cset.checkResult == 0) ∧ t.cset.active = s.cset.active
      ∧ (∀ o, o < min 65536 (imgLength (mwrite [] 0 (bs.take 65536))) → mget t.cset.bench o = bs.getD o 0)
      ∧ t = { s with cset := t.cset, out := t.out, hostPorts := t.hostPorts })
  ∧ (∀ (s : State), takesWrites s → s.cset.pending = none → ∃ t, exec (.benchLoad none) s = .next t ∧ t.cset.checkResult = 8
    ∧ t.cset.shadowValid = false ∧ t.cset.bench = s.cset.bench ∧ t.cset.active = s.cset.active
    ∧ t = { s with cset := t.cset, out := t.out, hostPorts := t.hostPorts })
  ∧ (∀ (s : State) (r : SwapReq), takesWrites s → mayRequest s none → r = { issuer := none, expect := 2 ^ 64 - 1, since := s.localTime } →
    (swapRefusal s r = 0 → ∃ t, exec .swap s = .next t ∧ swapPends s t none (2 ^ 64 - 1)
      ∧ t = { s with cset := t.cset, mgmt := { s.mgmt with running := t.mgmt.running } })
    ∧ (swapRefusal s r ≠ 0 → ∃ t, exec .swap s = .next t ∧ swapRefused s t (swapRefusal s r) ∧ t.mem = s.mem ∧ t.cmds = s.cmds ∧ t.ctxs = s.ctxs))
  ∧ (∀ (s : State), takesWrites s → s.cset.pending ≠ none → ∃ t, exec .swap s = .next t
    ∧ t.cset = { s.cset with swapResult := 0x10, evt := withFlag s.cset.evt 2, evtCnt := s.cset.evtCnt + 1 }
    ∧ t = { s with cset := t.cset, out := t.out, hostPorts := t.hostPorts })
  ∧ (∀ (s : State) (n i : Nat) (c : Cmd) (r : SwapReq), validatedAs s n i 5 5 c → earlierDone s c = true → mayRequest s (some (n, i)) →
    r = { issuer := some (n, i), expect := fld c.desc 16 8, since := s.localTime } →
    (swapRefusal s r = 0 → ∃ t, exec (.setSwap n i) s = .next t ∧ swapPends s t (some (n, i)) (fld c.desc 16 8)
      ∧ t = { s with cset := t.cset, mgmt := { s.mgmt with running := t.mgmt.running } })
    ∧ (swapRefusal s r ≠ 0 → ∃ t, exec (.setSwap n i) s = .next t ∧ swapRefused s t (swapRefusal s r) ∧ decidedAs t n i .state 0
      ∧ t.mem = s.mem ∧ t.pool = s.pool))
  ∧ (∀ (s : State) (r : SwapReq), s.cset.pending = some r → r.issuer = none → r.admitted = true →
    drainDiffers s.cset.active s.cset.bench = true → drainBusy s = true → us 50 ≤ since s r.since →
    ∃ t, exec .drainTimeout s = .next t ∧ swapRefused s t 0x13 ∧ t.mem = s.mem ∧ t.cmds = s.cmds ∧ t.pool = s.pool)
  ∧ (∀ (s : State) (r : SwapReq), s.cset.pending = some r → r.issuer = none → r.admitted = true →
    (drainDiffers s.cset.active s.cset.bench = false ∨ drainBusy s = false) → setPort s.cset.bench = s.owner →
    imgModule s.cset.bench = selfId s → selfId { s with cset := { s.cset with active := imgTake s.cset.bench } } = selfId s →
    swapPlan s s.cset.bench = some ([], []) →
    ∃ t, exec .swapPoint s = .next t
      ∧ t.cset = { s.cset with active := imgTake s.cset.bench, bench := s.cset.active, shadowValid := true, pending := none, swapResult := 0,
                               evt := withFlag s.cset.evt 1, evtCnt := s.cset.evtCnt + 1 }
      ∧ (∀ k ∈ t.ctxs, pollMin t ≤ k.2.pollI ∧ (pollMin t ≤ pollMax t → k.2.pollI ≤ pollMax t))
      ∧ t.mem = s.mem ∧ t.pool = s.pool ∧ t.owner = s.owner ∧ t.branches = s.branches)

/-- R436, R437: an activity that the Umpire admits is compatible with everything that runs and joins it; where nothing that waits may run, nothing
changes. A sensor whose recalibration is admitted goes out of service; its row then ends the recalibration (log entry 56). -/
def Obligations.Umpire : Prop :=
  (∀ (s : State) (a : Activity), umpNext s = some a → a ∈ s.mgmt.queued ∧ ∀ b ∈ s.mgmt.running, compatible a b = true)
  ∧ (∀ (s : State) (a : Activity), umpNext s = some a → a.rank = rkSensor → ∃ t, exec .umpireAdmit s = .next t
    ∧ t.mgmt = { s.mgmt with running := s.mgmt.running ++ [a], queued := s.mgmt.queued.erase a } ∧ a.info.1 ∈ t.power.outOfService
    ∧ t = { s with mgmt := t.mgmt, power := { s.power with outOfService := t.power.outOfService } })
  ∧ (∀ (s : State), umpNext s = none → exec .umpireAdmit s = .next s)
  ∧ (∀ (s : State) (d x : Nat), d < 16 → sensorOfDie d x = true → umpireFree s rkSensor d (x, 0) →
    ∃ t, exec (.sensorRecalibration d x) s = .next t ∧ umpireRuns s t rkSensor d (x, 0) ∧ (∀ y, y ∈ t.power.outOfService ↔ y = x ∨ y ∈ s.power.outOfService)
      ∧ t = { s with mgmt := { s.mgmt with running := t.mgmt.running }, power := { s.power with outOfService := t.power.outOfService } })
  ∧ (∀ (s : State) (d x : Nat), d < 16 → sensorOfDie d x = true → umpRuns s rkSensor d (x, 0) = true →
    ∃ t, exec (.sensorRecalibration d x) s = .next t ∧ umpKnown t rkSensor d (x, 0) = false ∧ x ∉ t.power.outOfService
      ∧ t = { s with mgmt := { s.mgmt with running := t.mgmt.running, queued := t.mgmt.queued },
                     power := { s.power with outOfService := t.power.outOfService } })

/-- R390, R392 to R396, R404: the clocks of the regions. Over its budget the module lowers every region without a reserved cluster that stands above its
floor by 25 MHz; well below it, and with no duty limited, it raises every cap level by 25 MHz; between, it changes no clock. A boost raises its
region's clock by 25 MHz where nothing else limits it; the voltage loop moves by one; a droop lowers the effective clock by at most 1/16; in Hold an
idle region is gated. -/
def Obligations.Clocks : Prop :=
  (∀ (s : State) (w r : Nat), s.phase = .running → us 100 ≤ since s s.power.capAt → budgetW (profile s) < w → r < 64 →
    regionReserved s r = false → 900 < (regionOf s r).setMhz →
    ∃ t, exec (.powerCapPeriod w) s = .next t ∧ (regionOf t r).capLevel = max 900 ((regionOf s r).setMhz - 25)
      ∧ (regionOf t r).setMhz ≤ max 900 ((regionOf s r).setMhz - 25)
      ∧ (∀ q, regionReserved s q = true → (regionOf t q).capLevel = (regionOf s q).capLevel)
      ∧ t.power = { s.power with inputW := w % 65536, capAt := s.localTime } ∧ t = { s with power := t.power, regions := t.regions })
  ∧ (∀ (s : State) (w : Nat), s.phase = .running → us 100 ≤ since s s.power.capAt → w ≤ budgetW (profile s) → budgetW (profile s) ≤ w + 100 →
    exec (.powerCapPeriod w) s = .next { s with power := { s.power with inputW := w % 65536, capAt := s.localTime } })
  ∧ (∀ (s : State) (w r : Nat), s.phase = .running → us 100 ≤ since s s.power.capAt → w + 100 < budgetW (profile s) → dutyLimited s = false → r < 64 →
    ∃ t, exec (.powerCapPeriod w) s = .next t ∧ (regionOf t r).capLevel = min 1500 ((regionOf s r).capLevel + 25)
      ∧ t.power = { s.power with inputW := w % 65536, capAt := s.localTime } ∧ t = { s with power := t.power, regions := t.regions })
  ∧ (∀ (s : State) (r : Nat), s.phase = .running → r < 64 → mayBoost s r = true → us 100 ≤ since s (regionOf s r).lastBoost →
    ∃ t, exec (.boostStep r) s = .next t ∧ (regionOf t r).lastBoost = s.localTime ∧ (∀ q, q ≠ r → regionOf t q = regionOf s q)
      ∧ ((regionOf s r).capLevel = 1500 → (regionOf s r).throttle = 1500 → 1250 ≤ (regionOf s r).boost →
          (regionOf t r).setMhz = min 1500 ((regionOf s r).boost + 25) ∧ (regionOf t r).boost = min 1500 ((regionOf s r).boost + 25))
      ∧ t = { s with regions := t.regions })
  ∧ (∀ (s : State) (r : Nat) (low : Bool), r < 64 → ∃ t, exec (.voltageLoop r low) s = .next t
    ∧ regionOf t r = { regionOf s r with volt := if low then (regionOf s r).volt + 1 else (regionOf s r).volt - 1 }
    ∧ (∀ q, q ≠ r → regionOf t q = regionOf s q) ∧ t = { s with regions := t.regions })
  ∧ (∀ (s : State) (r : Nat), r < 64 → ∃ t, exec (.droopStretch r) s = .next t ∧ (regionOf t r).stretches = (regionOf s r).stretches + 1
    ∧ (regionOf t r).setMhz = (regionOf s r).setMhz ∧ (regionOf t r).effMhz ≤ (regionOf s r).setMhz
    ∧ ((regionOf s r).gated = false → (regionOf s r).setMhz ≤ (regionOf t r).effMhz + (regionOf s r).setMhz / 16)
    ∧ ((regionOf s r).gated = true → (regionOf t r).effMhz = 0)
    ∧ (∀ q, q ≠ r → regionOf t q = regionOf s q) ∧ t = { s with regions := t.regions })
  ∧ (∀ (s : State) (r : Nat), r < 64 → profile s = 3 → regionReserved s r = false → (regionOf s r).gated = false →
    (∀ c ∈ s.cmds, regionUses r c = false) → us 100 ≤ since s (regionOf s r).idleSince →
    ∃ t, exec (.regionGate r) s = .next t ∧ regionOf t r = { regionOf s r with gated := true, effMhz := 0 }
      ∧ (∀ q, q ≠ r → regionOf t q = regionOf s q) ∧ t = { s with regions := t.regions })

/-- R397 to R400, R403: a die at 100 °C begins to throttle, and its four regions fall by 25 MHz every 10 µs, to their floor; below 98 °C they rise
again. A sensor at its threshold makes the thermal emergency, with every region at 900 MHz; 10 ms of cool sensors end it. A thermal trip signals
death on every UP port and takes the power and the contents of the carafes. The coolant's sensor sets a bit and changes nothing else but what is
reported. -/
def Obligations.Thermal : Prop :=
  (∀ (s : State) (d r : Nat), d < 16 → 1600 ≤ tempNat (BitVec.ofNat 16 r) → (dieOf s d).throttled = false →
    ∃ t, exec (.dieThrottleStep d r) s = .next t ∧ dieOf t d = { dieOf s d with throttled := true, throttleAt := s.localTime }
      ∧ t.power.evt = withFlag s.power.evt 3 ∧ t.power.evtCnt = s.power.evtCnt + 1 ∧ t.regions = s.regions
      ∧ t = { s with dies := t.dies, power := t.power, out := t.out, hostPorts := t.hostPorts })
  ∧ (∀ (s : State) (d r : Nat), d < 16 → 1600 ≤ tempNat (BitVec.ofNat 16 r) → (dieOf s d).throttled = true → us 10 ≤ since s (dieOf s d).throttleAt →
    ∃ t, exec (.dieThrottleStep d r) s = .next t ∧ (dieOf t d).throttleAt = s.localTime
      ∧ (∀ q, q / 4 = d → (regionOf t q).throttle = max (floorMhz s q) (min (regionOf s q).throttle (regionOf s q).setMhz - 25))
      ∧ (∀ q, q / 4 ≠ d → regionOf t q = regionOf s q)
      ∧ t = { s with dies := t.dies, power := t.power, out := t.out, regions := t.regions })
  ∧ (∀ (s : State) (d r : Nat), d < 16 → dieTemp (noteTemp s (4 * d) r) d < 98 * 16 → us 10 ≤ since s (dieOf s d).throttleAt →
    ∃ t, exec (.dieThrottleRelease d r) s = .next t ∧ (dieOf t d).throttled = false
      ∧ (∀ q, q / 4 = d → (regionOf t q).throttle = min 1500 ((regionOf s q).throttle + 25))
      ∧ (∀ q, q / 4 ≠ d → regionOf t q = regionOf s q)
      ∧ t = { s with dies := t.dies, power := t.power, out := t.out, regions := t.regions })
  ∧ (∀ (s : State) (x r : Nat), x < 169 → s.phase ≠ .off → s.phase ≠ .tripped → s.power.emergency = false → x ∉ s.power.outOfService →
    emergencyTemp x ≤ tempNat (BitVec.ofNat 16 r) → ∃ t, exec (.thermalEmergencyEnter x r) s = .next t ∧ t.power.emergency = true
      ∧ (∀ q, q < 64 → (regionOf t q).setMhz = 900) ∧ t.power.evt = withFlag s.power.evt 0 ∧ t.mem = s.mem ∧ t.cmds = s.cmds)
  ∧ (∀ (s : State) (t0 : W64), s.power.emergency = true → s.power.coolSince = some t0 → us 10000 ≤ since s t0 →
    ∃ t, exec .thermalEmergencyExit s = .next t ∧ t.power.emergency = false ∧ t.power.evt = withFlag s.power.evt 1
      ∧ (∀ q, q < 64 → (regionOf t q).setMhz ≤ max (floorMhz s q) 900) ∧ t.mem = s.mem ∧ t.cmds = s.cmds)
  ∧ (∀ (s : State) (x r : Nat), x < 169 → s.phase ≠ .off → s.phase ≠ .tripped → tripTemp x ≤ tempNat (BitVec.ofNat 16 r) →
    ∃ t, exec (.thermalTrip x r) s = .next t ∧ t.phase = .tripped ∧ t.cmds = [] ∧ t.pool = [] ∧ (∀ p, (portOf t p).state = .down)
      ∧ (∀ o, o < 2 ^ 39 → mget t.mem (2 ^ 50 * selfId s + o) = 0)
      ∧ t.links.out.map (fun m => (m.1, m.2.mtype)) = s.links.out.map (fun m => (m.1, m.2.mtype)) ++ (upPorts s).map (fun q => (q, 11)))
  ∧ (∀ (s : State) (r : Nat), ∃ t, exec (.coolantHot r) s = .next t ∧ t.power.coolantHot = decide (65 * 16 ≤ tempNat (BitVec.ofNat 16 r))
    ∧ (t.power.coolantHot = true → s.power.coolantHot = false → t.power.evt = withFlag s.power.evt 4)
    ∧ t = { s with power := t.power, out := t.out, hostPorts := t.hostPorts })

/-- R381, R416, R419 to R421: what Barista answers on an endpoint. Each request of MCTP control, of PLDM base and monitoring, and each vendor message
is answered by one message and changes only what it sets: the endpoint's identifier, the terminus identifier, the event receiver, a sensor's
enable. A sensor that is disabled gives no reading; one that is unknown is an error. LOG_READ returns records that are still held, 1 to 16 of
them; WAKE is the wake event of a standby. The values that published standards fix are free (log entry 15). -/
def Obligations.Management : Prop :=
  ∀ (s : State) (ep : Nat), epAnswers s ep = true →
    (∀ eid, ∃ t, exec (.setEndpointId ep eid) s = .next t ∧ aget t.mgmt.eids ep 0 = eid % 256 ∧ t.out.mgmt = s.out.mgmt ++ [.mctp ep 1 [eid % 256]]
      ∧ (∀ e, e ≠ ep → aget t.mgmt.eids e 0 = aget s.mgmt.eids e 0)
      ∧ t = { s with mgmt := { s.mgmt with eids := t.mgmt.eids }, out := { s.out with mgmt := t.out.mgmt } })
    ∧ (∃ t, exec (.getEndpointId ep) s = .next t ∧ answers s t (.mctp ep 2 [aget s.mgmt.eids ep 0]))
    ∧ (∃ t vs, exec (.getEndpointUuid ep) s = .next t ∧ answers s t (.mctp ep 3 vs))
    ∧ (∀ k, ∃ t vs, exec (.getMctpVersionSupport ep k) s = .next t ∧ answers s t (.mctp ep 4 vs)
      ∧ (k ∉ [0x00, 0x01, 0x05, 0x06, 0x7E, 0xFF] → vs = []))
    ∧ (∃ t, exec (.getMessageTypeSupport ep) s = .next t ∧ answers s t (.mctp ep 5 [0x00, 0x01, 0x05, 0x06, 0x7E]))
    ∧ (∀ k, ∃ t, exec (.getVendorDefinedMessageSupport ep k) s = .next t ∧ answers s t (.mctp ep 6 (if k = 0 then [0x1F6C] else [])))
    ∧ (∃ t, exec (.getTid ep) s = .next t ∧ answers s t (.pldm ep 2 [s.mgmt.tid]))
    ∧ (∀ k, ∃ t, exec (.setTid ep k) s = .next t ∧
        t = { s with mgmt := { s.mgmt with tid := k % 256 }, out := { s.out with mgmt := s.out.mgmt ++ [.pldm ep 1 []] } })
    ∧ (∀ k, ∃ t vs, exec (.getPldmVersion ep k) s = .next t ∧ answers s t (if k ∈ [0, 2, 5] then .pldm ep 3 vs else .pldmError ep))
    ∧ (∃ t, exec (.getPldmTypes ep) s = .next t ∧ answers s t (.pldm ep 4 [0, 2, 5]))
    ∧ (∀ k, ∃ t vs, exec (.getPldmCommands ep k) s = .next t ∧ answers s t (if k ∈ [0, 2, 5] then .pldm ep 5 vs else .pldmError ep))
    ∧ (∃ t vs, exec (.getPdrRepositoryInfo ep) s = .next t ∧ answers s t (.pldm ep 0x50 vs))
    ∧ (∀ k, ∃ t, exec (.getPdr ep k) s = .next t ∧ answers s t (if k ∈ sensorIds then
        .pldm ep 0x51 (k :: (if k ≤ 171 then sensorLimits (k - 1) else [])) else .pldmError ep))
    ∧ (∀ k, ∃ t, exec (.getSensorReading ep k) s = .next t ∧ answers s t (if k ∉ sensorIds then .pldmError ep
        else if k ∈ s.mgmt.sensorsOff then .pldm ep 0x11 [0] else .pldm ep 0x11 [1, sensorValue s k]))
    ∧ (∀ k b, k ∈ sensorIds → ∃ t, exec (.setNumericSensorEnable ep k b) s = .next t ∧ (k ∈ t.mgmt.sensorsOff ↔ b = false)
      ∧ (∀ j, j ≠ k → (j ∈ t.mgmt.sensorsOff ↔ j ∈ s.mgmt.sensorsOff))
      ∧ t = { s with mgmt := { s.mgmt with sensorsOff := t.mgmt.sensorsOff }, out := { s.out with mgmt := s.out.mgmt ++ [.pldm ep 0x10 []] } })
    ∧ (∀ k, exec (.setEventReceiver ep k) s
        = .next { s with mgmt := { s.mgmt with receiver := some k }, out := { s.out with mgmt := s.out.mgmt ++ [.pldm ep 0x04 []] } })
    ∧ (∃ t, exec (.pollForPlatformEventMessage ep) s = .next t ∧ answers s t (.pldm ep 0x0B []))
    ∧ (∃ t, exec (.queryDeviceIdentifiers ep) s = .next t ∧ answers s t (.pldm ep 0x501 [0x1F6C, 0x0250, 0x1F6C, 0x0001]))
    ∧ (∃ t, exec (.getFirmwareParameters ep) s = .next t ∧ answers s t (.pldm ep 0x502 ([1, (bankOf s s.mgmt.activeBank).secVer]
        ++ (if (bankOf s (1 - s.mgmt.activeBank)).valid then [(bankOf s (1 - s.mgmt.activeBank)).secVer] else []))))
    ∧ (∃ t, exec (.getStatus ep) s = .next t ∧ answers s t (.pldm ep 0x51B (match s.mgmt.update with | some u => [1, u.data.length] | none => [0])))
    ∧ (∀ a k, ∃ t rs, exec (.logRead ep a k) s = .next t ∧ answers s t (.logRecords ep rs) ∧ rs.length ≤ 16
      ∧ (∀ r ∈ rs, r ∈ s.mgmt.logFlash ++ s.mgmt.logBuffer ∧ a ≤ r.seq.toNat))
    ∧ (s.standby = none → ∃ t, exec (.wake ep) s = .next t ∧ answers s t (.wakeAck ep))
    ∧ (∀ b, s.standby = some b → b.cause = none → exec (.wake ep) s
        = .next { s with standby := some { b with cause := some 2, wakeAt := s.localTime },
                         out := { s.out with mgmt := s.out.mgmt ++ [.wakeAck ep] } })

/-- R422, R427 to R429, R440: the log and the update of firmware. A flush that is due writes the buffered records to flash. RequestUpdate takes the bank that
is not active, which becomes not valid; one agent at a time may update; a component's data are asked for in slices of 1 MiB, written once the Umpire
admits them; a transfer makes the bank valid just where its image verifies and is whole (what verifies a signature is
free, log entry 14); an activation is pending, or resets the module at once; a silent agent's
update ends after 60 s. -/
def Obligations.FirmwareUpdate : Prop :=
  (∀ (s : State), baristaUp s = true → flushDue s = true → umpireFree s rkLog 0 (0, 0) → s.mgmt.logFlash.length + s.mgmt.logBuffer.length ≤ 524288 →
    ∃ t, exec .logFlush s = .next t ∧ t.mgmt.logFlash = s.mgmt.logFlash ++ s.mgmt.logBuffer ∧ t.mgmt.logBuffer = []
      ∧ t = { s with mgmt := { s.mgmt with logFlash := t.mgmt.logFlash, logBuffer := [], running := t.mgmt.running } })
  ∧ (∀ (s : State) (ep : Nat), epAnswers s ep = true → s.mgmt.update = none → ∃ t, exec (.requestUpdate ep) s = .next t
    ∧ t.mgmt.update = some { ep := ep, bank := 1 - s.mgmt.activeBank, lastTime := s.localTime }
    ∧ (s.mgmt.activeBank = 0 → t.mgmt.bank1.valid = false ∧ t.mgmt.bank0 = s.mgmt.bank0)
    ∧ (s.mgmt.activeBank = 1 → t.mgmt.bank0.valid = false ∧ t.mgmt.bank1 = s.mgmt.bank1)
    ∧ t.out.mgmt = s.out.mgmt ++ [.pldm ep 0x510 []])
  ∧ (∀ (s : State) (ep : Nat) (u : Update), epAnswers s ep = true → s.mgmt.update = some u →
    ∃ t, exec (.requestUpdate ep) s = .next t ∧ answers s t (.alreadyInUpdateMode ep))
  ∧ (∀ (s : State) (ep : Nat) (u : Update), epAnswers s ep = true → s.mgmt.update = some u → u.ep = ep →
    (∀ k, ∃ t, exec (.passComponentTable ep k) s = .next t ∧ t.mgmt.update = some { u with lastTime := s.localTime }
      ∧ t.out.mgmt = s.out.mgmt ++ [.pldm ep 0x513 [k]])
    ∧ (∀ k n, k = 1 ∨ k = 2 → n ≤ 2 ^ 25 → ∃ t, exec (.updateComponent ep k n) s = .next t
      ∧ t.mgmt.update = some { u with component := some k, size := n, data := [], slice := none, verified := none, lastTime := s.localTime }
      ∧ t.out.mgmt = s.out.mgmt ++ [.pldm ep 0x514 []] ++ (if 0 < n then [.requestFirmwareData ep 0 (min 1048576 n)] else []))
    ∧ (∀ bs, u.component ≠ none → u.slice = none → u.data.length < u.size → umpireFree s rkStaging 0 (0, 0) →
      ∃ t v, exec (.firmwareData ep bs) s = .next t ∧ t.mgmt.update = some v
        ∧ v.data = u.data ++ bs.take (min 1048576 (u.size - u.data.length)) ∧ v.slice = none ∧ v.lastTime = s.localTime)
    ∧ (u.component = some 1 → ∃ t, exec (.transferComplete ep) s = .next t
      ∧ (u.bank = 0 → t.mgmt.bank0.valid = ((imageBank s.mgmt.ownerKey s.mgmt.floor u.data).valid && u.data.length == u.size))
      ∧ (u.bank = 1 → t.mgmt.bank1.valid = ((imageBank s.mgmt.ownerKey s.mgmt.floor u.data).valid && u.data.length == u.size))
      ∧ t.out.mgmt = s.out.mgmt ++ (if ((imageBank s.mgmt.ownerKey s.mgmt.floor u.data).valid && u.data.length == u.size) = true
          then [.verifyComplete ep true, .applyComplete ep] else [.verifyComplete ep false]))
    ∧ (∃ t, exec (.cancelUpdateComponent ep) s = .next t
      ∧ t.mgmt.update = some { u with component := none, data := [], slice := none, lastTime := s.localTime }
      ∧ t.out.mgmt = s.out.mgmt ++ [.pldm ep 0x51C []] ∧ umpKnown t rkStaging 0 (0, 0) = false)
    ∧ (∃ t, exec (.cancelUpdate ep) s = .next t ∧ t.mgmt.update = none ∧ t.out.mgmt = s.out.mgmt ++ [.pldm ep 0x51D []]
      ∧ umpKnown t rkStaging 0 (0, 0) = false))
  ∧ (∀ (s : State) (u : Update), s.mgmt.update = some u → us 60000000 ≤ since s u.lastTime → ∃ t, exec .updateTimeout s = .next t
    ∧ t.mgmt.update = none ∧ t.out = s.out ∧ t.phase = s.phase)
  ∧ (∀ (s : State) (ep : Nat), epAnswers s ep = true → (bankOf s (1 - s.mgmt.activeBank)).valid = true →
    exec (.activateFirmware ep false) s
      = .next { s with mgmt := { s.mgmt with update := none, pendingBank := some (1 - s.mgmt.activeBank) },
                       out := { s.out with mgmt := s.out.mgmt ++ [.pldm ep 0x51A []] } })
  ∧ (∀ (s : State) (ep : Nat), epAnswers s ep = true → (bankOf s (1 - s.mgmt.activeBank)).valid = true → umpireFree s rkActivate 0 (0, 0) →
    s.mgmt.activeBank ≤ 1 → bankVerifies (bankOf s (1 - s.mgmt.activeBank)) (nextOwnerKey s) s.mgmt.floor = true →
    (∃ t, exec (.activateFirmware ep true) s = .next t ∧ t.phase = .startup true ∧ t.mgmt.activeBank = 1 - s.mgmt.activeBank ∧ t.cmds = [])
    ∧ (takesWrites s → ∃ t, exec .fwActivate s = .next t ∧ t.phase = .startup true ∧ t.mgmt.activeBank = 1 - s.mgmt.activeBank ∧ t.cmds = []))

/-- R430 to R432: SPDM and reports. A request is served where the endpoint answers, the identity is there and the negotiation that it needs has been made
(log entry 14); the four algorithms must all be offered; a transport has at most four sessions; FINISH establishes a session; a report carries the
nonce, the times, the incarnation, the measurements of the banks and sets, and the digests of its ranges. The bytes of signatures and certificates
are free (log entry 14). -/
def Obligations.Spdm : Prop :=
  (∀ (s : State) (tr : Nat), trAnswers s tr = true → ∃ t bs, exec (.getVersion tr) s = .next t ∧ spdmLevel t tr = 1
    ∧ t.out.mgmt = s.out.mgmt ++ [.spdm tr 0x84 bs] ∧ (∀ o, o ≠ tr → spdmLevel t o = spdmLevel s o))
  ∧ (∀ (s : State) (tr : Nat), spdmServed s tr 1 → ∃ t bs, exec (.getCapabilities tr) s = .next t ∧ spdmLevel t tr = 2
    ∧ t.out.mgmt = s.out.mgmt ++ [.spdm tr 0xE1 bs])
  ∧ (∀ (s : State) (tr : Nat) (as : List Nat), spdmServed s tr 2 →
    ((∀ i, i < 4 → i ∈ as) → ∃ t, exec (.negotiateAlgorithms tr as) s = .next t ∧ spdmLevel t tr = 3
      ∧ t.out.mgmt = s.out.mgmt ++ [.spdm tr 0xE3 [0, 1, 2, 3]])
    ∧ (¬ (∀ i, i < 4 → i ∈ as) → ∃ t, exec (.negotiateAlgorithms tr as) s = .next t ∧ answers s t (.spdmError tr 0xE3)))
  ∧ (∀ (s : State) (tr : Nat), spdmServed s tr 3 →
    (∃ t bs, exec (.getDigests tr) s = .next t ∧ answers s t (.spdm tr 0x81 bs))
    ∧ (∀ k o n, ∃ t bs, exec (.getCertificate tr k o n) s = .next t ∧ bs.length ≤ n
        ∧ answers s t (if k = 0 then .spdm tr 0x82 bs else .spdmError tr 0x82))
    ∧ (∀ k bs, ∃ t rs, exec (.challenge tr k bs) s = .next t ∧ answers s t (if k = 0 then .spdm tr 0x83 rs else .spdmError tr 0x83))
    ∧ (∀ id bs, findSession s tr id = none → (sessionsOf s tr).length < 4 → ∃ t rs, exec (.keyExchange tr id bs) s = .next t
        ∧ t.mgmt.sessions = s.mgmt.sessions ++ [{ transport := tr, id := id }] ∧ t.out.mgmt = s.out.mgmt ++ [.spdm tr 0xE4 rs])
    ∧ (∀ id bs, 4 ≤ (sessionsOf s tr).length → ∃ t, exec (.keyExchange tr id bs) s = .next t ∧ answers s t (.spdmError tr 0xE4))
    ∧ (∀ id x, findSession s tr id = some x → x.established = false → ∃ t bs rs, exec (.finish tr id bs) s = .next t
        ∧ findSession t tr id = some { x with established := true } ∧ t.out.mgmt = s.out.mgmt ++ [.spdm tr 0xE5 rs])
    ∧ (∀ id x, findSession s tr id = some x → x.established = true →
        (∃ t, exec (.heartbeat tr id) s = .next t ∧ answers s t (.spdm tr 0xE8 []))
        ∧ (∀ k, k = 1 ∨ k = 2 → ∃ t, exec (.keyUpdate tr id k) s = .next t ∧ findSession t tr id = some { x with keyGen := x.keyGen + 1 }
            ∧ t.out.mgmt = s.out.mgmt ++ [.spdm tr 0xE9 []])
        ∧ (∃ t, exec (.endSession tr id) s = .next t ∧ findSession t tr id = none ∧ t.out.mgmt = s.out.mgmt ++ [.spdm tr 0xEC []]))
    ∧ (∀ nonce rs, nonce.length = 32 → rs.length ≤ 8 → (∀ r ∈ rs, reportRange s r = true) →
        (∀ r ∈ rs, ∀ i, i < r.2 → pageState s (pageOf (r.1 + i)) = some .resident ∧ (r.1 + i) / 64 ∉ s.poison) →
        ∃ t body sig, exec (.report tr nonce rs) s = .next t ∧ answers s t (.spdm tr 0xFE (body ++ sig))
          ∧ body.take 8 = leBytes 4 0x52544847 ++ leBytes 2 1 ++ leBytes 2 (6 + rs.length) ∧ (body.drop 8).take 32 = nonce
          ∧ (body.drop 40).take 24 = leBytes 8 (calStamp s).toNat ++ leBytes 8 s.localTime.toNat ++ leBytes 4 s.links.incarnation.toNat
              ++ leBytes 4 (bankOf s s.mgmt.activeBank).secVer))

/-- R237, R239, R241, R232: validation, shown for CONVERT and FENCE. A descriptor that its context's order holds stays unvalidated; the first check that fails
decides its status, with the check's order, and nothing else changes but the trace; one that passes is validated now; one with a run-time extent of
0 completes with E_OK and result 0, draws nothing and writes nothing; an opcode that is not listed completes with E_FORMAT (log entry 21). -/
def Obligations.Validation : Prop :=
  (∀ (s : State) (n i : Nat) (c : Cmd), findCmd s n i = some c → c.stage = .fetched → mayValidate s c = false →
    exec (.convert n i) s = .next s ∧ exec (.fence n i) s = .next s)
  ∧ (∀ (s : State) (n i o : Nat) (st : Status) (c : Cmd), findCmd s n i = some c → hClass c.desc = 1 → hOp c.desc = 2 → c.stage = .fetched →
    mayValidate s c = true → awaits s c = false → c.peerError = none → firstFail (cvChecks s c) = some (o, st) →
    ∃ t k, exec (.convert n i) s = .next t ∧ findCmd t n i = some k ∧ k.stage = .decided ∧ k.status = st ∧ k.failOrder = o ∧ k.validated = c.validated
      ∧ k.work.result = 0 ∧ t = { s with cmds := t.cmds, trace := t.trace })
  ∧ (∀ (s : State) (n i : Nat) (c : Cmd), findCmd s n i = some c → hClass c.desc = 1 → hOp c.desc = 2 → c.stage = .fetched →
    mayValidate s c = true → awaits s c = false → c.peerError = none → firstFail (cvChecks s c) = none →
    (cvNoop (cvOf c.desc) = true → ∃ t k, exec (.convert n i) s = .next t ∧ findCmd t n i = some k ∧ k.stage = .decided ∧ k.status = .ok
      ∧ k.validated = true ∧ k.noop = true ∧ k.work.result = 0 ∧ k.draws = c.draws ∧ t = { s with cmds := t.cmds, trace := t.trace })
    ∧ (cvNoop (cvOf c.desc) = false → ∃ t k, exec (.convert n i) s = .next t ∧ findCmd t n i = some k ∧ k.stage = .validated ∧ k.validated = true
      ∧ k.validatedAt = s.localTime ∧ k.desc = c.desc ∧ k.status = c.status
      ∧ t = { s with cmds := t.cmds, trace := t.trace, ctxs := t.ctxs, branches := t.branches }))
  ∧ (∀ (s : State) (n i : Nat) (c : Cmd), findCmd s n i = some c → hClass c.desc = 5 → hOp c.desc = 1 → c.stage = .fetched →
    mayValidate s c = true → awaits s c = false → c.peerError = none → firstFail (fenceChecks s c) = none →
    ∃ t k, exec (.fence n i) s = .next t ∧ findCmd t n i = some k ∧ k.stage = .validated ∧ k.validated = true ∧ k.validatedAt = s.localTime
      ∧ k.desc = c.desc ∧ t = { s with cmds := t.cmds, trace := t.trace })
  ∧ (∀ (s : State) (n i : Nat) (c : Cmd), findCmd s n i = some c → opListed (hClass c.desc) (hOp c.desc) = false → c.stage = .fetched →
    mayValidate s c = true → awaits s c = false → c.peerError = none →
    ∃ t, exec (.convert n i) s = .next t ∧ decidedAs t n i .format 0 ∧ t = { s with cmds := t.cmds, trace := t.trace })

/-- R254 to R259, R194, R121, R148, R282, R314, R315, R318, R364, R407: the state after reset: canonical memories that list nothing (the form is the model's, log
entry 3), no command, every context DISABLED, every page FREE, no branch, every port enabled and DOWN, HUB_SVC_MODE at STARTUP, the ceilings at their
reset values, and the default set active: module 0, port A, profile Hold, polls of 2 to 16 µs, no reserved context, every frame in ALL64, ageing
every 1,000. -/
def Obligations.ResetValues : Prop :=
  State.reset.canonical ∧ State.reset.pending = [] ∧ (∀ a, mget State.reset.mem a = 0) ∧ (∀ a, mget State.reset.brMem a = 0)
  ∧ State.reset.phase = .startup false ∧ State.reset.localTime = 0 ∧ State.reset.cmds = []
  ∧ (∀ n, (ctxOf State.reset n).state = .disabled ∧ (ctxOf State.reset n).evtCnt = 0 ∧ ctxStat State.reset n = 0)
  ∧ (∀ p, pageState State.reset p = none) ∧ (∀ b, branchOf State.reset b = none)
  ∧ (∀ p, (portOf State.reset p).enable = true ∧ (portOf State.reset p).state = .down)
  ∧ State.reset.regs.svcMode = 1 ∧ State.reset.regs.stateCeil = 256 ∧ State.reset.regs.dropMax = 1024 ∧ State.reset.regs.traceOn = false
  ∧ State.reset.owner = 0 ∧ selfId State.reset = 0 ∧ setPort State.reset.cset.active = 0 ∧ profile State.reset = 3
  ∧ pollMin State.reset = 2 ∧ pollMax State.reset = 16 ∧ (∀ g, g < 16 → grpCtx State.reset.cset.active g = 0xFFFF)
  ∧ zoneAll State.reset.cset.active = 186 ∧ zoneReg State.reset.cset.active = 0 ∧ agePeriod State.reset.cset.active = 1000

/-- R53, R65, R66: under round to nearest the grinder gives a finite code of the output format whose value is as near to a finite input as any finite
value of the format is: for every format, every sign and every rational input, beyond the format's range too. -/
def Obligations.GrinderRoundsToNearest : Prop :=
  ∀ (f : Fmt) (neg : Bool) (n d : Nat) (e : Int), 0 < d →
    (grind f .nearest (.fin neg n d e)).1 < 2 ^ f.width
    ∧ fvNonfinite (decodeElt f (grind f .nearest (.fin neg n d e)).1) = false
    ∧ ∀ k, k < 2 ^ f.width → fvNonfinite (decodeElt f k) = false →
        |fvRat (.fin neg n d e) - fvRat (decodeElt f (grind f .nearest (.fin neg n d e)).1)| ≤ |fvRat (.fin neg n d e) - fvRat (decodeElt f k)|
end

