-- ==== Sys2Proof/Laws/Memory.lean ====
section
/-! SUPPORT. Laws of memory and of maps: a read after a write, and that every memory operation keeps the canonical form. -/

namespace Sys2Proof.Machine

/-! ### The canonical form -/

theorem wf_iff (m : Memory) : m.wf = true ↔ m.Pairwise (fun a b => a.1 < b.1) ∧ ∀ c ∈ m, c.2 ≠ 0 := by
  induction m with
  | nil => simp [Memory.wf]
  | cons c m ih =>
    cases m with
    | nil => simp [Memory.wf]
    | cons d m =>
      obtain ⟨a, b⟩ := c
      obtain ⟨a', b'⟩ := d
      simp only [Memory.wf, Bool.and_eq_true, bne_iff_ne, ne_eq, decide_eq_true_eq, ih]
      constructor
      · rintro ⟨⟨h1, h2⟩, h3, h4⟩
        refine ⟨List.pairwise_cons.2 ⟨?_, h3⟩, ?_⟩
        · intro x hx
          rcases List.mem_cons.1 hx with rfl | hx
          · exact h2
          · exact lt_trans h2 ((List.pairwise_cons.1 h3).1 x hx)
        · intro x hx
          rcases List.mem_cons.1 hx with rfl | hx
          · exact h1
          · exact h4 x hx
      · rintro ⟨h1, h2⟩
        have h3 := List.pairwise_cons.1 h1
        exact ⟨⟨h2 (a, b) (by simp), h3.1 (a', b') (by simp)⟩, h3.2, fun x hx => h2 x (by simp [hx])⟩

/-- The addresses that a write of one byte leaves: those listed before, and the one written. -/
theorem mset_mem {m : Memory} {k : Nat} {v : Byte} {c : Host.Cell} (h : c ∈ mset m k v) : c ∈ m ∨ c = (k, v) := by
  induction m with
  | nil => by_cases hv : v = 0 <;> simp_all [mset]
  | cons d m ih =>
    obtain ⟨a, b⟩ := d
    unfold mset at h
    split at h
    · split at h <;> simp_all; tauto
    · split at h
      · split at h <;> simp_all; tauto
      · rcases List.mem_cons.1 h with rfl | h
        · simp
        · rcases ih h with h | h <;> simp [h]

theorem mset_sorted {m : Memory} {k : Nat} {v : Byte} (h : m.Pairwise (fun a b => a.1 < b.1)) :
    (mset m k v).Pairwise (fun a b => a.1 < b.1) := by
  induction m with
  | nil => unfold mset; split <;> simp
  | cons d m ih =>
    obtain ⟨a, b⟩ := d
    have h1 := List.pairwise_cons.1 h
    unfold mset
    split
    · rename_i hk
      split
      · exact h
      · refine List.pairwise_cons.2 ⟨?_, h⟩
        intro x hx
        rcases List.mem_cons.1 hx with rfl | hx
        · exact hk
        · exact lt_trans hk (h1.1 x hx)
    · split
      · rename_i hk
        split
        · exact h1.2
        · exact List.pairwise_cons.2 ⟨fun x hx => hk ▸ h1.1 x hx, h1.2⟩
      · refine List.pairwise_cons.2 ⟨?_, ih h1.2⟩
        intro x hx
        rcases mset_mem hx with hx | rfl
        · exact h1.1 x hx
        · simp only; omega

theorem mset_nonzero {m : Memory} {k : Nat} {v : Byte} (h : ∀ c ∈ m, c.2 ≠ 0) : ∀ c ∈ mset m k v, c.2 ≠ 0 := by
  induction m with
  | nil => by_cases hv : v = 0 <;> simp [mset, hv]
  | cons d m ih =>
    obtain ⟨a, b⟩ := d
    have h1 : b ≠ 0 := h (a, b) (by simp)
    have h2 : ∀ c ∈ m, c.2 ≠ 0 := fun c hc => h c (by simp [hc])
    unfold mset
    split
    · split
      · exact h
      · rename_i hv
        intro c hc
        rcases List.mem_cons.1 hc with rfl | hc
        · exact hv
        · exact h c hc
    · split
      · split
        · exact h2
        · rename_i hv
          intro c hc
          rcases List.mem_cons.1 hc with rfl | hc
          · exact hv
          · exact h2 c hc
      · intro c hc
        rcases List.mem_cons.1 hc with rfl | hc
        · exact h1
        · exact ih h2 c hc

@[simp] theorem mset_wf (m : Memory) (k : Nat) (v : Byte) (h : m.wf = true) : (mset m k v).wf = true := by
  rw [wf_iff] at h ⊢
  exact ⟨mset_sorted h.1, mset_nonzero h.2⟩

@[simp] theorem mapply_wf (m : Memory) (cs : List Host.Cell) (h : m.wf = true) : (mapply m cs).wf = true := by
  unfold mapply
  induction cs generalizing m with
  | nil => exact h
  | cons c cs ih => exact ih _ (mset_wf _ _ _ h)

@[simp] theorem mwrite_wf (m : Memory) (a : Nat) (bs : List Byte) (h : m.wf = true) : (mwrite m a bs).wf = true :=
  mapply_wf _ _ h

@[simp] theorem filter_wf (m : Memory) (p : Host.Cell → Bool) (h : m.wf = true) : Memory.wf (m.filter p) = true := by
  rw [wf_iff] at h ⊢
  exact ⟨h.1.filter p, fun c hc => h.2 c (List.mem_filter.1 hc).1⟩

@[simp] theorem mclear_wf (m : Memory) (a n : Nat) (h : m.wf = true) : (mclear m a n).wf = true := filter_wf _ _ h

@[simp] theorem mcopy_wf (m : Memory) (src dst n : Nat) (h : m.wf = true) : (mcopy m src dst n).wf = true :=
  mapply_wf _ _ (mclear_wf _ _ _ h)

@[simp] theorem brClear_wf (m : Memory) (b : Nat) (h : m.wf = true) : (brClear m b).wf = true := filter_wf _ _ h

@[simp] theorem renumberCells_wf (m : Memory) (a b : Nat) (h : m.wf = true) : (renumberCells m a b).wf = true := by
  unfold renumberCells
  split
  · exact h
  · exact mapply_wf _ _ (filter_wf _ _ h)

/-- A fold of operations that keep the form keeps it. -/
theorem foldl_wf {α : Type} (f : Memory → α → Memory) (hf : ∀ m x, m.wf = true → (f m x).wf = true) (l : List α) (m : Memory)
    (h : m.wf = true) : Memory.wf (l.foldl f m) = true := by
  induction l generalizing m with
  | nil => exact h
  | cons x l ih => exact ih _ (hf _ _ h)

theorem nil_wf : Memory.wf [] = true := rfl

/-! ### A read after a write -/

theorem mget_above {m : Memory} {k : Nat} (h : Memory.above k m) : mget m k = 0 := by
  induction m with
  | nil => rfl
  | cons d m ih =>
    obtain ⟨a, b⟩ := d
    have h1 : k < a := h (a, b) (by simp)
    have h2 : a ≠ k := by omega
    simp only [mget, h2, if_false]
    exact ih (fun c hc => h c (by simp [hc]))

theorem wf_above {a : Nat} {b : Byte} {m : Memory} (h : Memory.wf ((a, b) :: m) = true) : Memory.above a m :=
  fun c hc => (List.pairwise_cons.1 ((wf_iff _).1 h).1).1 c hc

theorem wf_tail {c : Host.Cell} {m : Memory} (h : Memory.wf (c :: m) = true) : m.wf = true := by
  rw [wf_iff] at h ⊢
  exact ⟨(List.pairwise_cons.1 h.1).2, fun x hx => h.2 x (by simp [hx])⟩

/-- Reading one byte after writing one: the byte written at its address, and every other byte as before. -/
theorem mget_mset (m : Memory) (k : Nat) (v : Byte) (a : Nat) (h : m.wf = true) :
    mget (mset m k v) a = if a = k then v else mget m a := by
  induction m with
  | nil =>
    unfold mset
    split
    · rename_i hv; simp [mget, hv]
    · by_cases ha : a = k
      · simp [mget, ha]
      · simp [mget, ha, Ne.symm ha]
  | cons d m ih =>
    obtain ⟨x, b⟩ := d
    have ht := ih (wf_tail h)
    have hab := wf_above h
    unfold mset
    split
    · rename_i hk
      split
      · rename_i hv
        by_cases ha : a = k
        · subst ha
          rw [if_pos rfl, hv]
          exact mget_above (fun c hc => by
            rcases List.mem_cons.1 hc with rfl | hc
            · exact hk
            · exact lt_trans hk (hab c hc))
        · rw [if_neg ha]
      · by_cases ha : a = k
        · simp [mget, ha]
        · simp [mget, ha, Ne.symm ha]
    · split
      · rename_i hk
        subst hk
        split
        · rename_i hv
          by_cases ha : a = k
          · subst ha; rw [if_pos rfl, hv]; exact mget_above hab
          · simp [mget, ha, Ne.symm ha]
        · by_cases ha : a = k
          · simp [mget, ha]
          · simp [mget, ha, Ne.symm ha]
      · rename_i h1 h2
        by_cases hx : x = a
        · subst hx
          simp [mget, Ne.symm h2]
        · simp only [mget, hx, if_false]
          exact ht

/-- A byte that cells do not write reads as before. -/
theorem mget_mapply_of_not_mem (m : Memory) (cs : List Host.Cell) (a : Nat) (h : m.wf = true) (ha : ∀ c ∈ cs, c.1 ≠ a) :
    mget (mapply m cs) a = mget m a := by
  unfold mapply
  induction cs generalizing m with
  | nil => rfl
  | cons c cs ih =>
    have h1 : a ≠ c.1 := fun e => ha c (by simp) e.symm
    rw [List.foldl_cons, ih _ (mset_wf _ _ _ h) (fun d hd => ha d (by simp [hd])), mget_mset _ _ _ _ h, if_neg h1]

/-! ### Maps -/

theorem aget?_aput {α : Type} (m : AMap α) (k : Nat) (v : α) (j : Nat) :
    aget? (aput m k v) j = if j = k then some v else aget? m j := by
  induction m with
  | nil => simp only [aput, aget?, eq_comm]
  | cons d m ih =>
    obtain ⟨a, w⟩ := d
    unfold aput
    split
    · by_cases h : j = k
      · simp [aget?, h]
      · simp [aget?, h, Ne.symm h]
    · split
      · rename_i _ h1
        subst h1
        by_cases h : j = k
        · simp [aget?, h]
        · simp [aget?, h, Ne.symm h]
      · rename_i h1 h2
        by_cases h : a = j
        · subst h
          simp [aget?, Ne.symm h2]
        · simp only [aget?, h, if_false]
          exact ih

theorem aget_aput {α : Type} (m : AMap α) (k : Nat) (v : α) (j : Nat) (d : α) :
    aget (aput m k v) j d = if j = k then v else aget m j d := by
  unfold aget
  rw [aget?_aput]
  split <;> rfl

theorem aget_amod {α : Type} (m : AMap α) (k : Nat) (d : α) (f : α → α) (j : Nat) :
    aget (amod m k d f) j d = if j = k then f (aget m k d) else aget m j d := aget_aput _ _ _ _ _

end Sys2Proof.Machine
end

