-- ==== Sys2Proof/Laws/Canonical.lean ====
section
/-! SUPPORT. Every function of the model keeps both memories in canonical form. One lemma per function, for the simplifier. -/

set_option linter.unusedTactic false
set_option linter.unreachableTactic false
set_option linter.unusedSimpArgs false
set_option linter.unusedVariables false

namespace Sys2Proof.Machine

@[simp] theorem foldl_mclear_wf (l : List (Nat × Nat)) (m : Memory) (h : m.wf = true) :
    Memory.wf (l.foldl (fun m r => mclear m r.1 r.2) m) = true := foldl_wf _ (fun _ _ h => mclear_wf _ _ _ h) l m h

@[simp] theorem foldl_brClear_wf (l : List Nat) (m : Memory) (h : m.wf = true) :
    Memory.wf (l.foldl brClear m) = true := foldl_wf _ (fun _ _ h => brClear_wf _ _ h) l m h

@[simp] theorem foldl_place_wf (l : List (Nat × Nat)) (m : Memory) (h : m.wf = true) :
    Memory.wf (l.foldl (fun m p => mclear m (64 * p.2) 64) m) = true := foldl_wf _ (fun _ _ h => mclear_wf _ _ _ h) l m h

theorem seqAll_wf' {α : Type} (s : State) (l : List α) (f : State → α → State)
    (h : ∀ s x, s.mem.wf = true ∧ s.brMem.wf = true → (f s x).mem.wf = true ∧ (f s x).brMem.wf = true)
    (hw : s.mem.wf = true ∧ s.brMem.wf = true) : (seqAll s l f).mem.wf = true ∧ (seqAll s l f).brMem.wf = true := by
  unfold seqAll
  induction l generalizing s with
  | nil => exact hw
  | cons x l ih => exact ih _ (h _ _ hw)

@[simp] theorem seqAll_wf {α : Type} (s : State) (l : List α) (f : State → α → State)
    (h : ∀ s x, s.mem.wf = true → s.brMem.wf = true → (f s x).mem.wf = true ∧ (f s x).brMem.wf = true)
    (hw : s.mem.wf = true ∧ s.brMem.wf = true) : (seqAll s l f).mem.wf = true ∧ (seqAll s l f).brMem.wf = true :=
  seqAll_wf' s l f (fun s x h1 => h s x h1.1 h1.2) hw


@[simp] theorem storeCells_wf (s : State) (cs : List Host.Cell) (hw : s.mem.wf = true ∧ s.brMem.wf = true) :
    (storeCells s cs).mem.wf = true ∧ (storeCells s cs).brMem.wf = true := by
  unfold storeCells
  constructor <;> simp (maxDischargeDepth := 40) [hw.1, hw.2]

@[simp] theorem poisonLines_wf (s : State) (ls : List Nat) (hw : s.mem.wf = true ∧ s.brMem.wf = true) :
    (poisonLines s ls).mem.wf = true ∧ (poisonLines s ls).brMem.wf = true := by
  unfold poisonLines
  constructor <;> simp (maxDischargeDepth := 40) [hw.1, hw.2]

@[simp] theorem setCtx_wf (s : State) (n : Nat) (c : Ctx) (hw : s.mem.wf = true ∧ s.brMem.wf = true) :
    (setCtx s n c).mem.wf = true ∧ (setCtx s n c).brMem.wf = true := by
  unfold setCtx
  constructor <;> simp (maxDischargeDepth := 40) [hw.1, hw.2]

@[simp] theorem modCtx_wf (s : State) (n : Nat) (f : Ctx → Ctx) (hw : s.mem.wf = true ∧ s.brMem.wf = true) :
    (modCtx s n f).mem.wf = true ∧ (modCtx s n f).brMem.wf = true := by
  unfold modCtx
  constructor <;> simp (maxDischargeDepth := 40) [hw.1, hw.2]

@[simp] theorem setCmd_wf (s : State) (c : Cmd) (hw : s.mem.wf = true ∧ s.brMem.wf = true) :
    (setCmd s c).mem.wf = true ∧ (setCmd s c).brMem.wf = true := by
  unfold setCmd
  constructor <;> simp (maxDischargeDepth := 40) [hw.1, hw.2]

@[simp] theorem modCluster_wf (s : State) (q : Nat) (f : Cluster → Cluster) (hw : s.mem.wf = true ∧ s.brMem.wf = true) :
    (modCluster s q f).mem.wf = true ∧ (modCluster s q f).brMem.wf = true := by
  unfold modCluster
  constructor <;> simp (maxDischargeDepth := 40) [hw.1, hw.2]

@[simp] theorem modRegion_wf (s : State) (r : Nat) (f : Region → Region) (hw : s.mem.wf = true ∧ s.brMem.wf = true) :
    (modRegion s r f).mem.wf = true ∧ (modRegion s r f).brMem.wf = true := by
  unfold modRegion
  constructor <;> simp (maxDischargeDepth := 40) [hw.1, hw.2]

@[simp] theorem modHostPort_wf (s : State) (p : Nat) (f : HostPort → HostPort) (hw : s.mem.wf = true ∧ s.brMem.wf = true) :
    (modHostPort s p f).mem.wf = true ∧ (modHostPort s p f).brMem.wf = true := by
  unfold modHostPort
  constructor <;> simp (maxDischargeDepth := 40) [hw.1, hw.2]

@[simp] theorem barWrite_wf (s : State) (offset size value : Nat) (f : State → State) (hf : ∀ x0, x0.mem.wf = true ∧ x0.brMem.wf = true → (f x0).mem.wf = true ∧ (f x0).brMem.wf = true) (hw : s.mem.wf = true ∧ s.brMem.wf = true) :
    (barWrite s offset size value f).mem.wf = true ∧ (barWrite s offset size value f).brMem.wf = true := by
  unfold barWrite
  constructor <;> (try dsimp only) <;> (repeat' (split <;> (try dsimp only))) <;> simp (maxDischargeDepth := 40) [hw.1, hw.2, hf]

@[simp] theorem sendVector_wf (s : State) (p v : Nat) (hw : s.mem.wf = true ∧ s.brMem.wf = true) :
    (sendVector s p v).mem.wf = true ∧ (sendVector s p v).brMem.wf = true := by
  unfold sendVector
  constructor <;> (try dsimp only) <;> (repeat' (split <;> (try dsimp only))) <;> simp (maxDischargeDepth := 40) [hw.1, hw.2]

@[simp] theorem raiseSource_wf (s : State) (n : Nat) (hw : s.mem.wf = true ∧ s.brMem.wf = true) :
    (raiseSource s n).mem.wf = true ∧ (raiseSource s n).brMem.wf = true := by
  unfold raiseSource
  constructor <;> (try dsimp only) <;> (repeat' (split <;> (try dsimp only))) <;> simp (maxDischargeDepth := 40) [hw.1, hw.2]

@[simp] theorem ctxEvent_wf (s : State) (n b : Nat) (hw : s.mem.wf = true ∧ s.brMem.wf = true) :
    (ctxEvent s n b).mem.wf = true ∧ (ctxEvent s n b).brMem.wf = true := by
  unfold ctxEvent
  constructor <;> simp (maxDischargeDepth := 40) [hw.1, hw.2]

@[simp] theorem carafeEvent_wf (s : State) (d : Nat) (hw : s.mem.wf = true ∧ s.brMem.wf = true) :
    (carafeEvent s d).mem.wf = true ∧ (carafeEvent s d).brMem.wf = true := by
  unfold carafeEvent
  constructor <;> simp (maxDischargeDepth := 40) [hw.1, hw.2]

@[simp] theorem portEvent_wf (s : State) (p b : Nat) (hw : s.mem.wf = true ∧ s.brMem.wf = true) :
    (portEvent s p b).mem.wf = true ∧ (portEvent s p b).brMem.wf = true := by
  unfold portEvent
  constructor <;> simp (maxDischargeDepth := 40) [hw.1, hw.2]

@[simp] theorem linkEvent_wf (s : State) (b : Nat) (hw : s.mem.wf = true ∧ s.brMem.wf = true) :
    (linkEvent s b).mem.wf = true ∧ (linkEvent s b).brMem.wf = true := by
  unfold linkEvent
  constructor <;> simp (maxDischargeDepth := 40) [hw.1, hw.2]

@[simp] theorem recovEvent_wf (s : State) (hw : s.mem.wf = true ∧ s.brMem.wf = true) :
    (recovEvent s).mem.wf = true ∧ (recovEvent s).brMem.wf = true := by
  unfold recovEvent
  constructor <;> simp (maxDischargeDepth := 40) [hw.1, hw.2]

@[simp] theorem pciEvent_wf (s : State) (p b : Nat) (hw : s.mem.wf = true ∧ s.brMem.wf = true) :
    (pciEvent s p b).mem.wf = true ∧ (pciEvent s p b).brMem.wf = true := by
  unfold pciEvent
  constructor <;> (try dsimp only) <;> (repeat' (split <;> (try dsimp only))) <;> simp (maxDischargeDepth := 40) [hw.1, hw.2]

@[simp] theorem csetEvent_wf (s : State) (b : Nat) (hw : s.mem.wf = true ∧ s.brMem.wf = true) :
    (csetEvent s b).mem.wf = true ∧ (csetEvent s b).brMem.wf = true := by
  unfold csetEvent
  constructor <;> simp (maxDischargeDepth := 40) [hw.1, hw.2]

@[simp] theorem mgmtEvent_wf (s : State) (b : Nat) (hw : s.mem.wf = true ∧ s.brMem.wf = true) :
    (mgmtEvent s b).mem.wf = true ∧ (mgmtEvent s b).brMem.wf = true := by
  unfold mgmtEvent
  constructor <;> simp (maxDischargeDepth := 40) [hw.1, hw.2]

@[simp] theorem powerEvent_wf (s : State) (b : Nat) (hw : s.mem.wf = true ∧ s.brMem.wf = true) :
    (powerEvent s b).mem.wf = true ∧ (powerEvent s b).brMem.wf = true := by
  unfold powerEvent
  constructor <;> simp (maxDischargeDepth := 40) [hw.1, hw.2]

@[simp] theorem logEvent_wf (s : State) (source severity code unit data : Nat) (hw : s.mem.wf = true ∧ s.brMem.wf = true) :
    (logEvent s source severity code unit data).mem.wf = true ∧ (logEvent s source severity code unit data).brMem.wf = true := by
  unfold logEvent
  constructor <;> (try dsimp only) <;> (repeat' (split <;> (try dsimp only))) <;> simp (maxDischargeDepth := 40) [hw.1, hw.2]

@[simp] theorem trace_wf (s : State) (code : Nat) (c : Cmd) (status : Nat) (hw : s.mem.wf = true ∧ s.brMem.wf = true) :
    (trace s code c status).mem.wf = true ∧ (trace s code c status).brMem.wf = true := by
  unfold trace
  constructor <;> (try dsimp only) <;> (repeat' (split <;> (try dsimp only))) <;> simp (maxDischargeDepth := 40) [hw.1, hw.2]

@[simp] theorem setPortRec_wf (s : State) (p : Nat) (x : Port) (hw : s.mem.wf = true ∧ s.brMem.wf = true) :
    (setPortRec s p x).mem.wf = true ∧ (setPortRec s p x).brMem.wf = true := by
  unfold setPortRec
  constructor <;> simp (maxDischargeDepth := 40) [hw.1, hw.2]

@[simp] theorem emit_wf (s : State) (mask : Nat) (m : Msg) (hw : s.mem.wf = true ∧ s.brMem.wf = true) :
    (emit s mask m).mem.wf = true ∧ (emit s mask m).brMem.wf = true := by
  unfold emit
  constructor <;> (try dsimp only) <;> (repeat' (split <;> (try dsimp only))) <;> simp (maxDischargeDepth := 40) [hw.1, hw.2]

@[simp] theorem send_wf (s : State) (mask mtype cls dst epoch tag address : Nat) (data : List Byte) (hw : s.mem.wf = true ∧ s.brMem.wf = true) :
    (send s mask mtype cls dst epoch tag address data).mem.wf = true ∧ (send s mask mtype cls dst epoch tag address data).brMem.wf = true := by
  unfold send
  constructor <;> simp (maxDischargeDepth := 40) [hw.1, hw.2]

@[simp] theorem askLine_wf (c : Cmd) (s : State) (l : Nat) (hw : s.mem.wf = true ∧ s.brMem.wf = true) :
    (askLine c s l).mem.wf = true ∧ (askLine c s l).brMem.wf = true := by
  unfold askLine
  constructor <;> (try dsimp only) <;> (repeat' (split <;> (try dsimp only))) <;> simp (maxDischargeDepth := 40) [hw.1, hw.2]

@[simp] theorem askLines_wf (s : State) (c : Cmd) (hw : s.mem.wf = true ∧ s.brMem.wf = true) :
    (askLines s c).mem.wf = true ∧ (askLines s c).brMem.wf = true := by
  unfold askLines
  constructor <;> (try dsimp only) <;> (repeat' (split <;> (try dsimp only))) <;> simp_all (maxDischargeDepth := 40)

@[simp] theorem askAll_wf (s : State) (hw : s.mem.wf = true ∧ s.brMem.wf = true) :
    (askAll s).mem.wf = true ∧ (askAll s).brMem.wf = true := by
  unfold askAll
  constructor <;> (try dsimp only) <;> (repeat' (split <;> (try dsimp only))) <;> simp_all (maxDischargeDepth := 40)

@[simp] theorem awaitLines_wf (s : State) (c : Cmd) (ls : List Nat) (hw : s.mem.wf = true ∧ s.brMem.wf = true) :
    (awaitLines s c ls).mem.wf = true ∧ (awaitLines s c ls).brMem.wf = true := by
  unfold awaitLines
  constructor <;> simp (maxDischargeDepth := 40) [hw.1, hw.2]

@[simp] theorem fetchLines_wf (s : State) (c : Cmd) (ls : List Nat) (hw : s.mem.wf = true ∧ s.brMem.wf = true) :
    (fetchLines s c ls).mem.wf = true ∧ (fetchLines s c ls).brMem.wf = true := by
  unfold fetchLines
  constructor <;> simp (maxDischargeDepth := 40) [hw.1, hw.2]

@[simp] theorem takeDraw_wf (s : State) (ctx : Nat) (b : Option Nat) (n : Nat) (hw : s.mem.wf = true ∧ s.brMem.wf = true) :
    (takeDraw s ctx b n).1.mem.wf = true ∧ (takeDraw s ctx b n).1.brMem.wf = true := by
  unfold takeDraw
  cases b <;> simp (maxDischargeDepth := 40) [hw.1, hw.2]

@[simp] theorem takeDraws_wf (s : State) (ctx : Nat) (rs : List (Option Nat × Nat)) (hw : s.mem.wf = true ∧ s.brMem.wf = true) :
    (takeDraws s ctx rs).1.mem.wf = true ∧ (takeDraws s ctx rs).1.brMem.wf = true := by
  induction rs generalizing s with
  | nil => simpa [takeDraws] using hw
  | cons r rs ih => obtain ⟨b, n⟩ := r; simp (maxDischargeDepth := 40) [takeDraws, ih, hw.1, hw.2]

@[simp] theorem release_wf (s : State) (c : Cmd) (hw : s.mem.wf = true ∧ s.brMem.wf = true) :
    (release s c).mem.wf = true ∧ (release s c).brMem.wf = true := by
  unfold release
  constructor <;> (try dsimp only) <;> (repeat' (split <;> (try dsimp only))) <;> simp (maxDischargeDepth := 40) [hw.1, hw.2]

@[simp] theorem dropActivities_wf (s : State) (c : Cmd) (hw : s.mem.wf = true ∧ s.brMem.wf = true) :
    (dropActivities s c).mem.wf = true ∧ (dropActivities s c).brMem.wf = true := by
  unfold dropActivities
  constructor <;> simp (maxDischargeDepth := 40) [hw.1, hw.2]

@[simp] theorem unreserve_wf (s : State) (c : Cmd) (hw : s.mem.wf = true ∧ s.brMem.wf = true) :
    (unreserve s c).mem.wf = true ∧ (unreserve s c).brMem.wf = true := by
  unfold unreserve
  constructor <;> simp (maxDischargeDepth := 40) [hw.1, hw.2]

@[simp] theorem failCmd_wf (s : State) (c : Cmd) (st : Status) (order result : Nat) (hw : s.mem.wf = true ∧ s.brMem.wf = true) :
    (failCmd s c st order result).mem.wf = true ∧ (failCmd s c st order result).brMem.wf = true := by
  unfold failCmd
  constructor <;> simp (maxDischargeDepth := 40) [hw.1, hw.2]

@[simp] theorem validateCmd_wf (sp : CmdSpec) (s : State) (c : Cmd) (h : ∀ s c, s.mem.wf = true → s.brMem.wf = true → (sp.take s c).1.mem.wf = true ∧ (sp.take s c).1.brMem.wf = true) (hw : s.mem.wf = true ∧ s.brMem.wf = true) :
    (validateCmd sp s c).mem.wf = true ∧ (validateCmd sp s c).brMem.wf = true := by
  unfold validateCmd
  constructor <;> (try dsimp only) <;> (repeat' (split <;> (try dsimp only))) <;> simp (maxDischargeDepth := 40) [h, hw.1, hw.2]

@[simp] theorem validate_wf (sp : CmdSpec) (s : State) (c : Cmd) (h : ∀ s c, s.mem.wf = true → s.brMem.wf = true → (sp.take s c).1.mem.wf = true ∧ (sp.take s c).1.brMem.wf = true) (hw : s.mem.wf = true ∧ s.brMem.wf = true) :
    (validate sp s c).mem.wf = true ∧ (validate sp s c).brMem.wf = true := by
  unfold validate
  constructor <;> (try dsimp only) <;> (repeat' (split <;> (try dsimp only))) <;> simp_all (maxDischargeDepth := 40)

@[simp] theorem noteKill_wf (s : State) (c : Cmd) (hw : s.mem.wf = true ∧ s.brMem.wf = true) :
    (noteKill s c).mem.wf = true ∧ (noteKill s c).brMem.wf = true := by
  unfold noteKill
  constructor <;> (try dsimp only) <;> (repeat' (split <;> (try dsimp only))) <;> simp (maxDischargeDepth := 40) [hw.1, hw.2]

@[simp] theorem failedAttempt_wf (s : State) (c : Cmd) (hw : s.mem.wf = true ∧ s.brMem.wf = true) :
    (failedAttempt s c).mem.wf = true ∧ (failedAttempt s c).brMem.wf = true := by
  unfold failedAttempt
  constructor <;> (try dsimp only) <;> (repeat' (split <;> (try dsimp only))) <;> simp (maxDischargeDepth := 40) [hw.1, hw.2]

@[simp] theorem countRows_wf (s : State) (c : Cmd) (hw : s.mem.wf = true ∧ s.brMem.wf = true) :
    (countRows s c).mem.wf = true ∧ (countRows s c).brMem.wf = true := by
  unfold countRows
  constructor <;> (try dsimp only) <;> (repeat' (split <;> (try dsimp only))) <;> simp (maxDischargeDepth := 40) [hw.1, hw.2]

@[simp] theorem issueCmd_wf (sp : CmdSpec) (s : State) (c : Cmd) (hw : s.mem.wf = true ∧ s.brMem.wf = true) :
    (issueCmd sp s c).mem.wf = true ∧ (issueCmd sp s c).brMem.wf = true := by
  unfold issueCmd
  constructor <;> (try dsimp only) <;> (repeat' (split <;> (try dsimp only))) <;> simp (maxDischargeDepth := 40) [hw.1, hw.2]

@[simp] theorem descStep_wf (owns : Desc → Bool) (sp : CmdSpec) (ctx idx : Nat) (s : State) (h : ∀ s c, s.mem.wf = true → s.brMem.wf = true → (sp.take s c).1.mem.wf = true ∧ (sp.take s c).1.brMem.wf = true) (hw : s.mem.wf = true ∧ s.brMem.wf = true) :
    (descStep owns sp ctx idx s).mem.wf = true ∧ (descStep owns sp ctx idx s).brMem.wf = true := by
  unfold descStep
  constructor <;> (try dsimp only) <;> (repeat' (split <;> (try dsimp only))) <;> simp_all (maxDischargeDepth := 40)

@[simp] theorem takeNone_wf (s : State) (c : Cmd) (hw : s.mem.wf = true ∧ s.brMem.wf = true) :
    (takeNone s c).1.mem.wf = true ∧ (takeNone s c).1.brMem.wf = true := by
  simpa [takeNone] using hw

@[simp] theorem takeStream_wf (perElement batch : Desc → Nat) (s : State) (c : Cmd) (hw : s.mem.wf = true ∧ s.brMem.wf = true) :
    (takeStream perElement batch s c).1.mem.wf = true ∧ (takeStream perElement batch s c).1.brMem.wf = true := by
  unfold takeStream; constructor <;> (try dsimp only) <;> (repeat' (split <;> (try dsimp only))) <;> simp (maxDischargeDepth := 40) [hw.1, hw.2]

@[simp] theorem rowInstructionIssue_wf (ctx idx : Nat) (s : State) (hw : s.mem.wf = true ∧ s.brMem.wf = true) :
    (rowInstructionIssue ctx idx s).mem.wf = true ∧ (rowInstructionIssue ctx idx s).brMem.wf = true := by
  unfold rowInstructionIssue
  constructor <;> (try dsimp only) <;> (repeat' (split <;> (try dsimp only))) <;> simp (maxDischargeDepth := 40) [hw.1, hw.2]

@[simp] theorem tileDrain_wf (ctx idx : Nat) (s : State) (hw : s.mem.wf = true ∧ s.brMem.wf = true) :
    (tileDrain ctx idx s).mem.wf = true ∧ (tileDrain ctx idx s).brMem.wf = true := by
  unfold tileDrain
  constructor <;> (try dsimp only) <;> (repeat' (split <;> (try dsimp only))) <;> simp (maxDischargeDepth := 40) [hw.1, hw.2]

@[simp] theorem dropTables_wf (s : State) (heads : List Nat) (hw : s.mem.wf = true ∧ s.brMem.wf = true) :
    (dropTables s heads).mem.wf = true ∧ (dropTables s heads).brMem.wf = true := by
  unfold dropTables
  constructor <;> simp (maxDischargeDepth := 40) [hw.1, hw.2]

@[simp] theorem atTake_wf (s : State) (c : Cmd) (hw : s.mem.wf = true ∧ s.brMem.wf = true) :
    (atTake s c).1.mem.wf = true ∧ (atTake s c).1.brMem.wf = true := by
  unfold atTake; constructor <;> (try dsimp only) <;> (repeat' (split <;> (try dsimp only))) <;> simp (maxDischargeDepth := 40) [hw.1, hw.2]

@[simp] theorem bwdTake_wf (s : State) (c : Cmd) (hw : s.mem.wf = true ∧ s.brMem.wf = true) :
    (bwdTake s c).1.mem.wf = true ∧ (bwdTake s c).1.brMem.wf = true := by
  unfold bwdTake; constructor <;> (try dsimp only) <;> (repeat' (split <;> (try dsimp only))) <;> simp (maxDischargeDepth := 40) [hw.1, hw.2]

@[simp] theorem applyBr_wf (s : State) (o : BrOp) (hw : s.mem.wf = true ∧ s.brMem.wf = true) :
    (applyBr s o).mem.wf = true ∧ (applyBr s o).brMem.wf = true := by
  cases o <;> simp (maxDischargeDepth := 40) [applyBr, hw.1, hw.2]

@[simp] theorem mirror_wf (s : State) (bs : List Nat) (hw : s.mem.wf = true ∧ s.brMem.wf = true) :
    (mirror s bs).mem.wf = true ∧ (mirror s bs).brMem.wf = true := by
  unfold mirror
  constructor <;> (try dsimp only) <;> (repeat' (split <;> (try dsimp only))) <;> simp (maxDischargeDepth := 40) [hw.1, hw.2]

@[simp] theorem applyBrs_wf (s : State) (ops : List BrOp) (hw : s.mem.wf = true ∧ s.brMem.wf = true) :
    (applyBrs s ops).mem.wf = true ∧ (applyBrs s ops).brMem.wf = true := by
  have h : ∀ (ops : List BrOp) (s : State), s.mem.wf = true ∧ s.brMem.wf = true →
      (ops.foldl applyBr s).mem.wf = true ∧ (ops.foldl applyBr s).brMem.wf = true := by
    intro ops
    induction ops with
    | nil => intro s hw; exact hw
    | cons o os ih => intro s hw; exact ih _ (applyBr_wf s o hw)
  exact mirror_wf _ _ (h ops s hw)

@[simp] theorem fkTake_wf (s : State) (c : Cmd) (hw : s.mem.wf = true ∧ s.brMem.wf = true) :
    (fkTake s c).1.mem.wf = true ∧ (fkTake s c).1.brMem.wf = true := by
  unfold fkTake; constructor <;> (try dsimp only) <;> (repeat' (split <;> (try dsimp only))) <;> simp (maxDischargeDepth := 40) [hw.1, hw.2]

@[simp] theorem haloSignalPoll_wf (ctx idx : Nat) (s : State) (hw : s.mem.wf = true ∧ s.brMem.wf = true) :
    (haloSignalPoll ctx idx s).mem.wf = true ∧ (haloSignalPoll ctx idx s).brMem.wf = true := by
  unfold haloSignalPoll
  constructor <;> (try dsimp only) <;> (repeat' (split <;> (try dsimp only))) <;> simp (maxDischargeDepth := 40) [hw.1, hw.2]

@[simp] theorem modChan_wf (s : State) (ch : Nat) (f : Channel → Channel) (hw : s.mem.wf = true ∧ s.brMem.wf = true) :
    (modChan s ch f).mem.wf = true ∧ (modChan s ch f).brMem.wf = true := by
  unfold modChan
  constructor <;> simp (maxDischargeDepth := 40) [hw.1, hw.2]

@[simp] theorem coTake_wf (s : State) (c : Cmd) (hw : s.mem.wf = true ∧ s.brMem.wf = true) :
    (coTake s c).1.mem.wf = true ∧ (coTake s c).1.brMem.wf = true := by
  unfold coTake; constructor <;> (try dsimp only) <;> (repeat' (split <;> (try dsimp only))) <;> simp (maxDischargeDepth := 40) [hw.1, hw.2]

@[simp] theorem sendColl_wf (s : State) (c : Cmd) (r : CollRun) (mtype dstRank address : Nat) (data : List Byte) (hw : s.mem.wf = true ∧ s.brMem.wf = true) :
    (sendColl s c r mtype dstRank address data).mem.wf = true ∧ (sendColl s c r mtype dstRank address data).brMem.wf = true := by
  unfold sendColl
  constructor <;> simp (maxDischargeDepth := 40) [hw.1, hw.2]

@[simp] theorem putRun_wf (s : State) (c : Cmd) (r : CollRun) (hw : s.mem.wf = true ∧ s.brMem.wf = true) :
    (putRun s c r).mem.wf = true ∧ (putRun s c r).brMem.wf = true := by
  unfold putRun
  constructor <;> simp (maxDischargeDepth := 40) [hw.1, hw.2]

@[simp] theorem sendLine_wf (m : Memory) (c : Cmd) (x : Co) (s : State) (r : CollRun) (i : Nat) (hw : s.mem.wf = true ∧ s.brMem.wf = true) :
    (sendLine m c x s r i).1.mem.wf = true ∧ (sendLine m c x s r i).1.brMem.wf = true := by
  unfold sendLine; constructor <;> (try dsimp only) <;> (repeat' (split <;> (try dsimp only))) <;> simp_all (maxDischargeDepth := 40)

@[simp] theorem sendLines_wf (m : Memory) (c : Cmd) (x : Co) (s : State) (r : CollRun) (is : List Nat) (hw : s.mem.wf = true ∧ s.brMem.wf = true) :
    (sendLines m c x s r is).1.mem.wf = true ∧ (sendLines m c x s r is).1.brMem.wf = true := by
  induction is generalizing s r with
  | nil => simpa [sendLines] using hw
  | cons i is ih => simp (maxDischargeDepth := 40) [sendLines, ih, hw.1, hw.2]

@[simp] theorem endColl_wf (s : State) (c : Cmd) (st : Status) (hw : s.mem.wf = true ∧ s.brMem.wf = true) :
    (endColl s c st).mem.wf = true ∧ (endColl s c st).brMem.wf = true := by
  unfold endColl
  constructor <;> (try dsimp only) <;> (repeat' (split <;> (try dsimp only))) <;> simp (maxDischargeDepth := 40) [hw.1, hw.2]

@[simp] theorem abortColl_wf (s : State) (c : Cmd) (cause : Nat) (st : Status) (hw : s.mem.wf = true ∧ s.brMem.wf = true) :
    (abortColl s c cause st).mem.wf = true ∧ (abortColl s c cause st).brMem.wf = true := by
  unfold abortColl
  constructor <;> (try dsimp only) <;> (repeat' (split <;> (try dsimp only))) <;> simp_all (maxDischargeDepth := 40)

@[simp] theorem ackLine_wf (s : State) (c : Cmd) (r : CollRun) (f : Flit) (hw : s.mem.wf = true ∧ s.brMem.wf = true) :
    (ackLine s c r f).mem.wf = true ∧ (ackLine s c r f).brMem.wf = true := by
  unfold ackLine
  constructor <;> simp (maxDischargeDepth := 40) [hw.1, hw.2]

@[simp] theorem takeLine_wf (s : State) (c : Cmd) (x : Co) (r : CollRun) (f : Flit) (hw : s.mem.wf = true ∧ s.brMem.wf = true) :
    (takeLine s c x r f).mem.wf = true ∧ (takeLine s c x r f).brMem.wf = true := by
  unfold takeLine
  constructor <;> (try dsimp only) <;> (repeat' (split <;> (try dsimp only))) <;> simp (maxDischargeDepth := 40) [hw.1, hw.2]

@[simp] theorem resend_wf (s : State) (c : Cmd) (x : Co) (r : CollRun) (q : Nat) (hw : s.mem.wf = true ∧ s.brMem.wf = true) :
    (resend s c x r q).mem.wf = true ∧ (resend s c x r q).brMem.wf = true := by
  unfold resend
  constructor <;> (try dsimp only) <;> (repeat' (split <;> (try dsimp only))) <;> simp_all (maxDischargeDepth := 40)

@[simp] theorem lineStarted_wf (s : State) (c : Cmd) (x : Co) (r : CollRun) (f : Flit) (hw : s.mem.wf = true ∧ s.brMem.wf = true) :
    (lineStarted s c x r f).mem.wf = true ∧ (lineStarted s c x r f).brMem.wf = true := by
  unfold lineStarted
  constructor <;> (try dsimp only) <;> (repeat' (split <;> (try dsimp only))) <;> simp (maxDischargeDepth := 40) [hw.1, hw.2]

@[simp] theorem abortReceived_wf (s : State) (c : Cmd) (r : CollRun) (f : Flit) (hw : s.mem.wf = true ∧ s.brMem.wf = true) :
    (abortReceived s c r f).mem.wf = true ∧ (abortReceived s c r f).brMem.wf = true := by
  unfold abortReceived
  constructor <;> (try dsimp only) <;> (repeat' (split <;> (try dsimp only))) <;> simp (maxDischargeDepth := 40) [hw.1, hw.2]

@[simp] theorem collDeliver_wf (s : State) (f : Flit) (hw : s.mem.wf = true ∧ s.brMem.wf = true) :
    (collDeliver s f).mem.wf = true ∧ (collDeliver s f).brMem.wf = true := by
  unfold collDeliver
  constructor <;> (try dsimp only) <;> (repeat' (split <;> (try dsimp only))) <;> simp_all (maxDischargeDepth := 40)

@[simp] theorem collAck_wf (s : State) (f : Flit) (hw : s.mem.wf = true ∧ s.brMem.wf = true) :
    (collAck s f).mem.wf = true ∧ (collAck s f).brMem.wf = true := by
  unfold collAck
  constructor <;> (try dsimp only) <;> (repeat' (split <;> (try dsimp only))) <;> simp (maxDischargeDepth := 40) [hw.1, hw.2]

@[simp] theorem startColl_wf (s : State) (c : Cmd) (x : Co) (r : CollRun) (hw : s.mem.wf = true ∧ s.brMem.wf = true) :
    (startColl s c x r).mem.wf = true ∧ (startColl s c x r).brMem.wf = true := by
  unfold startColl
  constructor <;> (try dsimp only) <;> (repeat' (split <;> (try dsimp only))) <;> simp_all (maxDischargeDepth := 40)

@[simp] theorem rallySlot_wf (ld : Nat) (s : State) (hw : s.mem.wf = true ∧ s.brMem.wf = true) :
    (rallySlot ld s).mem.wf = true ∧ (rallySlot ld s).brMem.wf = true := by
  unfold rallySlot
  constructor <;> (try dsimp only) <;> (repeat' (split <;> (try dsimp only))) <;> simp_all (maxDischargeDepth := 40)

@[simp] theorem segmentDeadline_wf (ctx idx seg : Nat) (s : State) (hw : s.mem.wf = true ∧ s.brMem.wf = true) :
    (segmentDeadline ctx idx seg s).mem.wf = true ∧ (segmentDeadline ctx idx seg s).brMem.wf = true := by
  unfold segmentDeadline
  constructor <;> (try dsimp only) <;> (repeat' (split <;> (try dsimp only))) <;> simp (maxDischargeDepth := 40) [hw.1, hw.2]

@[simp] theorem collDeaths_wf (s : State) (c : Cmd) (ds : List Nat) (hw : s.mem.wf = true ∧ s.brMem.wf = true) :
    (collDeaths s c ds).mem.wf = true ∧ (collDeaths s c ds).brMem.wf = true := by
  unfold collDeaths
  constructor <;> (try dsimp only) <;> (repeat' (split <;> (try dsimp only))) <;> simp (maxDischargeDepth := 40) [hw.1, hw.2]

@[simp] theorem collStep_wf (owns : Desc → Bool) (ctx idx : Nat) (s : State) (hw : s.mem.wf = true ∧ s.brMem.wf = true) :
    (collStep owns ctx idx s).mem.wf = true ∧ (collStep owns ctx idx s).brMem.wf = true := by
  unfold collStep
  split
  · exact hw
  dsimp only
  split
  · exact hw
  split
  · simp_all (maxDischargeDepth := 40)
  · split
    · simp (maxDischargeDepth := 40) [hw.1, hw.2]
    · exact hw
    · (repeat' split) <;> simp_all (maxDischargeDepth := 40)
  · exact hw

@[simp] theorem seeLine_wf (s : State) (l : Nat) (bs : List Byte) (poisoned : Bool) (hw : s.mem.wf = true ∧ s.brMem.wf = true) :
    (seeLine s l bs poisoned).mem.wf = true ∧ (seeLine s l bs poisoned).brMem.wf = true := by
  unfold seeLine
  constructor <;> simp (maxDischargeDepth := 40) [hw.1, hw.2]

@[simp] theorem countArrivals_wf (s : State) (c : Cmd) (n : Nat) (poisoned : Bool) (hw : s.mem.wf = true ∧ s.brMem.wf = true) :
    (countArrivals s c n poisoned).mem.wf = true ∧ (countArrivals s c n poisoned).brMem.wf = true := by
  unfold countArrivals
  constructor <;> (try dsimp only) <;> (repeat' (split <;> (try dsimp only))) <;> simp (maxDischargeDepth := 40) [hw.1, hw.2]

@[simp] theorem landLines_wf (s : State) (c : Cmd) (ls : List Nat) (poisoned : Bool) (hw : s.mem.wf = true ∧ s.brMem.wf = true) :
    (landLines s c ls poisoned).mem.wf = true ∧ (landLines s c ls poisoned).brMem.wf = true := by
  unfold landLines
  constructor <;> simp (maxDischargeDepth := 40) [hw.1, hw.2]

@[simp] theorem lineArrival_wf (q counter address : Nat) (line : Line) (poisoned : Bool) (s : State) (hw : s.mem.wf = true ∧ s.brMem.wf = true) :
    (lineArrival q counter address line poisoned s).mem.wf = true ∧ (lineArrival q counter address line poisoned s).brMem.wf = true := by
  unfold lineArrival
  constructor <;> (try dsimp only) <;> (repeat' (split <;> (try dsimp only))) <;> simp_all (maxDischargeDepth := 40)

@[simp] theorem sendHolds_wf (s : State) (c : Cmd) (pages : List (Nat × Nat)) (hw : s.mem.wf = true ∧ s.brMem.wf = true) :
    (sendHolds s c pages).mem.wf = true ∧ (sendHolds s c pages).brMem.wf = true := by
  unfold sendHolds
  constructor <;> (try dsimp only) <;> (repeat' (split <;> (try dsimp only))) <;> simp_all (maxDischargeDepth := 40)

@[simp] theorem sendWrites_wf (s : State) (c : Cmd) (cs : List Host.Cell) (hw : s.mem.wf = true ∧ s.brMem.wf = true) :
    (sendWrites s c cs).mem.wf = true ∧ (sendWrites s c cs).brMem.wf = true := by
  unfold sendWrites
  constructor <;> (try dsimp only) <;> (repeat' (split <;> (try dsimp only))) <;> simp_all (maxDischargeDepth := 40)

@[simp] theorem controlStep_wf (owns : Desc → Bool) (checks : State → Cmd → List Check) (act : State → Cmd → State) (ctx idx : Nat)
    (s : State) (h : ∀ s c, s.mem.wf = true → s.brMem.wf = true → (act s c).mem.wf = true ∧ (act s c).brMem.wf = true) (hw : s.mem.wf = true ∧ s.brMem.wf = true) :
    (controlStep owns checks act ctx idx s).mem.wf = true ∧ (controlStep owns checks act ctx idx s).brMem.wf = true := by
  unfold controlStep
  constructor <;> (try dsimp only) <;> (repeat' (split <;> (try dsimp only))) <;> simp_all (maxDischargeDepth := 40)

@[simp] theorem fenceAct_wf (s : State) (c : Cmd) (hw : s.mem.wf = true ∧ s.brMem.wf = true) :
    (fenceAct s c).mem.wf = true ∧ (fenceAct s c).brMem.wf = true := by
  unfold fenceAct
  constructor <;> (try dsimp only) <;> (repeat' (split <;> (try dsimp only))) <;> simp (maxDischargeDepth := 40) [hw.1, hw.2]

@[simp] theorem waitJudge_wf (s : State) (c : Cmd) (hw : s.mem.wf = true ∧ s.brMem.wf = true) :
    (waitJudge s c).mem.wf = true ∧ (waitJudge s c).brMem.wf = true := by
  unfold waitJudge
  constructor <;> (try dsimp only) <;> (repeat' (split <;> (try dsimp only))) <;> simp (maxDischargeDepth := 40) [hw.1, hw.2]

@[simp] theorem waitRead_wf (s : State) (c : Cmd) (hw : s.mem.wf = true ∧ s.brMem.wf = true) :
    (waitRead s c).mem.wf = true ∧ (waitRead s c).brMem.wf = true := by
  unfold waitRead
  constructor <;> (try dsimp only) <;> (repeat' (split <;> (try dsimp only))) <;> simp (maxDischargeDepth := 40) [hw.1, hw.2]

@[simp] theorem waitPoll_wf (ctx idx : Nat) (s : State) (hw : s.mem.wf = true ∧ s.brMem.wf = true) :
    (waitPoll ctx idx s).mem.wf = true ∧ (waitPoll ctx idx s).brMem.wf = true := by
  unfold waitPoll
  constructor <;> (try dsimp only) <;> (repeat' (split <;> (try dsimp only))) <;> simp (maxDischargeDepth := 40) [hw.1, hw.2]

@[simp] theorem waitTimeout_wf (ctx idx : Nat) (s : State) (hw : s.mem.wf = true ∧ s.brMem.wf = true) :
    (waitTimeout ctx idx s).mem.wf = true ∧ (waitTimeout ctx idx s).brMem.wf = true := by
  unfold waitTimeout
  constructor <;> (try dsimp only) <;> (repeat' (split <;> (try dsimp only))) <;> simp (maxDischargeDepth := 40) [hw.1, hw.2]

@[simp] theorem wakeWaits_wf (s : State) (a : Nat) (hw : s.mem.wf = true ∧ s.brMem.wf = true) :
    (wakeWaits s a).mem.wf = true ∧ (wakeWaits s a).brMem.wf = true := by
  unfold wakeWaits
  constructor <;> (try dsimp only) <;> (repeat' (split <;> (try dsimp only))) <;> simp_all (maxDischargeDepth := 40)

theorem applySignal_wf {s t : State} {op a v r : Nat} (h : applySignal s op a v = .done t r) (hw : s.mem.wf = true ∧ s.brMem.wf = true) :
    t.mem.wf = true ∧ t.brMem.wf = true := by
  unfold applySignal at h
  split at h <;> try cases h
  dsimp only at h
  split at h <;> try cases h
  split at h <;> cases h
  simp (maxDischargeDepth := 40) [hw.1, hw.2]

@[simp] theorem signalAct_wf (s : State) (c : Cmd) (hw : s.mem.wf = true ∧ s.brMem.wf = true) :
    (signalAct s c).mem.wf = true ∧ (signalAct s c).brMem.wf = true := by
  unfold signalAct
  dsimp only
  split
  · exact hw
  split
  · split <;> simp (maxDischargeDepth := 40) [hw.1, hw.2]
  split
  · exact hw
  · simp (maxDischargeDepth := 40) [hw.1, hw.2]
  · rename_i h; exact failCmd_wf _ _ _ _ _ (applySignal_wf h hw)

theorem signalDeliver_wf {s t : State} {f : Flit} (h : signalDeliver s f = some t) (hw : s.mem.wf = true ∧ s.brMem.wf = true) :
    t.mem.wf = true ∧ t.brMem.wf = true := by
  unfold signalDeliver at h
  dsimp only at h
  split at h
  · cases h
  · cases h; simp (maxDischargeDepth := 40) [hw.1, hw.2]
  · rename_i h1; cases h; exact send_wf _ _ _ _ _ _ _ _ _ (applySignal_wf h1 hw)

@[simp] theorem signalAck_wf (s : State) (c : Cmd) (f : Flit) (hw : s.mem.wf = true ∧ s.brMem.wf = true) :
    (signalAck s c f).mem.wf = true ∧ (signalAck s c f).brMem.wf = true := by
  unfold signalAck
  constructor <;> simp (maxDischargeDepth := 40) [hw.1, hw.2]

@[simp] theorem huddleEnd_wf (epoch : Nat) (st : Status) (id : Nat) (s : State) (a : HuddleArrival) (hw : s.mem.wf = true ∧ s.brMem.wf = true) :
    (huddleEnd epoch st id s a).mem.wf = true ∧ (huddleEnd epoch st id s a).brMem.wf = true := by
  unfold huddleEnd
  constructor <;> (try dsimp only) <;> (repeat' (split <;> (try dsimp only))) <;> simp (maxDischargeDepth := 40) [hw.1, hw.2]

@[simp] theorem setHuddle_wf (s : State) (id : Nat) (h : Huddle) (hw : s.mem.wf = true ∧ s.brMem.wf = true) :
    (setHuddle s id h).mem.wf = true ∧ (setHuddle s id h).brMem.wf = true := by
  unfold setHuddle
  constructor <;> simp (maxDischargeDepth := 40) [hw.1, hw.2]

@[simp] theorem huddleArrive_wf (s : State) (id : Nat) (a : HuddleArrival) (epoch n timeout : Nat) (hw : s.mem.wf = true ∧ s.brMem.wf = true) :
    (huddleArrive s id a epoch n timeout).mem.wf = true ∧ (huddleArrive s id a epoch n timeout).brMem.wf = true := by
  unfold huddleArrive
  constructor <;> (try dsimp only) <;> (repeat' (split <;> (try dsimp only))) <;> simp_all (maxDischargeDepth := 40)

@[simp] theorem huddleAbort_wf (s : State) (id : Nat) (st : Status) (gone : Option Nat) (hw : s.mem.wf = true ∧ s.brMem.wf = true) :
    (huddleAbort s id st gone).mem.wf = true ∧ (huddleAbort s id st gone).brMem.wf = true := by
  unfold huddleAbort
  constructor <;> (try dsimp only) <;> (repeat' (split <;> (try dsimp only))) <;> simp_all (maxDischargeDepth := 40)

@[simp] theorem huddleAct_wf (s : State) (c : Cmd) (hw : s.mem.wf = true ∧ s.brMem.wf = true) :
    (huddleAct s c).mem.wf = true ∧ (huddleAct s c).brMem.wf = true := by
  unfold huddleAct
  constructor <;> (try dsimp only) <;> (repeat' (split <;> (try dsimp only))) <;> simp (maxDischargeDepth := 40) [hw.1, hw.2]

@[simp] theorem huddleForget_wf (s : State) (id module tag : Nat) (hw : s.mem.wf = true ∧ s.brMem.wf = true) :
    (huddleForget s id module tag).mem.wf = true ∧ (huddleForget s id module tag).brMem.wf = true := by
  unfold huddleForget
  constructor <;> simp (maxDischargeDepth := 40) [hw.1, hw.2]

@[simp] theorem huddleWithdraw_wf (s : State) (c : Cmd) (hw : s.mem.wf = true ∧ s.brMem.wf = true) :
    (huddleWithdraw s c).mem.wf = true ∧ (huddleWithdraw s c).brMem.wf = true := by
  unfold huddleWithdraw
  constructor <;> (try dsimp only) <;> (repeat' (split <;> (try dsimp only))) <;> simp (maxDischargeDepth := 40) [hw.1, hw.2]

@[simp] theorem huddleDeliver_wf (s : State) (f : Flit) (hw : s.mem.wf = true ∧ s.brMem.wf = true) :
    (huddleDeliver s f).mem.wf = true ∧ (huddleDeliver s f).brMem.wf = true := by
  unfold huddleDeliver
  constructor <;> (try dsimp only) <;> (repeat' (split <;> (try dsimp only))) <;> simp (maxDischargeDepth := 40) [hw.1, hw.2]

@[simp] theorem huddleTimeout_wf (id : Nat) (s : State) (hw : s.mem.wf = true ∧ s.brMem.wf = true) :
    (huddleTimeout id s).mem.wf = true ∧ (huddleTimeout id s).brMem.wf = true := by
  unfold huddleTimeout
  constructor <;> (try dsimp only) <;> (repeat' (split <;> (try dsimp only))) <;> simp (maxDischargeDepth := 40) [hw.1, hw.2]

@[simp] theorem huddleDeaths_wf (s : State) (m : Nat) (hw : s.mem.wf = true ∧ s.brMem.wf = true) :
    (huddleDeaths s m).mem.wf = true ∧ (huddleDeaths s m).brMem.wf = true := by
  unfold huddleDeaths
  constructor <;> (try dsimp only) <;> (repeat' (split <;> (try dsimp only))) <;> simp_all (maxDischargeDepth := 40)

@[simp] theorem umpAsk_wf (s : State) (rank scope : Nat) (info : Nat × Nat) (hw : s.mem.wf = true ∧ s.brMem.wf = true) :
    (umpAsk s rank scope info).mem.wf = true ∧ (umpAsk s rank scope info).brMem.wf = true := by
  unfold umpAsk
  constructor <;> (try dsimp only) <;> (repeat' (split <;> (try dsimp only))) <;> simp (maxDischargeDepth := 40) [hw.1, hw.2]

@[simp] theorem umpEnd_wf (s : State) (rank scope : Nat) (info : Nat × Nat) (hw : s.mem.wf = true ∧ s.brMem.wf = true) :
    (umpEnd s rank scope info).mem.wf = true ∧ (umpEnd s rank scope info).brMem.wf = true := by
  unfold umpEnd
  constructor <;> simp (maxDischargeDepth := 40) [hw.1, hw.2]

@[simp] theorem umpMove_wf (s : State) (a : Activity) (hw : s.mem.wf = true ∧ s.brMem.wf = true) :
    (umpMove s a).mem.wf = true ∧ (umpMove s a).brMem.wf = true := by
  unfold umpMove
  constructor <;> simp (maxDischargeDepth := 40) [hw.1, hw.2]

@[simp] theorem snapAct_wf (s : State) (c : Cmd) (hw : s.mem.wf = true ∧ s.brMem.wf = true) :
    (snapAct s c).mem.wf = true ∧ (snapAct s c).brMem.wf = true := by
  unfold snapAct
  constructor <;> (try dsimp only) <;> (repeat' (split <;> (try dsimp only))) <;> simp (maxDischargeDepth := 40) [hw.1, hw.2]

@[simp] theorem snapStep_wf (owns : Desc → Bool) (ctx idx : Nat) (s : State) (hw : s.mem.wf = true ∧ s.brMem.wf = true) :
    (snapStep owns ctx idx s).mem.wf = true ∧ (snapStep owns ctx idx s).brMem.wf = true := by
  unfold snapStep
  (repeat' split) <;> simp_all (maxDischargeDepth := 40)

@[simp] theorem restoreStream_wf (ctx : Nat) (s : State) (r : Nat × W64 × W64) (hw : s.mem.wf = true ∧ s.brMem.wf = true) :
    (restoreStream ctx s r).mem.wf = true ∧ (restoreStream ctx s r).brMem.wf = true := by
  unfold restoreStream
  constructor <;> (try dsimp only) <;> (repeat' (split <;> (try dsimp only))) <;> simp (maxDischargeDepth := 40) [hw.1, hw.2]

@[simp] theorem snapCommit_wf (s : State) (c : Cmd) (hw : s.mem.wf = true ∧ s.brMem.wf = true) :
    (snapCommit s c).mem.wf = true ∧ (snapCommit s c).brMem.wf = true := by
  unfold snapCommit
  constructor <;> (try dsimp only) <;> (repeat' (split <;> (try dsimp only))) <;> simp_all (maxDischargeDepth := 40)

@[simp] theorem snapEnd_wf (s : State) (c : Cmd) (hw : s.mem.wf = true ∧ s.brMem.wf = true) :
    (snapEnd s c).mem.wf = true ∧ (snapEnd s c).brMem.wf = true := by
  unfold snapEnd
  constructor <;> (try dsimp only) <;> (repeat' (split <;> (try dsimp only))) <;> simp (maxDischargeDepth := 40) [hw.1, hw.2]

@[simp] theorem setPage_wf (s : State) (p : Nat) (e : Page) (hw : s.mem.wf = true ∧ s.brMem.wf = true) :
    (setPage s p e).mem.wf = true ∧ (setPage s p e).brMem.wf = true := by
  unfold setPage
  constructor <;> simp (maxDischargeDepth := 40) [hw.1, hw.2]

@[simp] theorem evictPage_wf (s : State) (p slot : Nat) (hw : s.mem.wf = true ∧ s.brMem.wf = true) :
    (evictPage s p slot).mem.wf = true ∧ (evictPage s p slot).brMem.wf = true := by
  unfold evictPage
  constructor <;> simp (maxDischargeDepth := 40) [hw.1, hw.2]

theorem evictOne_wf {s t : State} {z : Zone} (h : evictOne s z = some t) (hw : s.mem.wf = true ∧ s.brMem.wf = true) :
    t.mem.wf = true ∧ t.brMem.wf = true := by
  unfold evictOne at h
  split at h <;> try cases h
  split at h <;> cases h
  simp (maxDischargeDepth := 40) [hw.1, hw.2]

theorem freeUp_wf {s t : State} {z : Zone} (h : freeUp s z = some t) (hw : s.mem.wf = true ∧ s.brMem.wf = true) :
    t.mem.wf = true ∧ t.brMem.wf = true := by
  unfold freeUp at h
  split at h
  · cases h; exact hw
  · exact evictOne_wf h hw

theorem placePage_wf {s t : State} {p k : Nat} {e : Page} {b : Bool} (h : placePage s p e b = .done t k) (hw : s.mem.wf = true ∧ s.brMem.wf = true) :
    t.mem.wf = true ∧ t.brMem.wf = true := by
  unfold placePage at h
  split at h
  · split at h <;> cases h
  · rename_i h1
    have h2 := freeUp_wf h1 hw
    dsimp only at h
    cases h
    split <;> simp (maxDischargeDepth := 40) [h2.1, h2.2]

theorem recallPage_wf {s t : State} {p k : Nat} {e : Page} (h : recallPage s p e = .done t k) (hw : s.mem.wf = true ∧ s.brMem.wf = true) :
    t.mem.wf = true ∧ t.brMem.wf = true := by
  unfold recallPage at h
  split at h <;> try cases h
  exact placePage_wf h hw

@[simp] theorem pageRecall_wf (p : Nat) (s : State) (hw : s.mem.wf = true ∧ s.brMem.wf = true) :
    (pageRecall p s).mem.wf = true ∧ (pageRecall p s).brMem.wf = true := by
  unfold pageRecall
  split
  · split
    · split
      · rename_i h; exact recallPage_wf h hw
      · exact hw
    · exact hw
  · exact hw

@[simp] theorem evictUntil_wf (z : Zone) (n : Nat) (s : State) (hw : s.mem.wf = true ∧ s.brMem.wf = true) :
    (evictUntil z n s).mem.wf = true ∧ (evictUntil z n s).brMem.wf = true := by
  induction n generalizing s with
  | zero => exact hw
  | succ n ih =>
    unfold evictUntil
    split
    · exact hw
    · split
      · rename_i h
        exact ih _ (evictOne_wf h hw)
      · exact hw

@[simp] theorem pageEviction_wf (die mode sel : Nat) (s : State) (hw : s.mem.wf = true ∧ s.brMem.wf = true) :
    (pageEviction die mode sel s).mem.wf = true ∧ (pageEviction die mode sel s).brMem.wf = true := by
  unfold pageEviction
  constructor <;> (try dsimp only) <;> (repeat' (split <;> (try dsimp only))) <;> simp (maxDischargeDepth := 40) [hw.1, hw.2]

@[simp] theorem ageingPeriod_wf (s : State) (hw : s.mem.wf = true ∧ s.brMem.wf = true) :
    (ageingPeriod s).mem.wf = true ∧ (ageingPeriod s).brMem.wf = true := by
  unfold ageingPeriod
  constructor <;> (try dsimp only) <;> (repeat' (split <;> (try dsimp only))) <;> simp (maxDischargeDepth := 40) [hw.1, hw.2]

@[simp] theorem touchPages_wf (s : State) (ps : List Nat) (hw : s.mem.wf = true ∧ s.brMem.wf = true) :
    (touchPages s ps).mem.wf = true ∧ (touchPages s ps).brMem.wf = true := by
  unfold touchPages
  constructor <;> simp (maxDischargeDepth := 40) [hw.1, hw.2]

@[simp] theorem losePages_wf (s : State) (hw : s.mem.wf = true ∧ s.brMem.wf = true) :
    (losePages s).mem.wf = true ∧ (losePages s).brMem.wf = true := by
  unfold losePages
  constructor <;> simp (maxDischargeDepth := 40) [hw.1, hw.2]

theorem poPage_wf {s t : State} {op p k : Nat} (h : poPage op s p = .done t k) (hw : s.mem.wf = true ∧ s.brMem.wf = true) :
    t.mem.wf = true ∧ t.brMem.wf = true := by
  unfold poPage at h
  split at h
  · exact placePage_wf h hw
  · cases h
  · cases h
  · split at h <;> cases h
    simp (maxDischargeDepth := 40) [hw.1, hw.2]
  · split at h
    · cases h; simp (maxDischargeDepth := 40) [hw.1, hw.2]
    · split at h
      · rename_i h1; cases h; exact setPage_wf _ _ _ (recallPage_wf h1 hw)
      · rename_i h1; exact (h1 _ _ h).elim
    · cases h
  · cases h; simp (maxDischargeDepth := 40) [hw.1, hw.2]
  · split at h
    · cases h
    · split at h
      · split at h <;> cases h
        simp (maxDischargeDepth := 40) [hw.1, hw.2]
      · cases h
  · dsimp only at h
    split at h <;> cases h
    exact hw
  · split at h
    · cases h; exact hw
    · exact recallPage_wf h hw
    · cases h
  · cases h

theorem poAll_wf {op n k : Nat} {s t : State} {ps : List Nat} (h : poAll op s n ps = .done t k) (hw : s.mem.wf = true ∧ s.brMem.wf = true) :
    t.mem.wf = true ∧ t.brMem.wf = true := by
  induction ps generalizing s n with
  | nil => cases h; exact hw
  | cons p ps ih =>
    unfold poAll at h
    split at h
    · rename_i h1
      exact ih h (poPage_wf h1 hw)
    · rename_i h1
      exact (h1 _ _ h).elim

@[simp] theorem retireReport_wf (s0 s : State) (ps : List Nat) (hw : s.mem.wf = true ∧ s.brMem.wf = true) :
    (retireReport s0 s ps).mem.wf = true ∧ (retireReport s0 s ps).brMem.wf = true := by
  unfold retireReport
  constructor <;> (try dsimp only) <;> simp_all (maxDischargeDepth := 40) [apply_ite]

theorem poolCommit_wf {s t : State} {c : Cmd} {k : Nat} (h : poolCommit s c = .done t k) (hw : s.mem.wf = true ∧ s.brMem.wf = true) :
    t.mem.wf = true ∧ t.brMem.wf = true := by
  unfold poolCommit at h
  dsimp only at h
  split at h
  · rename_i h1
    have h2 := poAll_wf h1 hw
    cases h
    split
    · exact retireReport_wf _ _ _ h2
    · exact h2
  · rename_i h1
    exact (h1 _ _ h).elim

@[simp] theorem retireAsk_wf (s : State) (c : Cmd) (hw : s.mem.wf = true ∧ s.brMem.wf = true) :
    (retireAsk s c).mem.wf = true ∧ (retireAsk s c).brMem.wf = true := by
  unfold retireAsk
  constructor <;> (try dsimp only) <;> (repeat' (split <;> (try dsimp only))) <;> simp_all (maxDischargeDepth := 40) [apply_ite]

@[simp] theorem poolStep_wf (k ctx idx : Nat) (s : State) (hw : s.mem.wf = true ∧ s.brMem.wf = true) :
    (poolStep k ctx idx s).mem.wf = true ∧ (poolStep k ctx idx s).brMem.wf = true := by
  unfold poolStep
  (repeat' split) <;> simp_all (maxDischargeDepth := 40) [poSpec]

@[simp] theorem writeDoorbell_wf (s : State) (n : Nat) (hw : s.mem.wf = true ∧ s.brMem.wf = true) :
    (writeDoorbell s n).mem.wf = true ∧ (writeDoorbell s n).brMem.wf = true := by
  unfold writeDoorbell
  constructor <;> (try dsimp only) <;> (repeat' (split <;> (try dsimp only))) <;> simp (maxDischargeDepth := 40) [hw.1, hw.2]

@[simp] theorem putRecord_wf (s : State) (n : Nat) (r : Record) (hw : s.mem.wf = true ∧ s.brMem.wf = true) :
    (putRecord s n r).mem.wf = true ∧ (putRecord s n r).brMem.wf = true := by
  unfold putRecord
  constructor <;> simp (maxDischargeDepth := 40) [hw.1, hw.2]

@[simp] theorem recordIrq_wf (s : State) (n : Nat) (hw : s.mem.wf = true ∧ s.brMem.wf = true) :
    (recordIrq s n).mem.wf = true ∧ (recordIrq s n).brMem.wf = true := by
  unfold recordIrq
  constructor <;> (try dsimp only) <;> (repeat' (split <;> (try dsimp only))) <;> simp (maxDischargeDepth := 40) [hw.1, hw.2]

@[simp] theorem irqHoldoffExpiry_wf (n : Nat) (s : State) (hw : s.mem.wf = true ∧ s.brMem.wf = true) :
    (irqHoldoffExpiry n s).mem.wf = true ∧ (irqHoldoffExpiry n s).brMem.wf = true := by
  unfold irqHoldoffExpiry
  constructor <;> (try dsimp only) <;> (repeat' (split <;> (try dsimp only))) <;> simp (maxDischargeDepth := 40) [hw.1, hw.2]

@[simp] theorem ctxFlags_wf (s : State) (n mask : Nat) (hw : s.mem.wf = true ∧ s.brMem.wf = true) :
    (ctxFlags s n mask).mem.wf = true ∧ (ctxFlags s n mask).brMem.wf = true := by
  unfold ctxFlags
  constructor <;> simp (maxDischargeDepth := 40) [hw.1, hw.2]

@[simp] theorem discardUnvalidated_wf (s : State) (n : Nat) (hw : s.mem.wf = true ∧ s.brMem.wf = true) :
    (discardUnvalidated s n).mem.wf = true ∧ (discardUnvalidated s n).brMem.wf = true := by
  unfold discardUnvalidated
  constructor <;> (try dsimp only) <;> (repeat' (split <;> (try dsimp only))) <;> simp (maxDischargeDepth := 40) [hw.1, hw.2]

@[simp] theorem haltCtx_wf (s : State) (n : Nat) (r : HaltReason) (idx : W32) (mask : Nat) (hw : s.mem.wf = true ∧ s.brMem.wf = true) :
    (haltCtx s n r idx mask).mem.wf = true ∧ (haltCtx s n r idx mask).brMem.wf = true := by
  unfold haltCtx
  constructor <;> simp (maxDischargeDepth := 40) [hw.1, hw.2]

@[simp] theorem ringAccessError_wf (n : Nat) (s : State) (hw : s.mem.wf = true ∧ s.brMem.wf = true) :
    (ringAccessError n s).mem.wf = true ∧ (ringAccessError n s).brMem.wf = true := by
  unfold ringAccessError
  constructor <;> (try dsimp only) <;> (repeat' (split <;> (try dsimp only))) <;> simp (maxDischargeDepth := 40) [hw.1, hw.2]

@[simp] theorem doorbellPoll_wf (n : Nat) (s : State) (hw : s.mem.wf = true ∧ s.brMem.wf = true) :
    (doorbellPoll n s).mem.wf = true ∧ (doorbellPoll n s).brMem.wf = true := by
  unfold doorbellPoll
  constructor <;> (try dsimp only) <;> (repeat' (split <;> (try dsimp only))) <;> simp (maxDischargeDepth := 40) [hw.1, hw.2]

@[simp] theorem killBorrowed_wf (s : State) (q : Nat) (hw : s.mem.wf = true ∧ s.brMem.wf = true) :
    (killBorrowed s q).mem.wf = true ∧ (killBorrowed s q).brMem.wf = true := by
  unfold killBorrowed
  constructor <;> (try dsimp only) <;> (repeat' (split <;> (try dsimp only))) <;> simp_all (maxDischargeDepth := 40)

@[simp] theorem answered_wf (s : State) (hw : s.mem.wf = true ∧ s.brMem.wf = true) :
    (answered s).mem.wf = true ∧ (answered s).brMem.wf = true := by
  unfold answered
  constructor <;> simp (maxDischargeDepth := 40) [hw.1, hw.2]

@[simp] theorem pollResult_wf (n sqTail cqHead : Nat) (s : State) (hw : s.mem.wf = true ∧ s.brMem.wf = true) :
    (pollResult n sqTail cqHead s).mem.wf = true ∧ (pollResult n sqTail cqHead s).brMem.wf = true := by
  unfold pollResult
  constructor <;> (try dsimp only) <;> (repeat' (split <;> (try dsimp only))) <;> simp_all (maxDischargeDepth := 40)

@[simp] theorem descriptorFetch_wf (n : Nat) (d : Desc) (s : State) (hw : s.mem.wf = true ∧ s.brMem.wf = true) :
    (descriptorFetch n d s).mem.wf = true ∧ (descriptorFetch n d s).brMem.wf = true := by
  unfold descriptorFetch
  constructor <;> (try dsimp only) <;> (repeat' (split <;> (try dsimp only))) <;> simp (maxDischargeDepth := 40) [hw.1, hw.2]

@[simp] theorem tellNext_wf (s : State) (c : Cmd) (hw : s.mem.wf = true ∧ s.brMem.wf = true) :
    (tellNext s c).mem.wf = true ∧ (tellNext s c).brMem.wf = true := by
  unfold tellNext
  constructor <;> (try dsimp only) <;> (repeat' (split <;> (try dsimp only))) <;> simp (maxDischargeDepth := 40) [hw.1, hw.2]

@[simp] theorem dropCmd_wf (s : State) (c : Cmd) (hw : s.mem.wf = true ∧ s.brMem.wf = true) :
    (dropCmd s c).mem.wf = true ∧ (dropCmd s c).brMem.wf = true := by
  unfold dropCmd
  constructor <;> simp (maxDischargeDepth := 40) [hw.1, hw.2]

@[simp] theorem stopOnError_wf (s : State) (c : Cmd) (hw : s.mem.wf = true ∧ s.brMem.wf = true) :
    (stopOnError s c).mem.wf = true ∧ (stopOnError s c).brMem.wf = true := by
  unfold stopOnError
  constructor <;> (try dsimp only) <;> (repeat' (split <;> (try dsimp only))) <;> simp (maxDischargeDepth := 40) [hw.1, hw.2]

@[simp] theorem countLive_wf (s : State) (c : Cmd) (hw : s.mem.wf = true ∧ s.brMem.wf = true) :
    (countLive s c).mem.wf = true ∧ (countLive s c).brMem.wf = true := by
  unfold countLive
  constructor <;> (try dsimp only) <;> (repeat' (split <;> (try dsimp only))) <;> simp (maxDischargeDepth := 40) [hw.1, hw.2]

@[simp] theorem recordWrite_wf (n idx : Nat) (s : State) (hw : s.mem.wf = true ∧ s.brMem.wf = true) :
    (recordWrite n idx s).mem.wf = true ∧ (recordWrite n idx s).brMem.wf = true := by
  unfold recordWrite
  constructor <;> (try dsimp only) <;> (repeat' (split <;> (try dsimp only))) <;> simp (maxDischargeDepth := 40) [hw.1, hw.2]

@[simp] theorem flushHeld_wf (s : State) (n : Nat) (hw : s.mem.wf = true ∧ s.brMem.wf = true) :
    (flushHeld s n).mem.wf = true ∧ (flushHeld s n).brMem.wf = true := by
  unfold flushHeld
  constructor <;> (try dsimp only) <;> (repeat' (split <;> (try dsimp only))) <;> simp_all (maxDischargeDepth := 40)

@[simp] theorem withdraw_wf (s : State) (c : Cmd) (hw : s.mem.wf = true ∧ s.brMem.wf = true) :
    (withdraw s c).mem.wf = true ∧ (withdraw s c).brMem.wf = true := by
  unfold withdraw
  constructor <;> (try dsimp only) <;> (repeat' (split <;> (try dsimp only))) <;> simp (maxDischargeDepth := 40) [hw.1, hw.2]

@[simp] theorem killWith_wf (s : State) (c : Cmd) (st : Status) (hw : s.mem.wf = true ∧ s.brMem.wf = true) :
    (killWith s c st).mem.wf = true ∧ (killWith s c st).brMem.wf = true := by
  unfold killWith
  constructor <;> (try dsimp only) <;> (repeat' (split <;> (try dsimp only))) <;> simp (maxDischargeDepth := 40) [hw.1, hw.2]

@[simp] theorem killAgain_wf (s : State) (c : Cmd) (hw : s.mem.wf = true ∧ s.brMem.wf = true) :
    (killAgain s c).mem.wf = true ∧ (killAgain s c).brMem.wf = true := by
  unfold killAgain
  constructor <;> simp (maxDischargeDepth := 40) [hw.1, hw.2]

@[simp] theorem commandKill_wf (n idx : Nat) (s : State) (hw : s.mem.wf = true ∧ s.brMem.wf = true) :
    (commandKill n idx s).mem.wf = true ∧ (commandKill n idx s).brMem.wf = true := by
  unfold commandKill
  constructor <;> (try dsimp only) <;> (repeat' (split <;> (try dsimp only))) <;> simp (maxDischargeDepth := 40) [hw.1, hw.2]

@[simp] theorem killAll_wf (s : State) (n : Nat) (st : Status) (hw : s.mem.wf = true ∧ s.brMem.wf = true) :
    (killAll s n st).mem.wf = true ∧ (killAll s n st).brMem.wf = true := by
  unfold killAll
  refine seqAll_wf _ _ _ (fun s x h1 h2 => ?_) hw
  split
  · split <;> simp (maxDischargeDepth := 40) [h1, h2]
  · exact ⟨h1, h2⟩

@[simp] theorem endEntry_wf (s : State) (n : Nat) (hw : s.mem.wf = true ∧ s.brMem.wf = true) :
    (endEntry s n).mem.wf = true ∧ (endEntry s n).brMem.wf = true := by
  unfold endEntry
  constructor <;> (try dsimp only) <;> (repeat' (split <;> (try dsimp only))) <;> simp (maxDischargeDepth := 40) [hw.1, hw.2]

@[simp] theorem ctlWrite_wf (n val : Nat) (f : State → State) (s : State) (hf : ∀ x0, x0.mem.wf = true ∧ x0.brMem.wf = true → (f x0).mem.wf = true ∧ (f x0).brMem.wf = true) (hw : s.mem.wf = true ∧ s.brMem.wf = true) :
    (ctlWrite n val f s).mem.wf = true ∧ (ctlWrite n val f s).brMem.wf = true := by
  unfold ctlWrite
  constructor <;> (try dsimp only) <;> (repeat' (split <;> (try dsimp only))) <;> simp_all (maxDischargeDepth := 40)

@[simp] theorem contextStop_wf (n : Nat) (s : State) (hw : s.mem.wf = true ∧ s.brMem.wf = true) :
    (contextStop n s).mem.wf = true ∧ (contextStop n s).brMem.wf = true := by
  unfold contextStop
  constructor <;> (try dsimp only) <;> (repeat' (split <;> (try dsimp only))) <;> simp (maxDischargeDepth := 40) [hw.1, hw.2]

@[simp] theorem contextStopDone_wf (n : Nat) (s : State) (hw : s.mem.wf = true ∧ s.brMem.wf = true) :
    (contextStopDone n s).mem.wf = true ∧ (contextStopDone n s).brMem.wf = true := by
  unfold contextStopDone
  constructor <;> (try dsimp only) <;> (repeat' (split <;> (try dsimp only))) <;> simp (maxDischargeDepth := 40) [hw.1, hw.2]

@[simp] theorem contextResume_wf (n : Nat) (s : State) (hw : s.mem.wf = true ∧ s.brMem.wf = true) :
    (contextResume n s).mem.wf = true ∧ (contextResume n s).brMem.wf = true := by
  unfold contextResume
  constructor <;> (try dsimp only) <;> (repeat' (split <;> (try dsimp only))) <;> simp (maxDischargeDepth := 40) [hw.1, hw.2]

@[simp] theorem contextReset_wf (n : Nat) (s : State) (hw : s.mem.wf = true ∧ s.brMem.wf = true) :
    (contextReset n s).mem.wf = true ∧ (contextReset n s).brMem.wf = true := by
  unfold contextReset
  constructor <;> (try dsimp only) <;> (repeat' (split <;> (try dsimp only))) <;> simp (maxDischargeDepth := 40) [hw.1, hw.2]

@[simp] theorem freeBranches_wf (s : State) (n : Nat) (hw : s.mem.wf = true ∧ s.brMem.wf = true) :
    (freeBranches s n).mem.wf = true ∧ (freeBranches s n).brMem.wf = true := by
  unfold freeBranches
  constructor <;> simp (maxDischargeDepth := 40) [hw.1, hw.2]

@[simp] theorem clearCtx_wf (s : State) (n : Nat) (hw : s.mem.wf = true ∧ s.brMem.wf = true) :
    (clearCtx s n).mem.wf = true ∧ (clearCtx s n).brMem.wf = true := by
  unfold clearCtx
  constructor <;> (try dsimp only) <;> (repeat' (split <;> (try dsimp only))) <;> simp (maxDischargeDepth := 40) [hw.1, hw.2]

@[simp] theorem contextResetDone_wf (n : Nat) (s : State) (hw : s.mem.wf = true ∧ s.brMem.wf = true) :
    (contextResetDone n s).mem.wf = true ∧ (contextResetDone n s).brMem.wf = true := by
  unfold contextResetDone
  constructor <;> (try dsimp only) <;> (repeat' (split <;> (try dsimp only))) <;> simp_all (maxDischargeDepth := 40) [apply_ite]

@[simp] theorem contextEnable_wf (n : Nat) (s : State) (hw : s.mem.wf = true ∧ s.brMem.wf = true) :
    (contextEnable n s).mem.wf = true ∧ (contextEnable n s).brMem.wf = true := by
  unfold contextEnable
  constructor <;> (try dsimp only) <;> (repeat' (split <;> (try dsimp only))) <;> simp (maxDischargeDepth := 40) [hw.1, hw.2]

@[simp] theorem noteRun_wf (s : State) (n : Nat) (hw : s.mem.wf = true ∧ s.brMem.wf = true) :
    (noteRun s n).mem.wf = true ∧ (noteRun s n).brMem.wf = true := by
  unfold noteRun
  constructor <;> simp (maxDischargeDepth := 40) [hw.1, hw.2]

@[simp] theorem ungate_wf (s : State) (r : Nat) (hw : s.mem.wf = true ∧ s.brMem.wf = true) :
    (ungate s r).mem.wf = true ∧ (ungate s r).brMem.wf = true := by
  unfold ungate
  constructor <;> simp (maxDischargeDepth := 40) [hw.1, hw.2]

@[simp] theorem placeOn_wf (s0 : State) (c : Cmd) (q : Nat) (borrowed : Bool) (hw : s0.mem.wf = true ∧ s0.brMem.wf = true) :
    (placeOn s0 c q borrowed).mem.wf = true ∧ (placeOn s0 c q borrowed).brMem.wf = true := by
  unfold placeOn
  constructor <;> (try dsimp only) <;> (repeat' (split <;> (try dsimp only))) <;> simp_all (maxDischargeDepth := 40) [apply_ite]

@[simp] theorem placeFree_wf (s : State) (c : Cmd) (hw : s.mem.wf = true ∧ s.brMem.wf = true) :
    (placeFree s c).mem.wf = true ∧ (placeFree s c).brMem.wf = true := by
  unfold placeFree
  constructor <;> (try dsimp only) <;> (repeat' (split <;> (try dsimp only))) <;> simp (maxDischargeDepth := 40) [hw.1, hw.2]

@[simp] theorem commandPlace_wf (n idx : Nat) (s : State) (hw : s.mem.wf = true ∧ s.brMem.wf = true) :
    (commandPlace n idx s).mem.wf = true ∧ (commandPlace n idx s).brMem.wf = true := by
  unfold commandPlace
  constructor <;> (try dsimp only) <;> (repeat' (split <;> (try dsimp only))) <;> simp (maxDischargeDepth := 40) [hw.1, hw.2]

@[simp] theorem closeStep_wf (s : State) (c : Cmd) (hw : s.mem.wf = true ∧ s.brMem.wf = true) :
    (closeStep s c).mem.wf = true ∧ (closeStep s c).brMem.wf = true := by
  unfold closeStep
  constructor <;> (try dsimp only) <;> (repeat' (split <;> (try dsimp only))) <;> simp (maxDischargeDepth := 40) [hw.1, hw.2]

@[simp] theorem settle_wf (s : State) (c : Cmd) (hw : s.mem.wf = true ∧ s.brMem.wf = true) :
    (settle s c).mem.wf = true ∧ (settle s c).brMem.wf = true := by
  unfold settle
  constructor <;> (try dsimp only) <;> (repeat' (split <;> (try dsimp only))) <;> simp (maxDischargeDepth := 40) [hw.1, hw.2]

@[simp] theorem settleAll_wf (s : State) (hw : s.mem.wf = true ∧ s.brMem.wf = true) :
    (settleAll s).mem.wf = true ∧ (settleAll s).brMem.wf = true := by
  unfold settleAll
  constructor <;> (try dsimp only) <;> (repeat' (split <;> (try dsimp only))) <;> simp_all (maxDischargeDepth := 40)

theorem txFinal_same {s t : State} {c : Cmd} {k : TxM (Nat × List BrOp)} {w : Work} {ops : List BrOp} {hs : List Nat}
    (h : txFinal s c k = .ready t w ops hs) : t = s := by
  unfold txFinal at h
  split at h <;> cases h
  rfl

theorem finalOf_wf {s t : State} {c : Cmd} {w : Work} {ops : List BrOp} {hs : List Nat}
    (h : finalOf s c = .ready t w ops hs) (hw : s.mem.wf = true ∧ s.brMem.wf = true) : t.mem.wf = true ∧ t.brMem.wf = true := by
  unfold finalOf at h
  split at h
  case h_2 =>
    split at h <;> try cases h
    rename_i h1
    exact poolCommit_wf h1 hw
  all_goals (rw [txFinal_same h]; exact hw)

@[simp] theorem endCmd_wf (s : State) (c : Cmd) (st : Status) (hw : s.mem.wf = true ∧ s.brMem.wf = true) :
    (endCmd s c st).mem.wf = true ∧ (endCmd s c st).brMem.wf = true := by
  unfold endCmd
  constructor <;> (try dsimp only) <;> (repeat' (split <;> (try dsimp only))) <;> simp (maxDischargeDepth := 40) [hw.1, hw.2]

@[simp] theorem sendCommits_wf (s : State) (c : Cmd) (cs : List Host.Cell) (mods : List Nat) (hw : s.mem.wf = true ∧ s.brMem.wf = true) :
    (sendCommits s c cs mods).mem.wf = true ∧ (sendCommits s c cs mods).brMem.wf = true := by
  unfold sendCommits
  constructor <;> (try dsimp only) <;> (repeat' (split <;> (try dsimp only))) <;> simp_all (maxDischargeDepth := 40)

@[simp] theorem makeVisible_wf (s : State) (c : Cmd) (ops : List BrOp) (heads : List Nat) (hw : s.mem.wf = true ∧ s.brMem.wf = true) :
    (makeVisible s c ops heads).mem.wf = true ∧ (makeVisible s c ops heads).brMem.wf = true := by
  unfold makeVisible
  constructor <;> simp (maxDischargeDepth := 40) [hw.1, hw.2]

theorem commitHeld_wf (s : State) (c : Cmd) (ops : List BrOp) (heads : List Nat) (s0 : State) (c0 : Cmd)
    (hw : s.mem.wf = true ∧ s.brMem.wf = true) (h0 : s0.mem.wf = true ∧ s0.brMem.wf = true) :
    (commitHeld s c ops heads s0 c0).mem.wf = true ∧ (commitHeld s c ops heads s0 c0).brMem.wf = true := by
  unfold commitHeld
  constructor <;> dsimp only <;> (repeat' (split <;> (try dsimp only))) <;> simp (maxDischargeDepth := 40) [hw.1, hw.2, h0.1, h0.2]

@[simp] theorem commitIssued_wf (s : State) (c : Cmd) (hw : s.mem.wf = true ∧ s.brMem.wf = true) :
    (commitIssued s c).mem.wf = true ∧ (commitIssued s c).brMem.wf = true := by
  unfold commitIssued
  split
  · simp (maxDischargeDepth := 40) [hw.1, hw.2]
  split
  · exact hw
  split
  · exact hw
  · simp (maxDischargeDepth := 40) [hw.1, hw.2]
  · simp (maxDischargeDepth := 40) [hw.1, hw.2]
  · simp (maxDischargeDepth := 40) [hw.1, hw.2]
  · rename_i h; exact commitHeld_wf _ _ _ _ _ _ (finalOf_wf h hw) hw

@[simp] theorem commandCommit_wf (n idx : Nat) (s : State) (hw : s.mem.wf = true ∧ s.brMem.wf = true) :
    (commandCommit n idx s).mem.wf = true ∧ (commandCommit n idx s).brMem.wf = true := by
  unfold commandCommit
  constructor <;> (try dsimp only) <;> (repeat' (split <;> (try dsimp only))) <;> simp (maxDischargeDepth := 40) [hw.1, hw.2]

@[simp] theorem generationRetry_wf (n idx : Nat) (s : State) (hw : s.mem.wf = true ∧ s.brMem.wf = true) :
    (generationRetry n idx s).mem.wf = true ∧ (generationRetry n idx s).brMem.wf = true := by
  unfold generationRetry
  constructor <;> (try dsimp only) <;> (repeat' (split <;> (try dsimp only))) <;> simp (maxDischargeDepth := 40) [hw.1, hw.2]

@[simp] theorem lookasideFill_wf (r head token : Nat) (s : State) (hw : s.mem.wf = true ∧ s.brMem.wf = true) :
    (lookasideFill r head token s).mem.wf = true ∧ (lookasideFill r head token s).brMem.wf = true := by
  unfold lookasideFill
  constructor <;> (try dsimp only) <;> (repeat' (split <;> (try dsimp only))) <;> simp (maxDischargeDepth := 40) [hw.1, hw.2]

@[simp] theorem copyLines_wf (s : State) (ps : List (Nat × Nat)) (hw : s.mem.wf = true ∧ s.brMem.wf = true) :
    (copyLines s ps).mem.wf = true ∧ (copyLines s ps).brMem.wf = true := by
  unfold copyLines
  constructor <;> simp (maxDischargeDepth := 40) [hw.1, hw.2]

@[simp] theorem saveCopy_wf (s : State) (n : Nat) (ranges : Option (List (Nat × Nat))) (hw : s.mem.wf = true ∧ s.brMem.wf = true) :
    (saveCopy s n ranges).mem.wf = true ∧ (saveCopy s n ranges).brMem.wf = true := by
  unfold saveCopy
  constructor <;> (try dsimp only) <;> (repeat' (split <;> (try dsimp only))) <;> simp_all (maxDischargeDepth := 40)

@[simp] theorem restoreCopy_wf (s : State) (n : Nat) (hw : s.mem.wf = true ∧ s.brMem.wf = true) :
    (restoreCopy s n).mem.wf = true ∧ (restoreCopy s n).brMem.wf = true := by
  unfold restoreCopy
  constructor <;> (try dsimp only) <;> (repeat' (split <;> (try dsimp only))) <;> simp_all (maxDischargeDepth := 40)

@[simp] theorem evictKills_wf (s : State) (n : Nat) (hw : s.mem.wf = true ∧ s.brMem.wf = true) :
    (evictKills s n).mem.wf = true ∧ (evictKills s n).brMem.wf = true := by
  unfold evictKills
  constructor <;> (try dsimp only) <;> (repeat' (split <;> (try dsimp only))) <;> simp_all (maxDischargeDepth := 40)

@[simp] theorem beginSave_wf (s : State) (n : Nat) (ranges : Option (List (Nat × Nat))) (hw : s.mem.wf = true ∧ s.brMem.wf = true) :
    (beginSave s n ranges).mem.wf = true ∧ (beginSave s n ranges).brMem.wf = true := by
  unfold beginSave
  constructor <;> simp (maxDischargeDepth := 40) [hw.1, hw.2]

@[simp] theorem contextEvict_wf (n r : Nat) (s : State) (hw : s.mem.wf = true ∧ s.brMem.wf = true) :
    (contextEvict n r s).mem.wf = true ∧ (contextEvict n r s).brMem.wf = true := by
  unfold contextEvict
  constructor <;> (try dsimp only) <;> (repeat' (split <;> (try dsimp only))) <;> simp (maxDischargeDepth := 40) [hw.1, hw.2]

@[simp] theorem markWaitTimeout_wf (n : Nat) (s : State) (hw : s.mem.wf = true ∧ s.brMem.wf = true) :
    (markWaitTimeout n s).mem.wf = true ∧ (markWaitTimeout n s).brMem.wf = true := by
  unfold markWaitTimeout
  constructor <;> (try dsimp only) <;> (repeat' (split <;> (try dsimp only))) <;> simp (maxDischargeDepth := 40) [hw.1, hw.2]

@[simp] theorem standbySave_wf (s : State) (hw : s.mem.wf = true ∧ s.brMem.wf = true) :
    (standbySave s).mem.wf = true ∧ (standbySave s).brMem.wf = true := by
  unfold standbySave
  constructor <;> (try dsimp only) <;> (repeat' (split <;> (try dsimp only))) <;> simp (maxDischargeDepth := 40) [hw.1, hw.2]

@[simp] theorem contextSaveDone_wf (n : Nat) (s : State) (hw : s.mem.wf = true ∧ s.brMem.wf = true) :
    (contextSaveDone n s).mem.wf = true ∧ (contextSaveDone n s).brMem.wf = true := by
  unfold contextSaveDone
  constructor <;> (try dsimp only) <;> (repeat' (split <;> (try dsimp only))) <;> simp (maxDischargeDepth := 40) [hw.1, hw.2]

@[simp] theorem contextRestore_wf (n : Nat) (s : State) (hw : s.mem.wf = true ∧ s.brMem.wf = true) :
    (contextRestore n s).mem.wf = true ∧ (contextRestore n s).brMem.wf = true := by
  unfold contextRestore
  constructor <;> (try dsimp only) <;> (repeat' (split <;> (try dsimp only))) <;> simp (maxDischargeDepth := 40) [hw.1, hw.2]

@[simp] theorem contextRestoreDone_wf (n : Nat) (s : State) (hw : s.mem.wf = true ∧ s.brMem.wf = true) :
    (contextRestoreDone n s).mem.wf = true ∧ (contextRestoreDone n s).brMem.wf = true := by
  unfold contextRestoreDone
  constructor <;> (try dsimp only) <;> (repeat' (split <;> (try dsimp only))) <;> simp (maxDischargeDepth := 40) [hw.1, hw.2]

@[simp] theorem moveBranch_wf (s : State) (m : Nat × Nat) (hw : s.mem.wf = true ∧ s.brMem.wf = true) :
    (moveBranch s m).mem.wf = true ∧ (moveBranch s m).brMem.wf = true := by
  unfold moveBranch
  constructor <;> (try dsimp only) <;> (repeat' (split <;> (try dsimp only))) <;> simp (maxDischargeDepth := 40) [hw.1, hw.2]

@[simp] theorem moveBranches_wf (n : Nat) (s : State) (ms : List (Nat × Nat)) (hw : s.mem.wf = true ∧ s.brMem.wf = true) :
    (moveBranches n s ms).mem.wf = true ∧ (moveBranches n s ms).brMem.wf = true := by
  induction ms generalizing n s with
  | nil => cases n <;> simpa [moveBranches] using hw
  | cons m ms ih =>
    cases n with
    | zero => simpa [moveBranches] using hw
    | succ n =>
      unfold moveBranches
      split
      · exact ih _ _ (moveBranch_wf _ _ hw)
      · exact ih _ _ hw

@[simp] theorem placementLoop_wf (rates : List Nat) (moves : List (Nat × Nat)) (s : State) (hw : s.mem.wf = true ∧ s.brMem.wf = true) :
    (placementLoop rates moves s).mem.wf = true ∧ (placementLoop rates moves s).brMem.wf = true := by
  unfold placementLoop
  constructor <;> (try dsimp only) <;> (repeat' (split <;> (try dsimp only))) <;> simp_all (maxDischargeDepth := 40) [apply_ite]

@[simp] theorem sendOn_wf (s : State) (p mtype : Nat) (data : List Byte) (hw : s.mem.wf = true ∧ s.brMem.wf = true) :
    (sendOn s p mtype data).mem.wf = true ∧ (sendOn s p mtype data).brMem.wf = true := by
  unfold sendOn
  constructor <;> simp (maxDischargeDepth := 40) [hw.1, hw.2]

@[simp] theorem flood_wf (s : State) (arrived : Option Nat) (m : Nat) (inc : W32) (cause : Nat) (hw : s.mem.wf = true ∧ s.brMem.wf = true) :
    (flood s arrived m inc cause).mem.wf = true ∧ (flood s arrived m inc cause).brMem.wf = true := by
  unfold flood
  constructor <;> (try dsimp only) <;> (repeat' (split <;> (try dsimp only))) <;> simp_all (maxDischargeDepth := 40)

@[simp] theorem redirect_wf (m : Nat) (s : State) (c : Cmd) (hw : s.mem.wf = true ∧ s.brMem.wf = true) :
    (redirect m s c).mem.wf = true ∧ (redirect m s c).brMem.wf = true := by
  unfold redirect
  constructor <;> (try dsimp only) <;> (repeat' (split <;> (try dsimp only))) <;> simp (maxDischargeDepth := 40) [hw.1, hw.2]

@[simp] theorem cmdLoses_wf (m : Nat) (s : State) (c : Cmd) (hw : s.mem.wf = true ∧ s.brMem.wf = true) :
    (cmdLoses m s c).mem.wf = true ∧ (cmdLoses m s c).brMem.wf = true := by
  unfold cmdLoses
  constructor <;> (try dsimp only) <;> (repeat' (split <;> (try dsimp only))) <;> simp (maxDischargeDepth := 40) [hw.1, hw.2]

@[simp] theorem eachCmd_wf (s : State) (f : State → Cmd → State)
    (h : ∀ s c, s.mem.wf = true → s.brMem.wf = true → (f s c).mem.wf = true ∧ (f s c).brMem.wf = true) (hw : s.mem.wf = true ∧ s.brMem.wf = true) :
    (eachCmd s f).mem.wf = true ∧ (eachCmd s f).brMem.wf = true := by
  unfold eachCmd
  refine seqAll_wf _ _ _ (fun s x h1 h2 => ?_) hw
  split
  · exact h _ _ h1 h2
  · exact ⟨h1, h2⟩

@[simp] theorem loseModule_wf (s : State) (m : Nat) (hw : s.mem.wf = true ∧ s.brMem.wf = true) :
    (loseModule s m).mem.wf = true ∧ (loseModule s m).brMem.wf = true := by
  unfold loseModule
  constructor <;> (try dsimp only) <;> (repeat' (split <;> (try dsimp only))) <;> simp_all (maxDischargeDepth := 40)

@[simp] theorem declareDeath_wf (s : State) (arrived : Option Nat) (m : Nat) (inc : W32) (cause : Nat) (hw : s.mem.wf = true ∧ s.brMem.wf = true) :
    (declareDeath s arrived m inc cause).mem.wf = true ∧ (declareDeath s arrived m inc cause).brMem.wf = true := by
  unfold declareDeath
  constructor <;> (try dsimp only) <;> (repeat' (split <;> (try dsimp only))) <;> simp (maxDischargeDepth := 40) [hw.1, hw.2]

@[simp] theorem failModule_wf (s : State) (cause : Nat) (hw : s.mem.wf = true ∧ s.brMem.wf = true) :
    (failModule s cause).mem.wf = true ∧ (failModule s cause).brMem.wf = true := by
  unfold failModule
  constructor <;> simp (maxDischargeDepth := 40) [hw.1, hw.2]

@[simp] theorem declareDead_wf (m : Nat) (s : State) (hw : s.mem.wf = true ∧ s.brMem.wf = true) :
    (declareDead m s).mem.wf = true ∧ (declareDead m s).brMem.wf = true := by
  unfold declareDead
  constructor <;> (try dsimp only) <;> (repeat' (split <;> (try dsimp only))) <;> simp (maxDischargeDepth := 40) [hw.1, hw.2]

@[simp] theorem unreachableTimeout_wf (m : Nat) (s : State) (hw : s.mem.wf = true ∧ s.brMem.wf = true) :
    (unreachableTimeout m s).mem.wf = true ∧ (unreachableTimeout m s).brMem.wf = true := by
  unfold unreachableTimeout
  constructor <;> (try dsimp only) <;> (repeat' (split <;> (try dsimp only))) <;> simp (maxDischargeDepth := 40) [hw.1, hw.2]

@[simp] theorem retryWaiting_wf (s : State) (hw : s.mem.wf = true ∧ s.brMem.wf = true) :
    (retryWaiting s).mem.wf = true ∧ (retryWaiting s).brMem.wf = true := by
  unfold retryWaiting
  constructor <;> (try dsimp only) <;> (repeat' (split <;> (try dsimp only))) <;> simp_all (maxDischargeDepth := 40)

@[simp] theorem setDie_wf (s : State) (d : Nat) (x : Die) (hw : s.mem.wf = true ∧ s.brMem.wf = true) :
    (setDie s d x).mem.wf = true ∧ (setDie s d x).brMem.wf = true := by
  unfold setDie
  constructor <;> simp (maxDischargeDepth := 40) [hw.1, hw.2]

@[simp] theorem setLinkDie_wf (s : State) (l : Nat) (x : Die) (hw : s.mem.wf = true ∧ s.brMem.wf = true) :
    (setLinkDie s l x).mem.wf = true ∧ (setLinkDie s l x).brMem.wf = true := by
  unfold setLinkDie
  constructor <;> simp (maxDischargeDepth := 40) [hw.1, hw.2]

@[simp] theorem haltByDie_wf (s : State) (n : Nat) (hw : s.mem.wf = true ∧ s.brMem.wf = true) :
    (haltByDie s n).mem.wf = true ∧ (haltByDie s n).brMem.wf = true := by
  unfold haltByDie
  constructor <;> (try dsimp only) <;> (repeat' (split <;> (try dsimp only))) <;> simp_all (maxDischargeDepth := 40) [apply_ite]

@[simp] theorem clearDie_wf (s : State) (d : Nat) (hw : s.mem.wf = true ∧ s.brMem.wf = true) :
    (clearDie s d).mem.wf = true ∧ (clearDie s d).brMem.wf = true := by
  unfold clearDie
  constructor <;> simp (maxDischargeDepth := 40) [hw.1, hw.2]

@[simp] theorem beginRecovery_wf (s : State) (hw : s.mem.wf = true ∧ s.brMem.wf = true) :
    (beginRecovery s).mem.wf = true ∧ (beginRecovery s).brMem.wf = true := by
  unfold beginRecovery
  constructor <;> simp (maxDischargeDepth := 40) [hw.1, hw.2]

@[simp] theorem dieReset_wf (d : Nat) (s : State) (hw : s.mem.wf = true ∧ s.brMem.wf = true) :
    (dieReset d s).mem.wf = true ∧ (dieReset d s).brMem.wf = true := by
  unfold dieReset
  constructor <;> (try dsimp only) <;> (repeat' (split <;> (try dsimp only))) <;> simp_all (maxDischargeDepth := 40) [apply_ite]

@[simp] theorem portTo_wf (s : State) (p : Nat) (st : PortState) (hw : s.mem.wf = true ∧ s.brMem.wf = true) :
    (portTo s p st).mem.wf = true ∧ (portTo s p st).brMem.wf = true := by
  unfold portTo
  constructor <;> (try dsimp only) <;> (repeat' (split <;> (try dsimp only))) <;> simp (maxDischargeDepth := 40) [hw.1, hw.2]

@[simp] theorem linkDieReset_wf (ld : Nat) (s : State) (hw : s.mem.wf = true ∧ s.brMem.wf = true) :
    (linkDieReset ld s).mem.wf = true ∧ (linkDieReset ld s).brMem.wf = true := by
  unfold linkDieReset
  constructor <;> (try dsimp only) <;> (repeat' (split <;> (try dsimp only))) <;> simp_all (maxDischargeDepth := 40) [apply_ite]

@[simp] theorem startTraining_wf (s : State) (p : Nat) (hw : s.mem.wf = true ∧ s.brMem.wf = true) :
    (startTraining s p).mem.wf = true ∧ (startTraining s p).brMem.wf = true := by
  unfold startTraining
  constructor <;> (try dsimp only) <;> (repeat' (split <;> (try dsimp only))) <;> simp (maxDischargeDepth := 40) [hw.1, hw.2]

@[simp] theorem dieResetDone_wf (link : Bool) (d : Nat) (s : State) (hw : s.mem.wf = true ∧ s.brMem.wf = true) :
    (dieResetDone link d s).mem.wf = true ∧ (dieResetDone link d s).brMem.wf = true := by
  unfold dieResetDone
  constructor <;> (try dsimp only) <;> (repeat' (split <;> (try dsimp only))) <;> simp_all (maxDischargeDepth := 40)

@[simp] theorem scratchpadUncorrectable_wf (q a : Nat) (acc : Bool) (s : State) (hw : s.mem.wf = true ∧ s.brMem.wf = true) :
    (scratchpadUncorrectable q a acc s).mem.wf = true ∧ (scratchpadUncorrectable q a acc s).brMem.wf = true := by
  unfold scratchpadUncorrectable
  constructor <;> (try dsimp only) <;> (repeat' (split <;> (try dsimp only))) <;> simp (maxDischargeDepth := 40) [hw.1, hw.2]

@[simp] theorem listPage_wf (reason : Nat) (s : State) (p : Nat) (hw : s.mem.wf = true ∧ s.brMem.wf = true) :
    (listPage reason s p).mem.wf = true ∧ (listPage reason s p).brMem.wf = true := by
  unfold listPage
  constructor <;> (try dsimp only) <;> (repeat' (split <;> (try dsimp only))) <;> simp (maxDischargeDepth := 40) [hw.1, hw.2]

@[simp] theorem carafeUncorrectable_wf (a reason : Nat) (s : State) (hw : s.mem.wf = true ∧ s.brMem.wf = true) :
    (carafeUncorrectable a reason s).mem.wf = true ∧ (carafeUncorrectable a reason s).brMem.wf = true := by
  unfold carafeUncorrectable
  constructor <;> (try dsimp only) <;> (repeat' (split <;> (try dsimp only))) <;> simp (maxDischargeDepth := 40) [hw.1, hw.2]

@[simp] theorem retireQueuePop_wf (s : State) (hw : s.mem.wf = true ∧ s.brMem.wf = true) :
    (retireQueuePop s).mem.wf = true ∧ (retireQueuePop s).brMem.wf = true := by
  unfold retireQueuePop
  constructor <;> simp (maxDischargeDepth := 40) [hw.1, hw.2]

@[simp] theorem modCarafe_wf (s : State) (d : Nat) (f : Carafe → Carafe) (hw : s.mem.wf = true ∧ s.brMem.wf = true) :
    (modCarafe s d f).mem.wf = true ∧ (modCarafe s d f).brMem.wf = true := by
  unfold modCarafe
  constructor <;> simp (maxDischargeDepth := 40) [hw.1, hw.2]

@[simp] theorem failCarafe_wf (s : State) (d c : Nat) (hw : s.mem.wf = true ∧ s.brMem.wf = true) :
    (failCarafe s d c).mem.wf = true ∧ (failCarafe s d c).brMem.wf = true := by
  unfold failCarafe
  constructor <;> (try dsimp only) <;> (repeat' (split <;> (try dsimp only))) <;> simp_all (maxDischargeDepth := 40)

@[simp] theorem startSubst_wf (s : State) (d c : Nat) (failed : Bool) (hw : s.mem.wf = true ∧ s.brMem.wf = true) :
    (startSubst s d c failed).mem.wf = true ∧ (startSubst s d c failed).brMem.wf = true := by
  unfold startSubst
  constructor <;> (try dsimp only) <;> (repeat' (split <;> (try dsimp only))) <;> simp (maxDischargeDepth := 40) [hw.1, hw.2]

@[simp] theorem startWaiting_wf (d n : Nat) (s : State) (hw : s.mem.wf = true ∧ s.brMem.wf = true) :
    (startWaiting d n s).mem.wf = true ∧ (startWaiting d n s).brMem.wf = true := by
  induction n generalizing s with
  | zero => exact hw
  | succ n ih =>
    unfold startWaiting
    split
    · exact ih _ (startSubst_wf _ _ _ _ (modCarafe_wf _ _ _ hw))
    · simp (maxDischargeDepth := 40) [hw.1, hw.2]
    · exact hw

@[simp] theorem runChannel_wf (s : State) (d : Nat) (hw : s.mem.wf = true ∧ s.brMem.wf = true) :
    (runChannel s d).mem.wf = true ∧ (runChannel s d).brMem.wf = true := by
  unfold runChannel
  constructor <;> simp (maxDischargeDepth := 40) [hw.1, hw.2]

@[simp] theorem askChannel_wf (s : State) (d : Nat) (hw : s.mem.wf = true ∧ s.brMem.wf = true) :
    (askChannel s d).mem.wf = true ∧ (askChannel s d).brMem.wf = true := by
  unfold askChannel
  constructor <;> (try dsimp only) <;> (repeat' (split <;> (try dsimp only))) <;> simp (maxDischargeDepth := 40) [hw.1, hw.2]

@[simp] theorem channelSubstitution_wf (d c cause : Nat) (s : State) (hw : s.mem.wf = true ∧ s.brMem.wf = true) :
    (channelSubstitution d c cause s).mem.wf = true ∧ (channelSubstitution d c cause s).brMem.wf = true := by
  unfold channelSubstitution
  constructor <;> (try dsimp only) <;> (repeat' (split <;> (try dsimp only))) <;> simp (maxDischargeDepth := 40) [hw.1, hw.2]

@[simp] theorem endSubst_wf (s : State) (d : Nat) (hw : s.mem.wf = true ∧ s.brMem.wf = true) :
    (endSubst s d).mem.wf = true ∧ (endSubst s d).brMem.wf = true := by
  unfold endSubst
  constructor <;> simp (maxDischargeDepth := 40) [hw.1, hw.2]

@[simp] theorem channelSwitch_wf (d : Nat) (s : State) (hw : s.mem.wf = true ∧ s.brMem.wf = true) :
    (channelSwitch d s).mem.wf = true ∧ (channelSwitch d s).brMem.wf = true := by
  unfold channelSwitch
  constructor <;> (try dsimp only) <;> (repeat' (split <;> (try dsimp only))) <;> simp (maxDischargeDepth := 40) [hw.1, hw.2]

@[simp] theorem channelRetrainDone_wf (d : Nat) (passed : Bool) (s : State) (hw : s.mem.wf = true ∧ s.brMem.wf = true) :
    (channelRetrainDone d passed s).mem.wf = true ∧ (channelRetrainDone d passed s).brMem.wf = true := by
  unfold channelRetrainDone
  constructor <;> (try dsimp only) <;> (repeat' (split <;> (try dsimp only))) <;> simp (maxDischargeDepth := 40) [hw.1, hw.2]

@[simp] theorem channelRemap_wf (d : Nat) (s : State) (hw : s.mem.wf = true ∧ s.brMem.wf = true) :
    (channelRemap d s).mem.wf = true ∧ (channelRemap d s).brMem.wf = true := by
  unfold channelRemap
  constructor <;> (try dsimp only) <;> (repeat' (split <;> (try dsimp only))) <;> simp (maxDischargeDepth := 40) [hw.1, hw.2]

@[simp] theorem scrubSlice_wf (s : State) (d c lines found : Nat) (ended : Bool) (hw : s.mem.wf = true ∧ s.brMem.wf = true) :
    (scrubSlice s d c lines found ended).mem.wf = true ∧ (scrubSlice s d c lines found ended).brMem.wf = true := by
  unfold scrubSlice
  constructor <;> simp (maxDischargeDepth := 40) [hw.1, hw.2]

@[simp] theorem patrolScrub_wf (d c lines found : Nat) (ended : Bool) (s : State) (hw : s.mem.wf = true ∧ s.brMem.wf = true) :
    (patrolScrub d c lines found ended s).mem.wf = true ∧ (patrolScrub d c lines found ended s).brMem.wf = true := by
  unfold patrolScrub
  constructor <;> (try dsimp only) <;> (repeat' (split <;> (try dsimp only))) <;> simp (maxDischargeDepth := 40) [hw.1, hw.2]

@[simp] theorem reportCrossing_wf (s : State) (sensor : Nat) (b : BitVec 16) (hw : s.mem.wf = true ∧ s.brMem.wf = true) :
    (reportCrossing s sensor b).mem.wf = true ∧ (reportCrossing s sensor b).brMem.wf = true := by
  unfold reportCrossing
  constructor <;> (try dsimp only) <;> (repeat' (split <;> (try dsimp only))) <;> simp (maxDischargeDepth := 40) [hw.1, hw.2]

@[simp] theorem noteTemp_wf (s : State) (sensor reading : Nat) (hw : s.mem.wf = true ∧ s.brMem.wf = true) :
    (noteTemp s sensor reading).mem.wf = true ∧ (noteTemp s sensor reading).brMem.wf = true := by
  unfold noteTemp
  constructor <;> simp (maxDischargeDepth := 40) [hw.1, hw.2]

@[simp] theorem carafeThrottle_wf (d l t : Nat) (s : State) (hw : s.mem.wf = true ∧ s.brMem.wf = true) :
    (carafeThrottle d l t s).mem.wf = true ∧ (carafeThrottle d l t s).brMem.wf = true := by
  unfold carafeThrottle
  constructor <;> (try dsimp only) <;> (repeat' (split <;> (try dsimp only))) <;> simp (maxDischargeDepth := 40) [hw.1, hw.2]

@[simp] theorem invAll_wf (s : State) (hw : s.mem.wf = true ∧ s.brMem.wf = true) :
    (invAll s).mem.wf = true ∧ (invAll s).brMem.wf = true := by
  unfold invAll
  constructor <;> simp (maxDischargeDepth := 40) [hw.1, hw.2]

@[simp] theorem mirrorAll_wf (s : State) (hw : s.mem.wf = true ∧ s.brMem.wf = true) :
    (mirrorAll s).mem.wf = true ∧ (mirrorAll s).brMem.wf = true := by
  unfold mirrorAll
  constructor <;> simp (maxDischargeDepth := 40) [hw.1, hw.2]

@[simp] theorem branchDirEnable_wf (lo : Nat) (s : State) (hw : s.mem.wf = true ∧ s.brMem.wf = true) :
    (branchDirEnable lo s).mem.wf = true ∧ (branchDirEnable lo s).brMem.wf = true := by
  unfold branchDirEnable
  constructor <;> (try dsimp only) <;> (repeat' (split <;> (try dsimp only))) <;> simp (maxDischargeDepth := 40) [hw.1, hw.2]

@[simp] theorem aclLoad_wf (n lo : Nat) (bs : List Byte) (s : State) (hw : s.mem.wf = true ∧ s.brMem.wf = true) :
    (aclLoad n lo bs s).mem.wf = true ∧ (aclLoad n lo bs s).brMem.wf = true := by
  unfold aclLoad
  constructor <;> (try dsimp only) <;> (repeat' (split <;> (try dsimp only))) <;> simp (maxDischargeDepth := 40) [hw.1, hw.2]

theorem bringPage_wf {s t : State} {p k : Nat} (h : bringPage s p = .done t k) (hw : s.mem.wf = true ∧ s.brMem.wf = true) :
    t.mem.wf = true ∧ t.brMem.wf = true := by
  unfold bringPage at h
  split at h
  · cases h
  split at h
  · cases h; exact hw
  · cases h
  · split at h
    · cases h
    · cases h
    · exact recallPage_wf h hw

theorem serveRead_wf {s t : State} {f : Flit} (h : serveRead s f = some t) (hw : s.mem.wf = true ∧ s.brMem.wf = true) :
    t.mem.wf = true ∧ t.brMem.wf = true := by
  unfold serveRead at h
  dsimp only at h
  split at h
  · cases h; exact hw
  split at h
  · cases h
  · cases h; simp (maxDischargeDepth := 40) [hw.1, hw.2]
  · rename_i h1; cases h; exact send_wf _ _ _ _ _ _ _ _ _ (touchPages_wf _ _ (bringPage_wf h1 hw))

@[simp] theorem landOne_wf (f : Flit) (n idx l : Nat) (s : State) (i : Nat) (hw : s.mem.wf = true ∧ s.brMem.wf = true) :
    (landOne f n idx l s i).mem.wf = true ∧ (landOne f n idx l s i).brMem.wf = true := by
  unfold landOne
  constructor <;> (try dsimp only) <;> (repeat' (split <;> (try dsimp only))) <;> simp (maxDischargeDepth := 40) [hw.1, hw.2]

@[simp] theorem landReply_wf (s : State) (c : Cmd) (r : ReadOut) (f : Flit) (hw : s.mem.wf = true ∧ s.brMem.wf = true) :
    (landReply s c r f).mem.wf = true ∧ (landReply s c r f).brMem.wf = true := by
  unfold landReply
  constructor <;> (try dsimp only) <;> (repeat' (split <;> (try dsimp only))) <;> simp_all (maxDischargeDepth := 40)

@[simp] theorem replyDeliver_wf (s : State) (f : Flit) (hw : s.mem.wf = true ∧ s.brMem.wf = true) :
    (replyDeliver s f).mem.wf = true ∧ (replyDeliver s f).brMem.wf = true := by
  unfold replyDeliver
  constructor <;> (try dsimp only) <;> (repeat' (split <;> (try dsimp only))) <;> simp (maxDischargeDepth := 40) [hw.1, hw.2]

@[simp] theorem putHold_wf (s : State) (h : PeerHold) (hw : s.mem.wf = true ∧ s.brMem.wf = true) :
    (putHold s h).mem.wf = true ∧ (putHold s h).brMem.wf = true := by
  unfold putHold
  constructor <;> simp (maxDischargeDepth := 40) [hw.1, hw.2]

@[simp] theorem ackTo_wf (s : State) (f : Flit) (st : Status) (hw : s.mem.wf = true ∧ s.brMem.wf = true) :
    (ackTo s f st).mem.wf = true ∧ (ackTo s f st).brMem.wf = true := by
  unfold ackTo
  constructor <;> simp (maxDischargeDepth := 40) [hw.1, hw.2]

theorem holdDeliver_wf {s t : State} {f : Flit} (h : holdDeliver s f = some t) (hw : s.mem.wf = true ∧ s.brMem.wf = true) :
    t.mem.wf = true ∧ t.brMem.wf = true := by
  unfold holdDeliver at h
  split at h
  · cases h; simp (maxDischargeDepth := 40) [hw.1, hw.2]
  split at h
  · cases h
  · cases h; simp (maxDischargeDepth := 40) [hw.1, hw.2]
  · rename_i h1; cases h; exact ackTo_wf _ _ _ (putHold_wf _ _ (bringPage_wf h1 hw))

@[simp] theorem writeDeliver_wf (s : State) (f : Flit) (hw : s.mem.wf = true ∧ s.brMem.wf = true) :
    (writeDeliver s f).mem.wf = true ∧ (writeDeliver s f).brMem.wf = true := by
  unfold writeDeliver
  constructor <;> simp (maxDischargeDepth := 40) [hw.1, hw.2]

theorem bringAll_wf {s t : State} {ps : List Nat} (h : bringAll s ps = some t) (hw : s.mem.wf = true ∧ s.brMem.wf = true) :
    t.mem.wf = true ∧ t.brMem.wf = true := by
  induction ps generalizing s with
  | nil => cases h; exact hw
  | cons p ps ih =>
    unfold bringAll at h
    split at h
    · cases h
    · exact ih h hw
    · rename_i h1
      exact ih h (bringPage_wf h1 hw)

theorem commitDeliver_wf {s t : State} {f : Flit} (h : commitDeliver s f = some t) (hw : s.mem.wf = true ∧ s.brMem.wf = true) :
    t.mem.wf = true ∧ t.brMem.wf = true := by
  unfold commitDeliver at h
  dsimp only at h
  split at h
  · cases h
  · rename_i h1
    have h2 := bringAll_wf h1 hw
    cases h; simp (maxDischargeDepth := 40) [h2.1, h2.2]

@[simp] theorem holdLapse_wf (src tag : Nat) (s : State) (hw : s.mem.wf = true ∧ s.brMem.wf = true) :
    (holdLapse src tag s).mem.wf = true ∧ (holdLapse src tag s).brMem.wf = true := by
  unfold holdLapse
  constructor <;> (try dsimp only) <;> (repeat' (split <;> (try dsimp only))) <;> simp (maxDischargeDepth := 40) [hw.1, hw.2]

@[simp] theorem ackCmd_wf (s : State) (c : Cmd) (f : Flit) (hw : s.mem.wf = true ∧ s.brMem.wf = true) :
    (ackCmd s c f).mem.wf = true ∧ (ackCmd s c f).brMem.wf = true := by
  unfold ackCmd
  constructor <;> (try dsimp only) <;> (repeat' (split <;> (try dsimp only))) <;> simp (maxDischargeDepth := 40) [hw.1, hw.2]

@[simp] theorem ackDeliver_wf (s : State) (f : Flit) (hw : s.mem.wf = true ∧ s.brMem.wf = true) :
    (ackDeliver s f).mem.wf = true ∧ (ackDeliver s f).brMem.wf = true := by
  unfold ackDeliver
  constructor <;> (try dsimp only) <;> (repeat' (split <;> (try dsimp only))) <;> simp (maxDischargeDepth := 40) [hw.1, hw.2]

@[simp] theorem deathDeliver_wf (s : State) (p : Nat) (f : Flit) (hw : s.mem.wf = true ∧ s.brMem.wf = true) :
    (deathDeliver s p f).mem.wf = true ∧ (deathDeliver s p f).brMem.wf = true := by
  unfold deathDeliver
  constructor <;> (try dsimp only) <;> (repeat' (split <;> (try dsimp only))) <;> simp (maxDischargeDepth := 40) [hw.1, hw.2]

@[simp] theorem sendPresent_wf (ps : List Nat) (m : Nat) (inc : W32) (s : State) (hw : s.mem.wf = true ∧ s.brMem.wf = true) :
    (sendPresent ps m inc s).mem.wf = true ∧ (sendPresent ps m inc s).brMem.wf = true := by
  unfold sendPresent
  constructor <;> (try dsimp only) <;> (repeat' (split <;> (try dsimp only))) <;> simp_all (maxDischargeDepth := 40)

@[simp] theorem undead_wf (s : State) (m : Nat) (hw : s.mem.wf = true ∧ s.brMem.wf = true) :
    (undead s m).mem.wf = true ∧ (undead s m).brMem.wf = true := by
  unfold undead
  constructor <;> (try dsimp only) <;> (repeat' (split <;> (try dsimp only))) <;> simp (maxDischargeDepth := 40) [hw.1, hw.2]

@[simp] theorem presentDeliver_wf (s : State) (p : Nat) (f : Flit) (hw : s.mem.wf = true ∧ s.brMem.wf = true) :
    (presentDeliver s p f).mem.wf = true ∧ (presentDeliver s p f).brMem.wf = true := by
  unfold presentDeliver
  constructor <;> (try dsimp only) <;> (repeat' (split <;> (try dsimp only))) <;> simp (maxDischargeDepth := 40) [hw.1, hw.2]

@[simp] theorem forgetOrder_wf (s : State) (m : Nat) (hw : s.mem.wf = true ∧ s.brMem.wf = true) :
    (forgetOrder s m).mem.wf = true ∧ (forgetOrder s m).brMem.wf = true := by
  unfold forgetOrder
  constructor <;> simp (maxDischargeDepth := 40) [hw.1, hw.2]

theorem deliver_wf {s t : State} {p : Nat} {m : Msg} (h : deliver s p m = some t) (hw : s.mem.wf = true ∧ s.brMem.wf = true) :
    t.mem.wf = true ∧ t.brMem.wf = true := by
  unfold deliver at h
  dsimp only at h
  split at h
  case h_1 => exact serveRead_wf h hw
  case h_4 => exact holdDeliver_wf h hw
  case h_5 => exact commitDeliver_wf h hw
  case h_9 =>
    split at h
    · split at h
      · cases h
      · exact signalDeliver_wf h hw
      · rename_i h1
        exact signalDeliver_wf h (bringPage_wf h1 hw)
    · exact signalDeliver_wf h hw
  all_goals (cases h; simp (maxDischargeDepth := 40) [hw.1, hw.2])

theorem deliverNext_wf {s t : State} {p : Nat} {m : Msg} (h : deliverNext s p m = some t) (hw : s.mem.wf = true ∧ s.brMem.wf = true) :
    t.mem.wf = true ∧ t.brMem.wf = true := by
  unfold deliverNext at h
  dsimp only at h
  cases h1 : deliver s p m with
  | none => rw [h1] at h; cases h
  | some s1 => rw [h1] at h; cases h; simpa using deliver_wf h1 hw

@[simp] theorem drainEarly_wf (p n : Nat) (s : State) (hw : s.mem.wf = true ∧ s.brMem.wf = true) :
    (drainEarly p n s).mem.wf = true ∧ (drainEarly p n s).brMem.wf = true := by
  induction n generalizing s with
  | zero => exact hw
  | succ n ih =>
    unfold drainEarly
    split
    · exact hw
    · split
      · rename_i h
        exact ih _ (deliverNext_wf h (by simpa using hw))
      · exact hw

@[simp] theorem accept_wf (s : State) (p : Nat) (m : Msg) (hw : s.mem.wf = true ∧ s.brMem.wf = true) :
    (accept s p m).mem.wf = true ∧ (accept s p m).brMem.wf = true := by
  unfold accept
  constructor <;> (try dsimp only) <;> (repeat' (split <;> (try dsimp only))) <;> simp (maxDischargeDepth := 40) [hw.1, hw.2]

@[simp] theorem portFlags_wf (s : State) (p mask : Nat) (hw : s.mem.wf = true ∧ s.brMem.wf = true) :
    (portFlags s p mask).mem.wf = true ∧ (portFlags s p mask).brMem.wf = true := by
  unfold portFlags
  constructor <;> simp (maxDischargeDepth := 40) [hw.1, hw.2]

@[simp] theorem noteReplay_wf (s : State) (p : Nat) (hw : s.mem.wf = true ∧ s.brMem.wf = true) :
    (noteReplay s p).mem.wf = true ∧ (noteReplay s p).brMem.wf = true := by
  unfold noteReplay
  constructor <;> simp (maxDischargeDepth := 40) [hw.1, hw.2]

@[simp] theorem flitReplay_wf (p : Nat) (s : State) (hw : s.mem.wf = true ∧ s.brMem.wf = true) :
    (flitReplay p s).mem.wf = true ∧ (flitReplay p s).brMem.wf = true := by
  unfold flitReplay
  constructor <;> (try dsimp only) <;> (repeat' (split <;> (try dsimp only))) <;> simp (maxDischargeDepth := 40) [hw.1, hw.2]

@[simp] theorem forward_wf (s : State) (m : Msg) (hw : s.mem.wf = true ∧ s.brMem.wf = true) :
    (forward s m).mem.wf = true ∧ (forward s m).brMem.wf = true := by
  unfold forward
  constructor <;> simp (maxDischargeDepth := 40) [hw.1, hw.2]

@[simp] theorem receive_wf (p : Nat) (m : Msg) (s : State) (hw : s.mem.wf = true ∧ s.brMem.wf = true) :
    (receive p m s).mem.wf = true ∧ (receive p m s).brMem.wf = true := by
  unfold receive
  constructor <;> (try dsimp only) <;> (repeat' (split <;> (try dsimp only))) <;> simp (maxDischargeDepth := 40) [hw.1, hw.2]

@[simp] theorem retryEarly_wf (s : State) (hw : s.mem.wf = true ∧ s.brMem.wf = true) :
    (retryEarly s).mem.wf = true ∧ (retryEarly s).brMem.wf = true := by
  unfold retryEarly
  constructor <;> simp (maxDischargeDepth := 40) [hw.1, hw.2]

@[simp] theorem portEnable_wf (p : Nat) (on : Bool) (s : State) (hw : s.mem.wf = true ∧ s.brMem.wf = true) :
    (portEnable p on s).mem.wf = true ∧ (portEnable p on s).brMem.wf = true := by
  unfold portEnable
  constructor <;> (try dsimp only) <;> (repeat' (split <;> (try dsimp only))) <;> simp (maxDischargeDepth := 40) [hw.1, hw.2]

@[simp] theorem portRetrain_wf (p : Nat) (s : State) (hw : s.mem.wf = true ∧ s.brMem.wf = true) :
    (portRetrain p s).mem.wf = true ∧ (portRetrain p s).brMem.wf = true := by
  unfold portRetrain
  constructor <;> (try dsimp only) <;> (repeat' (split <;> (try dsimp only))) <;> simp (maxDischargeDepth := 40) [hw.1, hw.2]

@[simp] theorem announce_wf (s : State) (p : Nat) (hw : s.mem.wf = true ∧ s.brMem.wf = true) :
    (announce s p).mem.wf = true ∧ (announce s p).brMem.wf = true := by
  unfold announce
  constructor <;> (try dsimp only) <;> (repeat' (split <;> (try dsimp only))) <;> simp (maxDischargeDepth := 40) [hw.1, hw.2]

@[simp] theorem portTrained_wf (p peer : Nat) (s : State) (hw : s.mem.wf = true ∧ s.brMem.wf = true) :
    (portTrained p peer s).mem.wf = true ∧ (portTrained p peer s).brMem.wf = true := by
  unfold portTrained
  constructor <;> (try dsimp only) <;> (repeat' (split <;> (try dsimp only))) <;> simp (maxDischargeDepth := 40) [hw.1, hw.2]

@[simp] theorem portTrainingTimeout_wf (p : Nat) (s : State) (hw : s.mem.wf = true ∧ s.brMem.wf = true) :
    (portTrainingTimeout p s).mem.wf = true ∧ (portTrainingTimeout p s).brMem.wf = true := by
  unfold portTrainingTimeout
  constructor <;> (try dsimp only) <;> (repeat' (split <;> (try dsimp only))) <;> simp (maxDischargeDepth := 40) [hw.1, hw.2]

@[simp] theorem portRetryTimer_wf (p : Nat) (s : State) (hw : s.mem.wf = true ∧ s.brMem.wf = true) :
    (portRetryTimer p s).mem.wf = true ∧ (portRetryTimer p s).brMem.wf = true := by
  unfold portRetryTimer
  constructor <;> (try dsimp only) <;> (repeat' (split <;> (try dsimp only))) <;> simp (maxDischargeDepth := 40) [hw.1, hw.2]

@[simp] theorem portToWith_wf (s : State) (p : Nat) (st : PortState) (mask : Nat) (hw : s.mem.wf = true ∧ s.brMem.wf = true) :
    (portToWith s p st mask).mem.wf = true ∧ (portToWith s p st mask).brMem.wf = true := by
  unfold portToWith
  constructor <;> simp (maxDischargeDepth := 40) [hw.1, hw.2]

@[simp] theorem replayStorm_wf (p : Nat) (s : State) (hw : s.mem.wf = true ∧ s.brMem.wf = true) :
    (replayStorm p s).mem.wf = true ∧ (replayStorm p s).brMem.wf = true := by
  unfold replayStorm
  constructor <;> (try dsimp only) <;> (repeat' (split <;> (try dsimp only))) <;> simp (maxDischargeDepth := 40) [hw.1, hw.2]

@[simp] theorem portLockLoss_wf (p : Nat) (s : State) (hw : s.mem.wf = true ∧ s.brMem.wf = true) :
    (portLockLoss p s).mem.wf = true ∧ (portLockLoss p s).brMem.wf = true := by
  unfold portLockLoss
  constructor <;> (try dsimp only) <;> (repeat' (split <;> (try dsimp only))) <;> simp (maxDischargeDepth := 40) [hw.1, hw.2]

@[simp] theorem portRecovered_wf (p : Nat) (s : State) (hw : s.mem.wf = true ∧ s.brMem.wf = true) :
    (portRecovered p s).mem.wf = true ∧ (portRecovered p s).brMem.wf = true := by
  unfold portRecovered
  constructor <;> (try dsimp only) <;> (repeat' (split <;> (try dsimp only))) <;> simp (maxDischargeDepth := 40) [hw.1, hw.2]

@[simp] theorem recoveryTimeout_wf (p : Nat) (s : State) (hw : s.mem.wf = true ∧ s.brMem.wf = true) :
    (recoveryTimeout p s).mem.wf = true ∧ (recoveryTimeout p s).brMem.wf = true := by
  unfold recoveryTimeout
  constructor <;> (try dsimp only) <;> (repeat' (split <;> (try dsimp only))) <;> simp (maxDischargeDepth := 40) [hw.1, hw.2]

@[simp] theorem routeStore_wf (i : Nat) (s : State) (hw : s.mem.wf = true ∧ s.brMem.wf = true) :
    (routeStore i s).mem.wf = true ∧ (routeStore i s).brMem.wf = true := by
  unfold routeStore
  constructor <;> simp (maxDischargeDepth := 40) [hw.1, hw.2]

@[simp] theorem routeLoad_wf (i : Nat) (s : State) (hw : s.mem.wf = true ∧ s.brMem.wf = true) :
    (routeLoad i s).mem.wf = true ∧ (routeLoad i s).brMem.wf = true := by
  unfold routeLoad
  constructor <;> simp (maxDischargeDepth := 40) [hw.1, hw.2]

@[simp] theorem hubHeartbeatLoss_wf (s : State) (hw : s.mem.wf = true ∧ s.brMem.wf = true) :
    (hubHeartbeatLoss s).mem.wf = true ∧ (hubHeartbeatLoss s).brMem.wf = true := by
  unfold hubHeartbeatLoss
  constructor <;> (try dsimp only) <;> (repeat' (split <;> (try dsimp only))) <;> simp (maxDischargeDepth := 40) [hw.1, hw.2]

@[simp] theorem watchdogTimeout_wf (byReferee : Bool) (s : State) (hw : s.mem.wf = true ∧ s.brMem.wf = true) :
    (watchdogTimeout byReferee s).mem.wf = true ∧ (watchdogTimeout byReferee s).brMem.wf = true := by
  unfold watchdogTimeout
  constructor <;> (try dsimp only) <;> (repeat' (split <;> (try dsimp only))) <;> simp (maxDischargeDepth := 40) [hw.1, hw.2]

@[simp] theorem takeHubLog_wf (s : State) (hw : s.mem.wf = true ∧ s.brMem.wf = true) :
    (takeHubLog s).mem.wf = true ∧ (takeHubLog s).brMem.wf = true := by
  unfold takeHubLog
  constructor <;> (try dsimp only) <;> (repeat' (split <;> (try dsimp only))) <;> simp (maxDischargeDepth := 40) [hw.1, hw.2]

@[simp] theorem baristaRestart_wf (s : State) (hw : s.mem.wf = true ∧ s.brMem.wf = true) :
    (baristaRestart s).mem.wf = true ∧ (baristaRestart s).brMem.wf = true := by
  unfold baristaRestart
  constructor <;> (try dsimp only) <;> (repeat' (split <;> (try dsimp only))) <;> simp (maxDischargeDepth := 40) [hw.1, hw.2]

@[simp] theorem wipe_wf (s : State) (a n : Nat) (hw : s.mem.wf = true ∧ s.brMem.wf = true) :
    (wipe s a n).mem.wf = true ∧ (wipe s a n).brMem.wf = true := by
  unfold wipe
  constructor <;> simp (maxDischargeDepth := 40) [hw.1, hw.2]

@[simp] theorem wipeScratch_wf (s : State) (hw : s.mem.wf = true ∧ s.brMem.wf = true) :
    (wipeScratch s).mem.wf = true ∧ (wipeScratch s).brMem.wf = true := by
  unfold wipeScratch
  constructor <;> simp (maxDischargeDepth := 40) [hw.1, hw.2]

@[simp] theorem wipeCarafes_wf (s : State) (hw : s.mem.wf = true ∧ s.brMem.wf = true) :
    (wipeCarafes s).mem.wf = true ∧ (wipeCarafes s).brMem.wf = true := by
  unfold wipeCarafes
  constructor <;> simp (maxDischargeDepth := 40) [hw.1, hw.2]

@[simp] theorem setBank_wf (s : State) (b : Nat) (x : Bank) (hw : s.mem.wf = true ∧ s.brMem.wf = true) :
    (setBank s b x).mem.wf = true ∧ (setBank s b x).brMem.wf = true := by
  unfold setBank
  constructor <;> (try dsimp only) <;> (repeat' (split <;> (try dsimp only))) <;> simp (maxDischargeDepth := 40) [hw.1, hw.2]

@[simp] theorem resetState_wf (s : State) (por : Bool) (hw : s.mem.wf = true ∧ s.brMem.wf = true) :
    (resetState s por).mem.wf = true ∧ (resetState s por).brMem.wf = true := by
  have h1 := wipeScratch_wf s hw
  have h2 : (if por then wipeCarafes (wipeScratch s) else wipeScratch s).mem.wf = true := by
    split
    · exact (wipeCarafes_wf _ h1).1
    · exact h1.1
  exact ⟨renumberCells_wf _ _ _ h2, rfl⟩

@[simp] theorem reportBanks_wf (s : State) (hw : s.mem.wf = true ∧ s.brMem.wf = true) :
    (reportBanks s).mem.wf = true ∧ (reportBanks s).brMem.wf = true := by
  unfold reportBanks
  constructor <;> (try dsimp only) <;> (repeat' (split <;> (try dsimp only))) <;> simp (maxDischargeDepth := 40) [hw.1, hw.2]

@[simp] theorem startPhase_wf (s0 s : State) (released : Bool) (hw : s.mem.wf = true ∧ s.brMem.wf = true) :
    (startPhase s0 s released).mem.wf = true ∧ (startPhase s0 s released).brMem.wf = true := by
  unfold startPhase
  constructor <;> (try dsimp only) <;> (repeat' (split <;> (try dsimp only))) <;> simp (maxDischargeDepth := 40) [hw.1, hw.2]

@[simp] theorem resetModule_wf (s : State) (cause : Nat) (released : Bool) (hw : s.mem.wf = true ∧ s.brMem.wf = true) :
    (resetModule s cause released).mem.wf = true ∧ (resetModule s cause released).brMem.wf = true := by
  unfold resetModule
  constructor <;> simp (maxDischargeDepth := 40) [hw.1, hw.2]

@[simp] theorem resetFor_wf (s : State) (p : Nat) (hw : s.mem.wf = true ∧ s.brMem.wf = true) :
    (resetFor s p).mem.wf = true ∧ (resetFor s p).brMem.wf = true := by
  unfold resetFor
  constructor <;> simp (maxDischargeDepth := 40) [hw.1, hw.2]

@[simp] theorem moduleReset_wf (s : State) (hw : s.mem.wf = true ∧ s.brMem.wf = true) :
    (moduleReset s).mem.wf = true ∧ (moduleReset s).brMem.wf = true := by
  unfold moduleReset
  constructor <;> (try dsimp only) <;> (repeat' (split <;> (try dsimp only))) <;> simp (maxDischargeDepth := 40) [hw.1, hw.2]

@[simp] theorem calendarBack_wf (s : State) (hw : s.mem.wf = true ∧ s.brMem.wf = true) :
    (calendarBack s).mem.wf = true ∧ (calendarBack s).brMem.wf = true := by
  unfold calendarBack
  constructor <;> (try dsimp only) <;> (repeat' (split <;> (try dsimp only))) <;> simp (maxDischargeDepth := 40) [hw.1, hw.2]

@[simp] theorem powerOnReset_wf (s : State) (hw : s.mem.wf = true ∧ s.brMem.wf = true) :
    (powerOnReset s).mem.wf = true ∧ (powerOnReset s).brMem.wf = true := by
  unfold powerOnReset
  constructor <;> simp (maxDischargeDepth := 40) [hw.1, hw.2]

@[simp] theorem unpower_wf (s : State) (hw : s.mem.wf = true ∧ s.brMem.wf = true) :
    (unpower s).mem.wf = true ∧ (unpower s).brMem.wf = true := by
  exact ⟨hw.1, rfl⟩

@[simp] theorem powerLoss_wf (s : State) (hw : s.mem.wf = true ∧ s.brMem.wf = true) :
    (powerLoss s).mem.wf = true ∧ (powerLoss s).brMem.wf = true := by
  unfold powerLoss
  constructor <;> (try dsimp only) <;> (repeat' (split <;> (try dsimp only))) <;> simp (maxDischargeDepth := 40) [hw.1, hw.2]

@[simp] theorem perst_wf (p : Nat) (s : State) (hw : s.mem.wf = true ∧ s.brMem.wf = true) :
    (perst p s).mem.wf = true ∧ (perst p s).brMem.wf = true := by
  unfold perst
  constructor <;> (try dsimp only) <;> (repeat' (split <;> (try dsimp only))) <;> simp (maxDischargeDepth := 40) [hw.1, hw.2]

@[simp] theorem reducedFunctionReset_wf (p : Nat) (s : State) (hw : s.mem.wf = true ∧ s.brMem.wf = true) :
    (reducedFunctionReset p s).mem.wf = true ∧ (reducedFunctionReset p s).brMem.wf = true := by
  unfold reducedFunctionReset
  constructor <;> (try dsimp only) <;> (repeat' (split <;> (try dsimp only))) <;> simp (maxDischargeDepth := 40) [hw.1, hw.2]

@[simp] theorem perstRelease_wf (p : Nat) (s : State) (hw : s.mem.wf = true ∧ s.brMem.wf = true) :
    (perstRelease p s).mem.wf = true ∧ (perstRelease p s).brMem.wf = true := by
  unfold perstRelease
  constructor <;> (try dsimp only) <;> (repeat' (split <;> (try dsimp only))) <;> simp (maxDischargeDepth := 40) [hw.1, hw.2]

@[simp] theorem makeReady_wf (s : State) (p : Nat) (hw : s.mem.wf = true ∧ s.brMem.wf = true) :
    (makeReady s p).mem.wf = true ∧ (makeReady s p).brMem.wf = true := by
  unfold makeReady
  constructor <;> simp (maxDischargeDepth := 40) [hw.1, hw.2]

@[simp] theorem functionReady_wf (p : Nat) (s : State) (hw : s.mem.wf = true ∧ s.brMem.wf = true) :
    (functionReady p s).mem.wf = true ∧ (functionReady p s).brMem.wf = true := by
  unfold functionReady
  constructor <;> (try dsimp only) <;> (repeat' (split <;> (try dsimp only))) <;> simp (maxDischargeDepth := 40) [hw.1, hw.2]

@[simp] theorem raiseFloor_wf (s : State) (hw : s.mem.wf = true ∧ s.brMem.wf = true) :
    (raiseFloor s).mem.wf = true ∧ (raiseFloor s).brMem.wf = true := by
  unfold raiseFloor
  constructor <;> (try dsimp only) <;> (repeat' (split <;> (try dsimp only))) <;> simp (maxDischargeDepth := 40) [hw.1, hw.2]

@[simp] theorem endActivation_wf (s : State) (hw : s.mem.wf = true ∧ s.brMem.wf = true) :
    (endActivation s).mem.wf = true ∧ (endActivation s).brMem.wf = true := by
  unfold endActivation
  constructor <;> (try dsimp only) <;> (repeat' (split <;> (try dsimp only))) <;> simp (maxDischargeDepth := 40) [hw.1, hw.2]

@[simp] theorem startupComplete_wf (s : State) (hw : s.mem.wf = true ∧ s.brMem.wf = true) :
    (startupComplete s).mem.wf = true ∧ (startupComplete s).brMem.wf = true := by
  unfold startupComplete
  constructor <;> (try dsimp only) <;> (repeat' (split <;> (try dsimp only))) <;> simp_all (maxDischargeDepth := 40)

@[simp] theorem sendPending_wf (s : State) (p : Nat) (hw : s.mem.wf = true ∧ s.brMem.wf = true) :
    (sendPending s p).mem.wf = true ∧ (sendPending s p).brMem.wf = true := by
  unfold sendPending
  constructor <;> simp (maxDischargeDepth := 40) [hw.1, hw.2]

@[simp] theorem hostReturns_wf (s : State) (p : Nat) (hw : s.mem.wf = true ∧ s.brMem.wf = true) :
    (hostReturns s p).mem.wf = true ∧ (hostReturns s p).brMem.wf = true := by
  unfold hostReturns
  constructor <;> (try dsimp only) <;> (repeat' (split <;> (try dsimp only))) <;> simp (maxDischargeDepth := 40) [hw.1, hw.2]

@[simp] theorem pcieLinkChange_wf (p link speed width : Nat) (flit : Bool) (s : State) (hw : s.mem.wf = true ∧ s.brMem.wf = true) :
    (pcieLinkChange p link speed width flit s).mem.wf = true ∧ (pcieLinkChange p link speed width flit s).brMem.wf = true := by
  unfold pcieLinkChange
  constructor <;> (try dsimp only) <;> (repeat' (split <;> (try dsimp only))) <;> simp (maxDischargeDepth := 40) [hw.1, hw.2]

@[simp] theorem loseOwner_wf (s : State) (hw : s.mem.wf = true ∧ s.brMem.wf = true) :
    (loseOwner s).mem.wf = true ∧ (loseOwner s).brMem.wf = true := by
  unfold loseOwner
  constructor <;> (try dsimp only) <;> (repeat' (split <;> (try dsimp only))) <;> simp_all (maxDischargeDepth := 40)

@[simp] theorem completionTimeout_wf (p : Nat) (s : State) (hw : s.mem.wf = true ∧ s.brMem.wf = true) :
    (completionTimeout p s).mem.wf = true ∧ (completionTimeout p s).brMem.wf = true := by
  unfold completionTimeout
  constructor <;> (try dsimp only) <;> (repeat' (split <;> (try dsimp only))) <;> simp (maxDischargeDepth := 40) [hw.1, hw.2]

@[simp] theorem owningPortLost_wf (s : State) (hw : s.mem.wf = true ∧ s.brMem.wf = true) :
    (owningPortLost s).mem.wf = true ∧ (owningPortLost s).brMem.wf = true := by
  unfold owningPortLost
  constructor <;> (try dsimp only) <;> (repeat' (split <;> (try dsimp only))) <;> simp (maxDischargeDepth := 40) [hw.1, hw.2]

@[simp] theorem takeover_wf (p : Nat) (s : State) (hw : s.mem.wf = true ∧ s.brMem.wf = true) :
    (takeover p s).mem.wf = true ∧ (takeover p s).brMem.wf = true := by
  unfold takeover
  constructor <;> (try dsimp only) <;> (repeat' (split <;> (try dsimp only))) <;> simp (maxDischargeDepth := 40) [hw.1, hw.2]

@[simp] theorem handoverRequest_wf (p : Nat) (s : State) (hw : s.mem.wf = true ∧ s.brMem.wf = true) :
    (handoverRequest p s).mem.wf = true ∧ (handoverRequest p s).brMem.wf = true := by
  unfold handoverRequest
  constructor <;> (try dsimp only) <;> (repeat' (split <;> (try dsimp only))) <;> simp (maxDischargeDepth := 40) [hw.1, hw.2]

theorem apPages_wf {s t : State} {ps : List Nat} (h : apPages s ps = .here t) (hw : s.mem.wf = true ∧ s.brMem.wf = true) :
    t.mem.wf = true ∧ t.brMem.wf = true := by
  induction ps generalizing s with
  | nil => cases h; exact hw
  | cons p ps ih =>
    unfold apPages at h
    split at h
    · cases h
    · cases h
    · cases h
    · rename_i h1
      exact ih h (bringPage_wf h1 hw)

@[simp] theorem hostReply_wf (s : State) (r : HostReply) (hw : s.mem.wf = true ∧ s.brMem.wf = true) :
    (hostReply s r).mem.wf = true ∧ (hostReply s r).brMem.wf = true := by
  unfold hostReply
  constructor <;> simp (maxDischargeDepth := 40) [hw.1, hw.2]

@[simp] theorem badAccess_wf (s : State) (hw : s.mem.wf = true ∧ s.brMem.wf = true) :
    (badAccess s).mem.wf = true ∧ (badAccess s).brMem.wf = true := by
  unfold badAccess
  constructor <;> simp (maxDischargeDepth := 40) [hw.1, hw.2]

@[simp] theorem apertureRead_wf (x n : Nat) (s : State) (hw : s.mem.wf = true ∧ s.brMem.wf = true) :
    (apertureRead x n s).mem.wf = true ∧ (apertureRead x n s).brMem.wf = true := by
  unfold apertureRead
  split
  · exact hw
  split
  · simp (maxDischargeDepth := 40) [hw.1, hw.2]
  dsimp only
  split
  · exact hw
  · simp (maxDischargeDepth := 40) [hw.1, hw.2]
  · simp (maxDischargeDepth := 40) [hw.1, hw.2]
  · rename_i h; exact hostReply_wf _ _ (apPages_wf h hw)

@[simp] theorem aperturePiece_wf (a : Nat) (bs : List Byte) (s : State) (hw : s.mem.wf = true ∧ s.brMem.wf = true) :
    (aperturePiece a bs s).mem.wf = true ∧ (aperturePiece a bs s).brMem.wf = true := by
  unfold aperturePiece
  split
  · exact hw
  · simp (maxDischargeDepth := 40) [hw.1, hw.2]
  · rename_i h; exact storeCells_wf _ _ (bringPage_wf h hw)

@[simp] theorem aperturePieces_wf (k a : Nat) (bs : List Byte) (s : State) (hw : s.mem.wf = true ∧ s.brMem.wf = true) :
    (aperturePieces k a bs s).mem.wf = true ∧ (aperturePieces k a bs s).brMem.wf = true := by
  induction k generalizing a bs s with
  | zero => exact hw
  | succ k ih =>
    unfold aperturePieces
    split
    · exact hw
    · exact ih _ _ _ (aperturePiece_wf _ _ _ hw)

@[simp] theorem apertureWrite_wf (x : Nat) (bs : List Byte) (s : State) (hw : s.mem.wf = true ∧ s.brMem.wf = true) :
    (apertureWrite x bs s).mem.wf = true ∧ (apertureWrite x bs s).brMem.wf = true := by
  unfold apertureWrite
  constructor <;> simp (maxDischargeDepth := 40) [hw.1, hw.2]

@[simp] theorem apertureAtomic_wf (x n : Nat) (op : AtomicOp) (operand compare : Nat) (s : State) (hw : s.mem.wf = true ∧ s.brMem.wf = true) :
    (apertureAtomic x n op operand compare s).mem.wf = true ∧ (apertureAtomic x n op operand compare s).brMem.wf = true := by
  unfold apertureAtomic
  split
  · exact hw
  split
  · simp (maxDischargeDepth := 40) [hw.1, hw.2]
  dsimp only
  split
  · exact hw
  · simp (maxDischargeDepth := 40) [hw.1, hw.2]
  · simp (maxDischargeDepth := 40) [hw.1, hw.2]
  · rename_i h; exact hostReply_wf _ _ (storeCells_wf _ _ (bringPage_wf h hw))

@[simp] theorem msixUnmask_wf (v : Nat) (s : State) (hw : s.mem.wf = true ∧ s.brMem.wf = true) :
    (msixUnmask v s).mem.wf = true ∧ (msixUnmask v s).brMem.wf = true := by
  unfold msixUnmask
  constructor <;> (try dsimp only) <;> (repeat' (split <;> (try dsimp only))) <;> simp (maxDischargeDepth := 40) [hw.1, hw.2]

@[simp] theorem ideKm_wf (p stream : Nat) (op : IdeKmOp) (s : State) (hw : s.mem.wf = true ∧ s.brMem.wf = true) :
    (ideKm p stream op s).mem.wf = true ∧ (ideKm p stream op s).brMem.wf = true := by
  unfold ideKm
  constructor <;> (try dsimp only) <;> (repeat' (split <;> (try dsimp only))) <;> simp (maxDischargeDepth := 40) [hw.1, hw.2]

@[simp] theorem ideIntegrityFail_wf (p stream : Nat) (s : State) (hw : s.mem.wf = true ∧ s.brMem.wf = true) :
    (ideIntegrityFail p stream s).mem.wf = true ∧ (ideIntegrityFail p stream s).brMem.wf = true := by
  unfold ideIntegrityFail
  constructor <;> (try dsimp only) <;> (repeat' (split <;> (try dsimp only))) <;> simp (maxDischargeDepth := 40) [hw.1, hw.2]

@[simp] theorem traceEnable_wf (s : State) (hw : s.mem.wf = true ∧ s.brMem.wf = true) :
    (traceEnable s).mem.wf = true ∧ (traceEnable s).brMem.wf = true := by
  unfold traceEnable
  constructor <;> simp (maxDischargeDepth := 40) [hw.1, hw.2]

@[simp] theorem localTimeLoRead_wf (calendar : Bool) (s : State) (hw : s.mem.wf = true ∧ s.brMem.wf = true) :
    (localTimeLoRead calendar s).mem.wf = true ∧ (localTimeLoRead calendar s).brMem.wf = true := by
  unfold localTimeLoRead
  constructor <;> (try dsimp only) <;> (repeat' (split <;> (try dsimp only))) <;> simp (maxDischargeDepth := 40) [hw.1, hw.2]

@[simp] theorem applyLevels_wf (s : State) (r : Nat) (hw : s.mem.wf = true ∧ s.brMem.wf = true) :
    (applyLevels s r).mem.wf = true ∧ (applyLevels s r).brMem.wf = true := by
  unfold applyLevels
  constructor <;> simp (maxDischargeDepth := 40) [hw.1, hw.2]

@[simp] theorem allRegions_wf (s : State) (f : Nat → Region → Region) (hw : s.mem.wf = true ∧ s.brMem.wf = true) :
    (allRegions s f).mem.wf = true ∧ (allRegions s f).brMem.wf = true := by
  unfold allRegions
  constructor <;> (try dsimp only) <;> (repeat' (split <;> (try dsimp only))) <;> simp_all (maxDischargeDepth := 40)

@[simp] theorem capLower_wf (s : State) (hw : s.mem.wf = true ∧ s.brMem.wf = true) :
    (capLower s).mem.wf = true ∧ (capLower s).brMem.wf = true := by
  unfold capLower
  constructor <;> simp (maxDischargeDepth := 40) [hw.1, hw.2]

@[simp] theorem capDuty_wf (s : State) (f : Nat → Nat) (hw : s.mem.wf = true ∧ s.brMem.wf = true) :
    (capDuty s f).mem.wf = true ∧ (capDuty s f).brMem.wf = true := by
  unfold capDuty
  constructor <;> (try dsimp only) <;> (repeat' (split <;> (try dsimp only))) <;> simp_all (maxDischargeDepth := 40) [apply_ite]

@[simp] theorem noteBudget_wf (s : State) (hw : s.mem.wf = true ∧ s.brMem.wf = true) :
    (noteBudget s).mem.wf = true ∧ (noteBudget s).brMem.wf = true := by
  unfold noteBudget
  constructor <;> (try dsimp only) <;> (repeat' (split <;> (try dsimp only))) <;> simp (maxDischargeDepth := 40) [hw.1, hw.2]

@[simp] theorem capAct_wf (s : State) (w : Nat) (hw : s.mem.wf = true ∧ s.brMem.wf = true) :
    (capAct s w).mem.wf = true ∧ (capAct s w).brMem.wf = true := by
  unfold capAct
  constructor <;> (try dsimp only) <;> (repeat' (split <;> (try dsimp only))) <;> simp (maxDischargeDepth := 40) [hw.1, hw.2]

@[simp] theorem powerCapPeriod_wf (w : Nat) (s : State) (hw : s.mem.wf = true ∧ s.brMem.wf = true) :
    (powerCapPeriod w s).mem.wf = true ∧ (powerCapPeriod w s).brMem.wf = true := by
  unfold powerCapPeriod
  constructor <;> (try dsimp only) <;> (repeat' (split <;> (try dsimp only))) <;> simp (maxDischargeDepth := 40) [hw.1, hw.2]

@[simp] theorem boostStep_wf (r : Nat) (s : State) (hw : s.mem.wf = true ∧ s.brMem.wf = true) :
    (boostStep r s).mem.wf = true ∧ (boostStep r s).brMem.wf = true := by
  unfold boostStep
  constructor <;> (try dsimp only) <;> (repeat' (split <;> (try dsimp only))) <;> simp (maxDischargeDepth := 40) [hw.1, hw.2]

@[simp] theorem voltageLoop_wf (r : Nat) (low : Bool) (s : State) (hw : s.mem.wf = true ∧ s.brMem.wf = true) :
    (voltageLoop r low s).mem.wf = true ∧ (voltageLoop r low s).brMem.wf = true := by
  unfold voltageLoop
  constructor <;> (try dsimp only) <;> (repeat' (split <;> (try dsimp only))) <;> simp (maxDischargeDepth := 40) [hw.1, hw.2]

@[simp] theorem droopStretch_wf (r : Nat) (s : State) (hw : s.mem.wf = true ∧ s.brMem.wf = true) :
    (droopStretch r s).mem.wf = true ∧ (droopStretch r s).brMem.wf = true := by
  unfold droopStretch
  constructor <;> (try dsimp only) <;> (repeat' (split <;> (try dsimp only))) <;> simp (maxDischargeDepth := 40) [hw.1, hw.2]

@[simp] theorem regionGate_wf (r : Nat) (s : State) (hw : s.mem.wf = true ∧ s.brMem.wf = true) :
    (regionGate r s).mem.wf = true ∧ (regionGate r s).brMem.wf = true := by
  unfold regionGate
  constructor <;> (try dsimp only) <;> (repeat' (split <;> (try dsimp only))) <;> simp (maxDischargeDepth := 40) [hw.1, hw.2]

@[simp] theorem dieRegions_wf (s : State) (d : Nat) (f : Nat → Region → Region) (hw : s.mem.wf = true ∧ s.brMem.wf = true) :
    (dieRegions s d f).mem.wf = true ∧ (dieRegions s d f).brMem.wf = true := by
  unfold dieRegions
  constructor <;> (try dsimp only) <;> (repeat' (split <;> (try dsimp only))) <;> simp_all (maxDischargeDepth := 40)

@[simp] theorem dieThrottleStep_wf (d t : Nat) (s : State) (hw : s.mem.wf = true ∧ s.brMem.wf = true) :
    (dieThrottleStep d t s).mem.wf = true ∧ (dieThrottleStep d t s).brMem.wf = true := by
  unfold dieThrottleStep
  constructor <;> (try dsimp only) <;> (repeat' (split <;> (try dsimp only))) <;> simp (maxDischargeDepth := 40) [hw.1, hw.2]

@[simp] theorem dieThrottleRelease_wf (d t : Nat) (s : State) (hw : s.mem.wf = true ∧ s.brMem.wf = true) :
    (dieThrottleRelease d t s).mem.wf = true ∧ (dieThrottleRelease d t s).brMem.wf = true := by
  unfold dieThrottleRelease
  constructor <;> (try dsimp only) <;> (repeat' (split <;> (try dsimp only))) <;> simp (maxDischargeDepth := 40) [hw.1, hw.2]

@[simp] theorem thermalEmergencyEnter_wf (sensor t : Nat) (s : State) (hw : s.mem.wf = true ∧ s.brMem.wf = true) :
    (thermalEmergencyEnter sensor t s).mem.wf = true ∧ (thermalEmergencyEnter sensor t s).brMem.wf = true := by
  unfold thermalEmergencyEnter
  constructor <;> (try dsimp only) <;> (repeat' (split <;> (try dsimp only))) <;> simp (maxDischargeDepth := 40) [hw.1, hw.2]

@[simp] theorem thermalEmergencyExit_wf (s : State) (hw : s.mem.wf = true ∧ s.brMem.wf = true) :
    (thermalEmergencyExit s).mem.wf = true ∧ (thermalEmergencyExit s).brMem.wf = true := by
  unfold thermalEmergencyExit
  constructor <;> (try dsimp only) <;> (repeat' (split <;> (try dsimp only))) <;> simp (maxDischargeDepth := 40) [hw.1, hw.2]

@[simp] theorem thermalTrip_wf (sensor t : Nat) (s : State) (hw : s.mem.wf = true ∧ s.brMem.wf = true) :
    (thermalTrip sensor t s).mem.wf = true ∧ (thermalTrip sensor t s).brMem.wf = true := by
  unfold thermalTrip
  constructor <;> (try dsimp only) <;> (repeat' (split <;> (try dsimp only))) <;> simp (maxDischargeDepth := 40) [hw.1, hw.2]

@[simp] theorem coolantHot_wf (t : Nat) (s : State) (hw : s.mem.wf = true ∧ s.brMem.wf = true) :
    (coolantHot t s).mem.wf = true ∧ (coolantHot t s).brMem.wf = true := by
  unfold coolantHot
  constructor <;> (try dsimp only) <;> (repeat' (split <;> (try dsimp only))) <;> simp (maxDischargeDepth := 40) [hw.1, hw.2]

@[simp] theorem recalibrate_wf (s : State) (sensor : Nat) (hw : s.mem.wf = true ∧ s.brMem.wf = true) :
    (recalibrate s sensor).mem.wf = true ∧ (recalibrate s sensor).brMem.wf = true := by
  unfold recalibrate
  constructor <;> simp (maxDischargeDepth := 40) [hw.1, hw.2]

@[simp] theorem sensorRecalibration_wf (d sensor : Nat) (s : State) (hw : s.mem.wf = true ∧ s.brMem.wf = true) :
    (sensorRecalibration d sensor s).mem.wf = true ∧ (sensorRecalibration d sensor s).brMem.wf = true := by
  unfold sensorRecalibration
  constructor <;> (try dsimp only) <;> (repeat' (split <;> (try dsimp only))) <;> simp (maxDischargeDepth := 40) [hw.1, hw.2]

@[simp] theorem benchResult_wf (s : State) (code : Nat) (hw : s.mem.wf = true ∧ s.brMem.wf = true) :
    (benchResult s code).mem.wf = true ∧ (benchResult s code).brMem.wf = true := by
  unfold benchResult
  constructor <;> simp (maxDischargeDepth := 40) [hw.1, hw.2]

@[simp] theorem benchWrite_wf (o : Nat) (bs : List Byte) (s : State) (hw : s.mem.wf = true ∧ s.brMem.wf = true) :
    (benchWrite o bs s).mem.wf = true ∧ (benchWrite o bs s).brMem.wf = true := by
  unfold benchWrite
  constructor <;> (try dsimp only) <;> (repeat' (split <;> (try dsimp only))) <;> simp (maxDischargeDepth := 40) [hw.1, hw.2]

@[simp] theorem benchCheck_wf (s : State) (hw : s.mem.wf = true ∧ s.brMem.wf = true) :
    (benchCheck s).mem.wf = true ∧ (benchCheck s).brMem.wf = true := by
  unfold benchCheck
  constructor <;> (try dsimp only) <;> (repeat' (split <;> (try dsimp only))) <;> simp (maxDischargeDepth := 40) [hw.1, hw.2]

@[simp] theorem benchLoad_wf (image : Option (List Byte)) (s : State) (hw : s.mem.wf = true ∧ s.brMem.wf = true) :
    (benchLoad image s).mem.wf = true ∧ (benchLoad image s).brMem.wf = true := by
  unfold benchLoad
  constructor <;> (try dsimp only) <;> (repeat' (split <;> (try dsimp only))) <;> simp (maxDischargeDepth := 40) [hw.1, hw.2]

@[simp] theorem refuseSwap_wf (s : State) (r : SwapReq) (code : Nat) (hw : s.mem.wf = true ∧ s.brMem.wf = true) :
    (refuseSwap s r code).mem.wf = true ∧ (refuseSwap s r code).brMem.wf = true := by
  unfold refuseSwap
  constructor <;> (try dsimp only) <;> (repeat' (split <;> (try dsimp only))) <;> simp (maxDischargeDepth := 40) [hw.1, hw.2]

@[simp] theorem swapAdmitted_wf (s : State) (hw : s.mem.wf = true ∧ s.brMem.wf = true) :
    (swapAdmitted s).mem.wf = true ∧ (swapAdmitted s).brMem.wf = true := by
  unfold swapAdmitted
  constructor <;> (try dsimp only) <;> (repeat' (split <;> (try dsimp only))) <;> simp (maxDischargeDepth := 40) [hw.1, hw.2]

@[simp] theorem requestSwap_wf (s : State) (i : Option (Nat × Nat)) (expect : Nat) (hw : s.mem.wf = true ∧ s.brMem.wf = true) :
    (requestSwap s i expect).mem.wf = true ∧ (requestSwap s i expect).brMem.wf = true := by
  unfold requestSwap
  constructor <;> (try dsimp only) <;> (repeat' (split <;> (try dsimp only))) <;> simp (maxDischargeDepth := 40) [hw.1, hw.2]

@[simp] theorem refuseSecond_wf (s : State) (hw : s.mem.wf = true ∧ s.brMem.wf = true) :
    (refuseSecond s).mem.wf = true ∧ (refuseSecond s).brMem.wf = true := by
  unfold refuseSecond
  constructor <;> simp (maxDischargeDepth := 40) [hw.1, hw.2]

@[simp] theorem swapAct_wf (s : State) (c : Cmd) (hw : s.mem.wf = true ∧ s.brMem.wf = true) :
    (swapAct s c).mem.wf = true ∧ (swapAct s c).brMem.wf = true := by
  unfold swapAct
  constructor <;> (try dsimp only) <;> (repeat' (split <;> (try dsimp only))) <;> simp (maxDischargeDepth := 40) [hw.1, hw.2]

@[simp] theorem swapWrite_wf (s : State) (hw : s.mem.wf = true ∧ s.brMem.wf = true) :
    (swapWrite s).mem.wf = true ∧ (swapWrite s).brMem.wf = true := by
  unfold swapWrite
  constructor <;> (try dsimp only) <;> (repeat' (split <;> (try dsimp only))) <;> simp (maxDischargeDepth := 40) [hw.1, hw.2]

@[simp] theorem drainTimeout_wf (s : State) (hw : s.mem.wf = true ∧ s.brMem.wf = true) :
    (drainTimeout s).mem.wf = true ∧ (drainTimeout s).brMem.wf = true := by
  unfold drainTimeout
  constructor <;> (try dsimp only) <;> (repeat' (split <;> (try dsimp only))) <;> simp (maxDischargeDepth := 40) [hw.1, hw.2]

@[simp] theorem movePages_wf (s : State) (m : Memory) (plan : List (Nat × Nat) × List (Nat × Nat)) (hw : s.mem.wf = true ∧ s.brMem.wf = true) :
    (movePages s m plan).mem.wf = true ∧ (movePages s m plan).brMem.wf = true := by
  unfold movePages
  constructor <;> (try dsimp only) <;> (repeat' (split <;> (try dsimp only))) <;> simp_all (maxDischargeDepth := 40)

@[simp] theorem boundaryFields_wf (old s : State) (hw : s.mem.wf = true ∧ s.brMem.wf = true) :
    (boundaryFields old s).mem.wf = true ∧ (boundaryFields old s).brMem.wf = true := by
  unfold boundaryFields
  constructor <;> simp (maxDischargeDepth := 40) [hw.1, hw.2]

@[simp] theorem exchange_wf (s : State) (hw : s.mem.wf = true ∧ s.brMem.wf = true) :
    (exchange s).mem.wf = true ∧ (exchange s).brMem.wf = true := by
  unfold exchange
  constructor <;> simp (maxDischargeDepth := 40) [hw.1, hw.2]

@[simp] theorem changeOwner_wf (s : State) (p : Nat) (hw : s.mem.wf = true ∧ s.brMem.wf = true) :
    (changeOwner s p).mem.wf = true ∧ (changeOwner s p).brMem.wf = true := by
  unfold changeOwner
  constructor <;> simp (maxDischargeDepth := 40) [hw.1, hw.2]

@[simp] theorem relearn_wf (s : State) (hw : s.mem.wf = true ∧ s.brMem.wf = true) :
    (relearn s).mem.wf = true ∧ (relearn s).brMem.wf = true := by
  unfold relearn
  constructor <;> (try dsimp only) <;> (repeat' (split <;> (try dsimp only))) <;> simp_all (maxDischargeDepth := 40)

theorem recordFirst_wf {s t : State} {r : SwapReq} (h : recordFirst s r = some t) (hw : s.mem.wf = true ∧ s.brMem.wf = true) :
    t.mem.wf = true ∧ t.brMem.wf = true := by
  unfold recordFirst at h
  split at h
  · cases h; exact hw
  split at h
  · cases h
  split at h
  · cases h; simp (maxDischargeDepth := 40) [hw.1, hw.2]
  · cases h; exact hw

@[simp] theorem endSwap_wf (s : State) (r : SwapReq) (hw : s.mem.wf = true ∧ s.brMem.wf = true) :
    (endSwap s r).mem.wf = true ∧ (endSwap s r).brMem.wf = true := by
  unfold endSwap
  constructor <;> (try dsimp only) <;> (repeat' (split <;> (try dsimp only))) <;> simp (maxDischargeDepth := 40) [hw.1, hw.2]

@[simp] theorem swapNow_wf (s : State) (r : SwapReq) (plan : List (Nat × Nat) × List (Nat × Nat)) (hw : s.mem.wf = true ∧ s.brMem.wf = true) :
    (swapNow s r plan).mem.wf = true ∧ (swapNow s r plan).brMem.wf = true := by
  unfold swapNow
  dsimp only
  split
  · exact hw
  · rename_i s1 h
    have h1 : s1.mem.wf = true ∧ s1.brMem.wf = true := by
      split at h
      · cases h; exact hw
      · exact recordFirst_wf h hw
    refine endSwap_wf _ _ (csetEvent_wf _ _ ?_)
    (repeat' split) <;> simp (maxDischargeDepth := 40) [h1.1, h1.2]

@[simp] theorem swapPoint_wf (s : State) (hw : s.mem.wf = true ∧ s.brMem.wf = true) :
    (swapPoint s).mem.wf = true ∧ (swapPoint s).brMem.wf = true := by
  unfold swapPoint
  constructor <;> (try dsimp only) <;> (repeat' (split <;> (try dsimp only))) <;> simp (maxDischargeDepth := 40) [hw.1, hw.2]

@[simp] theorem mgmtSend_wf (s : State) (m : MgmtOut) (hw : s.mem.wf = true ∧ s.brMem.wf = true) :
    (mgmtSend s m).mem.wf = true ∧ (mgmtSend s m).brMem.wf = true := by
  unfold mgmtSend
  constructor <;> simp (maxDischargeDepth := 40) [hw.1, hw.2]

@[simp] theorem onEp_wf (ep : Nat) (f : State → State) (s : State) (hf : ∀ x0, x0.mem.wf = true ∧ x0.brMem.wf = true → (f x0).mem.wf = true ∧ (f x0).brMem.wf = true) (hw : s.mem.wf = true ∧ s.brMem.wf = true) :
    (onEp ep f s).mem.wf = true ∧ (onEp ep f s).brMem.wf = true := by
  unfold onEp
  constructor <;> (try dsimp only) <;> (repeat' (split <;> (try dsimp only))) <;> simp (maxDischargeDepth := 40) [hw.1, hw.2, hf]

@[simp] theorem flushLog_wf (s : State) (hw : s.mem.wf = true ∧ s.brMem.wf = true) :
    (flushLog s).mem.wf = true ∧ (flushLog s).brMem.wf = true := by
  unfold flushLog
  constructor <;> simp (maxDischargeDepth := 40) [hw.1, hw.2]

@[simp] theorem logFlush_wf (s : State) (hw : s.mem.wf = true ∧ s.brMem.wf = true) :
    (logFlush s).mem.wf = true ∧ (logFlush s).brMem.wf = true := by
  unfold logFlush
  constructor <;> (try dsimp only) <;> (repeat' (split <;> (try dsimp only))) <;> simp (maxDischargeDepth := 40) [hw.1, hw.2]

@[simp] theorem logSelect_wf (lo : Nat) (s : State) (hw : s.mem.wf = true ∧ s.brMem.wf = true) :
    (logSelect lo s).mem.wf = true ∧ (logSelect lo s).brMem.wf = true := by
  unfold logSelect
  constructor <;> simp (maxDischargeDepth := 40) [hw.1, hw.2]

@[simp] theorem logRead_wf (ep first count : Nat) (s : State) (hw : s.mem.wf = true ∧ s.brMem.wf = true) :
    (logRead ep first count s).mem.wf = true ∧ (logRead ep first count s).brMem.wf = true := by
  unfold logRead
  constructor <;> simp (maxDischargeDepth := 40) [hw.1, hw.2]

@[simp] theorem wake_wf (ep : Nat) (s : State) (hw : s.mem.wf = true ∧ s.brMem.wf = true) :
    (wake ep s).mem.wf = true ∧ (wake ep s).brMem.wf = true := by
  unfold wake
  constructor <;> (try dsimp only) <;> (repeat' (split <;> (try dsimp only))) <;> simp (maxDischargeDepth := 40) [hw.1, hw.2]

@[simp] theorem calendarSet_wf (s : State) (hw : s.mem.wf = true ∧ s.brMem.wf = true) :
    (calendarSet s).mem.wf = true ∧ (calendarSet s).brMem.wf = true := by
  unfold calendarSet
  constructor <;> simp (maxDischargeDepth := 40) [hw.1, hw.2]

@[simp] theorem calVbatChange_wf (inRange : Bool) (s : State) (hw : s.mem.wf = true ∧ s.brMem.wf = true) :
    (calVbatChange inRange s).mem.wf = true ∧ (calVbatChange inRange s).brMem.wf = true := by
  unfold calVbatChange
  constructor <;> (try dsimp only) <;> (repeat' (split <;> (try dsimp only))) <;> simp (maxDischargeDepth := 40) [hw.1, hw.2]

@[simp] theorem setEndpointId_wf (ep eid : Nat) (s : State) (hw : s.mem.wf = true ∧ s.brMem.wf = true) :
    (setEndpointId ep eid s).mem.wf = true ∧ (setEndpointId ep eid s).brMem.wf = true := by
  unfold setEndpointId
  constructor <;> simp (maxDischargeDepth := 40) [hw.1, hw.2]

@[simp] theorem getEndpointId_wf (ep : Nat) (s : State) (hw : s.mem.wf = true ∧ s.brMem.wf = true) :
    (getEndpointId ep s).mem.wf = true ∧ (getEndpointId ep s).brMem.wf = true := by
  unfold getEndpointId
  constructor <;> simp (maxDischargeDepth := 40) [hw.1, hw.2]

@[simp] theorem getEndpointUuid_wf (ep : Nat) (s : State) (hw : s.mem.wf = true ∧ s.brMem.wf = true) :
    (getEndpointUuid ep s).mem.wf = true ∧ (getEndpointUuid ep s).brMem.wf = true := by
  unfold getEndpointUuid
  constructor <;> simp (maxDischargeDepth := 40) [hw.1, hw.2]

@[simp] theorem getMctpVersionSupport_wf (ep t : Nat) (s : State) (hw : s.mem.wf = true ∧ s.brMem.wf = true) :
    (getMctpVersionSupport ep t s).mem.wf = true ∧ (getMctpVersionSupport ep t s).brMem.wf = true := by
  unfold getMctpVersionSupport
  constructor <;> simp (maxDischargeDepth := 40) [hw.1, hw.2]

@[simp] theorem getMessageTypeSupport_wf (ep : Nat) (s : State) (hw : s.mem.wf = true ∧ s.brMem.wf = true) :
    (getMessageTypeSupport ep s).mem.wf = true ∧ (getMessageTypeSupport ep s).brMem.wf = true := by
  unfold getMessageTypeSupport
  constructor <;> simp (maxDischargeDepth := 40) [hw.1, hw.2]

@[simp] theorem getVendorDefinedMessageSupport_wf (ep selector : Nat) (s : State) (hw : s.mem.wf = true ∧ s.brMem.wf = true) :
    (getVendorDefinedMessageSupport ep selector s).mem.wf = true ∧ (getVendorDefinedMessageSupport ep selector s).brMem.wf = true := by
  unfold getVendorDefinedMessageSupport
  constructor <;> simp (maxDischargeDepth := 40) [hw.1, hw.2]

@[simp] theorem getTid_wf (ep : Nat) (s : State) (hw : s.mem.wf = true ∧ s.brMem.wf = true) :
    (getTid ep s).mem.wf = true ∧ (getTid ep s).brMem.wf = true := by
  unfold getTid
  constructor <;> simp (maxDischargeDepth := 40) [hw.1, hw.2]

@[simp] theorem setTid_wf (ep tid : Nat) (s : State) (hw : s.mem.wf = true ∧ s.brMem.wf = true) :
    (setTid ep tid s).mem.wf = true ∧ (setTid ep tid s).brMem.wf = true := by
  unfold setTid
  constructor <;> simp (maxDischargeDepth := 40) [hw.1, hw.2]

@[simp] theorem getPldmVersion_wf (ep t : Nat) (s : State) (hw : s.mem.wf = true ∧ s.brMem.wf = true) :
    (getPldmVersion ep t s).mem.wf = true ∧ (getPldmVersion ep t s).brMem.wf = true := by
  unfold getPldmVersion
  constructor <;> simp (maxDischargeDepth := 40) [hw.1, hw.2]

@[simp] theorem getPldmTypes_wf (ep : Nat) (s : State) (hw : s.mem.wf = true ∧ s.brMem.wf = true) :
    (getPldmTypes ep s).mem.wf = true ∧ (getPldmTypes ep s).brMem.wf = true := by
  unfold getPldmTypes
  constructor <;> simp (maxDischargeDepth := 40) [hw.1, hw.2]

@[simp] theorem getPldmCommands_wf (ep t : Nat) (s : State) (hw : s.mem.wf = true ∧ s.brMem.wf = true) :
    (getPldmCommands ep t s).mem.wf = true ∧ (getPldmCommands ep t s).brMem.wf = true := by
  unfold getPldmCommands
  constructor <;> simp (maxDischargeDepth := 40) [hw.1, hw.2]

@[simp] theorem getPdrRepositoryInfo_wf (ep : Nat) (s : State) (hw : s.mem.wf = true ∧ s.brMem.wf = true) :
    (getPdrRepositoryInfo ep s).mem.wf = true ∧ (getPdrRepositoryInfo ep s).brMem.wf = true := by
  unfold getPdrRepositoryInfo
  constructor <;> simp (maxDischargeDepth := 40) [hw.1, hw.2]

@[simp] theorem getPdr_wf (ep record : Nat) (s : State) (hw : s.mem.wf = true ∧ s.brMem.wf = true) :
    (getPdr ep record s).mem.wf = true ∧ (getPdr ep record s).brMem.wf = true := by
  unfold getPdr
  constructor <;> simp (maxDischargeDepth := 40) [hw.1, hw.2]

@[simp] theorem getSensorReading_wf (ep sensor : Nat) (s : State) (hw : s.mem.wf = true ∧ s.brMem.wf = true) :
    (getSensorReading ep sensor s).mem.wf = true ∧ (getSensorReading ep sensor s).brMem.wf = true := by
  unfold getSensorReading
  constructor <;> simp (maxDischargeDepth := 40) [hw.1, hw.2]

@[simp] theorem setNumericSensorEnable_wf (ep sensor : Nat) (on : Bool) (s : State) (hw : s.mem.wf = true ∧ s.brMem.wf = true) :
    (setNumericSensorEnable ep sensor on s).mem.wf = true ∧ (setNumericSensorEnable ep sensor on s).brMem.wf = true := by
  unfold setNumericSensorEnable
  constructor <;> (try dsimp only) <;> (repeat' (split <;> (try dsimp only))) <;> simp (maxDischargeDepth := 40) [hw.1, hw.2]

@[simp] theorem setEventReceiver_wf (ep receiver : Nat) (s : State) (hw : s.mem.wf = true ∧ s.brMem.wf = true) :
    (setEventReceiver ep receiver s).mem.wf = true ∧ (setEventReceiver ep receiver s).brMem.wf = true := by
  unfold setEventReceiver
  constructor <;> simp (maxDischargeDepth := 40) [hw.1, hw.2]

@[simp] theorem pollForPlatformEventMessage_wf (ep : Nat) (s : State) (hw : s.mem.wf = true ∧ s.brMem.wf = true) :
    (pollForPlatformEventMessage ep s).mem.wf = true ∧ (pollForPlatformEventMessage ep s).brMem.wf = true := by
  unfold pollForPlatformEventMessage
  constructor <;> simp (maxDischargeDepth := 40) [hw.1, hw.2]

@[simp] theorem putUpdate_wf (s : State) (u : Update) (hw : s.mem.wf = true ∧ s.brMem.wf = true) :
    (putUpdate s u).mem.wf = true ∧ (putUpdate s u).brMem.wf = true := by
  unfold putUpdate
  constructor <;> simp (maxDischargeDepth := 40) [hw.1, hw.2]

@[simp] theorem inUpdate_wf (ep : Nat) (f : Update → State → State) (s : State) (hf : ∀ x0 x1, x1.mem.wf = true ∧ x1.brMem.wf = true → (f x0 x1).mem.wf = true ∧ (f x0 x1).brMem.wf = true) (hw : s.mem.wf = true ∧ s.brMem.wf = true) :
    (inUpdate ep f s).mem.wf = true ∧ (inUpdate ep f s).brMem.wf = true := by
  unfold inUpdate
  constructor <;> (try dsimp only) <;> (repeat' (split <;> (try dsimp only))) <;> simp (maxDischargeDepth := 40) [hw.1, hw.2, hf]

@[simp] theorem queryDeviceIdentifiers_wf (ep : Nat) (s : State) (hw : s.mem.wf = true ∧ s.brMem.wf = true) :
    (queryDeviceIdentifiers ep s).mem.wf = true ∧ (queryDeviceIdentifiers ep s).brMem.wf = true := by
  unfold queryDeviceIdentifiers
  constructor <;> simp (maxDischargeDepth := 40) [hw.1, hw.2]

@[simp] theorem getFirmwareParameters_wf (ep : Nat) (s : State) (hw : s.mem.wf = true ∧ s.brMem.wf = true) :
    (getFirmwareParameters ep s).mem.wf = true ∧ (getFirmwareParameters ep s).brMem.wf = true := by
  unfold getFirmwareParameters
  constructor <;> simp (maxDischargeDepth := 40) [hw.1, hw.2]

@[simp] theorem requestUpdate_wf (ep : Nat) (s : State) (hw : s.mem.wf = true ∧ s.brMem.wf = true) :
    (requestUpdate ep s).mem.wf = true ∧ (requestUpdate ep s).brMem.wf = true := by
  unfold requestUpdate
  constructor <;> (try dsimp only) <;> (repeat' (split <;> (try dsimp only))) <;> simp (maxDischargeDepth := 40) [hw.1, hw.2]

@[simp] theorem passComponentTable_wf (ep component : Nat) (s : State) (hw : s.mem.wf = true ∧ s.brMem.wf = true) :
    (passComponentTable ep component s).mem.wf = true ∧ (passComponentTable ep component s).brMem.wf = true := by
  unfold passComponentTable
  constructor <;> (try dsimp only) <;> (repeat' (split <;> (try dsimp only))) <;> simp_all (maxDischargeDepth := 40)

@[simp] theorem askSlice_wf (s : State) (u : Update) (hw : s.mem.wf = true ∧ s.brMem.wf = true) :
    (askSlice s u).mem.wf = true ∧ (askSlice s u).brMem.wf = true := by
  unfold askSlice
  constructor <;> (try dsimp only) <;> (repeat' (split <;> (try dsimp only))) <;> simp (maxDischargeDepth := 40) [hw.1, hw.2]

@[simp] theorem updateComponent_wf (ep component size : Nat) (s : State) (hw : s.mem.wf = true ∧ s.brMem.wf = true) :
    (updateComponent ep component size s).mem.wf = true ∧ (updateComponent ep component size s).brMem.wf = true := by
  unfold updateComponent
  constructor <;> (try dsimp only) <;> (repeat' (split <;> (try dsimp only))) <;> simp_all (maxDischargeDepth := 40)

@[simp] theorem writeSlice_wf (s : State) (hw : s.mem.wf = true ∧ s.brMem.wf = true) :
    (writeSlice s).mem.wf = true ∧ (writeSlice s).brMem.wf = true := by
  unfold writeSlice
  constructor <;> (try dsimp only) <;> (repeat' (split <;> (try dsimp only))) <;> simp (maxDischargeDepth := 40) [hw.1, hw.2]

@[simp] theorem firmwareData_wf (ep : Nat) (bs : List Byte) (s : State) (hw : s.mem.wf = true ∧ s.brMem.wf = true) :
    (firmwareData ep bs s).mem.wf = true ∧ (firmwareData ep bs s).brMem.wf = true := by
  unfold firmwareData
  constructor <;> (try dsimp only) <;> (repeat' (split <;> (try dsimp only))) <;> simp (maxDischargeDepth := 40) [hw.1, hw.2]

@[simp] theorem endTransfer_wf (s : State) (u : Update) (ok : Bool) (hw : s.mem.wf = true ∧ s.brMem.wf = true) :
    (endTransfer s u ok).mem.wf = true ∧ (endTransfer s u ok).brMem.wf = true := by
  unfold endTransfer
  constructor <;> (try dsimp only) <;> (repeat' (split <;> (try dsimp only))) <;> simp (maxDischargeDepth := 40) [hw.1, hw.2]

@[simp] theorem transferComplete_wf (ep : Nat) (s : State) (hw : s.mem.wf = true ∧ s.brMem.wf = true) :
    (transferComplete ep s).mem.wf = true ∧ (transferComplete ep s).brMem.wf = true := by
  unfold transferComplete inUpdate
  split
  · dsimp only
    split
    · constructor <;> simp (maxDischargeDepth := 40) [apply_ite, hw.1, hw.2]
    · split <;> simp (maxDischargeDepth := 40) [hw.1, hw.2]
    · simp (maxDischargeDepth := 40) [hw.1, hw.2]
  · simp (maxDischargeDepth := 40) [hw.1, hw.2]

@[simp] theorem activateNow_wf (s : State) (hw : s.mem.wf = true ∧ s.brMem.wf = true) :
    (activateNow s).mem.wf = true ∧ (activateNow s).brMem.wf = true := by
  unfold activateNow
  constructor <;> simp (maxDischargeDepth := 40) [hw.1, hw.2]

@[simp] theorem requestActivation_wf (s : State) (hw : s.mem.wf = true ∧ s.brMem.wf = true) :
    (requestActivation s).mem.wf = true ∧ (requestActivation s).brMem.wf = true := by
  unfold requestActivation
  constructor <;> (try dsimp only) <;> (repeat' (split <;> (try dsimp only))) <;> simp (maxDischargeDepth := 40) [hw.1, hw.2]

@[simp] theorem fwActivate_wf (s : State) (hw : s.mem.wf = true ∧ s.brMem.wf = true) :
    (fwActivate s).mem.wf = true ∧ (fwActivate s).brMem.wf = true := by
  unfold fwActivate
  constructor <;> simp (maxDischargeDepth := 40) [hw.1, hw.2]

@[simp] theorem cancelPending_wf (s : State) (hw : s.mem.wf = true ∧ s.brMem.wf = true) :
    (cancelPending s).mem.wf = true ∧ (cancelPending s).brMem.wf = true := by
  unfold cancelPending
  constructor <;> simp (maxDischargeDepth := 40) [hw.1, hw.2]

@[simp] theorem activateFirmware_wf (ep : Nat) (now : Bool) (s : State) (hw : s.mem.wf = true ∧ s.brMem.wf = true) :
    (activateFirmware ep now s).mem.wf = true ∧ (activateFirmware ep now s).brMem.wf = true := by
  unfold activateFirmware
  constructor <;> (try dsimp only) <;> (repeat' (split <;> (try dsimp only))) <;> simp (maxDischargeDepth := 40) [hw.1, hw.2]

@[simp] theorem getStatus_wf (ep : Nat) (s : State) (hw : s.mem.wf = true ∧ s.brMem.wf = true) :
    (getStatus ep s).mem.wf = true ∧ (getStatus ep s).brMem.wf = true := by
  unfold getStatus
  constructor <;> simp (maxDischargeDepth := 40) [hw.1, hw.2]

@[simp] theorem dropStaging_wf (s : State) (hw : s.mem.wf = true ∧ s.brMem.wf = true) :
    (dropStaging s).mem.wf = true ∧ (dropStaging s).brMem.wf = true := by
  unfold dropStaging
  constructor <;> simp (maxDischargeDepth := 40) [hw.1, hw.2]

@[simp] theorem cancelUpdateComponent_wf (ep : Nat) (s : State) (hw : s.mem.wf = true ∧ s.brMem.wf = true) :
    (cancelUpdateComponent ep s).mem.wf = true ∧ (cancelUpdateComponent ep s).brMem.wf = true := by
  unfold cancelUpdateComponent
  constructor <;> (try dsimp only) <;> (repeat' (split <;> (try dsimp only))) <;> simp_all (maxDischargeDepth := 40)

@[simp] theorem cancelUpdate_wf (ep : Nat) (s : State) (hw : s.mem.wf = true ∧ s.brMem.wf = true) :
    (cancelUpdate ep s).mem.wf = true ∧ (cancelUpdate ep s).brMem.wf = true := by
  unfold cancelUpdate
  constructor <;> (try dsimp only) <;> (repeat' (split <;> (try dsimp only))) <;> simp_all (maxDischargeDepth := 40)

@[simp] theorem updateTimeout_wf (s : State) (hw : s.mem.wf = true ∧ s.brMem.wf = true) :
    (updateTimeout s).mem.wf = true ∧ (updateTimeout s).brMem.wf = true := by
  unfold updateTimeout
  constructor <;> (try dsimp only) <;> (repeat' (split <;> (try dsimp only))) <;> simp (maxDischargeDepth := 40) [hw.1, hw.2]

@[simp] theorem spdmSend_wf (s : State) (tr item : Nat) (bs : List Byte) (hw : s.mem.wf = true ∧ s.brMem.wf = true) :
    (spdmSend s tr item bs).mem.wf = true ∧ (spdmSend s tr item bs).brMem.wf = true := by
  unfold spdmSend
  constructor <;> simp (maxDischargeDepth := 40) [hw.1, hw.2]

@[simp] theorem spdmFail_wf (s : State) (tr item : Nat) (hw : s.mem.wf = true ∧ s.brMem.wf = true) :
    (spdmFail s tr item).mem.wf = true ∧ (spdmFail s tr item).brMem.wf = true := by
  unfold spdmFail
  constructor <;> simp (maxDischargeDepth := 40) [hw.1, hw.2]

@[simp] theorem setLevel_wf (s : State) (tr n : Nat) (hw : s.mem.wf = true ∧ s.brMem.wf = true) :
    (setLevel s tr n).mem.wf = true ∧ (setLevel s tr n).brMem.wf = true := by
  unfold setLevel
  constructor <;> simp (maxDischargeDepth := 40) [hw.1, hw.2]

@[simp] theorem spdmReq_wf (tr item level : Nat) (f : State → State) (s : State) (hf : ∀ x0, x0.mem.wf = true ∧ x0.brMem.wf = true → (f x0).mem.wf = true ∧ (f x0).brMem.wf = true) (hw : s.mem.wf = true ∧ s.brMem.wf = true) :
    (spdmReq tr item level f s).mem.wf = true ∧ (spdmReq tr item level f s).brMem.wf = true := by
  unfold spdmReq
  constructor <;> (try dsimp only) <;> (repeat' (split <;> (try dsimp only))) <;> simp (maxDischargeDepth := 40) [hw.1, hw.2, hf]

@[simp] theorem getVersion_wf (tr : Nat) (s : State) (hw : s.mem.wf = true ∧ s.brMem.wf = true) :
    (getVersion tr s).mem.wf = true ∧ (getVersion tr s).brMem.wf = true := by
  unfold getVersion
  constructor <;> (try dsimp only) <;> (repeat' (split <;> (try dsimp only))) <;> simp (maxDischargeDepth := 40) [hw.1, hw.2]

@[simp] theorem getCapabilities_wf (tr : Nat) (s : State) (hw : s.mem.wf = true ∧ s.brMem.wf = true) :
    (getCapabilities tr s).mem.wf = true ∧ (getCapabilities tr s).brMem.wf = true := by
  unfold getCapabilities
  constructor <;> simp (maxDischargeDepth := 40) [hw.1, hw.2]

@[simp] theorem negotiateAlgorithms_wf (tr : Nat) (algorithms : List Nat) (s : State) (hw : s.mem.wf = true ∧ s.brMem.wf = true) :
    (negotiateAlgorithms tr algorithms s).mem.wf = true ∧ (negotiateAlgorithms tr algorithms s).brMem.wf = true := by
  unfold negotiateAlgorithms
  constructor <;> (try dsimp only) <;> (repeat' (split <;> (try dsimp only))) <;> simp (maxDischargeDepth := 40) [hw.1, hw.2]

@[simp] theorem getDigests_wf (tr : Nat) (s : State) (hw : s.mem.wf = true ∧ s.brMem.wf = true) :
    (getDigests tr s).mem.wf = true ∧ (getDigests tr s).brMem.wf = true := by
  unfold getDigests
  constructor <;> simp (maxDischargeDepth := 40) [hw.1, hw.2]

@[simp] theorem getCertificate_wf (tr slot offset length : Nat) (s : State) (hw : s.mem.wf = true ∧ s.brMem.wf = true) :
    (getCertificate tr slot offset length s).mem.wf = true ∧ (getCertificate tr slot offset length s).brMem.wf = true := by
  unfold getCertificate
  constructor <;> (try dsimp only) <;> (repeat' (split <;> (try dsimp only))) <;> simp (maxDischargeDepth := 40) [hw.1, hw.2]

@[simp] theorem challenge_wf (tr slot : Nat) (nonce : List Byte) (s : State) (hw : s.mem.wf = true ∧ s.brMem.wf = true) :
    (challenge tr slot nonce s).mem.wf = true ∧ (challenge tr slot nonce s).brMem.wf = true := by
  unfold challenge
  constructor <;> (try dsimp only) <;> (repeat' (split <;> (try dsimp only))) <;> simp (maxDischargeDepth := 40) [hw.1, hw.2]

@[simp] theorem putSession_wf (s : State) (x : Session) (hw : s.mem.wf = true ∧ s.brMem.wf = true) :
    (putSession s x).mem.wf = true ∧ (putSession s x).brMem.wf = true := by
  unfold putSession
  constructor <;> simp (maxDischargeDepth := 40) [hw.1, hw.2]

@[simp] theorem keyExchange_wf (tr id : Nat) (exchange : List Byte) (s : State) (hw : s.mem.wf = true ∧ s.brMem.wf = true) :
    (keyExchange tr id exchange s).mem.wf = true ∧ (keyExchange tr id exchange s).brMem.wf = true := by
  unfold keyExchange
  constructor <;> (try dsimp only) <;> (repeat' (split <;> (try dsimp only))) <;> simp (maxDischargeDepth := 40) [hw.1, hw.2]

@[simp] theorem finish_wf (tr id : Nat) (verifyData : List Byte) (s : State) (hw : s.mem.wf = true ∧ s.brMem.wf = true) :
    (finish tr id verifyData s).mem.wf = true ∧ (finish tr id verifyData s).brMem.wf = true := by
  unfold finish
  constructor <;> (try dsimp only) <;> (repeat' (split <;> (try dsimp only))) <;> simp (maxDischargeDepth := 40) [hw.1, hw.2]

@[simp] theorem inSession_wf (tr id item : Nat) (f : Session → State → State) (s : State) (hf : ∀ x0 x1, x1.mem.wf = true ∧ x1.brMem.wf = true → (f x0 x1).mem.wf = true ∧ (f x0 x1).brMem.wf = true) (hw : s.mem.wf = true ∧ s.brMem.wf = true) :
    (inSession tr id item f s).mem.wf = true ∧ (inSession tr id item f s).brMem.wf = true := by
  unfold inSession
  constructor <;> (try dsimp only) <;> (repeat' (split <;> (try dsimp only))) <;> simp (maxDischargeDepth := 40) [hw.1, hw.2, hf]

@[simp] theorem heartbeat_wf (tr id : Nat) (s : State) (hw : s.mem.wf = true ∧ s.brMem.wf = true) :
    (heartbeat tr id s).mem.wf = true ∧ (heartbeat tr id s).brMem.wf = true := by
  unfold heartbeat
  constructor <;> (try dsimp only) <;> (repeat' (split <;> (try dsimp only))) <;> simp_all (maxDischargeDepth := 40)

@[simp] theorem keyUpdate_wf (tr id op : Nat) (s : State) (hw : s.mem.wf = true ∧ s.brMem.wf = true) :
    (keyUpdate tr id op s).mem.wf = true ∧ (keyUpdate tr id op s).brMem.wf = true := by
  unfold keyUpdate
  constructor <;> (try dsimp only) <;> (repeat' (split <;> (try dsimp only))) <;> simp_all (maxDischargeDepth := 40)

@[simp] theorem endSession_wf (tr id : Nat) (s : State) (hw : s.mem.wf = true ∧ s.brMem.wf = true) :
    (endSession tr id s).mem.wf = true ∧ (endSession tr id s).brMem.wf = true := by
  unfold endSession
  constructor <;> (try dsimp only) <;> (repeat' (split <;> (try dsimp only))) <;> simp_all (maxDischargeDepth := 40)

@[simp] theorem report_wf (tr : Nat) (nonce : List Byte) (ranges : List (Nat × Nat)) (s : State) (hw : s.mem.wf = true ∧ s.brMem.wf = true) :
    (report tr nonce ranges s).mem.wf = true ∧ (report tr nonce ranges s).brMem.wf = true := by
  unfold report
  split
  · simp (maxDischargeDepth := 40) [hw.1, hw.2]
  split
  · rename_i h
    have h1 := apPages_wf h hw
    split <;> simp (maxDischargeDepth := 40) [h1.1, h1.2]
  · simp (maxDischargeDepth := 40) [hw.1, hw.2]

@[simp] theorem startActivity_wf (s : State) (a : Activity) (hw : s.mem.wf = true ∧ s.brMem.wf = true) :
    (startActivity s a).mem.wf = true ∧ (startActivity s a).brMem.wf = true := by
  unfold startActivity
  constructor <;> (try dsimp only) <;> (repeat' (split <;> (try dsimp only))) <;> simp (maxDischargeDepth := 40) [hw.1, hw.2]

@[simp] theorem umpireAdmit_wf (s : State) (hw : s.mem.wf = true ∧ s.brMem.wf = true) :
    (umpireAdmit s).mem.wf = true ∧ (umpireAdmit s).brMem.wf = true := by
  unfold umpireAdmit
  constructor <;> (try dsimp only) <;> (repeat' (split <;> (try dsimp only))) <;> simp (maxDischargeDepth := 40) [hw.1, hw.2]

@[simp] theorem writeHub_wf (o v : Nat) (s : State) (hw : s.mem.wf = true ∧ s.brMem.wf = true) :
    (writeHub o v s).mem.wf = true ∧ (writeHub o v s).brMem.wf = true := by
  unfold writeHub
  constructor <;> (try dsimp only) <;> (repeat' (split <;> (try dsimp only))) <;> simp (maxDischargeDepth := 40) [hw.1, hw.2]

@[simp] theorem writeCset_wf (o v : Nat) (s : State) (hw : s.mem.wf = true ∧ s.brMem.wf = true) :
    (writeCset o v s).mem.wf = true ∧ (writeCset o v s).brMem.wf = true := by
  unfold writeCset
  constructor <;> (try dsimp only) <;> (repeat' (split <;> (try dsimp only))) <;> simp (maxDischargeDepth := 40) [hw.1, hw.2]

@[simp] theorem clearPci_wf (p v : Nat) (s : State) (hw : s.mem.wf = true ∧ s.brMem.wf = true) :
    (clearPci p v s).mem.wf = true ∧ (clearPci p v s).brMem.wf = true := by
  unfold clearPci
  constructor <;> simp (maxDischargeDepth := 40) [hw.1, hw.2]

@[simp] theorem writePci_wf (o v : Nat) (s : State) (hw : s.mem.wf = true ∧ s.brMem.wf = true) :
    (writePci o v s).mem.wf = true ∧ (writePci o v s).brMem.wf = true := by
  unfold writePci
  constructor <;> (try dsimp only) <;> (repeat' (split <;> (try dsimp only))) <;> simp (maxDischargeDepth := 40) [hw.1, hw.2]

@[simp] theorem writeHandover_wf (p v : Nat) (s : State) (hw : s.mem.wf = true ∧ s.brMem.wf = true) :
    (writeHandover p v s).mem.wf = true ∧ (writeHandover p v s).brMem.wf = true := by
  unfold writeHandover
  constructor <;> (try dsimp only) <;> (repeat' (split <;> (try dsimp only))) <;> simp (maxDischargeDepth := 40) [hw.1, hw.2]

@[simp] theorem whileDisabled_wf (n : Nat) (f : Ctx → Ctx) (s : State) (hw : s.mem.wf = true ∧ s.brMem.wf = true) :
    (whileDisabled n f s).mem.wf = true ∧ (whileDisabled n f s).brMem.wf = true := by
  unfold whileDisabled
  constructor <;> (try dsimp only) <;> (repeat' (split <;> (try dsimp only))) <;> simp (maxDischargeDepth := 40) [hw.1, hw.2]

@[simp] theorem writeCtl_wf (n v : Nat) (s : State) (hw : s.mem.wf = true ∧ s.brMem.wf = true) :
    (writeCtl n v s).mem.wf = true ∧ (writeCtl n v s).brMem.wf = true := by
  unfold writeCtl
  constructor <;> (try dsimp only) <;> (repeat' (split <;> (try dsimp only))) <;> simp (maxDischargeDepth := 40) [hw.1, hw.2]

@[simp] theorem writeCtx_wf (n o v : Nat) (s : State) (hw : s.mem.wf = true ∧ s.brMem.wf = true) :
    (writeCtx n o v s).mem.wf = true ∧ (writeCtx n o v s).brMem.wf = true := by
  unfold writeCtx
  constructor <;> (try dsimp only) <;> (repeat' (split <;> (try dsimp only))) <;> simp (maxDischargeDepth := 40) [hw.1, hw.2]

@[simp] theorem writeMem_wf (o v : Nat) (s : State) (hw : s.mem.wf = true ∧ s.brMem.wf = true) :
    (writeMem o v s).mem.wf = true ∧ (writeMem o v s).brMem.wf = true := by
  unfold writeMem
  constructor <;> (try dsimp only) <;> (repeat' (split <;> (try dsimp only))) <;> simp (maxDischargeDepth := 40) [hw.1, hw.2]

@[simp] theorem writeRouteIdx_wf (v : Nat) (s : State) (hw : s.mem.wf = true ∧ s.brMem.wf = true) :
    (writeRouteIdx v s).mem.wf = true ∧ (writeRouteIdx v s).brMem.wf = true := by
  unfold writeRouteIdx
  constructor <;> (try dsimp only) <;> (repeat' (split <;> (try dsimp only))) <;> simp (maxDischargeDepth := 40) [hw.1, hw.2]

@[simp] theorem writePortCtl_wf (p v : Nat) (s : State) (hw : s.mem.wf = true ∧ s.brMem.wf = true) :
    (writePortCtl p v s).mem.wf = true ∧ (writePortCtl p v s).brMem.wf = true := by
  unfold writePortCtl
  constructor <;> (try dsimp only) <;> (repeat' (split <;> (try dsimp only))) <;> simp (maxDischargeDepth := 40) [hw.1, hw.2]

@[simp] theorem writeLnk_wf (o v : Nat) (s : State) (hw : s.mem.wf = true ∧ s.brMem.wf = true) :
    (writeLnk o v s).mem.wf = true ∧ (writeLnk o v s).brMem.wf = true := by
  unfold writeLnk
  constructor <;> (try dsimp only) <;> (repeat' (split <;> (try dsimp only))) <;> simp (maxDischargeDepth := 40) [hw.1, hw.2]

@[simp] theorem writePwr_wf (o v : Nat) (s : State) (hw : s.mem.wf = true ∧ s.brMem.wf = true) :
    (writePwr o v s).mem.wf = true ∧ (writePwr o v s).brMem.wf = true := by
  unfold writePwr
  constructor <;> (try dsimp only) <;> (repeat' (split <;> (try dsimp only))) <;> simp (maxDischargeDepth := 40) [hw.1, hw.2]

@[simp] theorem writeMgt_wf (o v : Nat) (s : State) (hw : s.mem.wf = true ∧ s.brMem.wf = true) :
    (writeMgt o v s).mem.wf = true ∧ (writeMgt o v s).brMem.wf = true := by
  unfold writeMgt
  constructor <;> (try dsimp only) <;> (repeat' (split <;> (try dsimp only))) <;> simp (maxDischargeDepth := 40) [hw.1, hw.2]

@[simp] theorem writeTrace_wf (v : Nat) (s : State) (hw : s.mem.wf = true ∧ s.brMem.wf = true) :
    (writeTrace v s).mem.wf = true ∧ (writeTrace v s).brMem.wf = true := by
  unfold writeTrace
  constructor <;> (try dsimp only) <;> (repeat' (split <;> (try dsimp only))) <;> simp (maxDischargeDepth := 40) [hw.1, hw.2]

@[simp] theorem writeDbg_wf (o v : Nat) (s : State) (hw : s.mem.wf = true ∧ s.brMem.wf = true) :
    (writeDbg o v s).mem.wf = true ∧ (writeDbg o v s).brMem.wf = true := by
  unfold writeDbg
  constructor <;> (try dsimp only) <;> (repeat' (split <;> (try dsimp only))) <;> simp (maxDischargeDepth := 40) [hw.1, hw.2]

@[simp] theorem writeMsix_wf (p o v : Nat) (s : State) (hw : s.mem.wf = true ∧ s.brMem.wf = true) :
    (writeMsix p o v s).mem.wf = true ∧ (writeMsix p o v s).brMem.wf = true := by
  unfold writeMsix
  constructor <;> (try dsimp only) <;> (repeat' (split <;> (try dsimp only))) <;> simp (maxDischargeDepth := 40) [hw.1, hw.2]

theorem ite_wf {p : Prop} [Decidable p] {a b : State} (ha : a.mem.wf = true ∧ a.brMem.wf = true)
    (hb : b.mem.wf = true ∧ b.brMem.wf = true) :
    (if p then a else b).mem.wf = true ∧ (if p then a else b).brMem.wf = true := by
  split
  · exact ha
  · exact hb

@[simp] theorem writeWord_wf (p o v : Nat) (s : State) (hw : s.mem.wf = true ∧ s.brMem.wf = true) :
    (writeWord p o v s).mem.wf = true ∧ (writeWord p o v s).brMem.wf = true := by
  unfold writeWord
  exact ite_wf (writeHub_wf _ _ _ hw) (ite_wf (writeCset_wf _ _ _ hw) (ite_wf (benchWrite_wf _ _ _ hw) (ite_wf hw
    (ite_wf (writePci_wf _ _ _ hw) (ite_wf (writeCtx_wf _ _ _ _ hw) (ite_wf (writeMem_wf _ _ _ hw) (ite_wf (writeLnk_wf _ _ _ hw)
    (ite_wf (writePwr_wf _ _ _ hw) (ite_wf (writeMgt_wf _ _ _ hw) (ite_wf (writeDbg_wf _ _ _ hw)
    (ite_wf (writeMsix_wf _ _ _ _ hw) hw)))))))))))

@[simp] theorem writeReduced_wf (p o v : Nat) (s : State) (hw : s.mem.wf = true ∧ s.brMem.wf = true) :
    (writeReduced p o v s).mem.wf = true ∧ (writeReduced p o v s).brMem.wf = true := by
  unfold writeReduced
  constructor <;> (try dsimp only) <;> (repeat' (split <;> (try dsimp only))) <;> simp (maxDischargeDepth := 40) [hw.1, hw.2]

@[simp] theorem asWords_wf (o size v : Nat) (f : Nat → Nat → State → State) (s : State) (hf : ∀ x0 x1 x2, x2.mem.wf = true ∧ x2.brMem.wf = true → (f x0 x1 x2).mem.wf = true ∧ (f x0 x1 x2).brMem.wf = true) (hw : s.mem.wf = true ∧ s.brMem.wf = true) :
    (asWords o size v f s).mem.wf = true ∧ (asWords o size v f s).brMem.wf = true := by
  unfold asWords
  constructor <;> (try dsimp only) <;> (repeat' (split <;> (try dsimp only))) <;> simp (maxDischargeDepth := 40) [hw.1, hw.2, hf]

@[simp] theorem ownWrite_wf (o size v : Nat) (s : State) (hw : s.mem.wf = true ∧ s.brMem.wf = true) :
    (ownWrite o size v s).mem.wf = true ∧ (ownWrite o size v s).brMem.wf = true := by
  unfold ownWrite
  constructor <;> (try dsimp only) <;> (repeat' (split <;> (try dsimp only))) <;> simp_all (maxDischargeDepth := 40)

@[simp] theorem registerWrite_wf (p o size v : Nat) (s : State) (hw : s.mem.wf = true ∧ s.brMem.wf = true) :
    (registerWrite p o size v s).mem.wf = true ∧ (registerWrite p o size v s).brMem.wf = true := by
  unfold registerWrite
  constructor <;> (try dsimp only) <;> (repeat' (split <;> (try dsimp only))) <;> simp_all (maxDischargeDepth := 40)

@[simp] theorem standbyAct_wf (s : State) (c : Cmd) (hw : s.mem.wf = true ∧ s.brMem.wf = true) :
    (standbyAct s c).mem.wf = true ∧ (standbyAct s c).brMem.wf = true := by
  unfold standbyAct
  constructor <;> (try dsimp only) <;> (repeat' (split <;> (try dsimp only))) <;> simp (maxDischargeDepth := 40) [hw.1, hw.2]

@[simp] theorem applyHeld_wf (s : State) (w : Nat × Nat × Nat × Nat) (hw : s.mem.wf = true ∧ s.brMem.wf = true) :
    (applyHeld s w).mem.wf = true ∧ (applyHeld s w).brMem.wf = true := by
  unfold applyHeld
  constructor <;> (try dsimp only) <;> (repeat' (split <;> (try dsimp only))) <;> simp (maxDischargeDepth := 40) [hw.1, hw.2]

@[simp] theorem endStandby_wf (s : State) (b : Standby) (hw : s.mem.wf = true ∧ s.brMem.wf = true) :
    (endStandby s b).mem.wf = true ∧ (endStandby s b).brMem.wf = true := by
  unfold endStandby
  constructor <;> (try dsimp only) <;> (repeat' (split <;> (try dsimp only))) <;> simp_all (maxDischargeDepth := 40)

@[simp] theorem decideStandby_wf (s : State) (b : Standby) (st : Status) (result : Nat) (hw : s.mem.wf = true ∧ s.brMem.wf = true) :
    (decideStandby s b st result).mem.wf = true ∧ (decideStandby s b st result).brMem.wf = true := by
  unfold decideStandby
  constructor <;> (try dsimp only) <;> (repeat' (split <;> (try dsimp only))) <;> simp (maxDischargeDepth := 40) [hw.1, hw.2]

@[simp] theorem standbyQuiesced_wf (s : State) (hw : s.mem.wf = true ∧ s.brMem.wf = true) :
    (standbyQuiesced s).mem.wf = true ∧ (standbyQuiesced s).brMem.wf = true := by
  unfold standbyQuiesced
  constructor <;> (try dsimp only) <;> (repeat' (split <;> (try dsimp only))) <;> simp (maxDischargeDepth := 40) [hw.1, hw.2]

@[simp] theorem loseScratch_wf (s : State) (hw : s.mem.wf = true ∧ s.brMem.wf = true) :
    (loseScratch s).mem.wf = true ∧ (loseScratch s).brMem.wf = true := by
  unfold loseScratch
  constructor <;> (try dsimp only) <;> (repeat' (split <;> (try dsimp only))) <;> simp_all (maxDischargeDepth := 40)

@[simp] theorem ownLink_wf (s : State) (old new : HostLink) (hw : s.mem.wf = true ∧ s.brMem.wf = true) :
    (ownLink s old new).mem.wf = true ∧ (ownLink s old new).brMem.wf = true := by
  unfold ownLink
  constructor <;> (try dsimp only) <;> (repeat' (split <;> (try dsimp only))) <;> simp (maxDischargeDepth := 40) [hw.1, hw.2]

@[simp] theorem standbyPowerOff_wf (s : State) (hw : s.mem.wf = true ∧ s.brMem.wf = true) :
    (standbyPowerOff s).mem.wf = true ∧ (standbyPowerOff s).brMem.wf = true := by
  unfold standbyPowerOff
  constructor <;> (try dsimp only) <;> (repeat' (split <;> (try dsimp only))) <;> simp_all (maxDischargeDepth := 40)

@[simp] theorem wakeTimer_wf (s : State) (hw : s.mem.wf = true ∧ s.brMem.wf = true) :
    (wakeTimer s).mem.wf = true ∧ (wakeTimer s).brMem.wf = true := by
  unfold wakeTimer
  constructor <;> (try dsimp only) <;> (repeat' (split <;> (try dsimp only))) <;> simp (maxDischargeDepth := 40) [hw.1, hw.2]

@[simp] theorem wakeDies_wf (s : State) (b : Standby) (hw : s.mem.wf = true ∧ s.brMem.wf = true) :
    (wakeDies s b).mem.wf = true ∧ (wakeDies s b).brMem.wf = true := by
  unfold wakeDies
  constructor <;> (try dsimp only) <;> (repeat' (split <;> (try dsimp only))) <;> simp_all (maxDischargeDepth := 40) [apply_ite]

@[simp] theorem resumePolls_wf (s : State) (hw : s.mem.wf = true ∧ s.brMem.wf = true) :
    (resumePolls s).mem.wf = true ∧ (resumePolls s).brMem.wf = true := by
  unfold resumePolls
  constructor <;> simp (maxDischargeDepth := 40) [hw.1, hw.2]

@[simp] theorem standbyResume_wf (s : State) (hw : s.mem.wf = true ∧ s.brMem.wf = true) :
    (standbyResume s).mem.wf = true ∧ (standbyResume s).brMem.wf = true := by
  unfold standbyResume
  constructor <;> (try dsimp only) <;> (repeat' (split <;> (try dsimp only))) <;> simp (maxDischargeDepth := 40) [hw.1, hw.2]

end Sys2Proof.Machine
end

