-- ==== Sys2Proof/Laws/Clock.lean ====
section
/-! SUPPORT. Frame lemmas: no function of the model touches the queue of commands or the local time counter (R387), the power-on reset
apart. One lemma per function, for the simplifier. -/

set_option linter.unusedTactic false
set_option linter.unreachableTactic false
set_option linter.unusedSimpArgs false
set_option linter.unusedVariables false

namespace Sys2Proof.Machine

theorem seqAll_clock {α : Type} (s : State) (l : List α) (f : State → α → State)
    (h : ∀ s x, (f s x).pending = s.pending ∧ (f s x).localTime = s.localTime) :
    (seqAll s l f).pending = s.pending ∧ (seqAll s l f).localTime = s.localTime := by
  unfold seqAll
  induction l generalizing s with
  | nil => simp
  | cons x l ih => simp only [List.foldl_cons]; exact ⟨(ih _).1.trans (h s x).1, (ih _).2.trans (h s x).2⟩

@[simp] theorem seqAll_pending {α : Type} (s : State) (l : List α) (f : State → α → State)
    (h : ∀ s x, (f s x).pending = s.pending ∧ (f s x).localTime = s.localTime) : (seqAll s l f).pending = s.pending :=
  (seqAll_clock s l f h).1
@[simp] theorem seqAll_localTime {α : Type} (s : State) (l : List α) (f : State → α → State)
    (h : ∀ s x, (f s x).pending = s.pending ∧ (f s x).localTime = s.localTime) : (seqAll s l f).localTime = s.localTime :=
  (seqAll_clock s l f h).2


@[simp] theorem storeCells_clock (s : State) (cs : List Host.Cell) :
    (storeCells s cs).pending = s.pending ∧ (storeCells s cs).localTime = s.localTime := by
  unfold storeCells
  constructor <;> simp

@[simp] theorem poisonLines_clock (s : State) (ls : List Nat) :
    (poisonLines s ls).pending = s.pending ∧ (poisonLines s ls).localTime = s.localTime := by
  unfold poisonLines
  constructor <;> simp

@[simp] theorem setCtx_clock (s : State) (n : Nat) (c : Ctx) :
    (setCtx s n c).pending = s.pending ∧ (setCtx s n c).localTime = s.localTime := by
  unfold setCtx
  constructor <;> simp

@[simp] theorem modCtx_clock (s : State) (n : Nat) (f : Ctx → Ctx) :
    (modCtx s n f).pending = s.pending ∧ (modCtx s n f).localTime = s.localTime := by
  unfold modCtx
  constructor <;> simp

@[simp] theorem setCmd_clock (s : State) (c : Cmd) :
    (setCmd s c).pending = s.pending ∧ (setCmd s c).localTime = s.localTime := by
  unfold setCmd
  constructor <;> simp

@[simp] theorem modCluster_clock (s : State) (q : Nat) (f : Cluster → Cluster) :
    (modCluster s q f).pending = s.pending ∧ (modCluster s q f).localTime = s.localTime := by
  unfold modCluster
  constructor <;> simp

@[simp] theorem modRegion_clock (s : State) (r : Nat) (f : Region → Region) :
    (modRegion s r f).pending = s.pending ∧ (modRegion s r f).localTime = s.localTime := by
  unfold modRegion
  constructor <;> simp

@[simp] theorem modHostPort_clock (s : State) (p : Nat) (f : HostPort → HostPort) :
    (modHostPort s p f).pending = s.pending ∧ (modHostPort s p f).localTime = s.localTime := by
  unfold modHostPort
  constructor <;> simp

@[simp] theorem barWrite_clock (s : State) (offset size value : Nat) (f : State → State) (hf : ∀ x0, (f x0).pending = x0.pending ∧ (f x0).localTime = x0.localTime) :
    (barWrite s offset size value f).pending = s.pending ∧ (barWrite s offset size value f).localTime = s.localTime := by
  unfold barWrite
  constructor <;> (try dsimp only) <;> (repeat' (split <;> (try dsimp only))) <;> simp [*]

@[simp] theorem sendVector_clock (s : State) (p v : Nat) :
    (sendVector s p v).pending = s.pending ∧ (sendVector s p v).localTime = s.localTime := by
  unfold sendVector
  constructor <;> (try dsimp only) <;> (repeat' (split <;> (try dsimp only))) <;> simp

@[simp] theorem raiseSource_clock (s : State) (n : Nat) :
    (raiseSource s n).pending = s.pending ∧ (raiseSource s n).localTime = s.localTime := by
  unfold raiseSource
  constructor <;> (try dsimp only) <;> (repeat' (split <;> (try dsimp only))) <;> simp

@[simp] theorem ctxEvent_clock (s : State) (n b : Nat) :
    (ctxEvent s n b).pending = s.pending ∧ (ctxEvent s n b).localTime = s.localTime := by
  unfold ctxEvent
  constructor <;> simp

@[simp] theorem carafeEvent_clock (s : State) (d : Nat) :
    (carafeEvent s d).pending = s.pending ∧ (carafeEvent s d).localTime = s.localTime := by
  unfold carafeEvent
  constructor <;> simp

@[simp] theorem portEvent_clock (s : State) (p b : Nat) :
    (portEvent s p b).pending = s.pending ∧ (portEvent s p b).localTime = s.localTime := by
  unfold portEvent
  constructor <;> simp

@[simp] theorem linkEvent_clock (s : State) (b : Nat) :
    (linkEvent s b).pending = s.pending ∧ (linkEvent s b).localTime = s.localTime := by
  unfold linkEvent
  constructor <;> simp

@[simp] theorem recovEvent_clock (s : State) :
    (recovEvent s).pending = s.pending ∧ (recovEvent s).localTime = s.localTime := by
  unfold recovEvent
  constructor <;> simp

@[simp] theorem pciEvent_clock (s : State) (p b : Nat) :
    (pciEvent s p b).pending = s.pending ∧ (pciEvent s p b).localTime = s.localTime := by
  unfold pciEvent
  constructor <;> (try dsimp only) <;> (repeat' (split <;> (try dsimp only))) <;> simp

@[simp] theorem csetEvent_clock (s : State) (b : Nat) :
    (csetEvent s b).pending = s.pending ∧ (csetEvent s b).localTime = s.localTime := by
  unfold csetEvent
  constructor <;> simp

@[simp] theorem mgmtEvent_clock (s : State) (b : Nat) :
    (mgmtEvent s b).pending = s.pending ∧ (mgmtEvent s b).localTime = s.localTime := by
  unfold mgmtEvent
  constructor <;> simp

@[simp] theorem powerEvent_clock (s : State) (b : Nat) :
    (powerEvent s b).pending = s.pending ∧ (powerEvent s b).localTime = s.localTime := by
  unfold powerEvent
  constructor <;> simp

@[simp] theorem logEvent_clock (s : State) (source severity code unit data : Nat) :
    (logEvent s source severity code unit data).pending = s.pending ∧ (logEvent s source severity code unit data).localTime = s.localTime := by
  unfold logEvent
  constructor <;> (try dsimp only) <;> (repeat' (split <;> (try dsimp only))) <;> simp

@[simp] theorem trace_clock (s : State) (code : Nat) (c : Cmd) (status : Nat) :
    (trace s code c status).pending = s.pending ∧ (trace s code c status).localTime = s.localTime := by
  unfold trace
  constructor <;> (try dsimp only) <;> (repeat' (split <;> (try dsimp only))) <;> simp

@[simp] theorem setPortRec_clock (s : State) (p : Nat) (x : Port) :
    (setPortRec s p x).pending = s.pending ∧ (setPortRec s p x).localTime = s.localTime := by
  unfold setPortRec
  constructor <;> simp

@[simp] theorem emit_clock (s : State) (mask : Nat) (m : Msg) :
    (emit s mask m).pending = s.pending ∧ (emit s mask m).localTime = s.localTime := by
  unfold emit
  constructor <;> (try dsimp only) <;> (repeat' (split <;> (try dsimp only))) <;> simp

@[simp] theorem send_clock (s : State) (mask mtype cls dst epoch tag address : Nat) (data : List Byte) :
    (send s mask mtype cls dst epoch tag address data).pending = s.pending ∧ (send s mask mtype cls dst epoch tag address data).localTime = s.localTime := by
  unfold send
  constructor <;> simp

@[simp] theorem askLine_clock (c : Cmd) (s : State) (l : Nat) :
    (askLine c s l).pending = s.pending ∧ (askLine c s l).localTime = s.localTime := by
  unfold askLine
  constructor <;> (try dsimp only) <;> (repeat' (split <;> (try dsimp only))) <;> simp

@[simp] theorem askLines_clock (s : State) (c : Cmd) :
    (askLines s c).pending = s.pending ∧ (askLines s c).localTime = s.localTime := by
  unfold askLines
  constructor <;> simp

@[simp] theorem askAll_clock (s : State) :
    (askAll s).pending = s.pending ∧ (askAll s).localTime = s.localTime := by
  unfold askAll
  constructor <;> simp

@[simp] theorem awaitLines_clock (s : State) (c : Cmd) (ls : List Nat) :
    (awaitLines s c ls).pending = s.pending ∧ (awaitLines s c ls).localTime = s.localTime := by
  unfold awaitLines
  constructor <;> simp

@[simp] theorem fetchLines_clock (s : State) (c : Cmd) (ls : List Nat) :
    (fetchLines s c ls).pending = s.pending ∧ (fetchLines s c ls).localTime = s.localTime := by
  unfold fetchLines
  constructor <;> simp

@[simp] theorem takeDraw_clock (s : State) (ctx : Nat) (b : Option Nat) (n : Nat) :
    (takeDraw s ctx b n).1.pending = s.pending ∧ (takeDraw s ctx b n).1.localTime = s.localTime := by
  unfold takeDraw
  cases b <;> simp

@[simp] theorem takeDraws_clock (s : State) (ctx : Nat) (rs : List (Option Nat × Nat)) :
    (takeDraws s ctx rs).1.pending = s.pending ∧ (takeDraws s ctx rs).1.localTime = s.localTime := by
  induction rs generalizing s with
  | nil => simp [takeDraws]
  | cons r rs ih => obtain ⟨b, n⟩ := r; simp [takeDraws, ih]

@[simp] theorem release_clock (s : State) (c : Cmd) :
    (release s c).pending = s.pending ∧ (release s c).localTime = s.localTime := by
  unfold release
  constructor <;> (try dsimp only) <;> (repeat' (split <;> (try dsimp only))) <;> simp

@[simp] theorem dropActivities_clock (s : State) (c : Cmd) :
    (dropActivities s c).pending = s.pending ∧ (dropActivities s c).localTime = s.localTime := by
  unfold dropActivities
  constructor <;> simp

@[simp] theorem unreserve_clock (s : State) (c : Cmd) :
    (unreserve s c).pending = s.pending ∧ (unreserve s c).localTime = s.localTime := by
  unfold unreserve
  constructor <;> simp

@[simp] theorem failCmd_clock (s : State) (c : Cmd) (st : Status) (order result : Nat) :
    (failCmd s c st order result).pending = s.pending ∧ (failCmd s c st order result).localTime = s.localTime := by
  unfold failCmd
  constructor <;> simp

theorem validateCmd_clock (sp : CmdSpec) (s : State) (c : Cmd)
    (h : ∀ s c, (sp.take s c).1.pending = s.pending ∧ (sp.take s c).1.localTime = s.localTime) :
    (validateCmd sp s c).pending = s.pending ∧ (validateCmd sp s c).localTime = s.localTime := by
  unfold validateCmd
  constructor <;> dsimp only <;> (repeat' (split <;> (try dsimp only))) <;> simp [h]

@[simp] theorem validate_clock (sp : CmdSpec) (s : State) (c : Cmd)
    (h : ∀ s c, (sp.take s c).1.pending = s.pending ∧ (sp.take s c).1.localTime = s.localTime) :
    (validate sp s c).pending = s.pending ∧ (validate sp s c).localTime = s.localTime := by
  unfold validate
  constructor <;> dsimp only <;> (repeat' (split <;> (try dsimp only))) <;> simp [validateCmd_clock _ _ _ h]

@[simp] theorem noteKill_clock (s : State) (c : Cmd) :
    (noteKill s c).pending = s.pending ∧ (noteKill s c).localTime = s.localTime := by
  unfold noteKill
  constructor <;> (try dsimp only) <;> (repeat' (split <;> (try dsimp only))) <;> simp

@[simp] theorem failedAttempt_clock (s : State) (c : Cmd) :
    (failedAttempt s c).pending = s.pending ∧ (failedAttempt s c).localTime = s.localTime := by
  unfold failedAttempt
  constructor <;> (try dsimp only) <;> (repeat' (split <;> (try dsimp only))) <;> simp

@[simp] theorem countRows_clock (s : State) (c : Cmd) :
    (countRows s c).pending = s.pending ∧ (countRows s c).localTime = s.localTime := by
  unfold countRows
  constructor <;> (try dsimp only) <;> (repeat' (split <;> (try dsimp only))) <;> simp

@[simp] theorem issueCmd_clock (sp : CmdSpec) (s : State) (c : Cmd) :
    (issueCmd sp s c).pending = s.pending ∧ (issueCmd sp s c).localTime = s.localTime := by
  unfold issueCmd
  constructor <;> (try dsimp only) <;> (repeat' (split <;> (try dsimp only))) <;> simp

@[simp] theorem descStep_clock (owns : Desc → Bool) (sp : CmdSpec) (ctx idx : Nat) (s : State)
    (h : ∀ s c, (sp.take s c).1.pending = s.pending ∧ (sp.take s c).1.localTime = s.localTime) :
    (descStep owns sp ctx idx s).pending = s.pending ∧ (descStep owns sp ctx idx s).localTime = s.localTime := by
  unfold descStep
  constructor <;> (try dsimp only) <;> (repeat' (split <;> (try dsimp only))) <;> simp [h]

@[simp] theorem takeNone_clock (s : State) (c : Cmd) :
    (takeNone s c).1.pending = s.pending ∧ (takeNone s c).1.localTime = s.localTime := by simp [takeNone]

@[simp] theorem takeStream_clock (perElement batch : Desc → Nat) (s : State) (c : Cmd) :
    (takeStream perElement batch s c).1.pending = s.pending ∧ (takeStream perElement batch s c).1.localTime = s.localTime := by
  unfold takeStream; constructor <;> (try dsimp only) <;> (repeat' (split <;> (try dsimp only))) <;> simp

@[simp] theorem rowInstructionIssue_clock (ctx idx : Nat) (s : State) :
    (rowInstructionIssue ctx idx s).pending = s.pending ∧ (rowInstructionIssue ctx idx s).localTime = s.localTime := by
  unfold rowInstructionIssue
  constructor <;> (try dsimp only) <;> (repeat' (split <;> (try dsimp only))) <;> simp

@[simp] theorem tileDrain_clock (ctx idx : Nat) (s : State) :
    (tileDrain ctx idx s).pending = s.pending ∧ (tileDrain ctx idx s).localTime = s.localTime := by
  unfold tileDrain
  constructor <;> (try dsimp only) <;> (repeat' (split <;> (try dsimp only))) <;> simp

@[simp] theorem dropTables_clock (s : State) (heads : List Nat) :
    (dropTables s heads).pending = s.pending ∧ (dropTables s heads).localTime = s.localTime := by
  unfold dropTables
  constructor <;> simp

@[simp] theorem atTake_clock (s : State) (c : Cmd) :
    (atTake s c).1.pending = s.pending ∧ (atTake s c).1.localTime = s.localTime := by
  unfold atTake; constructor <;> (try dsimp only) <;> (repeat' (split <;> (try dsimp only))) <;> simp

@[simp] theorem bwdTake_clock (s : State) (c : Cmd) :
    (bwdTake s c).1.pending = s.pending ∧ (bwdTake s c).1.localTime = s.localTime := by
  unfold bwdTake; constructor <;> (try dsimp only) <;> (repeat' (split <;> (try dsimp only))) <;> simp

@[simp] theorem applyBr_clock (s : State) (o : BrOp) :
    (applyBr s o).pending = s.pending ∧ (applyBr s o).localTime = s.localTime := by cases o <;> simp [applyBr]

@[simp] theorem mirror_clock (s : State) (bs : List Nat) :
    (mirror s bs).pending = s.pending ∧ (mirror s bs).localTime = s.localTime := by
  unfold mirror
  constructor <;> (try dsimp only) <;> (repeat' (split <;> (try dsimp only))) <;> simp

@[simp] theorem applyBrs_clock (s : State) (ops : List BrOp) :
    (applyBrs s ops).pending = s.pending ∧ (applyBrs s ops).localTime = s.localTime := by
  have h : ∀ (ops : List BrOp) (s : State), (ops.foldl applyBr s).pending = s.pending ∧ (ops.foldl applyBr s).localTime = s.localTime := by
    intro ops
    induction ops with
    | nil => simp
    | cons o os ih => intro s; simp [ih]
  simp [applyBrs, h]

@[simp] theorem fkTake_clock (s : State) (c : Cmd) :
    (fkTake s c).1.pending = s.pending ∧ (fkTake s c).1.localTime = s.localTime := by
  unfold fkTake; constructor <;> (try dsimp only) <;> (repeat' (split <;> (try dsimp only))) <;> simp

@[simp] theorem haloSignalPoll_clock (ctx idx : Nat) (s : State) :
    (haloSignalPoll ctx idx s).pending = s.pending ∧ (haloSignalPoll ctx idx s).localTime = s.localTime := by
  unfold haloSignalPoll
  constructor <;> (try dsimp only) <;> (repeat' (split <;> (try dsimp only))) <;> simp

@[simp] theorem modChan_clock (s : State) (ch : Nat) (f : Channel → Channel) :
    (modChan s ch f).pending = s.pending ∧ (modChan s ch f).localTime = s.localTime := by
  unfold modChan
  constructor <;> simp

@[simp] theorem coTake_clock (s : State) (c : Cmd) :
    (coTake s c).1.pending = s.pending ∧ (coTake s c).1.localTime = s.localTime := by
  unfold coTake; constructor <;> (try dsimp only) <;> (repeat' (split <;> (try dsimp only))) <;> simp

@[simp] theorem sendColl_clock (s : State) (c : Cmd) (r : CollRun) (mtype dstRank address : Nat) (data : List Byte) :
    (sendColl s c r mtype dstRank address data).pending = s.pending ∧ (sendColl s c r mtype dstRank address data).localTime = s.localTime := by
  unfold sendColl
  constructor <;> simp

@[simp] theorem putRun_clock (s : State) (c : Cmd) (r : CollRun) :
    (putRun s c r).pending = s.pending ∧ (putRun s c r).localTime = s.localTime := by
  unfold putRun
  constructor <;> simp

@[simp] theorem sendLine_clock (m : Memory) (c : Cmd) (x : Co) (s : State) (r : CollRun) (i : Nat) :
    (sendLine m c x s r i).1.pending = s.pending ∧ (sendLine m c x s r i).1.localTime = s.localTime := by
  unfold sendLine; constructor <;> (try dsimp only) <;> (repeat' (split <;> (try dsimp only))) <;> simp

@[simp] theorem sendLines_clock (m : Memory) (c : Cmd) (x : Co) (s : State) (r : CollRun) (is : List Nat) :
    (sendLines m c x s r is).1.pending = s.pending ∧ (sendLines m c x s r is).1.localTime = s.localTime := by
  induction is generalizing s r with
  | nil => simp [sendLines]
  | cons i is ih => simp [sendLines, ih]

@[simp] theorem endColl_clock (s : State) (c : Cmd) (st : Status) :
    (endColl s c st).pending = s.pending ∧ (endColl s c st).localTime = s.localTime := by
  unfold endColl
  constructor <;> (try dsimp only) <;> (repeat' (split <;> (try dsimp only))) <;> simp

@[simp] theorem abortColl_clock (s : State) (c : Cmd) (cause : Nat) (st : Status) :
    (abortColl s c cause st).pending = s.pending ∧ (abortColl s c cause st).localTime = s.localTime := by
  unfold abortColl
  constructor <;> (try dsimp only) <;> (repeat' (split <;> (try dsimp only))) <;> simp

@[simp] theorem ackLine_clock (s : State) (c : Cmd) (r : CollRun) (f : Flit) :
    (ackLine s c r f).pending = s.pending ∧ (ackLine s c r f).localTime = s.localTime := by
  unfold ackLine
  constructor <;> simp

@[simp] theorem takeLine_clock (s : State) (c : Cmd) (x : Co) (r : CollRun) (f : Flit) :
    (takeLine s c x r f).pending = s.pending ∧ (takeLine s c x r f).localTime = s.localTime := by
  unfold takeLine
  constructor <;> (try dsimp only) <;> (repeat' (split <;> (try dsimp only))) <;> simp

@[simp] theorem resend_clock (s : State) (c : Cmd) (x : Co) (r : CollRun) (q : Nat) :
    (resend s c x r q).pending = s.pending ∧ (resend s c x r q).localTime = s.localTime := by
  unfold resend
  constructor <;> (try dsimp only) <;> (repeat' (split <;> (try dsimp only))) <;> simp

@[simp] theorem lineStarted_clock (s : State) (c : Cmd) (x : Co) (r : CollRun) (f : Flit) :
    (lineStarted s c x r f).pending = s.pending ∧ (lineStarted s c x r f).localTime = s.localTime := by
  unfold lineStarted
  constructor <;> (try dsimp only) <;> (repeat' (split <;> (try dsimp only))) <;> simp

@[simp] theorem abortReceived_clock (s : State) (c : Cmd) (r : CollRun) (f : Flit) :
    (abortReceived s c r f).pending = s.pending ∧ (abortReceived s c r f).localTime = s.localTime := by
  unfold abortReceived
  constructor <;> (try dsimp only) <;> (repeat' (split <;> (try dsimp only))) <;> simp

@[simp] theorem collDeliver_clock (s : State) (f : Flit) :
    (collDeliver s f).pending = s.pending ∧ (collDeliver s f).localTime = s.localTime := by
  unfold collDeliver
  constructor <;> (try dsimp only) <;> (repeat' (split <;> (try dsimp only))) <;> simp

@[simp] theorem collAck_clock (s : State) (f : Flit) :
    (collAck s f).pending = s.pending ∧ (collAck s f).localTime = s.localTime := by
  unfold collAck
  constructor <;> (try dsimp only) <;> (repeat' (split <;> (try dsimp only))) <;> simp

@[simp] theorem startColl_clock (s : State) (c : Cmd) (x : Co) (r : CollRun) :
    (startColl s c x r).pending = s.pending ∧ (startColl s c x r).localTime = s.localTime := by
  unfold startColl
  constructor <;> (try dsimp only) <;> (repeat' (split <;> (try dsimp only))) <;> simp

@[simp] theorem rallySlot_clock (ld : Nat) (s : State) :
    (rallySlot ld s).pending = s.pending ∧ (rallySlot ld s).localTime = s.localTime := by
  unfold rallySlot
  constructor <;> (try dsimp only) <;> (repeat' (split <;> (try dsimp only))) <;> simp

@[simp] theorem segmentDeadline_clock (ctx idx seg : Nat) (s : State) :
    (segmentDeadline ctx idx seg s).pending = s.pending ∧ (segmentDeadline ctx idx seg s).localTime = s.localTime := by
  unfold segmentDeadline
  constructor <;> (try dsimp only) <;> (repeat' (split <;> (try dsimp only))) <;> simp

@[simp] theorem collDeaths_clock (s : State) (c : Cmd) (ds : List Nat) :
    (collDeaths s c ds).pending = s.pending ∧ (collDeaths s c ds).localTime = s.localTime := by
  unfold collDeaths
  constructor <;> (try dsimp only) <;> (repeat' (split <;> (try dsimp only))) <;> simp

@[simp] theorem collStep_clock (owns : Desc → Bool) (ctx idx : Nat) (s : State) :
    (collStep owns ctx idx s).pending = s.pending ∧ (collStep owns ctx idx s).localTime = s.localTime := by
  unfold collStep
  split
  · simp
  dsimp only
  split
  · simp
  split
  · simp
  · split
    · simp
    · simp
    · (repeat' split) <;> simp
  · simp

@[simp] theorem seeLine_clock (s : State) (l : Nat) (bs : List Byte) (poisoned : Bool) :
    (seeLine s l bs poisoned).pending = s.pending ∧ (seeLine s l bs poisoned).localTime = s.localTime := by
  unfold seeLine
  constructor <;> simp

@[simp] theorem countArrivals_clock (s : State) (c : Cmd) (n : Nat) (poisoned : Bool) :
    (countArrivals s c n poisoned).pending = s.pending ∧ (countArrivals s c n poisoned).localTime = s.localTime := by
  unfold countArrivals
  constructor <;> (try dsimp only) <;> (repeat' (split <;> (try dsimp only))) <;> simp

@[simp] theorem landLines_clock (s : State) (c : Cmd) (ls : List Nat) (poisoned : Bool) :
    (landLines s c ls poisoned).pending = s.pending ∧ (landLines s c ls poisoned).localTime = s.localTime := by
  unfold landLines
  constructor <;> simp

@[simp] theorem lineArrival_clock (q counter address : Nat) (line : Line) (poisoned : Bool) (s : State) :
    (lineArrival q counter address line poisoned s).pending = s.pending ∧ (lineArrival q counter address line poisoned s).localTime = s.localTime := by
  unfold lineArrival
  constructor <;> (try dsimp only) <;> (repeat' (split <;> (try dsimp only))) <;> simp

@[simp] theorem sendHolds_clock (s : State) (c : Cmd) (pages : List (Nat × Nat)) :
    (sendHolds s c pages).pending = s.pending ∧ (sendHolds s c pages).localTime = s.localTime := by
  unfold sendHolds
  constructor <;> simp

@[simp] theorem sendWrites_clock (s : State) (c : Cmd) (cs : List Host.Cell) :
    (sendWrites s c cs).pending = s.pending ∧ (sendWrites s c cs).localTime = s.localTime := by
  unfold sendWrites
  constructor <;> simp

@[simp] theorem controlStep_clock (owns : Desc → Bool) (checks : State → Cmd → List Check) (act : State → Cmd → State) (ctx idx : Nat)
    (s : State) (h : ∀ s c, (act s c).pending = s.pending ∧ (act s c).localTime = s.localTime) :
    (controlStep owns checks act ctx idx s).pending = s.pending ∧ (controlStep owns checks act ctx idx s).localTime = s.localTime := by
  unfold controlStep
  constructor <;> (try dsimp only) <;> (repeat' (split <;> (try dsimp only))) <;>
    simp [h]

@[simp] theorem fenceAct_clock (s : State) (c : Cmd) :
    (fenceAct s c).pending = s.pending ∧ (fenceAct s c).localTime = s.localTime := by
  unfold fenceAct
  constructor <;> (try dsimp only) <;> (repeat' (split <;> (try dsimp only))) <;> simp

@[simp] theorem waitJudge_clock (s : State) (c : Cmd) :
    (waitJudge s c).pending = s.pending ∧ (waitJudge s c).localTime = s.localTime := by
  unfold waitJudge
  constructor <;> (try dsimp only) <;> (repeat' (split <;> (try dsimp only))) <;> simp

@[simp] theorem waitRead_clock (s : State) (c : Cmd) :
    (waitRead s c).pending = s.pending ∧ (waitRead s c).localTime = s.localTime := by
  unfold waitRead
  constructor <;> (try dsimp only) <;> (repeat' (split <;> (try dsimp only))) <;> simp

@[simp] theorem waitPoll_clock (ctx idx : Nat) (s : State) :
    (waitPoll ctx idx s).pending = s.pending ∧ (waitPoll ctx idx s).localTime = s.localTime := by
  unfold waitPoll
  constructor <;> (try dsimp only) <;> (repeat' (split <;> (try dsimp only))) <;> simp

@[simp] theorem waitTimeout_clock (ctx idx : Nat) (s : State) :
    (waitTimeout ctx idx s).pending = s.pending ∧ (waitTimeout ctx idx s).localTime = s.localTime := by
  unfold waitTimeout
  constructor <;> (try dsimp only) <;> (repeat' (split <;> (try dsimp only))) <;> simp

@[simp] theorem wakeWaits_clock (s : State) (a : Nat) :
    (wakeWaits s a).pending = s.pending ∧ (wakeWaits s a).localTime = s.localTime := by
  unfold wakeWaits
  constructor <;> simp

theorem applySignal_clock {s t : State} {op a v r : Nat} (h : applySignal s op a v = .done t r) :
    t.pending = s.pending ∧ t.localTime = s.localTime := by
  unfold applySignal at h
  split at h <;> try cases h
  dsimp only at h
  split at h <;> try cases h
  split at h <;> cases h
  simp

@[simp] theorem signalAct_clock (s : State) (c : Cmd) :
    (signalAct s c).pending = s.pending ∧ (signalAct s c).localTime = s.localTime := by
  unfold signalAct
  dsimp only
  split
  · simp
  split
  · split <;> simp
  split
  · simp
  · simp
  · rename_i h; simpa using applySignal_clock h

theorem signalDeliver_clock {s t : State} {f : Flit} (h : signalDeliver s f = some t) :
    t.pending = s.pending ∧ t.localTime = s.localTime := by
  unfold signalDeliver at h
  dsimp only at h
  split at h
  · cases h
  · cases h; simp
  · rename_i h1; cases h; simpa using applySignal_clock h1

@[simp] theorem signalAck_clock (s : State) (c : Cmd) (f : Flit) :
    (signalAck s c f).pending = s.pending ∧ (signalAck s c f).localTime = s.localTime := by
  unfold signalAck
  constructor <;> simp

@[simp] theorem huddleEnd_clock (epoch : Nat) (st : Status) (id : Nat) (s : State) (a : HuddleArrival) :
    (huddleEnd epoch st id s a).pending = s.pending ∧ (huddleEnd epoch st id s a).localTime = s.localTime := by
  unfold huddleEnd
  constructor <;> (try dsimp only) <;> (repeat' (split <;> (try dsimp only))) <;> simp

@[simp] theorem setHuddle_clock (s : State) (id : Nat) (h : Huddle) :
    (setHuddle s id h).pending = s.pending ∧ (setHuddle s id h).localTime = s.localTime := by
  unfold setHuddle
  constructor <;> simp

@[simp] theorem huddleArrive_clock (s : State) (id : Nat) (a : HuddleArrival) (epoch n timeout : Nat) :
    (huddleArrive s id a epoch n timeout).pending = s.pending ∧ (huddleArrive s id a epoch n timeout).localTime = s.localTime := by
  unfold huddleArrive
  constructor <;> (try dsimp only) <;> (repeat' (split <;> (try dsimp only))) <;> simp

@[simp] theorem huddleAbort_clock (s : State) (id : Nat) (st : Status) (gone : Option Nat) :
    (huddleAbort s id st gone).pending = s.pending ∧ (huddleAbort s id st gone).localTime = s.localTime := by
  unfold huddleAbort
  constructor <;> simp

@[simp] theorem huddleAct_clock (s : State) (c : Cmd) :
    (huddleAct s c).pending = s.pending ∧ (huddleAct s c).localTime = s.localTime := by
  unfold huddleAct
  constructor <;> (try dsimp only) <;> (repeat' (split <;> (try dsimp only))) <;> simp

@[simp] theorem huddleForget_clock (s : State) (id module tag : Nat) :
    (huddleForget s id module tag).pending = s.pending ∧ (huddleForget s id module tag).localTime = s.localTime := by
  unfold huddleForget
  constructor <;> simp

@[simp] theorem huddleWithdraw_clock (s : State) (c : Cmd) :
    (huddleWithdraw s c).pending = s.pending ∧ (huddleWithdraw s c).localTime = s.localTime := by
  unfold huddleWithdraw
  constructor <;> (try dsimp only) <;> (repeat' (split <;> (try dsimp only))) <;> simp

@[simp] theorem huddleDeliver_clock (s : State) (f : Flit) :
    (huddleDeliver s f).pending = s.pending ∧ (huddleDeliver s f).localTime = s.localTime := by
  unfold huddleDeliver
  constructor <;> (try dsimp only) <;> (repeat' (split <;> (try dsimp only))) <;> simp

@[simp] theorem huddleTimeout_clock (id : Nat) (s : State) :
    (huddleTimeout id s).pending = s.pending ∧ (huddleTimeout id s).localTime = s.localTime := by
  unfold huddleTimeout
  constructor <;> (try dsimp only) <;> (repeat' (split <;> (try dsimp only))) <;> simp

@[simp] theorem huddleDeaths_clock (s : State) (m : Nat) :
    (huddleDeaths s m).pending = s.pending ∧ (huddleDeaths s m).localTime = s.localTime := by
  unfold huddleDeaths
  constructor <;> simp

@[simp] theorem umpAsk_clock (s : State) (rank scope : Nat) (info : Nat × Nat) :
    (umpAsk s rank scope info).pending = s.pending ∧ (umpAsk s rank scope info).localTime = s.localTime := by
  unfold umpAsk
  constructor <;> (try dsimp only) <;> (repeat' (split <;> (try dsimp only))) <;> simp

@[simp] theorem umpEnd_clock (s : State) (rank scope : Nat) (info : Nat × Nat) :
    (umpEnd s rank scope info).pending = s.pending ∧ (umpEnd s rank scope info).localTime = s.localTime := by
  unfold umpEnd
  constructor <;> simp

@[simp] theorem umpMove_clock (s : State) (a : Activity) :
    (umpMove s a).pending = s.pending ∧ (umpMove s a).localTime = s.localTime := by
  unfold umpMove
  constructor <;> simp

@[simp] theorem snapAct_clock (s : State) (c : Cmd) :
    (snapAct s c).pending = s.pending ∧ (snapAct s c).localTime = s.localTime := by
  unfold snapAct
  constructor <;> (try dsimp only) <;> (repeat' (split <;> (try dsimp only))) <;> simp

@[simp] theorem snapStep_clock (owns : Desc → Bool) (ctx idx : Nat) (s : State) :
    (snapStep owns ctx idx s).pending = s.pending ∧ (snapStep owns ctx idx s).localTime = s.localTime := by
  unfold snapStep
  (repeat' split) <;> simp

@[simp] theorem restoreStream_clock (ctx : Nat) (s : State) (r : Nat × W64 × W64) :
    (restoreStream ctx s r).pending = s.pending ∧ (restoreStream ctx s r).localTime = s.localTime := by
  unfold restoreStream
  constructor <;> (try dsimp only) <;> (repeat' (split <;> (try dsimp only))) <;> simp

@[simp] theorem snapCommit_clock (s : State) (c : Cmd) :
    (snapCommit s c).pending = s.pending ∧ (snapCommit s c).localTime = s.localTime := by
  unfold snapCommit
  constructor <;> (try dsimp only) <;> (repeat' (split <;> (try dsimp only))) <;> simp

@[simp] theorem snapEnd_clock (s : State) (c : Cmd) :
    (snapEnd s c).pending = s.pending ∧ (snapEnd s c).localTime = s.localTime := by
  unfold snapEnd
  constructor <;> (try dsimp only) <;> (repeat' (split <;> (try dsimp only))) <;> simp

@[simp] theorem setPage_clock (s : State) (p : Nat) (e : Page) :
    (setPage s p e).pending = s.pending ∧ (setPage s p e).localTime = s.localTime := by
  unfold setPage
  constructor <;> simp

@[simp] theorem evictPage_clock (s : State) (p slot : Nat) :
    (evictPage s p slot).pending = s.pending ∧ (evictPage s p slot).localTime = s.localTime := by
  unfold evictPage
  constructor <;> simp

theorem evictOne_clock {s t : State} {z : Zone} (h : evictOne s z = some t) :
    t.pending = s.pending ∧ t.localTime = s.localTime := by
  unfold evictOne at h
  split at h <;> try cases h
  split at h <;> cases h
  simp

theorem freeUp_clock {s t : State} {z : Zone} (h : freeUp s z = some t) :
    t.pending = s.pending ∧ t.localTime = s.localTime := by
  unfold freeUp at h
  split at h
  · cases h; simp
  · exact evictOne_clock h

theorem placePage_clock {s t : State} {p k : Nat} {e : Page} {b : Bool} (h : placePage s p e b = .done t k) :
    t.pending = s.pending ∧ t.localTime = s.localTime := by
  unfold placePage at h
  split at h
  · split at h <;> cases h
  · rename_i h1
    have h2 := freeUp_clock h1
    dsimp only at h
    cases h
    split <;> simpa using h2

theorem recallPage_clock {s t : State} {p k : Nat} {e : Page} (h : recallPage s p e = .done t k) :
    t.pending = s.pending ∧ t.localTime = s.localTime := by
  unfold recallPage at h
  split at h <;> try cases h
  exact placePage_clock h

@[simp] theorem pageRecall_clock (p : Nat) (s : State) :
    (pageRecall p s).pending = s.pending ∧ (pageRecall p s).localTime = s.localTime := by
  unfold pageRecall
  split
  · split
    · split
      · rename_i h; exact recallPage_clock h
      · simp
    · simp
  · simp

@[simp] theorem evictUntil_clock (z : Zone) (n : Nat) (s : State) :
    (evictUntil z n s).pending = s.pending ∧ (evictUntil z n s).localTime = s.localTime := by
  induction n generalizing s with
  | zero => simp [evictUntil]
  | succ n ih =>
    unfold evictUntil
    split
    · simp
    · split
      · rename_i h
        have h2 := evictOne_clock h
        simp [ih, h2]
      · simp

@[simp] theorem pageEviction_clock (die mode sel : Nat) (s : State) :
    (pageEviction die mode sel s).pending = s.pending ∧ (pageEviction die mode sel s).localTime = s.localTime := by
  unfold pageEviction
  constructor <;> (try dsimp only) <;> (repeat' (split <;> (try dsimp only))) <;> simp

@[simp] theorem ageingPeriod_clock (s : State) :
    (ageingPeriod s).pending = s.pending ∧ (ageingPeriod s).localTime = s.localTime := by
  unfold ageingPeriod
  constructor <;> (try dsimp only) <;> (repeat' (split <;> (try dsimp only))) <;> simp

@[simp] theorem touchPages_clock (s : State) (ps : List Nat) :
    (touchPages s ps).pending = s.pending ∧ (touchPages s ps).localTime = s.localTime := by
  unfold touchPages
  constructor <;> simp

@[simp] theorem losePages_clock (s : State) :
    (losePages s).pending = s.pending ∧ (losePages s).localTime = s.localTime := by
  unfold losePages
  constructor <;> simp

theorem poPage_clock {s t : State} {op p k : Nat} (h : poPage op s p = .done t k) :
    t.pending = s.pending ∧ t.localTime = s.localTime := by
  unfold poPage at h
  split at h
  · exact placePage_clock h
  · cases h
  · cases h
  · split at h <;> cases h
    simp
  · split at h
    · cases h; simp
    · split at h
      · rename_i h1; cases h; simpa using recallPage_clock h1
      · rename_i h1; exact (h1 _ _ h).elim
    · cases h
  · cases h; simp
  · split at h
    · cases h
    · split at h
      · split at h <;> cases h
        simp
      · cases h
  · dsimp only at h
    split at h <;> cases h
    simp
  · split at h
    · cases h; simp
    · exact recallPage_clock h
    · cases h
  · cases h

theorem poAll_clock {op n k : Nat} {s t : State} {ps : List Nat} (h : poAll op s n ps = .done t k) :
    t.pending = s.pending ∧ t.localTime = s.localTime := by
  induction ps generalizing s n with
  | nil => cases h; simp
  | cons p ps ih =>
    unfold poAll at h
    split at h
    · rename_i h1
      have h2 := poPage_clock h1
      have h3 := ih h
      exact ⟨h3.1.trans h2.1, h3.2.trans h2.2⟩
    · rename_i h1
      exact (h1 _ _ h).elim

@[simp] theorem retireReport_clock (s0 s : State) (ps : List Nat) :
    (retireReport s0 s ps).pending = s.pending ∧ (retireReport s0 s ps).localTime = s.localTime := by
  unfold retireReport
  have h : ∀ (s : State) (d : Nat) (b : Prop) [Decidable b] (f : State → State), ((f s).pending = s.pending ∧ (f s).localTime = s.localTime) →
      ((if b then f s else s).pending = s.pending ∧ (if b then f s else s).localTime = s.localTime) := by
    intro s d b _ f hf; split <;> simp [hf]
  constructor <;> (try dsimp only) <;> simp [apply_ite]

theorem poolCommit_clock {s t : State} {c : Cmd} {k : Nat} (h : poolCommit s c = .done t k) :
    t.pending = s.pending ∧ t.localTime = s.localTime := by
  unfold poolCommit at h
  dsimp only at h
  split at h
  · rename_i h1
    have h2 := poAll_clock h1
    cases h
    split <;> simpa using h2
  · rename_i h1
    exact (h1 _ _ h).elim

@[simp] theorem retireAsk_clock (s : State) (c : Cmd) :
    (retireAsk s c).pending = s.pending ∧ (retireAsk s c).localTime = s.localTime := by
  unfold retireAsk
  constructor <;> (try dsimp only) <;> (repeat' (split <;> (try dsimp only))) <;> simp_all [apply_ite]

@[simp] theorem poolStep_clock (k ctx idx : Nat) (s : State) :
    (poolStep k ctx idx s).pending = s.pending ∧ (poolStep k ctx idx s).localTime = s.localTime := by
  unfold poolStep
  (repeat' split) <;> simp [poSpec]

@[simp] theorem writeDoorbell_clock (s : State) (n : Nat) :
    (writeDoorbell s n).pending = s.pending ∧ (writeDoorbell s n).localTime = s.localTime := by
  unfold writeDoorbell
  constructor <;> (try dsimp only) <;> (repeat' (split <;> (try dsimp only))) <;> simp

@[simp] theorem putRecord_clock (s : State) (n : Nat) (r : Record) :
    (putRecord s n r).pending = s.pending ∧ (putRecord s n r).localTime = s.localTime := by
  unfold putRecord
  constructor <;> simp

@[simp] theorem recordIrq_clock (s : State) (n : Nat) :
    (recordIrq s n).pending = s.pending ∧ (recordIrq s n).localTime = s.localTime := by
  unfold recordIrq
  constructor <;> (try dsimp only) <;> (repeat' (split <;> (try dsimp only))) <;> simp

@[simp] theorem irqHoldoffExpiry_clock (n : Nat) (s : State) :
    (irqHoldoffExpiry n s).pending = s.pending ∧ (irqHoldoffExpiry n s).localTime = s.localTime := by
  unfold irqHoldoffExpiry
  constructor <;> (try dsimp only) <;> (repeat' (split <;> (try dsimp only))) <;> simp

@[simp] theorem ctxFlags_clock (s : State) (n mask : Nat) :
    (ctxFlags s n mask).pending = s.pending ∧ (ctxFlags s n mask).localTime = s.localTime := by
  unfold ctxFlags
  constructor <;> simp

@[simp] theorem discardUnvalidated_clock (s : State) (n : Nat) :
    (discardUnvalidated s n).pending = s.pending ∧ (discardUnvalidated s n).localTime = s.localTime := by
  unfold discardUnvalidated
  constructor <;> (try dsimp only) <;> (repeat' (split <;> (try dsimp only))) <;> simp

@[simp] theorem haltCtx_clock (s : State) (n : Nat) (r : HaltReason) (idx : W32) (mask : Nat) :
    (haltCtx s n r idx mask).pending = s.pending ∧ (haltCtx s n r idx mask).localTime = s.localTime := by
  unfold haltCtx
  constructor <;> simp

@[simp] theorem ringAccessError_clock (n : Nat) (s : State) :
    (ringAccessError n s).pending = s.pending ∧ (ringAccessError n s).localTime = s.localTime := by
  unfold ringAccessError
  constructor <;> (try dsimp only) <;> (repeat' (split <;> (try dsimp only))) <;> simp

@[simp] theorem doorbellPoll_clock (n : Nat) (s : State) :
    (doorbellPoll n s).pending = s.pending ∧ (doorbellPoll n s).localTime = s.localTime := by
  unfold doorbellPoll
  constructor <;> (try dsimp only) <;> (repeat' (split <;> (try dsimp only))) <;> simp

@[simp] theorem killBorrowed_clock (s : State) (q : Nat) :
    (killBorrowed s q).pending = s.pending ∧ (killBorrowed s q).localTime = s.localTime := by
  unfold killBorrowed
  constructor <;> simp

@[simp] theorem answered_clock (s : State) :
    (answered s).pending = s.pending ∧ (answered s).localTime = s.localTime := by
  unfold answered
  constructor <;> simp

@[simp] theorem pollResult_clock (n sqTail cqHead : Nat) (s : State) :
    (pollResult n sqTail cqHead s).pending = s.pending ∧ (pollResult n sqTail cqHead s).localTime = s.localTime := by
  unfold pollResult
  constructor <;> (try dsimp only) <;> (repeat' (split <;> (try dsimp only))) <;> simp

@[simp] theorem descriptorFetch_clock (n : Nat) (d : Desc) (s : State) :
    (descriptorFetch n d s).pending = s.pending ∧ (descriptorFetch n d s).localTime = s.localTime := by
  unfold descriptorFetch
  constructor <;> (try dsimp only) <;> (repeat' (split <;> (try dsimp only))) <;> simp

@[simp] theorem tellNext_clock (s : State) (c : Cmd) :
    (tellNext s c).pending = s.pending ∧ (tellNext s c).localTime = s.localTime := by
  unfold tellNext
  constructor <;> (try dsimp only) <;> (repeat' (split <;> (try dsimp only))) <;> simp

@[simp] theorem dropCmd_clock (s : State) (c : Cmd) :
    (dropCmd s c).pending = s.pending ∧ (dropCmd s c).localTime = s.localTime := by
  unfold dropCmd
  constructor <;> simp

@[simp] theorem stopOnError_clock (s : State) (c : Cmd) :
    (stopOnError s c).pending = s.pending ∧ (stopOnError s c).localTime = s.localTime := by
  unfold stopOnError
  constructor <;> (try dsimp only) <;> (repeat' (split <;> (try dsimp only))) <;> simp

@[simp] theorem countLive_clock (s : State) (c : Cmd) :
    (countLive s c).pending = s.pending ∧ (countLive s c).localTime = s.localTime := by
  unfold countLive
  constructor <;> (try dsimp only) <;> (repeat' (split <;> (try dsimp only))) <;> simp

@[simp] theorem recordWrite_clock (n idx : Nat) (s : State) :
    (recordWrite n idx s).pending = s.pending ∧ (recordWrite n idx s).localTime = s.localTime := by
  unfold recordWrite
  constructor <;> (try dsimp only) <;> (repeat' (split <;> (try dsimp only))) <;> simp

@[simp] theorem flushHeld_clock (s : State) (n : Nat) :
    (flushHeld s n).pending = s.pending ∧ (flushHeld s n).localTime = s.localTime := by
  unfold flushHeld
  constructor <;> (try dsimp only) <;> (repeat' (split <;> (try dsimp only))) <;> simp

@[simp] theorem withdraw_clock (s : State) (c : Cmd) :
    (withdraw s c).pending = s.pending ∧ (withdraw s c).localTime = s.localTime := by
  unfold withdraw
  constructor <;> (try dsimp only) <;> (repeat' (split <;> (try dsimp only))) <;> simp

@[simp] theorem killWith_clock (s : State) (c : Cmd) (st : Status) :
    (killWith s c st).pending = s.pending ∧ (killWith s c st).localTime = s.localTime := by
  unfold killWith
  constructor <;> (try dsimp only) <;> (repeat' (split <;> (try dsimp only))) <;> simp

@[simp] theorem killAgain_clock (s : State) (c : Cmd) :
    (killAgain s c).pending = s.pending ∧ (killAgain s c).localTime = s.localTime := by
  unfold killAgain
  constructor <;> simp

@[simp] theorem commandKill_clock (n idx : Nat) (s : State) :
    (commandKill n idx s).pending = s.pending ∧ (commandKill n idx s).localTime = s.localTime := by
  unfold commandKill
  constructor <;> (try dsimp only) <;> (repeat' (split <;> (try dsimp only))) <;> simp

@[simp] theorem killAll_clock (s : State) (n : Nat) (st : Status) :
    (killAll s n st).pending = s.pending ∧ (killAll s n st).localTime = s.localTime := by
  unfold killAll
  apply seqAll_clock
  intro s x
  split
  · split <;> simp
  · simp

@[simp] theorem endEntry_clock (s : State) (n : Nat) :
    (endEntry s n).pending = s.pending ∧ (endEntry s n).localTime = s.localTime := by
  unfold endEntry
  constructor <;> (try dsimp only) <;> (repeat' (split <;> (try dsimp only))) <;> simp

@[simp] theorem ctlWrite_clock (n val : Nat) (f : State → State) (s : State) (hf : ∀ x0, (f x0).pending = x0.pending ∧ (f x0).localTime = x0.localTime) :
    (ctlWrite n val f s).pending = s.pending ∧ (ctlWrite n val f s).localTime = s.localTime := by
  unfold ctlWrite
  constructor <;> (try dsimp only) <;> (repeat' (split <;> (try dsimp only))) <;> simp [*]

@[simp] theorem contextStop_clock (n : Nat) (s : State) :
    (contextStop n s).pending = s.pending ∧ (contextStop n s).localTime = s.localTime := by
  unfold contextStop
  constructor <;> (try dsimp only) <;> (repeat' (split <;> (try dsimp only))) <;> simp

@[simp] theorem contextStopDone_clock (n : Nat) (s : State) :
    (contextStopDone n s).pending = s.pending ∧ (contextStopDone n s).localTime = s.localTime := by
  unfold contextStopDone
  constructor <;> (try dsimp only) <;> (repeat' (split <;> (try dsimp only))) <;> simp

@[simp] theorem contextResume_clock (n : Nat) (s : State) :
    (contextResume n s).pending = s.pending ∧ (contextResume n s).localTime = s.localTime := by
  unfold contextResume
  constructor <;> (try dsimp only) <;> (repeat' (split <;> (try dsimp only))) <;> simp

@[simp] theorem contextReset_clock (n : Nat) (s : State) :
    (contextReset n s).pending = s.pending ∧ (contextReset n s).localTime = s.localTime := by
  unfold contextReset
  constructor <;> (try dsimp only) <;> (repeat' (split <;> (try dsimp only))) <;> simp

@[simp] theorem freeBranches_clock (s : State) (n : Nat) :
    (freeBranches s n).pending = s.pending ∧ (freeBranches s n).localTime = s.localTime := by
  unfold freeBranches
  constructor <;> simp

@[simp] theorem clearCtx_clock (s : State) (n : Nat) :
    (clearCtx s n).pending = s.pending ∧ (clearCtx s n).localTime = s.localTime := by
  unfold clearCtx
  constructor <;> (try dsimp only) <;> (repeat' (split <;> (try dsimp only))) <;> simp

@[simp] theorem contextResetDone_clock (n : Nat) (s : State) :
    (contextResetDone n s).pending = s.pending ∧ (contextResetDone n s).localTime = s.localTime := by
  unfold contextResetDone
  constructor <;> (try dsimp only) <;> (repeat' (split <;> (try dsimp only))) <;> simp_all [apply_ite]

@[simp] theorem contextEnable_clock (n : Nat) (s : State) :
    (contextEnable n s).pending = s.pending ∧ (contextEnable n s).localTime = s.localTime := by
  unfold contextEnable
  constructor <;> (try dsimp only) <;> (repeat' (split <;> (try dsimp only))) <;> simp

@[simp] theorem noteRun_clock (s : State) (n : Nat) :
    (noteRun s n).pending = s.pending ∧ (noteRun s n).localTime = s.localTime := by
  unfold noteRun
  constructor <;> simp

@[simp] theorem ungate_clock (s : State) (r : Nat) :
    (ungate s r).pending = s.pending ∧ (ungate s r).localTime = s.localTime := by
  unfold ungate
  constructor <;> simp

@[simp] theorem placeOn_clock (s0 : State) (c : Cmd) (q : Nat) (borrowed : Bool) :
    (placeOn s0 c q borrowed).pending = s0.pending ∧ (placeOn s0 c q borrowed).localTime = s0.localTime := by
  unfold placeOn
  constructor <;> (try dsimp only) <;> (repeat' (split <;> (try dsimp only))) <;> simp

@[simp] theorem placeFree_clock (s : State) (c : Cmd) :
    (placeFree s c).pending = s.pending ∧ (placeFree s c).localTime = s.localTime := by
  unfold placeFree
  constructor <;> (try dsimp only) <;> (repeat' (split <;> (try dsimp only))) <;> simp

@[simp] theorem commandPlace_clock (n idx : Nat) (s : State) :
    (commandPlace n idx s).pending = s.pending ∧ (commandPlace n idx s).localTime = s.localTime := by
  unfold commandPlace
  constructor <;> (try dsimp only) <;> (repeat' (split <;> (try dsimp only))) <;> simp

@[simp] theorem closeStep_clock (s : State) (c : Cmd) :
    (closeStep s c).pending = s.pending ∧ (closeStep s c).localTime = s.localTime := by
  unfold closeStep
  constructor <;> (try dsimp only) <;> (repeat' (split <;> (try dsimp only))) <;> simp

@[simp] theorem settle_clock (s : State) (c : Cmd) :
    (settle s c).pending = s.pending ∧ (settle s c).localTime = s.localTime := by
  unfold settle
  constructor <;> (try dsimp only) <;> (repeat' (split <;> (try dsimp only))) <;> simp

@[simp] theorem settleAll_clock (s : State) :
    (settleAll s).pending = s.pending ∧ (settleAll s).localTime = s.localTime := by
  unfold settleAll
  constructor <;> simp

theorem txFinal_clock {s t : State} {c : Cmd} {k : TxM (Nat × List BrOp)} {w : Work} {ops : List BrOp} {hs : List Nat}
    (h : txFinal s c k = .ready t w ops hs) : t = s := by
  unfold txFinal at h
  split at h <;> cases h
  rfl

theorem finalOf_clock {s t : State} {c : Cmd} {w : Work} {ops : List BrOp} {hs : List Nat}
    (h : finalOf s c = .ready t w ops hs) : t.pending = s.pending ∧ t.localTime = s.localTime := by
  unfold finalOf at h
  split at h
  case h_2 =>
    split at h <;> try cases h
    rename_i h1
    exact poolCommit_clock h1
  all_goals (rw [txFinal_clock h]; exact ⟨rfl, rfl⟩)

@[simp] theorem endCmd_clock (s : State) (c : Cmd) (st : Status) :
    (endCmd s c st).pending = s.pending ∧ (endCmd s c st).localTime = s.localTime := by
  unfold endCmd
  constructor <;> (try dsimp only) <;> (repeat' (split <;> (try dsimp only))) <;> simp

@[simp] theorem sendCommits_clock (s : State) (c : Cmd) (cs : List Host.Cell) (mods : List Nat) :
    (sendCommits s c cs mods).pending = s.pending ∧ (sendCommits s c cs mods).localTime = s.localTime := by
  unfold sendCommits
  constructor <;> simp

@[simp] theorem makeVisible_clock (s : State) (c : Cmd) (ops : List BrOp) (heads : List Nat) :
    (makeVisible s c ops heads).pending = s.pending ∧ (makeVisible s c ops heads).localTime = s.localTime := by
  unfold makeVisible
  constructor <;> simp

theorem commitHeld_clock (s : State) (c : Cmd) (ops : List BrOp) (heads : List Nat) (s0 : State) (c0 : Cmd)
    (h : s.pending = s0.pending ∧ s.localTime = s0.localTime) :
    (commitHeld s c ops heads s0 c0).pending = s0.pending ∧ (commitHeld s c ops heads s0 c0).localTime = s0.localTime := by
  unfold commitHeld
  constructor <;> dsimp only <;> (repeat' (split <;> (try dsimp only))) <;> simp [h]

@[simp] theorem commitIssued_clock (s : State) (c : Cmd) :
    (commitIssued s c).pending = s.pending ∧ (commitIssued s c).localTime = s.localTime := by
  unfold commitIssued
  split
  · simp
  split
  · simp
  split
  · simp
  · simp
  · simp
  · simp
  · rename_i h; exact commitHeld_clock _ _ _ _ _ _ (finalOf_clock h)

@[simp] theorem commandCommit_clock (n idx : Nat) (s : State) :
    (commandCommit n idx s).pending = s.pending ∧ (commandCommit n idx s).localTime = s.localTime := by
  unfold commandCommit
  constructor <;> (try dsimp only) <;> (repeat' (split <;> (try dsimp only))) <;> simp

@[simp] theorem generationRetry_clock (n idx : Nat) (s : State) :
    (generationRetry n idx s).pending = s.pending ∧ (generationRetry n idx s).localTime = s.localTime := by
  unfold generationRetry
  constructor <;> (try dsimp only) <;> (repeat' (split <;> (try dsimp only))) <;> simp

@[simp] theorem lookasideFill_clock (r head token : Nat) (s : State) :
    (lookasideFill r head token s).pending = s.pending ∧ (lookasideFill r head token s).localTime = s.localTime := by
  unfold lookasideFill
  constructor <;> (try dsimp only) <;> (repeat' (split <;> (try dsimp only))) <;> simp

@[simp] theorem copyLines_clock (s : State) (ps : List (Nat × Nat)) :
    (copyLines s ps).pending = s.pending ∧ (copyLines s ps).localTime = s.localTime := by
  unfold copyLines
  constructor <;> simp

@[simp] theorem saveCopy_clock (s : State) (n : Nat) (ranges : Option (List (Nat × Nat))) :
    (saveCopy s n ranges).pending = s.pending ∧ (saveCopy s n ranges).localTime = s.localTime := by
  unfold saveCopy
  constructor <;> simp

@[simp] theorem restoreCopy_clock (s : State) (n : Nat) :
    (restoreCopy s n).pending = s.pending ∧ (restoreCopy s n).localTime = s.localTime := by
  unfold restoreCopy
  constructor <;> (try dsimp only) <;> (repeat' (split <;> (try dsimp only))) <;> simp

@[simp] theorem evictKills_clock (s : State) (n : Nat) :
    (evictKills s n).pending = s.pending ∧ (evictKills s n).localTime = s.localTime := by
  unfold evictKills
  constructor <;> simp

@[simp] theorem beginSave_clock (s : State) (n : Nat) (ranges : Option (List (Nat × Nat))) :
    (beginSave s n ranges).pending = s.pending ∧ (beginSave s n ranges).localTime = s.localTime := by
  unfold beginSave
  constructor <;> simp

@[simp] theorem contextEvict_clock (n r : Nat) (s : State) :
    (contextEvict n r s).pending = s.pending ∧ (contextEvict n r s).localTime = s.localTime := by
  unfold contextEvict
  constructor <;> (try dsimp only) <;> (repeat' (split <;> (try dsimp only))) <;> simp

@[simp] theorem markWaitTimeout_clock (n : Nat) (s : State) :
    (markWaitTimeout n s).pending = s.pending ∧ (markWaitTimeout n s).localTime = s.localTime := by
  unfold markWaitTimeout
  constructor <;> (try dsimp only) <;> (repeat' (split <;> (try dsimp only))) <;> simp

@[simp] theorem standbySave_clock (s : State) :
    (standbySave s).pending = s.pending ∧ (standbySave s).localTime = s.localTime := by
  unfold standbySave
  constructor <;> (try dsimp only) <;> (repeat' (split <;> (try dsimp only))) <;> simp

@[simp] theorem contextSaveDone_clock (n : Nat) (s : State) :
    (contextSaveDone n s).pending = s.pending ∧ (contextSaveDone n s).localTime = s.localTime := by
  unfold contextSaveDone
  constructor <;> (try dsimp only) <;> (repeat' (split <;> (try dsimp only))) <;> simp

@[simp] theorem contextRestore_clock (n : Nat) (s : State) :
    (contextRestore n s).pending = s.pending ∧ (contextRestore n s).localTime = s.localTime := by
  unfold contextRestore
  constructor <;> (try dsimp only) <;> (repeat' (split <;> (try dsimp only))) <;> simp

@[simp] theorem contextRestoreDone_clock (n : Nat) (s : State) :
    (contextRestoreDone n s).pending = s.pending ∧ (contextRestoreDone n s).localTime = s.localTime := by
  unfold contextRestoreDone
  constructor <;> (try dsimp only) <;> (repeat' (split <;> (try dsimp only))) <;> simp

@[simp] theorem moveBranch_clock (s : State) (m : Nat × Nat) :
    (moveBranch s m).pending = s.pending ∧ (moveBranch s m).localTime = s.localTime := by
  unfold moveBranch
  constructor <;> (try dsimp only) <;> (repeat' (split <;> (try dsimp only))) <;> simp

@[simp] theorem moveBranches_clock (n : Nat) (s : State) (ms : List (Nat × Nat)) :
    (moveBranches n s ms).pending = s.pending ∧ (moveBranches n s ms).localTime = s.localTime := by
  induction ms generalizing n s with
  | nil => cases n <;> simp [moveBranches]
  | cons m ms ih =>
    cases n with
    | zero => simp [moveBranches]
    | succ n => unfold moveBranches; split <;> simp [ih]

@[simp] theorem placementLoop_clock (rates : List Nat) (moves : List (Nat × Nat)) (s : State) :
    (placementLoop rates moves s).pending = s.pending ∧ (placementLoop rates moves s).localTime = s.localTime := by
  unfold placementLoop
  constructor <;> (try dsimp only) <;> (repeat' (split <;> (try dsimp only))) <;> simp_all [apply_ite]

@[simp] theorem sendOn_clock (s : State) (p mtype : Nat) (data : List Byte) :
    (sendOn s p mtype data).pending = s.pending ∧ (sendOn s p mtype data).localTime = s.localTime := by
  unfold sendOn
  constructor <;> simp

@[simp] theorem flood_clock (s : State) (arrived : Option Nat) (m : Nat) (inc : W32) (cause : Nat) :
    (flood s arrived m inc cause).pending = s.pending ∧ (flood s arrived m inc cause).localTime = s.localTime := by
  unfold flood
  constructor <;> simp

@[simp] theorem redirect_clock (m : Nat) (s : State) (c : Cmd) :
    (redirect m s c).pending = s.pending ∧ (redirect m s c).localTime = s.localTime := by
  unfold redirect
  constructor <;> (try dsimp only) <;> (repeat' (split <;> (try dsimp only))) <;> simp

@[simp] theorem cmdLoses_clock (m : Nat) (s : State) (c : Cmd) :
    (cmdLoses m s c).pending = s.pending ∧ (cmdLoses m s c).localTime = s.localTime := by
  unfold cmdLoses
  constructor <;> (try dsimp only) <;> (repeat' (split <;> (try dsimp only))) <;> simp

theorem eachCmd_clock (s : State) (f : State → Cmd → State)
    (h : ∀ s c, (f s c).pending = s.pending ∧ (f s c).localTime = s.localTime) :
    (eachCmd s f).pending = s.pending ∧ (eachCmd s f).localTime = s.localTime := by
  unfold eachCmd
  apply seqAll_clock
  intro s x
  split
  · exact h _ _
  · simp

@[simp] theorem eachCmd_pending (s : State) (f : State → Cmd → State)
    (h : ∀ s c, (f s c).pending = s.pending ∧ (f s c).localTime = s.localTime) : (eachCmd s f).pending = s.pending := (eachCmd_clock s f h).1
@[simp] theorem eachCmd_localTime (s : State) (f : State → Cmd → State)
    (h : ∀ s c, (f s c).pending = s.pending ∧ (f s c).localTime = s.localTime) : (eachCmd s f).localTime = s.localTime := (eachCmd_clock s f h).2

@[simp] theorem loseModule_clock (s : State) (m : Nat) :
    (loseModule s m).pending = s.pending ∧ (loseModule s m).localTime = s.localTime := by
  unfold loseModule
  constructor <;> (try dsimp only) <;> (repeat' (split <;> (try dsimp only))) <;> simp

@[simp] theorem declareDeath_clock (s : State) (arrived : Option Nat) (m : Nat) (inc : W32) (cause : Nat) :
    (declareDeath s arrived m inc cause).pending = s.pending ∧ (declareDeath s arrived m inc cause).localTime = s.localTime := by
  unfold declareDeath
  constructor <;> (try dsimp only) <;> (repeat' (split <;> (try dsimp only))) <;> simp

@[simp] theorem failModule_clock (s : State) (cause : Nat) :
    (failModule s cause).pending = s.pending ∧ (failModule s cause).localTime = s.localTime := by
  unfold failModule
  constructor <;> simp

@[simp] theorem declareDead_clock (m : Nat) (s : State) :
    (declareDead m s).pending = s.pending ∧ (declareDead m s).localTime = s.localTime := by
  unfold declareDead
  constructor <;> (try dsimp only) <;> (repeat' (split <;> (try dsimp only))) <;> simp

@[simp] theorem unreachableTimeout_clock (m : Nat) (s : State) :
    (unreachableTimeout m s).pending = s.pending ∧ (unreachableTimeout m s).localTime = s.localTime := by
  unfold unreachableTimeout
  constructor <;> (try dsimp only) <;> (repeat' (split <;> (try dsimp only))) <;> simp

@[simp] theorem retryWaiting_clock (s : State) :
    (retryWaiting s).pending = s.pending ∧ (retryWaiting s).localTime = s.localTime := by
  unfold retryWaiting
  constructor <;> simp

@[simp] theorem setDie_clock (s : State) (d : Nat) (x : Die) :
    (setDie s d x).pending = s.pending ∧ (setDie s d x).localTime = s.localTime := by
  unfold setDie
  constructor <;> simp

@[simp] theorem setLinkDie_clock (s : State) (l : Nat) (x : Die) :
    (setLinkDie s l x).pending = s.pending ∧ (setLinkDie s l x).localTime = s.localTime := by
  unfold setLinkDie
  constructor <;> simp

@[simp] theorem haltByDie_clock (s : State) (n : Nat) :
    (haltByDie s n).pending = s.pending ∧ (haltByDie s n).localTime = s.localTime := by
  unfold haltByDie
  constructor <;> (try dsimp only) <;> (repeat' (split <;> (try dsimp only))) <;> simp_all [apply_ite]

@[simp] theorem clearDie_clock (s : State) (d : Nat) :
    (clearDie s d).pending = s.pending ∧ (clearDie s d).localTime = s.localTime := by
  unfold clearDie
  constructor <;> simp

@[simp] theorem beginRecovery_clock (s : State) :
    (beginRecovery s).pending = s.pending ∧ (beginRecovery s).localTime = s.localTime := by
  unfold beginRecovery
  constructor <;> simp

@[simp] theorem dieReset_clock (d : Nat) (s : State) :
    (dieReset d s).pending = s.pending ∧ (dieReset d s).localTime = s.localTime := by
  unfold dieReset
  constructor <;> (try dsimp only) <;> (repeat' (split <;> (try dsimp only))) <;> simp_all [apply_ite]

@[simp] theorem portTo_clock (s : State) (p : Nat) (st : PortState) :
    (portTo s p st).pending = s.pending ∧ (portTo s p st).localTime = s.localTime := by
  unfold portTo
  constructor <;> (try dsimp only) <;> (repeat' (split <;> (try dsimp only))) <;> simp

@[simp] theorem linkDieReset_clock (ld : Nat) (s : State) :
    (linkDieReset ld s).pending = s.pending ∧ (linkDieReset ld s).localTime = s.localTime := by
  unfold linkDieReset
  constructor <;> (try dsimp only) <;> (repeat' (split <;> (try dsimp only))) <;> simp_all [apply_ite]

@[simp] theorem startTraining_clock (s : State) (p : Nat) :
    (startTraining s p).pending = s.pending ∧ (startTraining s p).localTime = s.localTime := by
  unfold startTraining
  constructor <;> (try dsimp only) <;> (repeat' (split <;> (try dsimp only))) <;> simp

@[simp] theorem dieResetDone_clock (link : Bool) (d : Nat) (s : State) :
    (dieResetDone link d s).pending = s.pending ∧ (dieResetDone link d s).localTime = s.localTime := by
  unfold dieResetDone
  constructor <;> (try dsimp only) <;> (repeat' (split <;> (try dsimp only))) <;> simp

@[simp] theorem scratchpadUncorrectable_clock (q a : Nat) (acc : Bool) (s : State) :
    (scratchpadUncorrectable q a acc s).pending = s.pending ∧ (scratchpadUncorrectable q a acc s).localTime = s.localTime := by
  unfold scratchpadUncorrectable
  constructor <;> (try dsimp only) <;> (repeat' (split <;> (try dsimp only))) <;> simp

@[simp] theorem listPage_clock (reason : Nat) (s : State) (p : Nat) :
    (listPage reason s p).pending = s.pending ∧ (listPage reason s p).localTime = s.localTime := by
  unfold listPage
  constructor <;> (try dsimp only) <;> (repeat' (split <;> (try dsimp only))) <;> simp

@[simp] theorem carafeUncorrectable_clock (a reason : Nat) (s : State) :
    (carafeUncorrectable a reason s).pending = s.pending ∧ (carafeUncorrectable a reason s).localTime = s.localTime := by
  unfold carafeUncorrectable
  constructor <;> (try dsimp only) <;> (repeat' (split <;> (try dsimp only))) <;> simp

@[simp] theorem retireQueuePop_clock (s : State) :
    (retireQueuePop s).pending = s.pending ∧ (retireQueuePop s).localTime = s.localTime := by
  unfold retireQueuePop
  constructor <;> simp

@[simp] theorem modCarafe_clock (s : State) (d : Nat) (f : Carafe → Carafe) :
    (modCarafe s d f).pending = s.pending ∧ (modCarafe s d f).localTime = s.localTime := by
  unfold modCarafe
  constructor <;> simp

@[simp] theorem failCarafe_clock (s : State) (d c : Nat) :
    (failCarafe s d c).pending = s.pending ∧ (failCarafe s d c).localTime = s.localTime := by
  unfold failCarafe
  constructor <;> simp

@[simp] theorem startSubst_clock (s : State) (d c : Nat) (failed : Bool) :
    (startSubst s d c failed).pending = s.pending ∧ (startSubst s d c failed).localTime = s.localTime := by
  unfold startSubst
  constructor <;> (try dsimp only) <;> (repeat' (split <;> (try dsimp only))) <;> simp

@[simp] theorem startWaiting_clock (d n : Nat) (s : State) :
    (startWaiting d n s).pending = s.pending ∧ (startWaiting d n s).localTime = s.localTime := by
  induction n generalizing s with
  | zero => simp [startWaiting]
  | succ n ih => unfold startWaiting; split <;> simp [ih]

@[simp] theorem runChannel_clock (s : State) (d : Nat) :
    (runChannel s d).pending = s.pending ∧ (runChannel s d).localTime = s.localTime := by
  unfold runChannel
  constructor <;> simp

@[simp] theorem askChannel_clock (s : State) (d : Nat) :
    (askChannel s d).pending = s.pending ∧ (askChannel s d).localTime = s.localTime := by
  unfold askChannel
  constructor <;> (try dsimp only) <;> (repeat' (split <;> (try dsimp only))) <;> simp

@[simp] theorem channelSubstitution_clock (d c cause : Nat) (s : State) :
    (channelSubstitution d c cause s).pending = s.pending ∧ (channelSubstitution d c cause s).localTime = s.localTime := by
  unfold channelSubstitution
  constructor <;> (try dsimp only) <;> (repeat' (split <;> (try dsimp only))) <;> simp

@[simp] theorem endSubst_clock (s : State) (d : Nat) :
    (endSubst s d).pending = s.pending ∧ (endSubst s d).localTime = s.localTime := by
  unfold endSubst
  constructor <;> simp

@[simp] theorem channelSwitch_clock (d : Nat) (s : State) :
    (channelSwitch d s).pending = s.pending ∧ (channelSwitch d s).localTime = s.localTime := by
  unfold channelSwitch
  constructor <;> (try dsimp only) <;> (repeat' (split <;> (try dsimp only))) <;> simp

@[simp] theorem channelRetrainDone_clock (d : Nat) (passed : Bool) (s : State) :
    (channelRetrainDone d passed s).pending = s.pending ∧ (channelRetrainDone d passed s).localTime = s.localTime := by
  unfold channelRetrainDone
  constructor <;> (try dsimp only) <;> (repeat' (split <;> (try dsimp only))) <;> simp

@[simp] theorem channelRemap_clock (d : Nat) (s : State) :
    (channelRemap d s).pending = s.pending ∧ (channelRemap d s).localTime = s.localTime := by
  unfold channelRemap
  constructor <;> (try dsimp only) <;> (repeat' (split <;> (try dsimp only))) <;> simp

@[simp] theorem scrubSlice_clock (s : State) (d c lines found : Nat) (ended : Bool) :
    (scrubSlice s d c lines found ended).pending = s.pending ∧ (scrubSlice s d c lines found ended).localTime = s.localTime := by
  unfold scrubSlice
  constructor <;> simp

@[simp] theorem patrolScrub_clock (d c lines found : Nat) (ended : Bool) (s : State) :
    (patrolScrub d c lines found ended s).pending = s.pending ∧ (patrolScrub d c lines found ended s).localTime = s.localTime := by
  unfold patrolScrub
  constructor <;> (try dsimp only) <;> (repeat' (split <;> (try dsimp only))) <;> simp

@[simp] theorem reportCrossing_clock (s : State) (sensor : Nat) (b : BitVec 16) :
    (reportCrossing s sensor b).pending = s.pending ∧ (reportCrossing s sensor b).localTime = s.localTime := by
  unfold reportCrossing
  constructor <;> (try dsimp only) <;> (repeat' (split <;> (try dsimp only))) <;> simp

@[simp] theorem noteTemp_clock (s : State) (sensor reading : Nat) :
    (noteTemp s sensor reading).pending = s.pending ∧ (noteTemp s sensor reading).localTime = s.localTime := by
  unfold noteTemp
  constructor <;> simp

@[simp] theorem carafeThrottle_clock (d l t : Nat) (s : State) :
    (carafeThrottle d l t s).pending = s.pending ∧ (carafeThrottle d l t s).localTime = s.localTime := by
  unfold carafeThrottle
  constructor <;> (try dsimp only) <;> (repeat' (split <;> (try dsimp only))) <;> simp

@[simp] theorem invAll_clock (s : State) :
    (invAll s).pending = s.pending ∧ (invAll s).localTime = s.localTime := by
  unfold invAll
  constructor <;> simp

@[simp] theorem mirrorAll_clock (s : State) :
    (mirrorAll s).pending = s.pending ∧ (mirrorAll s).localTime = s.localTime := by
  unfold mirrorAll
  constructor <;> simp

@[simp] theorem branchDirEnable_clock (lo : Nat) (s : State) :
    (branchDirEnable lo s).pending = s.pending ∧ (branchDirEnable lo s).localTime = s.localTime := by
  unfold branchDirEnable
  constructor <;> (try dsimp only) <;> (repeat' (split <;> (try dsimp only))) <;> simp

@[simp] theorem aclLoad_clock (n lo : Nat) (bs : List Byte) (s : State) :
    (aclLoad n lo bs s).pending = s.pending ∧ (aclLoad n lo bs s).localTime = s.localTime := by
  unfold aclLoad
  constructor <;> (try dsimp only) <;> (repeat' (split <;> (try dsimp only))) <;> simp

theorem bringPage_clock {s t : State} {p k : Nat} (h : bringPage s p = .done t k) :
    t.pending = s.pending ∧ t.localTime = s.localTime := by
  unfold bringPage at h
  split at h
  · cases h
  split at h
  · cases h; simp
  · cases h
  · split at h
    · cases h
    · cases h
    · exact recallPage_clock h

theorem serveRead_clock {s t : State} {f : Flit} (h : serveRead s f = some t) :
    t.pending = s.pending ∧ t.localTime = s.localTime := by
  unfold serveRead at h
  dsimp only at h
  split at h
  · cases h; simp
  split at h
  · cases h
  · cases h; simp
  · rename_i h1; cases h; simpa using bringPage_clock h1

@[simp] theorem landOne_clock (f : Flit) (n idx l : Nat) (s : State) (i : Nat) :
    (landOne f n idx l s i).pending = s.pending ∧ (landOne f n idx l s i).localTime = s.localTime := by
  unfold landOne
  constructor <;> (try dsimp only) <;> (repeat' (split <;> (try dsimp only))) <;> simp

@[simp] theorem landReply_clock (s : State) (c : Cmd) (r : ReadOut) (f : Flit) :
    (landReply s c r f).pending = s.pending ∧ (landReply s c r f).localTime = s.localTime := by
  unfold landReply
  constructor <;> (try dsimp only) <;> (repeat' (split <;> (try dsimp only))) <;> simp

@[simp] theorem replyDeliver_clock (s : State) (f : Flit) :
    (replyDeliver s f).pending = s.pending ∧ (replyDeliver s f).localTime = s.localTime := by
  unfold replyDeliver
  constructor <;> (try dsimp only) <;> (repeat' (split <;> (try dsimp only))) <;> simp

@[simp] theorem putHold_clock (s : State) (h : PeerHold) :
    (putHold s h).pending = s.pending ∧ (putHold s h).localTime = s.localTime := by
  unfold putHold
  constructor <;> simp

@[simp] theorem ackTo_clock (s : State) (f : Flit) (st : Status) :
    (ackTo s f st).pending = s.pending ∧ (ackTo s f st).localTime = s.localTime := by
  unfold ackTo
  constructor <;> simp

theorem holdDeliver_clock {s t : State} {f : Flit} (h : holdDeliver s f = some t) :
    t.pending = s.pending ∧ t.localTime = s.localTime := by
  unfold holdDeliver at h
  split at h
  · cases h; simp
  split at h
  · cases h
  · cases h; simp
  · rename_i h1; cases h; simpa using bringPage_clock h1

@[simp] theorem writeDeliver_clock (s : State) (f : Flit) :
    (writeDeliver s f).pending = s.pending ∧ (writeDeliver s f).localTime = s.localTime := by
  unfold writeDeliver
  constructor <;> simp

theorem bringAll_clock {s t : State} {ps : List Nat} (h : bringAll s ps = some t) :
    t.pending = s.pending ∧ t.localTime = s.localTime := by
  induction ps generalizing s with
  | nil => cases h; simp
  | cons p ps ih =>
    unfold bringAll at h
    split at h
    · cases h
    · exact ih h
    · rename_i h1
      have h2 := bringPage_clock h1
      have h3 := ih h
      exact ⟨h3.1.trans h2.1, h3.2.trans h2.2⟩

theorem commitDeliver_clock {s t : State} {f : Flit} (h : commitDeliver s f = some t) :
    t.pending = s.pending ∧ t.localTime = s.localTime := by
  unfold commitDeliver at h
  dsimp only at h
  split at h
  · cases h
  · rename_i h1; cases h; simpa using bringAll_clock h1

@[simp] theorem holdLapse_clock (src tag : Nat) (s : State) :
    (holdLapse src tag s).pending = s.pending ∧ (holdLapse src tag s).localTime = s.localTime := by
  unfold holdLapse
  constructor <;> (try dsimp only) <;> (repeat' (split <;> (try dsimp only))) <;> simp

@[simp] theorem ackCmd_clock (s : State) (c : Cmd) (f : Flit) :
    (ackCmd s c f).pending = s.pending ∧ (ackCmd s c f).localTime = s.localTime := by
  unfold ackCmd
  constructor <;> (try dsimp only) <;> (repeat' (split <;> (try dsimp only))) <;> simp

@[simp] theorem ackDeliver_clock (s : State) (f : Flit) :
    (ackDeliver s f).pending = s.pending ∧ (ackDeliver s f).localTime = s.localTime := by
  unfold ackDeliver
  constructor <;> (try dsimp only) <;> (repeat' (split <;> (try dsimp only))) <;> simp

@[simp] theorem deathDeliver_clock (s : State) (p : Nat) (f : Flit) :
    (deathDeliver s p f).pending = s.pending ∧ (deathDeliver s p f).localTime = s.localTime := by
  unfold deathDeliver
  constructor <;> (try dsimp only) <;> (repeat' (split <;> (try dsimp only))) <;> simp

@[simp] theorem sendPresent_clock (ps : List Nat) (m : Nat) (inc : W32) (s : State) :
    (sendPresent ps m inc s).pending = s.pending ∧ (sendPresent ps m inc s).localTime = s.localTime := by
  unfold sendPresent
  constructor <;> simp

@[simp] theorem undead_clock (s : State) (m : Nat) :
    (undead s m).pending = s.pending ∧ (undead s m).localTime = s.localTime := by
  unfold undead
  constructor <;> (try dsimp only) <;> (repeat' (split <;> (try dsimp only))) <;> simp

@[simp] theorem presentDeliver_clock (s : State) (p : Nat) (f : Flit) :
    (presentDeliver s p f).pending = s.pending ∧ (presentDeliver s p f).localTime = s.localTime := by
  unfold presentDeliver
  constructor <;> (try dsimp only) <;> (repeat' (split <;> (try dsimp only))) <;> simp

@[simp] theorem forgetOrder_clock (s : State) (m : Nat) :
    (forgetOrder s m).pending = s.pending ∧ (forgetOrder s m).localTime = s.localTime := by
  unfold forgetOrder
  constructor <;> simp

theorem deliver_clock {s t : State} {p : Nat} {m : Msg} (h : deliver s p m = some t) :
    t.pending = s.pending ∧ t.localTime = s.localTime := by
  unfold deliver at h
  dsimp only at h
  split at h
  case h_1 => exact serveRead_clock h
  case h_4 => exact holdDeliver_clock h
  case h_5 => exact commitDeliver_clock h
  case h_9 =>
    split at h
    · split at h
      · cases h
      · exact signalDeliver_clock h
      · rename_i h1
        have h2 := bringPage_clock h1
        have h3 := signalDeliver_clock h
        exact ⟨h3.1.trans h2.1, h3.2.trans h2.2⟩
    · exact signalDeliver_clock h
  all_goals (cases h; simp)

theorem deliverNext_clock {s t : State} {p : Nat} {m : Msg} (h : deliverNext s p m = some t) :
    t.pending = s.pending ∧ t.localTime = s.localTime := by
  unfold deliverNext at h
  dsimp only at h
  cases h1 : deliver s p m with
  | none => rw [h1] at h; cases h
  | some s1 => rw [h1] at h; cases h; simpa using deliver_clock h1

@[simp] theorem drainEarly_clock (p n : Nat) (s : State) :
    (drainEarly p n s).pending = s.pending ∧ (drainEarly p n s).localTime = s.localTime := by
  induction n generalizing s with
  | zero => simp [drainEarly]
  | succ n ih =>
    unfold drainEarly
    split
    · simp
    · split
      · rename_i h
        have h2 := deliverNext_clock h
        simp [ih, h2]
      · simp

@[simp] theorem accept_clock (s : State) (p : Nat) (m : Msg) :
    (accept s p m).pending = s.pending ∧ (accept s p m).localTime = s.localTime := by
  unfold accept
  constructor <;> (try dsimp only) <;> (repeat' (split <;> (try dsimp only))) <;> simp

@[simp] theorem portFlags_clock (s : State) (p mask : Nat) :
    (portFlags s p mask).pending = s.pending ∧ (portFlags s p mask).localTime = s.localTime := by
  unfold portFlags
  constructor <;> simp

@[simp] theorem noteReplay_clock (s : State) (p : Nat) :
    (noteReplay s p).pending = s.pending ∧ (noteReplay s p).localTime = s.localTime := by
  unfold noteReplay
  constructor <;> simp

@[simp] theorem flitReplay_clock (p : Nat) (s : State) :
    (flitReplay p s).pending = s.pending ∧ (flitReplay p s).localTime = s.localTime := by
  unfold flitReplay
  constructor <;> (try dsimp only) <;> (repeat' (split <;> (try dsimp only))) <;> simp

@[simp] theorem forward_clock (s : State) (m : Msg) :
    (forward s m).pending = s.pending ∧ (forward s m).localTime = s.localTime := by
  unfold forward
  constructor <;> simp

@[simp] theorem receive_clock (p : Nat) (m : Msg) (s : State) :
    (receive p m s).pending = s.pending ∧ (receive p m s).localTime = s.localTime := by
  unfold receive
  constructor <;> (try dsimp only) <;> (repeat' (split <;> (try dsimp only))) <;> simp

@[simp] theorem retryEarly_clock (s : State) :
    (retryEarly s).pending = s.pending ∧ (retryEarly s).localTime = s.localTime := by
  unfold retryEarly
  constructor <;> simp

@[simp] theorem portEnable_clock (p : Nat) (on : Bool) (s : State) :
    (portEnable p on s).pending = s.pending ∧ (portEnable p on s).localTime = s.localTime := by
  unfold portEnable
  constructor <;> (try dsimp only) <;> (repeat' (split <;> (try dsimp only))) <;> simp

@[simp] theorem portRetrain_clock (p : Nat) (s : State) :
    (portRetrain p s).pending = s.pending ∧ (portRetrain p s).localTime = s.localTime := by
  unfold portRetrain
  constructor <;> (try dsimp only) <;> (repeat' (split <;> (try dsimp only))) <;> simp

@[simp] theorem announce_clock (s : State) (p : Nat) :
    (announce s p).pending = s.pending ∧ (announce s p).localTime = s.localTime := by
  unfold announce
  constructor <;> (try dsimp only) <;> (repeat' (split <;> (try dsimp only))) <;> simp

@[simp] theorem portTrained_clock (p peer : Nat) (s : State) :
    (portTrained p peer s).pending = s.pending ∧ (portTrained p peer s).localTime = s.localTime := by
  unfold portTrained
  constructor <;> (try dsimp only) <;> (repeat' (split <;> (try dsimp only))) <;> simp

@[simp] theorem portTrainingTimeout_clock (p : Nat) (s : State) :
    (portTrainingTimeout p s).pending = s.pending ∧ (portTrainingTimeout p s).localTime = s.localTime := by
  unfold portTrainingTimeout
  constructor <;> (try dsimp only) <;> (repeat' (split <;> (try dsimp only))) <;> simp

@[simp] theorem portRetryTimer_clock (p : Nat) (s : State) :
    (portRetryTimer p s).pending = s.pending ∧ (portRetryTimer p s).localTime = s.localTime := by
  unfold portRetryTimer
  constructor <;> (try dsimp only) <;> (repeat' (split <;> (try dsimp only))) <;> simp

@[simp] theorem portToWith_clock (s : State) (p : Nat) (st : PortState) (mask : Nat) :
    (portToWith s p st mask).pending = s.pending ∧ (portToWith s p st mask).localTime = s.localTime := by
  unfold portToWith
  constructor <;> simp

@[simp] theorem replayStorm_clock (p : Nat) (s : State) :
    (replayStorm p s).pending = s.pending ∧ (replayStorm p s).localTime = s.localTime := by
  unfold replayStorm
  constructor <;> (try dsimp only) <;> (repeat' (split <;> (try dsimp only))) <;> simp

@[simp] theorem portLockLoss_clock (p : Nat) (s : State) :
    (portLockLoss p s).pending = s.pending ∧ (portLockLoss p s).localTime = s.localTime := by
  unfold portLockLoss
  constructor <;> (try dsimp only) <;> (repeat' (split <;> (try dsimp only))) <;> simp

@[simp] theorem portRecovered_clock (p : Nat) (s : State) :
    (portRecovered p s).pending = s.pending ∧ (portRecovered p s).localTime = s.localTime := by
  unfold portRecovered
  constructor <;> (try dsimp only) <;> (repeat' (split <;> (try dsimp only))) <;> simp

@[simp] theorem recoveryTimeout_clock (p : Nat) (s : State) :
    (recoveryTimeout p s).pending = s.pending ∧ (recoveryTimeout p s).localTime = s.localTime := by
  unfold recoveryTimeout
  constructor <;> (try dsimp only) <;> (repeat' (split <;> (try dsimp only))) <;> simp

@[simp] theorem routeStore_clock (i : Nat) (s : State) :
    (routeStore i s).pending = s.pending ∧ (routeStore i s).localTime = s.localTime := by
  unfold routeStore
  constructor <;> simp

@[simp] theorem routeLoad_clock (i : Nat) (s : State) :
    (routeLoad i s).pending = s.pending ∧ (routeLoad i s).localTime = s.localTime := by
  unfold routeLoad
  constructor <;> simp

@[simp] theorem hubHeartbeatLoss_clock (s : State) :
    (hubHeartbeatLoss s).pending = s.pending ∧ (hubHeartbeatLoss s).localTime = s.localTime := by
  unfold hubHeartbeatLoss
  constructor <;> (try dsimp only) <;> (repeat' (split <;> (try dsimp only))) <;> simp

@[simp] theorem watchdogTimeout_clock (byReferee : Bool) (s : State) :
    (watchdogTimeout byReferee s).pending = s.pending ∧ (watchdogTimeout byReferee s).localTime = s.localTime := by
  unfold watchdogTimeout
  constructor <;> (try dsimp only) <;> (repeat' (split <;> (try dsimp only))) <;> simp

@[simp] theorem takeHubLog_clock (s : State) :
    (takeHubLog s).pending = s.pending ∧ (takeHubLog s).localTime = s.localTime := by
  unfold takeHubLog
  constructor <;> (try dsimp only) <;> (repeat' (split <;> (try dsimp only))) <;> simp

@[simp] theorem baristaRestart_clock (s : State) :
    (baristaRestart s).pending = s.pending ∧ (baristaRestart s).localTime = s.localTime := by
  unfold baristaRestart
  constructor <;> (try dsimp only) <;> (repeat' (split <;> (try dsimp only))) <;> simp

@[simp] theorem wipe_clock (s : State) (a n : Nat) :
    (wipe s a n).pending = s.pending ∧ (wipe s a n).localTime = s.localTime := by
  unfold wipe
  constructor <;> simp

@[simp] theorem wipeScratch_clock (s : State) :
    (wipeScratch s).pending = s.pending ∧ (wipeScratch s).localTime = s.localTime := by
  unfold wipeScratch
  constructor <;> simp

@[simp] theorem wipeCarafes_clock (s : State) :
    (wipeCarafes s).pending = s.pending ∧ (wipeCarafes s).localTime = s.localTime := by
  unfold wipeCarafes
  constructor <;> simp

@[simp] theorem setBank_clock (s : State) (b : Nat) (x : Bank) :
    (setBank s b x).pending = s.pending ∧ (setBank s b x).localTime = s.localTime := by
  unfold setBank
  constructor <;> (try dsimp only) <;> (repeat' (split <;> (try dsimp only))) <;> simp

@[simp] theorem reportBanks_clock (s : State) :
    (reportBanks s).pending = s.pending ∧ (reportBanks s).localTime = s.localTime := by
  unfold reportBanks
  constructor <;> (try dsimp only) <;> (repeat' (split <;> (try dsimp only))) <;> simp

@[simp] theorem startPhase_clock (s0 s : State) (released : Bool) :
    (startPhase s0 s released).pending = s.pending ∧ (startPhase s0 s released).localTime = s.localTime := by
  unfold startPhase
  constructor <;> (try dsimp only) <;> (repeat' (split <;> (try dsimp only))) <;> simp

@[simp] theorem resetModule_clock (s : State) (cause : Nat) (released : Bool) :
    (resetModule s cause released).pending = s.pending ∧ (resetModule s cause released).localTime = s.localTime := by
  simp [resetModule, resetState]

@[simp] theorem resetFor_clock (s : State) (p : Nat) :
    (resetFor s p).pending = s.pending ∧ (resetFor s p).localTime = s.localTime := by
  unfold resetFor
  constructor <;> simp

@[simp] theorem moduleReset_clock (s : State) :
    (moduleReset s).pending = s.pending ∧ (moduleReset s).localTime = s.localTime := by
  unfold moduleReset
  constructor <;> (try dsimp only) <;> (repeat' (split <;> (try dsimp only))) <;> simp

@[simp] theorem calendarBack_clock (s : State) :
    (calendarBack s).pending = s.pending ∧ (calendarBack s).localTime = s.localTime := by
  unfold calendarBack
  constructor <;> (try dsimp only) <;> (repeat' (split <;> (try dsimp only))) <;> simp

@[simp] theorem unpower_clock (s : State) :
    (unpower s).pending = s.pending ∧ (unpower s).localTime = s.localTime := by
  unfold unpower
  constructor <;> simp

@[simp] theorem powerLoss_clock (s : State) :
    (powerLoss s).pending = s.pending ∧ (powerLoss s).localTime = s.localTime := by
  unfold powerLoss
  constructor <;> (try dsimp only) <;> (repeat' (split <;> (try dsimp only))) <;> simp

@[simp] theorem perst_clock (p : Nat) (s : State) :
    (perst p s).pending = s.pending ∧ (perst p s).localTime = s.localTime := by
  unfold perst
  constructor <;> (try dsimp only) <;> (repeat' (split <;> (try dsimp only))) <;> simp

@[simp] theorem reducedFunctionReset_clock (p : Nat) (s : State) :
    (reducedFunctionReset p s).pending = s.pending ∧ (reducedFunctionReset p s).localTime = s.localTime := by
  unfold reducedFunctionReset
  constructor <;> (try dsimp only) <;> (repeat' (split <;> (try dsimp only))) <;> simp

@[simp] theorem perstRelease_clock (p : Nat) (s : State) :
    (perstRelease p s).pending = s.pending ∧ (perstRelease p s).localTime = s.localTime := by
  unfold perstRelease
  constructor <;> (try dsimp only) <;> (repeat' (split <;> (try dsimp only))) <;> simp

@[simp] theorem makeReady_clock (s : State) (p : Nat) :
    (makeReady s p).pending = s.pending ∧ (makeReady s p).localTime = s.localTime := by
  unfold makeReady
  constructor <;> simp

@[simp] theorem functionReady_clock (p : Nat) (s : State) :
    (functionReady p s).pending = s.pending ∧ (functionReady p s).localTime = s.localTime := by
  unfold functionReady
  constructor <;> (try dsimp only) <;> (repeat' (split <;> (try dsimp only))) <;> simp

@[simp] theorem raiseFloor_clock (s : State) :
    (raiseFloor s).pending = s.pending ∧ (raiseFloor s).localTime = s.localTime := by
  unfold raiseFloor
  constructor <;> (try dsimp only) <;> (repeat' (split <;> (try dsimp only))) <;> simp

@[simp] theorem endActivation_clock (s : State) :
    (endActivation s).pending = s.pending ∧ (endActivation s).localTime = s.localTime := by
  unfold endActivation
  constructor <;> (try dsimp only) <;> (repeat' (split <;> (try dsimp only))) <;> simp

@[simp] theorem startupComplete_clock (s : State) :
    (startupComplete s).pending = s.pending ∧ (startupComplete s).localTime = s.localTime := by
  unfold startupComplete
  constructor <;> (try dsimp only) <;> (repeat' (split <;> (try dsimp only))) <;> simp

@[simp] theorem sendPending_clock (s : State) (p : Nat) :
    (sendPending s p).pending = s.pending ∧ (sendPending s p).localTime = s.localTime := by
  unfold sendPending
  constructor <;> simp

@[simp] theorem hostReturns_clock (s : State) (p : Nat) :
    (hostReturns s p).pending = s.pending ∧ (hostReturns s p).localTime = s.localTime := by
  unfold hostReturns
  constructor <;> (try dsimp only) <;> (repeat' (split <;> (try dsimp only))) <;> simp

@[simp] theorem pcieLinkChange_clock (p link speed width : Nat) (flit : Bool) (s : State) :
    (pcieLinkChange p link speed width flit s).pending = s.pending ∧ (pcieLinkChange p link speed width flit s).localTime = s.localTime := by
  unfold pcieLinkChange
  constructor <;> (try dsimp only) <;> (repeat' (split <;> (try dsimp only))) <;> simp

@[simp] theorem loseOwner_clock (s : State) :
    (loseOwner s).pending = s.pending ∧ (loseOwner s).localTime = s.localTime := by
  unfold loseOwner
  constructor <;> (try dsimp only) <;> (repeat' (split <;> (try dsimp only))) <;> simp

@[simp] theorem completionTimeout_clock (p : Nat) (s : State) :
    (completionTimeout p s).pending = s.pending ∧ (completionTimeout p s).localTime = s.localTime := by
  unfold completionTimeout
  constructor <;> (try dsimp only) <;> (repeat' (split <;> (try dsimp only))) <;> simp

@[simp] theorem owningPortLost_clock (s : State) :
    (owningPortLost s).pending = s.pending ∧ (owningPortLost s).localTime = s.localTime := by
  unfold owningPortLost
  constructor <;> (try dsimp only) <;> (repeat' (split <;> (try dsimp only))) <;> simp

@[simp] theorem takeover_clock (p : Nat) (s : State) :
    (takeover p s).pending = s.pending ∧ (takeover p s).localTime = s.localTime := by
  unfold takeover
  constructor <;> (try dsimp only) <;> (repeat' (split <;> (try dsimp only))) <;> simp

@[simp] theorem handoverRequest_clock (p : Nat) (s : State) :
    (handoverRequest p s).pending = s.pending ∧ (handoverRequest p s).localTime = s.localTime := by
  unfold handoverRequest
  constructor <;> (try dsimp only) <;> (repeat' (split <;> (try dsimp only))) <;> simp

theorem apPages_clock {s t : State} {ps : List Nat} (h : apPages s ps = .here t) :
    t.pending = s.pending ∧ t.localTime = s.localTime := by
  induction ps generalizing s with
  | nil => cases h; simp
  | cons p ps ih =>
    unfold apPages at h
    split at h
    · cases h
    · cases h
    · cases h
    · rename_i h1
      have h2 := bringPage_clock h1
      have h3 := ih h
      exact ⟨h3.1.trans h2.1, h3.2.trans h2.2⟩

@[simp] theorem hostReply_clock (s : State) (r : HostReply) :
    (hostReply s r).pending = s.pending ∧ (hostReply s r).localTime = s.localTime := by
  unfold hostReply
  constructor <;> simp

@[simp] theorem badAccess_clock (s : State) :
    (badAccess s).pending = s.pending ∧ (badAccess s).localTime = s.localTime := by
  unfold badAccess
  constructor <;> simp

@[simp] theorem apertureRead_clock (x n : Nat) (s : State) :
    (apertureRead x n s).pending = s.pending ∧ (apertureRead x n s).localTime = s.localTime := by
  unfold apertureRead
  split
  · simp
  split
  · simp
  dsimp only
  split
  · simp
  · simp
  · simp
  · rename_i h; simpa using apPages_clock h

@[simp] theorem aperturePiece_clock (a : Nat) (bs : List Byte) (s : State) :
    (aperturePiece a bs s).pending = s.pending ∧ (aperturePiece a bs s).localTime = s.localTime := by
  unfold aperturePiece
  split
  · simp
  · simp
  · rename_i h; simpa using bringPage_clock h

@[simp] theorem aperturePieces_clock (k a : Nat) (bs : List Byte) (s : State) :
    (aperturePieces k a bs s).pending = s.pending ∧ (aperturePieces k a bs s).localTime = s.localTime := by
  induction k generalizing a bs s with
  | zero => simp [aperturePieces]
  | succ k ih => unfold aperturePieces; split <;> simp [ih]

@[simp] theorem apertureWrite_clock (x : Nat) (bs : List Byte) (s : State) :
    (apertureWrite x bs s).pending = s.pending ∧ (apertureWrite x bs s).localTime = s.localTime := by
  unfold apertureWrite
  constructor <;> simp

@[simp] theorem apertureAtomic_clock (x n : Nat) (op : AtomicOp) (operand compare : Nat) (s : State) :
    (apertureAtomic x n op operand compare s).pending = s.pending ∧
      (apertureAtomic x n op operand compare s).localTime = s.localTime := by
  unfold apertureAtomic
  split
  · simp
  split
  · simp
  dsimp only
  split
  · simp
  · simp
  · simp
  · rename_i h; simpa using bringPage_clock h

@[simp] theorem msixUnmask_clock (v : Nat) (s : State) :
    (msixUnmask v s).pending = s.pending ∧ (msixUnmask v s).localTime = s.localTime := by
  unfold msixUnmask
  constructor <;> (try dsimp only) <;> (repeat' (split <;> (try dsimp only))) <;> simp

@[simp] theorem ideKm_clock (p stream : Nat) (op : IdeKmOp) (s : State) :
    (ideKm p stream op s).pending = s.pending ∧ (ideKm p stream op s).localTime = s.localTime := by
  unfold ideKm
  constructor <;> (try dsimp only) <;> (repeat' (split <;> (try dsimp only))) <;> simp

@[simp] theorem ideIntegrityFail_clock (p stream : Nat) (s : State) :
    (ideIntegrityFail p stream s).pending = s.pending ∧ (ideIntegrityFail p stream s).localTime = s.localTime := by
  unfold ideIntegrityFail
  constructor <;> (try dsimp only) <;> (repeat' (split <;> (try dsimp only))) <;> simp

@[simp] theorem traceEnable_clock (s : State) :
    (traceEnable s).pending = s.pending ∧ (traceEnable s).localTime = s.localTime := by
  unfold traceEnable
  constructor <;> simp

@[simp] theorem localTimeLoRead_clock (calendar : Bool) (s : State) :
    (localTimeLoRead calendar s).pending = s.pending ∧ (localTimeLoRead calendar s).localTime = s.localTime := by
  unfold localTimeLoRead
  constructor <;> (try dsimp only) <;> (repeat' (split <;> (try dsimp only))) <;> simp

@[simp] theorem applyLevels_clock (s : State) (r : Nat) :
    (applyLevels s r).pending = s.pending ∧ (applyLevels s r).localTime = s.localTime := by
  unfold applyLevels
  constructor <;> simp

@[simp] theorem allRegions_clock (s : State) (f : Nat → Region → Region) :
    (allRegions s f).pending = s.pending ∧ (allRegions s f).localTime = s.localTime := by
  unfold allRegions
  constructor <;> simp

@[simp] theorem capLower_clock (s : State) :
    (capLower s).pending = s.pending ∧ (capLower s).localTime = s.localTime := by
  unfold capLower
  constructor <;> simp

@[simp] theorem capDuty_clock (s : State) (f : Nat → Nat) :
    (capDuty s f).pending = s.pending ∧ (capDuty s f).localTime = s.localTime := by
  unfold capDuty
  constructor <;> (try dsimp only) <;> (repeat' (split <;> (try dsimp only))) <;> simp_all [apply_ite]

@[simp] theorem noteBudget_clock (s : State) :
    (noteBudget s).pending = s.pending ∧ (noteBudget s).localTime = s.localTime := by
  unfold noteBudget
  constructor <;> (try dsimp only) <;> (repeat' (split <;> (try dsimp only))) <;> simp

@[simp] theorem capAct_clock (s : State) (w : Nat) :
    (capAct s w).pending = s.pending ∧ (capAct s w).localTime = s.localTime := by
  unfold capAct
  constructor <;> (try dsimp only) <;> (repeat' (split <;> (try dsimp only))) <;> simp

@[simp] theorem powerCapPeriod_clock (w : Nat) (s : State) :
    (powerCapPeriod w s).pending = s.pending ∧ (powerCapPeriod w s).localTime = s.localTime := by
  unfold powerCapPeriod
  constructor <;> (try dsimp only) <;> (repeat' (split <;> (try dsimp only))) <;> simp

@[simp] theorem boostStep_clock (r : Nat) (s : State) :
    (boostStep r s).pending = s.pending ∧ (boostStep r s).localTime = s.localTime := by
  unfold boostStep
  constructor <;> (try dsimp only) <;> (repeat' (split <;> (try dsimp only))) <;> simp

@[simp] theorem voltageLoop_clock (r : Nat) (low : Bool) (s : State) :
    (voltageLoop r low s).pending = s.pending ∧ (voltageLoop r low s).localTime = s.localTime := by
  unfold voltageLoop
  constructor <;> (try dsimp only) <;> (repeat' (split <;> (try dsimp only))) <;> simp

@[simp] theorem droopStretch_clock (r : Nat) (s : State) :
    (droopStretch r s).pending = s.pending ∧ (droopStretch r s).localTime = s.localTime := by
  unfold droopStretch
  constructor <;> (try dsimp only) <;> (repeat' (split <;> (try dsimp only))) <;> simp

@[simp] theorem regionGate_clock (r : Nat) (s : State) :
    (regionGate r s).pending = s.pending ∧ (regionGate r s).localTime = s.localTime := by
  unfold regionGate
  constructor <;> (try dsimp only) <;> (repeat' (split <;> (try dsimp only))) <;> simp

@[simp] theorem dieRegions_clock (s : State) (d : Nat) (f : Nat → Region → Region) :
    (dieRegions s d f).pending = s.pending ∧ (dieRegions s d f).localTime = s.localTime := by
  unfold dieRegions
  constructor <;> simp

@[simp] theorem dieThrottleStep_clock (d t : Nat) (s : State) :
    (dieThrottleStep d t s).pending = s.pending ∧ (dieThrottleStep d t s).localTime = s.localTime := by
  unfold dieThrottleStep
  constructor <;> (try dsimp only) <;> (repeat' (split <;> (try dsimp only))) <;> simp

@[simp] theorem dieThrottleRelease_clock (d t : Nat) (s : State) :
    (dieThrottleRelease d t s).pending = s.pending ∧ (dieThrottleRelease d t s).localTime = s.localTime := by
  unfold dieThrottleRelease
  constructor <;> (try dsimp only) <;> (repeat' (split <;> (try dsimp only))) <;> simp

@[simp] theorem thermalEmergencyEnter_clock (sensor t : Nat) (s : State) :
    (thermalEmergencyEnter sensor t s).pending = s.pending ∧ (thermalEmergencyEnter sensor t s).localTime = s.localTime := by
  unfold thermalEmergencyEnter
  constructor <;> (try dsimp only) <;> (repeat' (split <;> (try dsimp only))) <;> simp

@[simp] theorem thermalEmergencyExit_clock (s : State) :
    (thermalEmergencyExit s).pending = s.pending ∧ (thermalEmergencyExit s).localTime = s.localTime := by
  unfold thermalEmergencyExit
  constructor <;> (try dsimp only) <;> (repeat' (split <;> (try dsimp only))) <;> simp

@[simp] theorem thermalTrip_clock (sensor t : Nat) (s : State) :
    (thermalTrip sensor t s).pending = s.pending ∧ (thermalTrip sensor t s).localTime = s.localTime := by
  unfold thermalTrip
  constructor <;> (try dsimp only) <;> (repeat' (split <;> (try dsimp only))) <;> simp

@[simp] theorem coolantHot_clock (t : Nat) (s : State) :
    (coolantHot t s).pending = s.pending ∧ (coolantHot t s).localTime = s.localTime := by
  unfold coolantHot
  constructor <;> (try dsimp only) <;> (repeat' (split <;> (try dsimp only))) <;> simp

@[simp] theorem recalibrate_clock (s : State) (sensor : Nat) :
    (recalibrate s sensor).pending = s.pending ∧ (recalibrate s sensor).localTime = s.localTime := by
  unfold recalibrate
  constructor <;> simp

@[simp] theorem sensorRecalibration_clock (d sensor : Nat) (s : State) :
    (sensorRecalibration d sensor s).pending = s.pending ∧ (sensorRecalibration d sensor s).localTime = s.localTime := by
  unfold sensorRecalibration
  constructor <;> (try dsimp only) <;> (repeat' (split <;> (try dsimp only))) <;> simp

@[simp] theorem benchResult_clock (s : State) (code : Nat) :
    (benchResult s code).pending = s.pending ∧ (benchResult s code).localTime = s.localTime := by
  unfold benchResult
  constructor <;> simp

@[simp] theorem benchWrite_clock (o : Nat) (bs : List Byte) (s : State) :
    (benchWrite o bs s).pending = s.pending ∧ (benchWrite o bs s).localTime = s.localTime := by
  unfold benchWrite
  constructor <;> (try dsimp only) <;> (repeat' (split <;> (try dsimp only))) <;> simp

@[simp] theorem benchCheck_clock (s : State) :
    (benchCheck s).pending = s.pending ∧ (benchCheck s).localTime = s.localTime := by
  unfold benchCheck
  constructor <;> (try dsimp only) <;> (repeat' (split <;> (try dsimp only))) <;> simp

@[simp] theorem benchLoad_clock (image : Option (List Byte)) (s : State) :
    (benchLoad image s).pending = s.pending ∧ (benchLoad image s).localTime = s.localTime := by
  unfold benchLoad
  constructor <;> (try dsimp only) <;> (repeat' (split <;> (try dsimp only))) <;> simp

@[simp] theorem refuseSwap_clock (s : State) (r : SwapReq) (code : Nat) :
    (refuseSwap s r code).pending = s.pending ∧ (refuseSwap s r code).localTime = s.localTime := by
  unfold refuseSwap
  constructor <;> (try dsimp only) <;> (repeat' (split <;> (try dsimp only))) <;> simp

@[simp] theorem swapAdmitted_clock (s : State) :
    (swapAdmitted s).pending = s.pending ∧ (swapAdmitted s).localTime = s.localTime := by
  unfold swapAdmitted
  constructor <;> (try dsimp only) <;> (repeat' (split <;> (try dsimp only))) <;> simp

@[simp] theorem requestSwap_clock (s : State) (i : Option (Nat × Nat)) (expect : Nat) :
    (requestSwap s i expect).pending = s.pending ∧ (requestSwap s i expect).localTime = s.localTime := by
  unfold requestSwap
  constructor <;> (try dsimp only) <;> (repeat' (split <;> (try dsimp only))) <;> simp

@[simp] theorem refuseSecond_clock (s : State) :
    (refuseSecond s).pending = s.pending ∧ (refuseSecond s).localTime = s.localTime := by
  unfold refuseSecond
  constructor <;> simp

@[simp] theorem swapAct_clock (s : State) (c : Cmd) :
    (swapAct s c).pending = s.pending ∧ (swapAct s c).localTime = s.localTime := by
  unfold swapAct
  constructor <;> (try dsimp only) <;> (repeat' (split <;> (try dsimp only))) <;> simp

@[simp] theorem swapWrite_clock (s : State) :
    (swapWrite s).pending = s.pending ∧ (swapWrite s).localTime = s.localTime := by
  unfold swapWrite
  constructor <;> (try dsimp only) <;> (repeat' (split <;> (try dsimp only))) <;> simp

@[simp] theorem drainTimeout_clock (s : State) :
    (drainTimeout s).pending = s.pending ∧ (drainTimeout s).localTime = s.localTime := by
  unfold drainTimeout
  constructor <;> (try dsimp only) <;> (repeat' (split <;> (try dsimp only))) <;> simp

@[simp] theorem movePages_clock (s : State) (m : Memory) (plan : List (Nat × Nat) × List (Nat × Nat)) :
    (movePages s m plan).pending = s.pending ∧ (movePages s m plan).localTime = s.localTime := by
  unfold movePages
  constructor <;> simp

@[simp] theorem boundaryFields_clock (old s : State) :
    (boundaryFields old s).pending = s.pending ∧ (boundaryFields old s).localTime = s.localTime := by
  unfold boundaryFields
  constructor <;> simp

@[simp] theorem exchange_clock (s : State) :
    (exchange s).pending = s.pending ∧ (exchange s).localTime = s.localTime := by
  unfold exchange
  constructor <;> simp

@[simp] theorem changeOwner_clock (s : State) (p : Nat) :
    (changeOwner s p).pending = s.pending ∧ (changeOwner s p).localTime = s.localTime := by
  unfold changeOwner
  constructor <;> simp

@[simp] theorem relearn_clock (s : State) :
    (relearn s).pending = s.pending ∧ (relearn s).localTime = s.localTime := by
  unfold relearn
  constructor <;> simp

theorem recordFirst_clock {s t : State} {r : SwapReq} (h : recordFirst s r = some t) :
    t.pending = s.pending ∧ t.localTime = s.localTime := by
  unfold recordFirst at h
  split at h
  · cases h; simp
  split at h
  · cases h
  split at h
  · cases h; simp
  · cases h; simp

@[simp] theorem endSwap_clock (s : State) (r : SwapReq) :
    (endSwap s r).pending = s.pending ∧ (endSwap s r).localTime = s.localTime := by
  unfold endSwap
  constructor <;> (try dsimp only) <;> (repeat' (split <;> (try dsimp only))) <;> simp

@[simp] theorem swapNow_clock (s : State) (r : SwapReq) (plan : List (Nat × Nat) × List (Nat × Nat)) :
    (swapNow s r plan).pending = s.pending ∧ (swapNow s r plan).localTime = s.localTime := by
  unfold swapNow
  dsimp only
  split
  · simp
  · rename_i s1 h
    have h1 : s1.pending = s.pending ∧ s1.localTime = s.localTime := by
      split at h
      · cases h; simp
      · exact recordFirst_clock h
    constructor <;> simp only [endSwap_clock, csetEvent_clock] <;> (repeat' split) <;> simp [h1]

@[simp] theorem swapPoint_clock (s : State) :
    (swapPoint s).pending = s.pending ∧ (swapPoint s).localTime = s.localTime := by
  unfold swapPoint
  constructor <;> (try dsimp only) <;> (repeat' (split <;> (try dsimp only))) <;> simp

@[simp] theorem mgmtSend_clock (s : State) (m : MgmtOut) :
    (mgmtSend s m).pending = s.pending ∧ (mgmtSend s m).localTime = s.localTime := by
  unfold mgmtSend
  constructor <;> simp

@[simp] theorem onEp_clock (ep : Nat) (f : State → State) (s : State) (hf : ∀ x0, (f x0).pending = x0.pending ∧ (f x0).localTime = x0.localTime) :
    (onEp ep f s).pending = s.pending ∧ (onEp ep f s).localTime = s.localTime := by
  unfold onEp
  constructor <;> (try dsimp only) <;> (repeat' (split <;> (try dsimp only))) <;> simp [*]

@[simp] theorem flushLog_clock (s : State) :
    (flushLog s).pending = s.pending ∧ (flushLog s).localTime = s.localTime := by
  unfold flushLog
  constructor <;> simp

@[simp] theorem logFlush_clock (s : State) :
    (logFlush s).pending = s.pending ∧ (logFlush s).localTime = s.localTime := by
  unfold logFlush
  constructor <;> (try dsimp only) <;> (repeat' (split <;> (try dsimp only))) <;> simp

@[simp] theorem logSelect_clock (lo : Nat) (s : State) :
    (logSelect lo s).pending = s.pending ∧ (logSelect lo s).localTime = s.localTime := by
  unfold logSelect
  constructor <;> simp

@[simp] theorem logRead_clock (ep first count : Nat) (s : State) :
    (logRead ep first count s).pending = s.pending ∧ (logRead ep first count s).localTime = s.localTime := by
  unfold logRead
  constructor <;> simp

@[simp] theorem wake_clock (ep : Nat) (s : State) :
    (wake ep s).pending = s.pending ∧ (wake ep s).localTime = s.localTime := by
  unfold wake
  constructor <;> (try dsimp only) <;> (repeat' (split <;> (try dsimp only))) <;> simp

@[simp] theorem calendarSet_clock (s : State) :
    (calendarSet s).pending = s.pending ∧ (calendarSet s).localTime = s.localTime := by
  unfold calendarSet
  constructor <;> simp

@[simp] theorem calVbatChange_clock (inRange : Bool) (s : State) :
    (calVbatChange inRange s).pending = s.pending ∧ (calVbatChange inRange s).localTime = s.localTime := by
  unfold calVbatChange
  constructor <;> (try dsimp only) <;> (repeat' (split <;> (try dsimp only))) <;> simp

@[simp] theorem setEndpointId_clock (ep eid : Nat) (s : State) :
    (setEndpointId ep eid s).pending = s.pending ∧ (setEndpointId ep eid s).localTime = s.localTime := by
  unfold setEndpointId
  constructor <;> simp

@[simp] theorem getEndpointId_clock (ep : Nat) (s : State) :
    (getEndpointId ep s).pending = s.pending ∧ (getEndpointId ep s).localTime = s.localTime := by
  unfold getEndpointId
  constructor <;> simp

@[simp] theorem getEndpointUuid_clock (ep : Nat) (s : State) :
    (getEndpointUuid ep s).pending = s.pending ∧ (getEndpointUuid ep s).localTime = s.localTime := by
  unfold getEndpointUuid
  constructor <;> simp

@[simp] theorem getMctpVersionSupport_clock (ep t : Nat) (s : State) :
    (getMctpVersionSupport ep t s).pending = s.pending ∧ (getMctpVersionSupport ep t s).localTime = s.localTime := by
  unfold getMctpVersionSupport
  constructor <;> simp

@[simp] theorem getMessageTypeSupport_clock (ep : Nat) (s : State) :
    (getMessageTypeSupport ep s).pending = s.pending ∧ (getMessageTypeSupport ep s).localTime = s.localTime := by
  unfold getMessageTypeSupport
  constructor <;> simp

@[simp] theorem getVendorDefinedMessageSupport_clock (ep selector : Nat) (s : State) :
    (getVendorDefinedMessageSupport ep selector s).pending = s.pending ∧ (getVendorDefinedMessageSupport ep selector s).localTime = s.localTime := by
  unfold getVendorDefinedMessageSupport
  constructor <;> simp

@[simp] theorem getTid_clock (ep : Nat) (s : State) :
    (getTid ep s).pending = s.pending ∧ (getTid ep s).localTime = s.localTime := by
  unfold getTid
  constructor <;> simp

@[simp] theorem setTid_clock (ep tid : Nat) (s : State) :
    (setTid ep tid s).pending = s.pending ∧ (setTid ep tid s).localTime = s.localTime := by
  unfold setTid
  constructor <;> simp

@[simp] theorem getPldmVersion_clock (ep t : Nat) (s : State) :
    (getPldmVersion ep t s).pending = s.pending ∧ (getPldmVersion ep t s).localTime = s.localTime := by
  unfold getPldmVersion
  constructor <;> simp

@[simp] theorem getPldmTypes_clock (ep : Nat) (s : State) :
    (getPldmTypes ep s).pending = s.pending ∧ (getPldmTypes ep s).localTime = s.localTime := by
  unfold getPldmTypes
  constructor <;> simp

@[simp] theorem getPldmCommands_clock (ep t : Nat) (s : State) :
    (getPldmCommands ep t s).pending = s.pending ∧ (getPldmCommands ep t s).localTime = s.localTime := by
  unfold getPldmCommands
  constructor <;> simp

@[simp] theorem getPdrRepositoryInfo_clock (ep : Nat) (s : State) :
    (getPdrRepositoryInfo ep s).pending = s.pending ∧ (getPdrRepositoryInfo ep s).localTime = s.localTime := by
  unfold getPdrRepositoryInfo
  constructor <;> simp

@[simp] theorem getPdr_clock (ep record : Nat) (s : State) :
    (getPdr ep record s).pending = s.pending ∧ (getPdr ep record s).localTime = s.localTime := by
  unfold getPdr
  constructor <;> simp

@[simp] theorem getSensorReading_clock (ep sensor : Nat) (s : State) :
    (getSensorReading ep sensor s).pending = s.pending ∧ (getSensorReading ep sensor s).localTime = s.localTime := by
  unfold getSensorReading
  constructor <;> simp

@[simp] theorem setNumericSensorEnable_clock (ep sensor : Nat) (on : Bool) (s : State) :
    (setNumericSensorEnable ep sensor on s).pending = s.pending ∧ (setNumericSensorEnable ep sensor on s).localTime = s.localTime := by
  unfold setNumericSensorEnable
  constructor <;> (try dsimp only) <;> (repeat' (split <;> (try dsimp only))) <;> simp

@[simp] theorem setEventReceiver_clock (ep receiver : Nat) (s : State) :
    (setEventReceiver ep receiver s).pending = s.pending ∧ (setEventReceiver ep receiver s).localTime = s.localTime := by
  unfold setEventReceiver
  constructor <;> simp

@[simp] theorem pollForPlatformEventMessage_clock (ep : Nat) (s : State) :
    (pollForPlatformEventMessage ep s).pending = s.pending ∧ (pollForPlatformEventMessage ep s).localTime = s.localTime := by
  unfold pollForPlatformEventMessage
  constructor <;> simp

@[simp] theorem putUpdate_clock (s : State) (u : Update) :
    (putUpdate s u).pending = s.pending ∧ (putUpdate s u).localTime = s.localTime := by
  unfold putUpdate
  constructor <;> simp

@[simp] theorem inUpdate_clock (ep : Nat) (f : Update → State → State) (s : State) (hf : ∀ x0 x1, (f x0 x1).pending = x1.pending ∧ (f x0 x1).localTime = x1.localTime) :
    (inUpdate ep f s).pending = s.pending ∧ (inUpdate ep f s).localTime = s.localTime := by
  unfold inUpdate
  constructor <;> (try dsimp only) <;> (repeat' (split <;> (try dsimp only))) <;> simp [*]

@[simp] theorem queryDeviceIdentifiers_clock (ep : Nat) (s : State) :
    (queryDeviceIdentifiers ep s).pending = s.pending ∧ (queryDeviceIdentifiers ep s).localTime = s.localTime := by
  unfold queryDeviceIdentifiers
  constructor <;> simp

@[simp] theorem getFirmwareParameters_clock (ep : Nat) (s : State) :
    (getFirmwareParameters ep s).pending = s.pending ∧ (getFirmwareParameters ep s).localTime = s.localTime := by
  unfold getFirmwareParameters
  constructor <;> simp

@[simp] theorem requestUpdate_clock (ep : Nat) (s : State) :
    (requestUpdate ep s).pending = s.pending ∧ (requestUpdate ep s).localTime = s.localTime := by
  unfold requestUpdate
  constructor <;> (try dsimp only) <;> (repeat' (split <;> (try dsimp only))) <;> simp

@[simp] theorem passComponentTable_clock (ep component : Nat) (s : State) :
    (passComponentTable ep component s).pending = s.pending ∧ (passComponentTable ep component s).localTime = s.localTime := by
  unfold passComponentTable
  constructor <;> simp

@[simp] theorem askSlice_clock (s : State) (u : Update) :
    (askSlice s u).pending = s.pending ∧ (askSlice s u).localTime = s.localTime := by
  unfold askSlice
  constructor <;> (try dsimp only) <;> (repeat' (split <;> (try dsimp only))) <;> simp

@[simp] theorem updateComponent_clock (ep component size : Nat) (s : State) :
    (updateComponent ep component size s).pending = s.pending ∧ (updateComponent ep component size s).localTime = s.localTime := by
  unfold updateComponent
  constructor <;> (try dsimp only) <;> (repeat' (split <;> (try dsimp only))) <;> simp

@[simp] theorem writeSlice_clock (s : State) :
    (writeSlice s).pending = s.pending ∧ (writeSlice s).localTime = s.localTime := by
  unfold writeSlice
  constructor <;> (try dsimp only) <;> (repeat' (split <;> (try dsimp only))) <;> simp

@[simp] theorem firmwareData_clock (ep : Nat) (bs : List Byte) (s : State) :
    (firmwareData ep bs s).pending = s.pending ∧ (firmwareData ep bs s).localTime = s.localTime := by
  unfold firmwareData
  constructor <;> (try dsimp only) <;> (repeat' (split <;> (try dsimp only))) <;> simp

@[simp] theorem endTransfer_clock (s : State) (u : Update) (ok : Bool) :
    (endTransfer s u ok).pending = s.pending ∧ (endTransfer s u ok).localTime = s.localTime := by
  unfold endTransfer
  constructor <;> (try dsimp only) <;> (repeat' (split <;> (try dsimp only))) <;> simp

@[simp] theorem transferComplete_clock (ep : Nat) (s : State) :
    (transferComplete ep s).pending = s.pending ∧ (transferComplete ep s).localTime = s.localTime := by
  unfold transferComplete inUpdate
  split
  · dsimp only
    split
    · constructor <;> simp [apply_ite]
    · split <;> simp
    · simp
  · simp

@[simp] theorem activateNow_clock (s : State) :
    (activateNow s).pending = s.pending ∧ (activateNow s).localTime = s.localTime := by
  unfold activateNow
  constructor <;> simp

@[simp] theorem requestActivation_clock (s : State) :
    (requestActivation s).pending = s.pending ∧ (requestActivation s).localTime = s.localTime := by
  unfold requestActivation
  constructor <;> (try dsimp only) <;> (repeat' (split <;> (try dsimp only))) <;> simp

@[simp] theorem fwActivate_clock (s : State) :
    (fwActivate s).pending = s.pending ∧ (fwActivate s).localTime = s.localTime := by
  unfold fwActivate
  constructor <;> simp

@[simp] theorem cancelPending_clock (s : State) :
    (cancelPending s).pending = s.pending ∧ (cancelPending s).localTime = s.localTime := by
  unfold cancelPending
  constructor <;> simp

@[simp] theorem activateFirmware_clock (ep : Nat) (now : Bool) (s : State) :
    (activateFirmware ep now s).pending = s.pending ∧ (activateFirmware ep now s).localTime = s.localTime := by
  unfold activateFirmware
  constructor <;> (try dsimp only) <;> (repeat' (split <;> (try dsimp only))) <;> simp

@[simp] theorem getStatus_clock (ep : Nat) (s : State) :
    (getStatus ep s).pending = s.pending ∧ (getStatus ep s).localTime = s.localTime := by
  unfold getStatus
  constructor <;> simp

@[simp] theorem dropStaging_clock (s : State) :
    (dropStaging s).pending = s.pending ∧ (dropStaging s).localTime = s.localTime := by
  unfold dropStaging
  constructor <;> simp

@[simp] theorem cancelUpdateComponent_clock (ep : Nat) (s : State) :
    (cancelUpdateComponent ep s).pending = s.pending ∧ (cancelUpdateComponent ep s).localTime = s.localTime := by
  unfold cancelUpdateComponent
  constructor <;> simp

@[simp] theorem cancelUpdate_clock (ep : Nat) (s : State) :
    (cancelUpdate ep s).pending = s.pending ∧ (cancelUpdate ep s).localTime = s.localTime := by
  unfold cancelUpdate
  constructor <;> simp

@[simp] theorem updateTimeout_clock (s : State) :
    (updateTimeout s).pending = s.pending ∧ (updateTimeout s).localTime = s.localTime := by
  unfold updateTimeout
  constructor <;> (try dsimp only) <;> (repeat' (split <;> (try dsimp only))) <;> simp

@[simp] theorem spdmSend_clock (s : State) (tr item : Nat) (bs : List Byte) :
    (spdmSend s tr item bs).pending = s.pending ∧ (spdmSend s tr item bs).localTime = s.localTime := by
  unfold spdmSend
  constructor <;> simp

@[simp] theorem spdmFail_clock (s : State) (tr item : Nat) :
    (spdmFail s tr item).pending = s.pending ∧ (spdmFail s tr item).localTime = s.localTime := by
  unfold spdmFail
  constructor <;> simp

@[simp] theorem setLevel_clock (s : State) (tr n : Nat) :
    (setLevel s tr n).pending = s.pending ∧ (setLevel s tr n).localTime = s.localTime := by
  unfold setLevel
  constructor <;> simp

@[simp] theorem spdmReq_clock (tr item level : Nat) (f : State → State) (s : State) (hf : ∀ x0, (f x0).pending = x0.pending ∧ (f x0).localTime = x0.localTime) :
    (spdmReq tr item level f s).pending = s.pending ∧ (spdmReq tr item level f s).localTime = s.localTime := by
  unfold spdmReq
  constructor <;> (try dsimp only) <;> (repeat' (split <;> (try dsimp only))) <;> simp [*]

@[simp] theorem getVersion_clock (tr : Nat) (s : State) :
    (getVersion tr s).pending = s.pending ∧ (getVersion tr s).localTime = s.localTime := by
  unfold getVersion
  constructor <;> (try dsimp only) <;> (repeat' (split <;> (try dsimp only))) <;> simp

@[simp] theorem getCapabilities_clock (tr : Nat) (s : State) :
    (getCapabilities tr s).pending = s.pending ∧ (getCapabilities tr s).localTime = s.localTime := by
  unfold getCapabilities
  constructor <;> simp

@[simp] theorem negotiateAlgorithms_clock (tr : Nat) (algorithms : List Nat) (s : State) :
    (negotiateAlgorithms tr algorithms s).pending = s.pending ∧ (negotiateAlgorithms tr algorithms s).localTime = s.localTime := by
  unfold negotiateAlgorithms
  constructor <;> (try dsimp only) <;> (repeat' (split <;> (try dsimp only))) <;> simp

@[simp] theorem getDigests_clock (tr : Nat) (s : State) :
    (getDigests tr s).pending = s.pending ∧ (getDigests tr s).localTime = s.localTime := by
  unfold getDigests
  constructor <;> simp

@[simp] theorem getCertificate_clock (tr slot offset length : Nat) (s : State) :
    (getCertificate tr slot offset length s).pending = s.pending ∧ (getCertificate tr slot offset length s).localTime = s.localTime := by
  unfold getCertificate
  constructor <;> (try dsimp only) <;> (repeat' (split <;> (try dsimp only))) <;> simp

@[simp] theorem challenge_clock (tr slot : Nat) (nonce : List Byte) (s : State) :
    (challenge tr slot nonce s).pending = s.pending ∧ (challenge tr slot nonce s).localTime = s.localTime := by
  unfold challenge
  constructor <;> (try dsimp only) <;> (repeat' (split <;> (try dsimp only))) <;> simp

@[simp] theorem putSession_clock (s : State) (x : Session) :
    (putSession s x).pending = s.pending ∧ (putSession s x).localTime = s.localTime := by
  unfold putSession
  constructor <;> simp

@[simp] theorem keyExchange_clock (tr id : Nat) (exchange : List Byte) (s : State) :
    (keyExchange tr id exchange s).pending = s.pending ∧ (keyExchange tr id exchange s).localTime = s.localTime := by
  unfold keyExchange
  constructor <;> (try dsimp only) <;> (repeat' (split <;> (try dsimp only))) <;> simp

@[simp] theorem finish_clock (tr id : Nat) (verifyData : List Byte) (s : State) :
    (finish tr id verifyData s).pending = s.pending ∧ (finish tr id verifyData s).localTime = s.localTime := by
  unfold finish
  constructor <;> (try dsimp only) <;> (repeat' (split <;> (try dsimp only))) <;> simp

@[simp] theorem inSession_clock (tr id item : Nat) (f : Session → State → State) (s : State) (hf : ∀ x0 x1, (f x0 x1).pending = x1.pending ∧ (f x0 x1).localTime = x1.localTime) :
    (inSession tr id item f s).pending = s.pending ∧ (inSession tr id item f s).localTime = s.localTime := by
  unfold inSession
  constructor <;> (try dsimp only) <;> (repeat' (split <;> (try dsimp only))) <;> simp [*]

@[simp] theorem heartbeat_clock (tr id : Nat) (s : State) :
    (heartbeat tr id s).pending = s.pending ∧ (heartbeat tr id s).localTime = s.localTime := by
  unfold heartbeat
  constructor <;> simp

@[simp] theorem keyUpdate_clock (tr id op : Nat) (s : State) :
    (keyUpdate tr id op s).pending = s.pending ∧ (keyUpdate tr id op s).localTime = s.localTime := by
  unfold keyUpdate
  constructor <;> (try dsimp only) <;> (repeat' (split <;> (try dsimp only))) <;> simp

@[simp] theorem endSession_clock (tr id : Nat) (s : State) :
    (endSession tr id s).pending = s.pending ∧ (endSession tr id s).localTime = s.localTime := by
  unfold endSession
  constructor <;> simp

@[simp] theorem report_clock (tr : Nat) (nonce : List Byte) (ranges : List (Nat × Nat)) (s : State) :
    (report tr nonce ranges s).pending = s.pending ∧ (report tr nonce ranges s).localTime = s.localTime := by
  unfold report
  split
  · simp
  split
  · rename_i h
    split <;> simpa using apPages_clock h
  · simp

@[simp] theorem startActivity_clock (s : State) (a : Activity) :
    (startActivity s a).pending = s.pending ∧ (startActivity s a).localTime = s.localTime := by
  unfold startActivity
  constructor <;> (try dsimp only) <;> (repeat' (split <;> (try dsimp only))) <;> simp

@[simp] theorem umpireAdmit_clock (s : State) :
    (umpireAdmit s).pending = s.pending ∧ (umpireAdmit s).localTime = s.localTime := by
  unfold umpireAdmit
  constructor <;> (try dsimp only) <;> (repeat' (split <;> (try dsimp only))) <;> simp

@[simp] theorem writeHub_clock (o v : Nat) (s : State) :
    (writeHub o v s).pending = s.pending ∧ (writeHub o v s).localTime = s.localTime := by
  unfold writeHub
  constructor <;> (try dsimp only) <;> (repeat' (split <;> (try dsimp only))) <;> simp

@[simp] theorem writeCset_clock (o v : Nat) (s : State) :
    (writeCset o v s).pending = s.pending ∧ (writeCset o v s).localTime = s.localTime := by
  unfold writeCset
  constructor <;> (try dsimp only) <;> (repeat' (split <;> (try dsimp only))) <;> simp

@[simp] theorem clearPci_clock (p v : Nat) (s : State) :
    (clearPci p v s).pending = s.pending ∧ (clearPci p v s).localTime = s.localTime := by
  unfold clearPci
  constructor <;> simp

@[simp] theorem writePci_clock (o v : Nat) (s : State) :
    (writePci o v s).pending = s.pending ∧ (writePci o v s).localTime = s.localTime := by
  unfold writePci
  constructor <;> (try dsimp only) <;> (repeat' (split <;> (try dsimp only))) <;> simp

@[simp] theorem writeHandover_clock (p v : Nat) (s : State) :
    (writeHandover p v s).pending = s.pending ∧ (writeHandover p v s).localTime = s.localTime := by
  unfold writeHandover
  constructor <;> (try dsimp only) <;> (repeat' (split <;> (try dsimp only))) <;> simp

@[simp] theorem whileDisabled_clock (n : Nat) (f : Ctx → Ctx) (s : State) :
    (whileDisabled n f s).pending = s.pending ∧ (whileDisabled n f s).localTime = s.localTime := by
  unfold whileDisabled
  constructor <;> (try dsimp only) <;> (repeat' (split <;> (try dsimp only))) <;> simp

@[simp] theorem writeCtl_clock (n v : Nat) (s : State) :
    (writeCtl n v s).pending = s.pending ∧ (writeCtl n v s).localTime = s.localTime := by
  unfold writeCtl
  constructor <;> (try dsimp only) <;> (repeat' (split <;> (try dsimp only))) <;> simp

@[simp] theorem writeCtx_clock (n o v : Nat) (s : State) :
    (writeCtx n o v s).pending = s.pending ∧ (writeCtx n o v s).localTime = s.localTime := by
  unfold writeCtx
  constructor <;> (try dsimp only) <;> (repeat' (split <;> (try dsimp only))) <;> simp

@[simp] theorem writeMem_clock (o v : Nat) (s : State) :
    (writeMem o v s).pending = s.pending ∧ (writeMem o v s).localTime = s.localTime := by
  unfold writeMem
  constructor <;> (try dsimp only) <;> (repeat' (split <;> (try dsimp only))) <;> simp

@[simp] theorem writeRouteIdx_clock (v : Nat) (s : State) :
    (writeRouteIdx v s).pending = s.pending ∧ (writeRouteIdx v s).localTime = s.localTime := by
  unfold writeRouteIdx
  constructor <;> (try dsimp only) <;> (repeat' (split <;> (try dsimp only))) <;> simp

@[simp] theorem writePortCtl_clock (p v : Nat) (s : State) :
    (writePortCtl p v s).pending = s.pending ∧ (writePortCtl p v s).localTime = s.localTime := by
  unfold writePortCtl
  constructor <;> (try dsimp only) <;> (repeat' (split <;> (try dsimp only))) <;> simp

@[simp] theorem writeLnk_clock (o v : Nat) (s : State) :
    (writeLnk o v s).pending = s.pending ∧ (writeLnk o v s).localTime = s.localTime := by
  unfold writeLnk
  constructor <;> (try dsimp only) <;> (repeat' (split <;> (try dsimp only))) <;> simp

@[simp] theorem writePwr_clock (o v : Nat) (s : State) :
    (writePwr o v s).pending = s.pending ∧ (writePwr o v s).localTime = s.localTime := by
  unfold writePwr
  constructor <;> (try dsimp only) <;> (repeat' (split <;> (try dsimp only))) <;> simp

@[simp] theorem writeMgt_clock (o v : Nat) (s : State) :
    (writeMgt o v s).pending = s.pending ∧ (writeMgt o v s).localTime = s.localTime := by
  unfold writeMgt
  constructor <;> (try dsimp only) <;> (repeat' (split <;> (try dsimp only))) <;> simp

@[simp] theorem writeTrace_clock (v : Nat) (s : State) :
    (writeTrace v s).pending = s.pending ∧ (writeTrace v s).localTime = s.localTime := by
  unfold writeTrace
  constructor <;> (try dsimp only) <;> (repeat' (split <;> (try dsimp only))) <;> simp

@[simp] theorem writeDbg_clock (o v : Nat) (s : State) :
    (writeDbg o v s).pending = s.pending ∧ (writeDbg o v s).localTime = s.localTime := by
  unfold writeDbg
  constructor <;> (try dsimp only) <;> (repeat' (split <;> (try dsimp only))) <;> simp

@[simp] theorem writeMsix_clock (p o v : Nat) (s : State) :
    (writeMsix p o v s).pending = s.pending ∧ (writeMsix p o v s).localTime = s.localTime := by
  unfold writeMsix
  constructor <;> (try dsimp only) <;> (repeat' (split <;> (try dsimp only))) <;> simp

theorem ite_clock {p : Prop} [Decidable p] {a b s : State} (ha : a.pending = s.pending ∧ a.localTime = s.localTime)
    (hb : b.pending = s.pending ∧ b.localTime = s.localTime) :
    (if p then a else b).pending = s.pending ∧ (if p then a else b).localTime = s.localTime := by
  split
  · exact ha
  · exact hb

@[simp] theorem writeWord_clock (p o v : Nat) (s : State) :
    (writeWord p o v s).pending = s.pending ∧ (writeWord p o v s).localTime = s.localTime := by
  unfold writeWord
  exact ite_clock (writeHub_clock _ _ _) (ite_clock (writeCset_clock _ _ _) (ite_clock (benchWrite_clock _ _ _) (ite_clock ⟨rfl, rfl⟩
    (ite_clock (writePci_clock _ _ _) (ite_clock (writeCtx_clock _ _ _ _) (ite_clock (writeMem_clock _ _ _) (ite_clock (writeLnk_clock _ _ _)
    (ite_clock (writePwr_clock _ _ _) (ite_clock (writeMgt_clock _ _ _) (ite_clock (writeDbg_clock _ _ _)
    (ite_clock (writeMsix_clock _ _ _ _) ⟨rfl, rfl⟩)))))))))))

@[simp] theorem writeReduced_clock (p o v : Nat) (s : State) :
    (writeReduced p o v s).pending = s.pending ∧ (writeReduced p o v s).localTime = s.localTime := by
  unfold writeReduced
  constructor <;> (try dsimp only) <;> (repeat' (split <;> (try dsimp only))) <;> simp

@[simp] theorem asWords_clock (o size v : Nat) (f : Nat → Nat → State → State) (s : State) (hf : ∀ x0 x1 x2, (f x0 x1 x2).pending = x2.pending ∧ (f x0 x1 x2).localTime = x2.localTime) :
    (asWords o size v f s).pending = s.pending ∧ (asWords o size v f s).localTime = s.localTime := by
  unfold asWords
  constructor <;> (try dsimp only) <;> (repeat' (split <;> (try dsimp only))) <;> simp [*]

@[simp] theorem ownWrite_clock (o size v : Nat) (s : State) :
    (ownWrite o size v s).pending = s.pending ∧ (ownWrite o size v s).localTime = s.localTime := by
  unfold ownWrite
  constructor <;> (try dsimp only) <;> (repeat' (split <;> (try dsimp only))) <;> simp

@[simp] theorem registerWrite_clock (p o size v : Nat) (s : State) :
    (registerWrite p o size v s).pending = s.pending ∧ (registerWrite p o size v s).localTime = s.localTime := by
  unfold registerWrite
  constructor <;> (try dsimp only) <;> (repeat' (split <;> (try dsimp only))) <;> simp

@[simp] theorem standbyAct_clock (s : State) (c : Cmd) :
    (standbyAct s c).pending = s.pending ∧ (standbyAct s c).localTime = s.localTime := by
  unfold standbyAct
  constructor <;> (try dsimp only) <;> (repeat' (split <;> (try dsimp only))) <;> simp

@[simp] theorem applyHeld_clock (s : State) (w : Nat × Nat × Nat × Nat) :
    (applyHeld s w).pending = s.pending ∧ (applyHeld s w).localTime = s.localTime := by
  unfold applyHeld
  constructor <;> (try dsimp only) <;> (repeat' (split <;> (try dsimp only))) <;> simp

@[simp] theorem endStandby_clock (s : State) (b : Standby) :
    (endStandby s b).pending = s.pending ∧ (endStandby s b).localTime = s.localTime := by
  unfold endStandby
  constructor <;> simp

@[simp] theorem decideStandby_clock (s : State) (b : Standby) (st : Status) (result : Nat) :
    (decideStandby s b st result).pending = s.pending ∧ (decideStandby s b st result).localTime = s.localTime := by
  unfold decideStandby
  constructor <;> (try dsimp only) <;> (repeat' (split <;> (try dsimp only))) <;> simp

@[simp] theorem standbyQuiesced_clock (s : State) :
    (standbyQuiesced s).pending = s.pending ∧ (standbyQuiesced s).localTime = s.localTime := by
  unfold standbyQuiesced
  constructor <;> (try dsimp only) <;> (repeat' (split <;> (try dsimp only))) <;> simp

@[simp] theorem loseScratch_clock (s : State) :
    (loseScratch s).pending = s.pending ∧ (loseScratch s).localTime = s.localTime := by
  unfold loseScratch
  constructor <;> simp

@[simp] theorem ownLink_clock (s : State) (old new : HostLink) :
    (ownLink s old new).pending = s.pending ∧ (ownLink s old new).localTime = s.localTime := by
  unfold ownLink
  constructor <;> (try dsimp only) <;> (repeat' (split <;> (try dsimp only))) <;> simp

@[simp] theorem standbyPowerOff_clock (s : State) :
    (standbyPowerOff s).pending = s.pending ∧ (standbyPowerOff s).localTime = s.localTime := by
  unfold standbyPowerOff
  constructor <;> (try dsimp only) <;> (repeat' (split <;> (try dsimp only))) <;> simp

@[simp] theorem wakeTimer_clock (s : State) :
    (wakeTimer s).pending = s.pending ∧ (wakeTimer s).localTime = s.localTime := by
  unfold wakeTimer
  constructor <;> (try dsimp only) <;> (repeat' (split <;> (try dsimp only))) <;> simp

@[simp] theorem wakeDies_clock (s : State) (b : Standby) :
    (wakeDies s b).pending = s.pending ∧ (wakeDies s b).localTime = s.localTime := by
  unfold wakeDies
  constructor <;> (try dsimp only) <;> (repeat' (split <;> (try dsimp only))) <;> simp_all [apply_ite]

@[simp] theorem resumePolls_clock (s : State) :
    (resumePolls s).pending = s.pending ∧ (resumePolls s).localTime = s.localTime := by
  unfold resumePolls
  constructor <;> simp

@[simp] theorem standbyResume_clock (s : State) :
    (standbyResume s).pending = s.pending ∧ (standbyResume s).localTime = s.localTime := by
  unfold standbyResume
  constructor <;> (try dsimp only) <;> (repeat' (split <;> (try dsimp only))) <;> simp

end Sys2Proof.Machine
end

