-- ==== Sys2Proof/Laws/State.lean ====
section
/-! SUPPORT. Laws of the state: what each update of a record leaves in each field, by rfl, and how a context, a cluster,
a region and a host port read after an update. -/

namespace Sys2Proof.Machine

@[simp] theorem setCtx_pending (s : State) (n : Nat) (c : Ctx) : (setCtx s n c).pending = s.pending := rfl
@[simp] theorem setCtx_phase (s : State) (n : Nat) (c : Ctx) : (setCtx s n c).phase = s.phase := rfl
@[simp] theorem setCtx_localTime (s : State) (n : Nat) (c : Ctx) : (setCtx s n c).localTime = s.localTime := rfl
@[simp] theorem setCtx_timeLatch (s : State) (n : Nat) (c : Ctx) : (setCtx s n c).timeLatch = s.timeLatch := rfl
@[simp] theorem setCtx_mem (s : State) (n : Nat) (c : Ctx) : (setCtx s n c).mem = s.mem := rfl
@[simp] theorem setCtx_poison (s : State) (n : Nat) (c : Ctx) : (setCtx s n c).poison = s.poison := rfl
@[simp] theorem setCtx_pool (s : State) (n : Nat) (c : Ctx) : (setCtx s n c).pool = s.pool := rfl
@[simp] theorem setCtx_ageAt (s : State) (n : Nat) (c : Ctx) : (setCtx s n c).ageAt = s.ageAt := rfl
@[simp] theorem setCtx_loopAt (s : State) (n : Nat) (c : Ctx) : (setCtx s n c).loopAt = s.loopAt := rfl
@[simp] theorem setCtx_carafes (s : State) (n : Nat) (c : Ctx) : (setCtx s n c).carafes = s.carafes := rfl
@[simp] theorem setCtx_retireQ (s : State) (n : Nat) (c : Ctx) : (setCtx s n c).retireQ = s.retireQ := rfl
@[simp] theorem setCtx_retireOvf (s : State) (n : Nat) (c : Ctx) : (setCtx s n c).retireOvf = s.retireOvf := rfl
@[simp] theorem setCtx_retireOvfCnt (s : State) (n : Nat) (c : Ctx) : (setCtx s n c).retireOvfCnt = s.retireOvfCnt := rfl
@[simp] theorem setCtx_ctxs (s : State) (n : Nat) (c : Ctx) : (setCtx s n c).ctxs = aput s.ctxs n c := rfl
@[simp] theorem setCtx_cmds (s : State) (n : Nat) (c : Ctx) : (setCtx s n c).cmds = s.cmds := rfl
@[simp] theorem setCtx_branches (s : State) (n : Nat) (c : Ctx) : (setCtx s n c).branches = s.branches := rfl
@[simp] theorem setCtx_reserved (s : State) (n : Nat) (c : Ctx) : (setCtx s n c).reserved = s.reserved := rfl
@[simp] theorem setCtx_brMem (s : State) (n : Nat) (c : Ctx) : (setCtx s n c).brMem = s.brMem := rfl
@[simp] theorem setCtx_brPoison (s : State) (n : Nat) (c : Ctx) : (setCtx s n c).brPoison = s.brPoison := rfl
@[simp] theorem setCtx_clusters (s : State) (n : Nat) (c : Ctx) : (setCtx s n c).clusters = s.clusters := rfl
@[simp] theorem setCtx_regions (s : State) (n : Nat) (c : Ctx) : (setCtx s n c).regions = s.regions := rfl
@[simp] theorem setCtx_dies (s : State) (n : Nat) (c : Ctx) : (setCtx s n c).dies = s.dies := rfl
@[simp] theorem setCtx_linkDies (s : State) (n : Nat) (c : Ctx) : (setCtx s n c).linkDies = s.linkDies := rfl
@[simp] theorem setCtx_huddles (s : State) (n : Nat) (c : Ctx) : (setCtx s n c).huddles = s.huddles := rfl
@[simp] theorem setCtx_links (s : State) (n : Nat) (c : Ctx) : (setCtx s n c).links = s.links := rfl
@[simp] theorem setCtx_hostPorts (s : State) (n : Nat) (c : Ctx) : (setCtx s n c).hostPorts = s.hostPorts := rfl
@[simp] theorem setCtx_owner (s : State) (n : Nat) (c : Ctx) : (setCtx s n c).owner = s.owner := rfl
@[simp] theorem setCtx_cset (s : State) (n : Nat) (c : Ctx) : (setCtx s n c).cset = s.cset := rfl
@[simp] theorem setCtx_regs (s : State) (n : Nat) (c : Ctx) : (setCtx s n c).regs = s.regs := rfl
@[simp] theorem setCtx_recov (s : State) (n : Nat) (c : Ctx) : (setCtx s n c).recov = s.recov := rfl
@[simp] theorem setCtx_power (s : State) (n : Nat) (c : Ctx) : (setCtx s n c).power = s.power := rfl
@[simp] theorem setCtx_trace (s : State) (n : Nat) (c : Ctx) : (setCtx s n c).trace = s.trace := rfl
@[simp] theorem setCtx_standby (s : State) (n : Nat) (c : Ctx) : (setCtx s n c).standby = s.standby := rfl
@[simp] theorem setCtx_mgmt (s : State) (n : Nat) (c : Ctx) : (setCtx s n c).mgmt = s.mgmt := rfl
@[simp] theorem setCtx_out (s : State) (n : Nat) (c : Ctx) : (setCtx s n c).out = s.out := rfl

@[simp] theorem modCtx_pending (s : State) (n : Nat) (f : Ctx → Ctx) : (modCtx s n f).pending = s.pending := rfl
@[simp] theorem modCtx_phase (s : State) (n : Nat) (f : Ctx → Ctx) : (modCtx s n f).phase = s.phase := rfl
@[simp] theorem modCtx_localTime (s : State) (n : Nat) (f : Ctx → Ctx) : (modCtx s n f).localTime = s.localTime := rfl
@[simp] theorem modCtx_timeLatch (s : State) (n : Nat) (f : Ctx → Ctx) : (modCtx s n f).timeLatch = s.timeLatch := rfl
@[simp] theorem modCtx_mem (s : State) (n : Nat) (f : Ctx → Ctx) : (modCtx s n f).mem = s.mem := rfl
@[simp] theorem modCtx_poison (s : State) (n : Nat) (f : Ctx → Ctx) : (modCtx s n f).poison = s.poison := rfl
@[simp] theorem modCtx_pool (s : State) (n : Nat) (f : Ctx → Ctx) : (modCtx s n f).pool = s.pool := rfl
@[simp] theorem modCtx_ageAt (s : State) (n : Nat) (f : Ctx → Ctx) : (modCtx s n f).ageAt = s.ageAt := rfl
@[simp] theorem modCtx_loopAt (s : State) (n : Nat) (f : Ctx → Ctx) : (modCtx s n f).loopAt = s.loopAt := rfl
@[simp] theorem modCtx_carafes (s : State) (n : Nat) (f : Ctx → Ctx) : (modCtx s n f).carafes = s.carafes := rfl
@[simp] theorem modCtx_retireQ (s : State) (n : Nat) (f : Ctx → Ctx) : (modCtx s n f).retireQ = s.retireQ := rfl
@[simp] theorem modCtx_retireOvf (s : State) (n : Nat) (f : Ctx → Ctx) : (modCtx s n f).retireOvf = s.retireOvf := rfl
@[simp] theorem modCtx_retireOvfCnt (s : State) (n : Nat) (f : Ctx → Ctx) : (modCtx s n f).retireOvfCnt = s.retireOvfCnt := rfl
@[simp] theorem modCtx_ctxs (s : State) (n : Nat) (f : Ctx → Ctx) : (modCtx s n f).ctxs = aput s.ctxs n (f (ctxOf s n)) := rfl
@[simp] theorem modCtx_cmds (s : State) (n : Nat) (f : Ctx → Ctx) : (modCtx s n f).cmds = s.cmds := rfl
@[simp] theorem modCtx_branches (s : State) (n : Nat) (f : Ctx → Ctx) : (modCtx s n f).branches = s.branches := rfl
@[simp] theorem modCtx_reserved (s : State) (n : Nat) (f : Ctx → Ctx) : (modCtx s n f).reserved = s.reserved := rfl
@[simp] theorem modCtx_brMem (s : State) (n : Nat) (f : Ctx → Ctx) : (modCtx s n f).brMem = s.brMem := rfl
@[simp] theorem modCtx_brPoison (s : State) (n : Nat) (f : Ctx → Ctx) : (modCtx s n f).brPoison = s.brPoison := rfl
@[simp] theorem modCtx_clusters (s : State) (n : Nat) (f : Ctx → Ctx) : (modCtx s n f).clusters = s.clusters := rfl
@[simp] theorem modCtx_regions (s : State) (n : Nat) (f : Ctx → Ctx) : (modCtx s n f).regions = s.regions := rfl
@[simp] theorem modCtx_dies (s : State) (n : Nat) (f : Ctx → Ctx) : (modCtx s n f).dies = s.dies := rfl
@[simp] theorem modCtx_linkDies (s : State) (n : Nat) (f : Ctx → Ctx) : (modCtx s n f).linkDies = s.linkDies := rfl
@[simp] theorem modCtx_huddles (s : State) (n : Nat) (f : Ctx → Ctx) : (modCtx s n f).huddles = s.huddles := rfl
@[simp] theorem modCtx_links (s : State) (n : Nat) (f : Ctx → Ctx) : (modCtx s n f).links = s.links := rfl
@[simp] theorem modCtx_hostPorts (s : State) (n : Nat) (f : Ctx → Ctx) : (modCtx s n f).hostPorts = s.hostPorts := rfl
@[simp] theorem modCtx_owner (s : State) (n : Nat) (f : Ctx → Ctx) : (modCtx s n f).owner = s.owner := rfl
@[simp] theorem modCtx_cset (s : State) (n : Nat) (f : Ctx → Ctx) : (modCtx s n f).cset = s.cset := rfl
@[simp] theorem modCtx_regs (s : State) (n : Nat) (f : Ctx → Ctx) : (modCtx s n f).regs = s.regs := rfl
@[simp] theorem modCtx_recov (s : State) (n : Nat) (f : Ctx → Ctx) : (modCtx s n f).recov = s.recov := rfl
@[simp] theorem modCtx_power (s : State) (n : Nat) (f : Ctx → Ctx) : (modCtx s n f).power = s.power := rfl
@[simp] theorem modCtx_trace (s : State) (n : Nat) (f : Ctx → Ctx) : (modCtx s n f).trace = s.trace := rfl
@[simp] theorem modCtx_standby (s : State) (n : Nat) (f : Ctx → Ctx) : (modCtx s n f).standby = s.standby := rfl
@[simp] theorem modCtx_mgmt (s : State) (n : Nat) (f : Ctx → Ctx) : (modCtx s n f).mgmt = s.mgmt := rfl
@[simp] theorem modCtx_out (s : State) (n : Nat) (f : Ctx → Ctx) : (modCtx s n f).out = s.out := rfl

@[simp] theorem setCmd_pending (s : State) (c : Cmd) : (setCmd s c).pending = s.pending := rfl
@[simp] theorem setCmd_phase (s : State) (c : Cmd) : (setCmd s c).phase = s.phase := rfl
@[simp] theorem setCmd_localTime (s : State) (c : Cmd) : (setCmd s c).localTime = s.localTime := rfl
@[simp] theorem setCmd_timeLatch (s : State) (c : Cmd) : (setCmd s c).timeLatch = s.timeLatch := rfl
@[simp] theorem setCmd_mem (s : State) (c : Cmd) : (setCmd s c).mem = s.mem := rfl
@[simp] theorem setCmd_poison (s : State) (c : Cmd) : (setCmd s c).poison = s.poison := rfl
@[simp] theorem setCmd_pool (s : State) (c : Cmd) : (setCmd s c).pool = s.pool := rfl
@[simp] theorem setCmd_ageAt (s : State) (c : Cmd) : (setCmd s c).ageAt = s.ageAt := rfl
@[simp] theorem setCmd_loopAt (s : State) (c : Cmd) : (setCmd s c).loopAt = s.loopAt := rfl
@[simp] theorem setCmd_carafes (s : State) (c : Cmd) : (setCmd s c).carafes = s.carafes := rfl
@[simp] theorem setCmd_retireQ (s : State) (c : Cmd) : (setCmd s c).retireQ = s.retireQ := rfl
@[simp] theorem setCmd_retireOvf (s : State) (c : Cmd) : (setCmd s c).retireOvf = s.retireOvf := rfl
@[simp] theorem setCmd_retireOvfCnt (s : State) (c : Cmd) : (setCmd s c).retireOvfCnt = s.retireOvfCnt := rfl
@[simp] theorem setCmd_ctxs (s : State) (c : Cmd) : (setCmd s c).ctxs = s.ctxs := rfl
@[simp] theorem setCmd_cmds (s : State) (c : Cmd) : (setCmd s c).cmds = putCmd s.cmds c := rfl
@[simp] theorem setCmd_branches (s : State) (c : Cmd) : (setCmd s c).branches = s.branches := rfl
@[simp] theorem setCmd_reserved (s : State) (c : Cmd) : (setCmd s c).reserved = s.reserved := rfl
@[simp] theorem setCmd_brMem (s : State) (c : Cmd) : (setCmd s c).brMem = s.brMem := rfl
@[simp] theorem setCmd_brPoison (s : State) (c : Cmd) : (setCmd s c).brPoison = s.brPoison := rfl
@[simp] theorem setCmd_clusters (s : State) (c : Cmd) : (setCmd s c).clusters = s.clusters := rfl
@[simp] theorem setCmd_regions (s : State) (c : Cmd) : (setCmd s c).regions = s.regions := rfl
@[simp] theorem setCmd_dies (s : State) (c : Cmd) : (setCmd s c).dies = s.dies := rfl
@[simp] theorem setCmd_linkDies (s : State) (c : Cmd) : (setCmd s c).linkDies = s.linkDies := rfl
@[simp] theorem setCmd_huddles (s : State) (c : Cmd) : (setCmd s c).huddles = s.huddles := rfl
@[simp] theorem setCmd_links (s : State) (c : Cmd) : (setCmd s c).links = s.links := rfl
@[simp] theorem setCmd_hostPorts (s : State) (c : Cmd) : (setCmd s c).hostPorts = s.hostPorts := rfl
@[simp] theorem setCmd_owner (s : State) (c : Cmd) : (setCmd s c).owner = s.owner := rfl
@[simp] theorem setCmd_cset (s : State) (c : Cmd) : (setCmd s c).cset = s.cset := rfl
@[simp] theorem setCmd_regs (s : State) (c : Cmd) : (setCmd s c).regs = s.regs := rfl
@[simp] theorem setCmd_recov (s : State) (c : Cmd) : (setCmd s c).recov = s.recov := rfl
@[simp] theorem setCmd_power (s : State) (c : Cmd) : (setCmd s c).power = s.power := rfl
@[simp] theorem setCmd_trace (s : State) (c : Cmd) : (setCmd s c).trace = s.trace := rfl
@[simp] theorem setCmd_standby (s : State) (c : Cmd) : (setCmd s c).standby = s.standby := rfl
@[simp] theorem setCmd_mgmt (s : State) (c : Cmd) : (setCmd s c).mgmt = s.mgmt := rfl
@[simp] theorem setCmd_out (s : State) (c : Cmd) : (setCmd s c).out = s.out := rfl

@[simp] theorem modCluster_pending (s : State) (q : Nat) (f : Cluster → Cluster) : (modCluster s q f).pending = s.pending := rfl
@[simp] theorem modCluster_phase (s : State) (q : Nat) (f : Cluster → Cluster) : (modCluster s q f).phase = s.phase := rfl
@[simp] theorem modCluster_localTime (s : State) (q : Nat) (f : Cluster → Cluster) : (modCluster s q f).localTime = s.localTime := rfl
@[simp] theorem modCluster_timeLatch (s : State) (q : Nat) (f : Cluster → Cluster) : (modCluster s q f).timeLatch = s.timeLatch := rfl
@[simp] theorem modCluster_mem (s : State) (q : Nat) (f : Cluster → Cluster) : (modCluster s q f).mem = s.mem := rfl
@[simp] theorem modCluster_poison (s : State) (q : Nat) (f : Cluster → Cluster) : (modCluster s q f).poison = s.poison := rfl
@[simp] theorem modCluster_pool (s : State) (q : Nat) (f : Cluster → Cluster) : (modCluster s q f).pool = s.pool := rfl
@[simp] theorem modCluster_ageAt (s : State) (q : Nat) (f : Cluster → Cluster) : (modCluster s q f).ageAt = s.ageAt := rfl
@[simp] theorem modCluster_loopAt (s : State) (q : Nat) (f : Cluster → Cluster) : (modCluster s q f).loopAt = s.loopAt := rfl
@[simp] theorem modCluster_carafes (s : State) (q : Nat) (f : Cluster → Cluster) : (modCluster s q f).carafes = s.carafes := rfl
@[simp] theorem modCluster_retireQ (s : State) (q : Nat) (f : Cluster → Cluster) : (modCluster s q f).retireQ = s.retireQ := rfl
@[simp] theorem modCluster_retireOvf (s : State) (q : Nat) (f : Cluster → Cluster) : (modCluster s q f).retireOvf = s.retireOvf := rfl
@[simp] theorem modCluster_retireOvfCnt (s : State) (q : Nat) (f : Cluster → Cluster) : (modCluster s q f).retireOvfCnt = s.retireOvfCnt := rfl
@[simp] theorem modCluster_ctxs (s : State) (q : Nat) (f : Cluster → Cluster) : (modCluster s q f).ctxs = s.ctxs := rfl
@[simp] theorem modCluster_cmds (s : State) (q : Nat) (f : Cluster → Cluster) : (modCluster s q f).cmds = s.cmds := rfl
@[simp] theorem modCluster_branches (s : State) (q : Nat) (f : Cluster → Cluster) : (modCluster s q f).branches = s.branches := rfl
@[simp] theorem modCluster_reserved (s : State) (q : Nat) (f : Cluster → Cluster) : (modCluster s q f).reserved = s.reserved := rfl
@[simp] theorem modCluster_brMem (s : State) (q : Nat) (f : Cluster → Cluster) : (modCluster s q f).brMem = s.brMem := rfl
@[simp] theorem modCluster_brPoison (s : State) (q : Nat) (f : Cluster → Cluster) : (modCluster s q f).brPoison = s.brPoison := rfl
@[simp] theorem modCluster_clusters (s : State) (q : Nat) (f : Cluster → Cluster) : (modCluster s q f).clusters = aput s.clusters q (f (clusterOf s q)) := rfl
@[simp] theorem modCluster_regions (s : State) (q : Nat) (f : Cluster → Cluster) : (modCluster s q f).regions = s.regions := rfl
@[simp] theorem modCluster_dies (s : State) (q : Nat) (f : Cluster → Cluster) : (modCluster s q f).dies = s.dies := rfl
@[simp] theorem modCluster_linkDies (s : State) (q : Nat) (f : Cluster → Cluster) : (modCluster s q f).linkDies = s.linkDies := rfl
@[simp] theorem modCluster_huddles (s : State) (q : Nat) (f : Cluster → Cluster) : (modCluster s q f).huddles = s.huddles := rfl
@[simp] theorem modCluster_links (s : State) (q : Nat) (f : Cluster → Cluster) : (modCluster s q f).links = s.links := rfl
@[simp] theorem modCluster_hostPorts (s : State) (q : Nat) (f : Cluster → Cluster) : (modCluster s q f).hostPorts = s.hostPorts := rfl
@[simp] theorem modCluster_owner (s : State) (q : Nat) (f : Cluster → Cluster) : (modCluster s q f).owner = s.owner := rfl
@[simp] theorem modCluster_cset (s : State) (q : Nat) (f : Cluster → Cluster) : (modCluster s q f).cset = s.cset := rfl
@[simp] theorem modCluster_regs (s : State) (q : Nat) (f : Cluster → Cluster) : (modCluster s q f).regs = s.regs := rfl
@[simp] theorem modCluster_recov (s : State) (q : Nat) (f : Cluster → Cluster) : (modCluster s q f).recov = s.recov := rfl
@[simp] theorem modCluster_power (s : State) (q : Nat) (f : Cluster → Cluster) : (modCluster s q f).power = s.power := rfl
@[simp] theorem modCluster_trace (s : State) (q : Nat) (f : Cluster → Cluster) : (modCluster s q f).trace = s.trace := rfl
@[simp] theorem modCluster_standby (s : State) (q : Nat) (f : Cluster → Cluster) : (modCluster s q f).standby = s.standby := rfl
@[simp] theorem modCluster_mgmt (s : State) (q : Nat) (f : Cluster → Cluster) : (modCluster s q f).mgmt = s.mgmt := rfl
@[simp] theorem modCluster_out (s : State) (q : Nat) (f : Cluster → Cluster) : (modCluster s q f).out = s.out := rfl

@[simp] theorem modRegion_pending (s : State) (r : Nat) (f : Region → Region) : (modRegion s r f).pending = s.pending := rfl
@[simp] theorem modRegion_phase (s : State) (r : Nat) (f : Region → Region) : (modRegion s r f).phase = s.phase := rfl
@[simp] theorem modRegion_localTime (s : State) (r : Nat) (f : Region → Region) : (modRegion s r f).localTime = s.localTime := rfl
@[simp] theorem modRegion_timeLatch (s : State) (r : Nat) (f : Region → Region) : (modRegion s r f).timeLatch = s.timeLatch := rfl
@[simp] theorem modRegion_mem (s : State) (r : Nat) (f : Region → Region) : (modRegion s r f).mem = s.mem := rfl
@[simp] theorem modRegion_poison (s : State) (r : Nat) (f : Region → Region) : (modRegion s r f).poison = s.poison := rfl
@[simp] theorem modRegion_pool (s : State) (r : Nat) (f : Region → Region) : (modRegion s r f).pool = s.pool := rfl
@[simp] theorem modRegion_ageAt (s : State) (r : Nat) (f : Region → Region) : (modRegion s r f).ageAt = s.ageAt := rfl
@[simp] theorem modRegion_loopAt (s : State) (r : Nat) (f : Region → Region) : (modRegion s r f).loopAt = s.loopAt := rfl
@[simp] theorem modRegion_carafes (s : State) (r : Nat) (f : Region → Region) : (modRegion s r f).carafes = s.carafes := rfl
@[simp] theorem modRegion_retireQ (s : State) (r : Nat) (f : Region → Region) : (modRegion s r f).retireQ = s.retireQ := rfl
@[simp] theorem modRegion_retireOvf (s : State) (r : Nat) (f : Region → Region) : (modRegion s r f).retireOvf = s.retireOvf := rfl
@[simp] theorem modRegion_retireOvfCnt (s : State) (r : Nat) (f : Region → Region) : (modRegion s r f).retireOvfCnt = s.retireOvfCnt := rfl
@[simp] theorem modRegion_ctxs (s : State) (r : Nat) (f : Region → Region) : (modRegion s r f).ctxs = s.ctxs := rfl
@[simp] theorem modRegion_cmds (s : State) (r : Nat) (f : Region → Region) : (modRegion s r f).cmds = s.cmds := rfl
@[simp] theorem modRegion_branches (s : State) (r : Nat) (f : Region → Region) : (modRegion s r f).branches = s.branches := rfl
@[simp] theorem modRegion_reserved (s : State) (r : Nat) (f : Region → Region) : (modRegion s r f).reserved = s.reserved := rfl
@[simp] theorem modRegion_brMem (s : State) (r : Nat) (f : Region → Region) : (modRegion s r f).brMem = s.brMem := rfl
@[simp] theorem modRegion_brPoison (s : State) (r : Nat) (f : Region → Region) : (modRegion s r f).brPoison = s.brPoison := rfl
@[simp] theorem modRegion_clusters (s : State) (r : Nat) (f : Region → Region) : (modRegion s r f).clusters = s.clusters := rfl
@[simp] theorem modRegion_regions (s : State) (r : Nat) (f : Region → Region) : (modRegion s r f).regions = aput s.regions r (f (regionOf s r)) := rfl
@[simp] theorem modRegion_dies (s : State) (r : Nat) (f : Region → Region) : (modRegion s r f).dies = s.dies := rfl
@[simp] theorem modRegion_linkDies (s : State) (r : Nat) (f : Region → Region) : (modRegion s r f).linkDies = s.linkDies := rfl
@[simp] theorem modRegion_huddles (s : State) (r : Nat) (f : Region → Region) : (modRegion s r f).huddles = s.huddles := rfl
@[simp] theorem modRegion_links (s : State) (r : Nat) (f : Region → Region) : (modRegion s r f).links = s.links := rfl
@[simp] theorem modRegion_hostPorts (s : State) (r : Nat) (f : Region → Region) : (modRegion s r f).hostPorts = s.hostPorts := rfl
@[simp] theorem modRegion_owner (s : State) (r : Nat) (f : Region → Region) : (modRegion s r f).owner = s.owner := rfl
@[simp] theorem modRegion_cset (s : State) (r : Nat) (f : Region → Region) : (modRegion s r f).cset = s.cset := rfl
@[simp] theorem modRegion_regs (s : State) (r : Nat) (f : Region → Region) : (modRegion s r f).regs = s.regs := rfl
@[simp] theorem modRegion_recov (s : State) (r : Nat) (f : Region → Region) : (modRegion s r f).recov = s.recov := rfl
@[simp] theorem modRegion_power (s : State) (r : Nat) (f : Region → Region) : (modRegion s r f).power = s.power := rfl
@[simp] theorem modRegion_trace (s : State) (r : Nat) (f : Region → Region) : (modRegion s r f).trace = s.trace := rfl
@[simp] theorem modRegion_standby (s : State) (r : Nat) (f : Region → Region) : (modRegion s r f).standby = s.standby := rfl
@[simp] theorem modRegion_mgmt (s : State) (r : Nat) (f : Region → Region) : (modRegion s r f).mgmt = s.mgmt := rfl
@[simp] theorem modRegion_out (s : State) (r : Nat) (f : Region → Region) : (modRegion s r f).out = s.out := rfl

@[simp] theorem storeCells_pending (s : State) (cs : List Host.Cell) : (storeCells s cs).pending = s.pending := rfl
@[simp] theorem storeCells_phase (s : State) (cs : List Host.Cell) : (storeCells s cs).phase = s.phase := rfl
@[simp] theorem storeCells_localTime (s : State) (cs : List Host.Cell) : (storeCells s cs).localTime = s.localTime := rfl
@[simp] theorem storeCells_timeLatch (s : State) (cs : List Host.Cell) : (storeCells s cs).timeLatch = s.timeLatch := rfl
@[simp] theorem storeCells_mem (s : State) (cs : List Host.Cell) : (storeCells s cs).mem = mapply s.mem cs := rfl
@[simp] theorem storeCells_poison (s : State) (cs : List Host.Cell) : (storeCells s cs).poison = clearPoison s.poison cs := rfl
@[simp] theorem storeCells_pool (s : State) (cs : List Host.Cell) : (storeCells s cs).pool = s.pool := rfl
@[simp] theorem storeCells_ageAt (s : State) (cs : List Host.Cell) : (storeCells s cs).ageAt = s.ageAt := rfl
@[simp] theorem storeCells_loopAt (s : State) (cs : List Host.Cell) : (storeCells s cs).loopAt = s.loopAt := rfl
@[simp] theorem storeCells_carafes (s : State) (cs : List Host.Cell) : (storeCells s cs).carafes = s.carafes := rfl
@[simp] theorem storeCells_retireQ (s : State) (cs : List Host.Cell) : (storeCells s cs).retireQ = s.retireQ := rfl
@[simp] theorem storeCells_retireOvf (s : State) (cs : List Host.Cell) : (storeCells s cs).retireOvf = s.retireOvf := rfl
@[simp] theorem storeCells_retireOvfCnt (s : State) (cs : List Host.Cell) : (storeCells s cs).retireOvfCnt = s.retireOvfCnt := rfl
@[simp] theorem storeCells_ctxs (s : State) (cs : List Host.Cell) : (storeCells s cs).ctxs = s.ctxs := rfl
@[simp] theorem storeCells_cmds (s : State) (cs : List Host.Cell) : (storeCells s cs).cmds = s.cmds := rfl
@[simp] theorem storeCells_branches (s : State) (cs : List Host.Cell) : (storeCells s cs).branches = s.branches := rfl
@[simp] theorem storeCells_reserved (s : State) (cs : List Host.Cell) : (storeCells s cs).reserved = s.reserved := rfl
@[simp] theorem storeCells_brMem (s : State) (cs : List Host.Cell) : (storeCells s cs).brMem = s.brMem := rfl
@[simp] theorem storeCells_brPoison (s : State) (cs : List Host.Cell) : (storeCells s cs).brPoison = s.brPoison := rfl
@[simp] theorem storeCells_clusters (s : State) (cs : List Host.Cell) : (storeCells s cs).clusters = s.clusters := rfl
@[simp] theorem storeCells_regions (s : State) (cs : List Host.Cell) : (storeCells s cs).regions = s.regions := rfl
@[simp] theorem storeCells_dies (s : State) (cs : List Host.Cell) : (storeCells s cs).dies = s.dies := rfl
@[simp] theorem storeCells_linkDies (s : State) (cs : List Host.Cell) : (storeCells s cs).linkDies = s.linkDies := rfl
@[simp] theorem storeCells_huddles (s : State) (cs : List Host.Cell) : (storeCells s cs).huddles = s.huddles := rfl
@[simp] theorem storeCells_links (s : State) (cs : List Host.Cell) : (storeCells s cs).links = s.links := rfl
@[simp] theorem storeCells_hostPorts (s : State) (cs : List Host.Cell) : (storeCells s cs).hostPorts = s.hostPorts := rfl
@[simp] theorem storeCells_owner (s : State) (cs : List Host.Cell) : (storeCells s cs).owner = s.owner := rfl
@[simp] theorem storeCells_cset (s : State) (cs : List Host.Cell) : (storeCells s cs).cset = s.cset := rfl
@[simp] theorem storeCells_regs (s : State) (cs : List Host.Cell) : (storeCells s cs).regs = s.regs := rfl
@[simp] theorem storeCells_recov (s : State) (cs : List Host.Cell) : (storeCells s cs).recov = s.recov := rfl
@[simp] theorem storeCells_power (s : State) (cs : List Host.Cell) : (storeCells s cs).power = s.power := rfl
@[simp] theorem storeCells_trace (s : State) (cs : List Host.Cell) : (storeCells s cs).trace = s.trace := rfl
@[simp] theorem storeCells_standby (s : State) (cs : List Host.Cell) : (storeCells s cs).standby = s.standby := rfl
@[simp] theorem storeCells_mgmt (s : State) (cs : List Host.Cell) : (storeCells s cs).mgmt = s.mgmt := rfl
@[simp] theorem storeCells_out (s : State) (cs : List Host.Cell) : (storeCells s cs).out = s.out := rfl

@[simp] theorem poisonLines_pending (s : State) (ls : List Nat) : (poisonLines s ls).pending = s.pending := rfl
@[simp] theorem poisonLines_phase (s : State) (ls : List Nat) : (poisonLines s ls).phase = s.phase := rfl
@[simp] theorem poisonLines_localTime (s : State) (ls : List Nat) : (poisonLines s ls).localTime = s.localTime := rfl
@[simp] theorem poisonLines_timeLatch (s : State) (ls : List Nat) : (poisonLines s ls).timeLatch = s.timeLatch := rfl
@[simp] theorem poisonLines_mem (s : State) (ls : List Nat) : (poisonLines s ls).mem = s.mem := rfl
@[simp] theorem poisonLines_poison (s : State) (ls : List Nat) : (poisonLines s ls).poison = ls.foldl sins s.poison := rfl
@[simp] theorem poisonLines_pool (s : State) (ls : List Nat) : (poisonLines s ls).pool = s.pool := rfl
@[simp] theorem poisonLines_ageAt (s : State) (ls : List Nat) : (poisonLines s ls).ageAt = s.ageAt := rfl
@[simp] theorem poisonLines_loopAt (s : State) (ls : List Nat) : (poisonLines s ls).loopAt = s.loopAt := rfl
@[simp] theorem poisonLines_carafes (s : State) (ls : List Nat) : (poisonLines s ls).carafes = s.carafes := rfl
@[simp] theorem poisonLines_retireQ (s : State) (ls : List Nat) : (poisonLines s ls).retireQ = s.retireQ := rfl
@[simp] theorem poisonLines_retireOvf (s : State) (ls : List Nat) : (poisonLines s ls).retireOvf = s.retireOvf := rfl
@[simp] theorem poisonLines_retireOvfCnt (s : State) (ls : List Nat) : (poisonLines s ls).retireOvfCnt = s.retireOvfCnt := rfl
@[simp] theorem poisonLines_ctxs (s : State) (ls : List Nat) : (poisonLines s ls).ctxs = s.ctxs := rfl
@[simp] theorem poisonLines_cmds (s : State) (ls : List Nat) : (poisonLines s ls).cmds = s.cmds := rfl
@[simp] theorem poisonLines_branches (s : State) (ls : List Nat) : (poisonLines s ls).branches = s.branches := rfl
@[simp] theorem poisonLines_reserved (s : State) (ls : List Nat) : (poisonLines s ls).reserved = s.reserved := rfl
@[simp] theorem poisonLines_brMem (s : State) (ls : List Nat) : (poisonLines s ls).brMem = s.brMem := rfl
@[simp] theorem poisonLines_brPoison (s : State) (ls : List Nat) : (poisonLines s ls).brPoison = s.brPoison := rfl
@[simp] theorem poisonLines_clusters (s : State) (ls : List Nat) : (poisonLines s ls).clusters = s.clusters := rfl
@[simp] theorem poisonLines_regions (s : State) (ls : List Nat) : (poisonLines s ls).regions = s.regions := rfl
@[simp] theorem poisonLines_dies (s : State) (ls : List Nat) : (poisonLines s ls).dies = s.dies := rfl
@[simp] theorem poisonLines_linkDies (s : State) (ls : List Nat) : (poisonLines s ls).linkDies = s.linkDies := rfl
@[simp] theorem poisonLines_huddles (s : State) (ls : List Nat) : (poisonLines s ls).huddles = s.huddles := rfl
@[simp] theorem poisonLines_links (s : State) (ls : List Nat) : (poisonLines s ls).links = s.links := rfl
@[simp] theorem poisonLines_hostPorts (s : State) (ls : List Nat) : (poisonLines s ls).hostPorts = s.hostPorts := rfl
@[simp] theorem poisonLines_owner (s : State) (ls : List Nat) : (poisonLines s ls).owner = s.owner := rfl
@[simp] theorem poisonLines_cset (s : State) (ls : List Nat) : (poisonLines s ls).cset = s.cset := rfl
@[simp] theorem poisonLines_regs (s : State) (ls : List Nat) : (poisonLines s ls).regs = s.regs := rfl
@[simp] theorem poisonLines_recov (s : State) (ls : List Nat) : (poisonLines s ls).recov = s.recov := rfl
@[simp] theorem poisonLines_power (s : State) (ls : List Nat) : (poisonLines s ls).power = s.power := rfl
@[simp] theorem poisonLines_trace (s : State) (ls : List Nat) : (poisonLines s ls).trace = s.trace := rfl
@[simp] theorem poisonLines_standby (s : State) (ls : List Nat) : (poisonLines s ls).standby = s.standby := rfl
@[simp] theorem poisonLines_mgmt (s : State) (ls : List Nat) : (poisonLines s ls).mgmt = s.mgmt := rfl
@[simp] theorem poisonLines_out (s : State) (ls : List Nat) : (poisonLines s ls).out = s.out := rfl

@[simp] theorem modHostPort_pending (s : State) (p : Nat) (f : HostPort → HostPort) : (modHostPort s p f).pending = s.pending := rfl
@[simp] theorem modHostPort_phase (s : State) (p : Nat) (f : HostPort → HostPort) : (modHostPort s p f).phase = s.phase := rfl
@[simp] theorem modHostPort_localTime (s : State) (p : Nat) (f : HostPort → HostPort) : (modHostPort s p f).localTime = s.localTime := rfl
@[simp] theorem modHostPort_timeLatch (s : State) (p : Nat) (f : HostPort → HostPort) : (modHostPort s p f).timeLatch = s.timeLatch := rfl
@[simp] theorem modHostPort_mem (s : State) (p : Nat) (f : HostPort → HostPort) : (modHostPort s p f).mem = s.mem := rfl
@[simp] theorem modHostPort_poison (s : State) (p : Nat) (f : HostPort → HostPort) : (modHostPort s p f).poison = s.poison := rfl
@[simp] theorem modHostPort_pool (s : State) (p : Nat) (f : HostPort → HostPort) : (modHostPort s p f).pool = s.pool := rfl
@[simp] theorem modHostPort_ageAt (s : State) (p : Nat) (f : HostPort → HostPort) : (modHostPort s p f).ageAt = s.ageAt := rfl
@[simp] theorem modHostPort_loopAt (s : State) (p : Nat) (f : HostPort → HostPort) : (modHostPort s p f).loopAt = s.loopAt := rfl
@[simp] theorem modHostPort_carafes (s : State) (p : Nat) (f : HostPort → HostPort) : (modHostPort s p f).carafes = s.carafes := rfl
@[simp] theorem modHostPort_retireQ (s : State) (p : Nat) (f : HostPort → HostPort) : (modHostPort s p f).retireQ = s.retireQ := rfl
@[simp] theorem modHostPort_retireOvf (s : State) (p : Nat) (f : HostPort → HostPort) : (modHostPort s p f).retireOvf = s.retireOvf := rfl
@[simp] theorem modHostPort_retireOvfCnt (s : State) (p : Nat) (f : HostPort → HostPort) : (modHostPort s p f).retireOvfCnt = s.retireOvfCnt := rfl
@[simp] theorem modHostPort_ctxs (s : State) (p : Nat) (f : HostPort → HostPort) : (modHostPort s p f).ctxs = s.ctxs := rfl
@[simp] theorem modHostPort_cmds (s : State) (p : Nat) (f : HostPort → HostPort) : (modHostPort s p f).cmds = s.cmds := rfl
@[simp] theorem modHostPort_branches (s : State) (p : Nat) (f : HostPort → HostPort) : (modHostPort s p f).branches = s.branches := rfl
@[simp] theorem modHostPort_reserved (s : State) (p : Nat) (f : HostPort → HostPort) : (modHostPort s p f).reserved = s.reserved := rfl
@[simp] theorem modHostPort_brMem (s : State) (p : Nat) (f : HostPort → HostPort) : (modHostPort s p f).brMem = s.brMem := rfl
@[simp] theorem modHostPort_brPoison (s : State) (p : Nat) (f : HostPort → HostPort) : (modHostPort s p f).brPoison = s.brPoison := rfl
@[simp] theorem modHostPort_clusters (s : State) (p : Nat) (f : HostPort → HostPort) : (modHostPort s p f).clusters = s.clusters := rfl
@[simp] theorem modHostPort_regions (s : State) (p : Nat) (f : HostPort → HostPort) : (modHostPort s p f).regions = s.regions := rfl
@[simp] theorem modHostPort_dies (s : State) (p : Nat) (f : HostPort → HostPort) : (modHostPort s p f).dies = s.dies := rfl
@[simp] theorem modHostPort_linkDies (s : State) (p : Nat) (f : HostPort → HostPort) : (modHostPort s p f).linkDies = s.linkDies := rfl
@[simp] theorem modHostPort_huddles (s : State) (p : Nat) (f : HostPort → HostPort) : (modHostPort s p f).huddles = s.huddles := rfl
@[simp] theorem modHostPort_links (s : State) (p : Nat) (f : HostPort → HostPort) : (modHostPort s p f).links = s.links := rfl
@[simp] theorem modHostPort_hostPorts (s : State) (p : Nat) (f : HostPort → HostPort) : (modHostPort s p f).hostPorts = aput s.hostPorts p (f (hostPortOf s p)) := rfl
@[simp] theorem modHostPort_owner (s : State) (p : Nat) (f : HostPort → HostPort) : (modHostPort s p f).owner = s.owner := rfl
@[simp] theorem modHostPort_cset (s : State) (p : Nat) (f : HostPort → HostPort) : (modHostPort s p f).cset = s.cset := rfl
@[simp] theorem modHostPort_regs (s : State) (p : Nat) (f : HostPort → HostPort) : (modHostPort s p f).regs = s.regs := rfl
@[simp] theorem modHostPort_recov (s : State) (p : Nat) (f : HostPort → HostPort) : (modHostPort s p f).recov = s.recov := rfl
@[simp] theorem modHostPort_power (s : State) (p : Nat) (f : HostPort → HostPort) : (modHostPort s p f).power = s.power := rfl
@[simp] theorem modHostPort_trace (s : State) (p : Nat) (f : HostPort → HostPort) : (modHostPort s p f).trace = s.trace := rfl
@[simp] theorem modHostPort_standby (s : State) (p : Nat) (f : HostPort → HostPort) : (modHostPort s p f).standby = s.standby := rfl
@[simp] theorem modHostPort_mgmt (s : State) (p : Nat) (f : HostPort → HostPort) : (modHostPort s p f).mgmt = s.mgmt := rfl
@[simp] theorem modHostPort_out (s : State) (p : Nat) (f : HostPort → HostPort) : (modHostPort s p f).out = s.out := rfl

@[simp] theorem dropActivities_pending (s : State) (c : Cmd) : (dropActivities s c).pending = s.pending := rfl
@[simp] theorem dropActivities_phase (s : State) (c : Cmd) : (dropActivities s c).phase = s.phase := rfl
@[simp] theorem dropActivities_localTime (s : State) (c : Cmd) : (dropActivities s c).localTime = s.localTime := rfl
@[simp] theorem dropActivities_timeLatch (s : State) (c : Cmd) : (dropActivities s c).timeLatch = s.timeLatch := rfl
@[simp] theorem dropActivities_mem (s : State) (c : Cmd) : (dropActivities s c).mem = s.mem := rfl
@[simp] theorem dropActivities_poison (s : State) (c : Cmd) : (dropActivities s c).poison = s.poison := rfl
@[simp] theorem dropActivities_pool (s : State) (c : Cmd) : (dropActivities s c).pool = s.pool := rfl
@[simp] theorem dropActivities_ageAt (s : State) (c : Cmd) : (dropActivities s c).ageAt = s.ageAt := rfl
@[simp] theorem dropActivities_loopAt (s : State) (c : Cmd) : (dropActivities s c).loopAt = s.loopAt := rfl
@[simp] theorem dropActivities_carafes (s : State) (c : Cmd) : (dropActivities s c).carafes = s.carafes := rfl
@[simp] theorem dropActivities_retireQ (s : State) (c : Cmd) : (dropActivities s c).retireQ = s.retireQ := rfl
@[simp] theorem dropActivities_retireOvf (s : State) (c : Cmd) : (dropActivities s c).retireOvf = s.retireOvf := rfl
@[simp] theorem dropActivities_retireOvfCnt (s : State) (c : Cmd) : (dropActivities s c).retireOvfCnt = s.retireOvfCnt := rfl
@[simp] theorem dropActivities_ctxs (s : State) (c : Cmd) : (dropActivities s c).ctxs = s.ctxs := rfl
@[simp] theorem dropActivities_cmds (s : State) (c : Cmd) : (dropActivities s c).cmds = s.cmds := rfl
@[simp] theorem dropActivities_branches (s : State) (c : Cmd) : (dropActivities s c).branches = s.branches := rfl
@[simp] theorem dropActivities_reserved (s : State) (c : Cmd) : (dropActivities s c).reserved = s.reserved := rfl
@[simp] theorem dropActivities_brMem (s : State) (c : Cmd) : (dropActivities s c).brMem = s.brMem := rfl
@[simp] theorem dropActivities_brPoison (s : State) (c : Cmd) : (dropActivities s c).brPoison = s.brPoison := rfl
@[simp] theorem dropActivities_clusters (s : State) (c : Cmd) : (dropActivities s c).clusters = s.clusters := rfl
@[simp] theorem dropActivities_regions (s : State) (c : Cmd) : (dropActivities s c).regions = s.regions := rfl
@[simp] theorem dropActivities_dies (s : State) (c : Cmd) : (dropActivities s c).dies = s.dies := rfl
@[simp] theorem dropActivities_linkDies (s : State) (c : Cmd) : (dropActivities s c).linkDies = s.linkDies := rfl
@[simp] theorem dropActivities_huddles (s : State) (c : Cmd) : (dropActivities s c).huddles = s.huddles := rfl
@[simp] theorem dropActivities_links (s : State) (c : Cmd) : (dropActivities s c).links = s.links := rfl
@[simp] theorem dropActivities_hostPorts (s : State) (c : Cmd) : (dropActivities s c).hostPorts = s.hostPorts := rfl
@[simp] theorem dropActivities_owner (s : State) (c : Cmd) : (dropActivities s c).owner = s.owner := rfl
@[simp] theorem dropActivities_cset (s : State) (c : Cmd) : (dropActivities s c).cset = s.cset := rfl
@[simp] theorem dropActivities_regs (s : State) (c : Cmd) : (dropActivities s c).regs = s.regs := rfl
@[simp] theorem dropActivities_recov (s : State) (c : Cmd) : (dropActivities s c).recov = s.recov := rfl
@[simp] theorem dropActivities_power (s : State) (c : Cmd) : (dropActivities s c).power = s.power := rfl
@[simp] theorem dropActivities_trace (s : State) (c : Cmd) : (dropActivities s c).trace = s.trace := rfl
@[simp] theorem dropActivities_standby (s : State) (c : Cmd) : (dropActivities s c).standby = s.standby := rfl
@[simp] theorem dropActivities_out (s : State) (c : Cmd) : (dropActivities s c).out = s.out := rfl

@[simp] theorem unreserve_pending (s : State) (c : Cmd) : (unreserve s c).pending = s.pending := rfl
@[simp] theorem unreserve_phase (s : State) (c : Cmd) : (unreserve s c).phase = s.phase := rfl
@[simp] theorem unreserve_localTime (s : State) (c : Cmd) : (unreserve s c).localTime = s.localTime := rfl
@[simp] theorem unreserve_timeLatch (s : State) (c : Cmd) : (unreserve s c).timeLatch = s.timeLatch := rfl
@[simp] theorem unreserve_mem (s : State) (c : Cmd) : (unreserve s c).mem = s.mem := rfl
@[simp] theorem unreserve_poison (s : State) (c : Cmd) : (unreserve s c).poison = s.poison := rfl
@[simp] theorem unreserve_pool (s : State) (c : Cmd) : (unreserve s c).pool = s.pool := rfl
@[simp] theorem unreserve_ageAt (s : State) (c : Cmd) : (unreserve s c).ageAt = s.ageAt := rfl
@[simp] theorem unreserve_loopAt (s : State) (c : Cmd) : (unreserve s c).loopAt = s.loopAt := rfl
@[simp] theorem unreserve_carafes (s : State) (c : Cmd) : (unreserve s c).carafes = s.carafes := rfl
@[simp] theorem unreserve_retireQ (s : State) (c : Cmd) : (unreserve s c).retireQ = s.retireQ := rfl
@[simp] theorem unreserve_retireOvf (s : State) (c : Cmd) : (unreserve s c).retireOvf = s.retireOvf := rfl
@[simp] theorem unreserve_retireOvfCnt (s : State) (c : Cmd) : (unreserve s c).retireOvfCnt = s.retireOvfCnt := rfl
@[simp] theorem unreserve_ctxs (s : State) (c : Cmd) : (unreserve s c).ctxs = s.ctxs := rfl
@[simp] theorem unreserve_cmds (s : State) (c : Cmd) : (unreserve s c).cmds = s.cmds := rfl
@[simp] theorem unreserve_branches (s : State) (c : Cmd) : (unreserve s c).branches = s.branches := rfl
@[simp] theorem unreserve_brMem (s : State) (c : Cmd) : (unreserve s c).brMem = s.brMem := rfl
@[simp] theorem unreserve_brPoison (s : State) (c : Cmd) : (unreserve s c).brPoison = s.brPoison := rfl
@[simp] theorem unreserve_clusters (s : State) (c : Cmd) : (unreserve s c).clusters = s.clusters := rfl
@[simp] theorem unreserve_regions (s : State) (c : Cmd) : (unreserve s c).regions = s.regions := rfl
@[simp] theorem unreserve_dies (s : State) (c : Cmd) : (unreserve s c).dies = s.dies := rfl
@[simp] theorem unreserve_linkDies (s : State) (c : Cmd) : (unreserve s c).linkDies = s.linkDies := rfl
@[simp] theorem unreserve_huddles (s : State) (c : Cmd) : (unreserve s c).huddles = s.huddles := rfl
@[simp] theorem unreserve_links (s : State) (c : Cmd) : (unreserve s c).links = s.links := rfl
@[simp] theorem unreserve_hostPorts (s : State) (c : Cmd) : (unreserve s c).hostPorts = s.hostPorts := rfl
@[simp] theorem unreserve_owner (s : State) (c : Cmd) : (unreserve s c).owner = s.owner := rfl
@[simp] theorem unreserve_cset (s : State) (c : Cmd) : (unreserve s c).cset = s.cset := rfl
@[simp] theorem unreserve_regs (s : State) (c : Cmd) : (unreserve s c).regs = s.regs := rfl
@[simp] theorem unreserve_recov (s : State) (c : Cmd) : (unreserve s c).recov = s.recov := rfl
@[simp] theorem unreserve_power (s : State) (c : Cmd) : (unreserve s c).power = s.power := rfl
@[simp] theorem unreserve_trace (s : State) (c : Cmd) : (unreserve s c).trace = s.trace := rfl
@[simp] theorem unreserve_standby (s : State) (c : Cmd) : (unreserve s c).standby = s.standby := rfl
@[simp] theorem unreserve_out (s : State) (c : Cmd) : (unreserve s c).out = s.out := rfl

@[simp] theorem withQueue_pending (s : State) (q : List Instr) : (s.withQueue q).pending = q := rfl
@[simp] theorem withQueue_phase (s : State) (q : List Instr) : (s.withQueue q).phase = s.phase := rfl
@[simp] theorem withQueue_localTime (s : State) (q : List Instr) : (s.withQueue q).localTime = s.localTime := rfl
@[simp] theorem withQueue_timeLatch (s : State) (q : List Instr) : (s.withQueue q).timeLatch = s.timeLatch := rfl
@[simp] theorem withQueue_mem (s : State) (q : List Instr) : (s.withQueue q).mem = s.mem := rfl
@[simp] theorem withQueue_poison (s : State) (q : List Instr) : (s.withQueue q).poison = s.poison := rfl
@[simp] theorem withQueue_pool (s : State) (q : List Instr) : (s.withQueue q).pool = s.pool := rfl
@[simp] theorem withQueue_ageAt (s : State) (q : List Instr) : (s.withQueue q).ageAt = s.ageAt := rfl
@[simp] theorem withQueue_loopAt (s : State) (q : List Instr) : (s.withQueue q).loopAt = s.loopAt := rfl
@[simp] theorem withQueue_carafes (s : State) (q : List Instr) : (s.withQueue q).carafes = s.carafes := rfl
@[simp] theorem withQueue_retireQ (s : State) (q : List Instr) : (s.withQueue q).retireQ = s.retireQ := rfl
@[simp] theorem withQueue_retireOvf (s : State) (q : List Instr) : (s.withQueue q).retireOvf = s.retireOvf := rfl
@[simp] theorem withQueue_retireOvfCnt (s : State) (q : List Instr) : (s.withQueue q).retireOvfCnt = s.retireOvfCnt := rfl
@[simp] theorem withQueue_ctxs (s : State) (q : List Instr) : (s.withQueue q).ctxs = s.ctxs := rfl
@[simp] theorem withQueue_cmds (s : State) (q : List Instr) : (s.withQueue q).cmds = s.cmds := rfl
@[simp] theorem withQueue_branches (s : State) (q : List Instr) : (s.withQueue q).branches = s.branches := rfl
@[simp] theorem withQueue_reserved (s : State) (q : List Instr) : (s.withQueue q).reserved = s.reserved := rfl
@[simp] theorem withQueue_brMem (s : State) (q : List Instr) : (s.withQueue q).brMem = s.brMem := rfl
@[simp] theorem withQueue_brPoison (s : State) (q : List Instr) : (s.withQueue q).brPoison = s.brPoison := rfl
@[simp] theorem withQueue_clusters (s : State) (q : List Instr) : (s.withQueue q).clusters = s.clusters := rfl
@[simp] theorem withQueue_regions (s : State) (q : List Instr) : (s.withQueue q).regions = s.regions := rfl
@[simp] theorem withQueue_dies (s : State) (q : List Instr) : (s.withQueue q).dies = s.dies := rfl
@[simp] theorem withQueue_linkDies (s : State) (q : List Instr) : (s.withQueue q).linkDies = s.linkDies := rfl
@[simp] theorem withQueue_huddles (s : State) (q : List Instr) : (s.withQueue q).huddles = s.huddles := rfl
@[simp] theorem withQueue_links (s : State) (q : List Instr) : (s.withQueue q).links = s.links := rfl
@[simp] theorem withQueue_hostPorts (s : State) (q : List Instr) : (s.withQueue q).hostPorts = s.hostPorts := rfl
@[simp] theorem withQueue_owner (s : State) (q : List Instr) : (s.withQueue q).owner = s.owner := rfl
@[simp] theorem withQueue_cset (s : State) (q : List Instr) : (s.withQueue q).cset = s.cset := rfl
@[simp] theorem withQueue_regs (s : State) (q : List Instr) : (s.withQueue q).regs = s.regs := rfl
@[simp] theorem withQueue_recov (s : State) (q : List Instr) : (s.withQueue q).recov = s.recov := rfl
@[simp] theorem withQueue_power (s : State) (q : List Instr) : (s.withQueue q).power = s.power := rfl
@[simp] theorem withQueue_trace (s : State) (q : List Instr) : (s.withQueue q).trace = s.trace := rfl
@[simp] theorem withQueue_standby (s : State) (q : List Instr) : (s.withQueue q).standby = s.standby := rfl
@[simp] theorem withQueue_mgmt (s : State) (q : List Instr) : (s.withQueue q).mgmt = s.mgmt := rfl
@[simp] theorem withQueue_out (s : State) (q : List Instr) : (s.withQueue q).out = s.out := rfl

end Sys2Proof.Machine
end

