-- ==== Sys2Proof/Laws/Frame.lean ====
section
/-! SUPPORT. What each shared operation can do: how a command, a context, a cluster, a region and a host port read after an
update, and which parts of the state an event, a vector, a log record, a trace record and a release touch. -/

namespace Sys2Proof.Machine

/-! ### Reading after an update -/

theorem findCmd_key {s : State} {n i : Nat} {c : Cmd} (h : findCmd s n i = some c) : c.ctx = n ∧ c.idx = i := by
  have := List.find?_some h
  simpa using this

theorem find_putCmd (l : List Cmd) (c : Cmd) (n i : Nat) :
    (putCmd l c).find? (fun x => x.ctx == n && x.idx == i)
      = if c.ctx = n ∧ c.idx = i then (l.find? (fun x => x.ctx == n && x.idx == i)).map (fun _ => c)
        else l.find? (fun x => x.ctx == n && x.idx == i) := by
  induction l with
  | nil => simp [putCmd]
  | cons x l ih =>
    simp only [putCmd, List.map_cons, List.find?_cons] at ih ⊢
    by_cases hx : x.ctx = c.ctx ∧ x.idx = c.idx
    · by_cases hc : c.ctx = n ∧ c.idx = i
      · simp [hx, hc]
      · have : (c.ctx == n && c.idx == i) = false := by simpa using hc
        rw [ih]; simp [hx, hc, this]
    · by_cases hc : c.ctx = n ∧ c.idx = i
      · have : (x.ctx == n && x.idx == i) = false := by
          rw [← hc.1, ← hc.2]; simpa using hx
        simp only [hx, if_false, this]; rw [ih]
      · simp only [hx, if_false]; rw [ih]; simp [hc]

theorem findCmd_setCmd (s : State) (c : Cmd) (n i : Nat) :
    findCmd (setCmd s c) n i
      = if c.ctx = n ∧ c.idx = i then (findCmd s n i).map (fun _ => c) else findCmd s n i :=
  find_putCmd s.cmds c n i

theorem findCmd_setCmd_self {s : State} {n i : Nat} {d : Cmd} (c : Cmd) (h : findCmd s n i = some d) (hn : c.ctx = n)
    (hi : c.idx = i) : findCmd (setCmd s c) n i = some c := by
  simp [findCmd_setCmd, hn, hi, h]

theorem findCmd_setCmd_ne {s : State} {n i : Nat} (c : Cmd) (h : ¬ (c.ctx = n ∧ c.idx = i)) :
    findCmd (setCmd s c) n i = findCmd s n i := by
  simp [findCmd_setCmd, h]

theorem ctxOf_setCtx (s : State) (n : Nat) (c : Ctx) (j : Nat) : ctxOf (setCtx s n c) j = if j = n then c else ctxOf s j := by
  simp [ctxOf, aget_aput]

theorem ctxOf_modCtx (s : State) (n : Nat) (f : Ctx → Ctx) (j : Nat) :
    ctxOf (modCtx s n f) j = if j = n then f (ctxOf s n) else ctxOf s j := by
  simp [ctxOf, aget_aput]

theorem clusterOf_modCluster (s : State) (q : Nat) (f : Cluster → Cluster) (j : Nat) :
    clusterOf (modCluster s q f) j = if j = q then f (clusterOf s q) else clusterOf s j := by
  simp [clusterOf, aget_aput]

theorem regionOf_modRegion (s : State) (r : Nat) (f : Region → Region) (j : Nat) :
    regionOf (modRegion s r f) j = if j = r then f (regionOf s r) else regionOf s j := by
  simp [regionOf, aget_aput]

theorem hostPortOf_modHostPort (s : State) (p : Nat) (f : HostPort → HostPort) (j : Nat) :
    hostPortOf (modHostPort s p f) j = if j = p then f (hostPortOf s p) else hostPortOf s j := by
  simp [hostPortOf, aget_aput]

/-! ### Vectors, events, the log and the trace -/

/-- R348: a vector touches the messages sent and the pending bits. -/
theorem sendVector_frame (s : State) (p v : Nat) : ∃ o h, sendVector s p v = { s with out := o, hostPorts := h } := by
  unfold sendVector
  split
  · exact ⟨_, _, rfl⟩
  · exact ⟨_, _, rfl⟩

theorem raiseSource_frame (s : State) (n : Nat) : ∃ o h, raiseSource s n = { s with out := o, hostPorts := h } := by
  unfold raiseSource
  dsimp only
  by_cases h : (aget s.regs.sysVec n 0#32).getLsbD 31 = true
  · rw [if_pos h]; exact sendVector_frame _ _ _
  · rw [if_neg h]; exact ⟨_, _, rfl⟩

theorem mgmtEvent_frame (s : State) (b : Nat) : ∃ m o h, mgmtEvent s b = { s with mgmt := m, out := o, hostPorts := h } := by
  unfold mgmtEvent
  obtain ⟨o, h, e⟩ := raiseSource_frame { s with mgmt := { s.mgmt with evt := withFlag s.mgmt.evt b, evtCnt := s.mgmt.evtCnt + 1 } } 6
  exact ⟨_, o, h, e⟩

/-- R422: logging touches Barista's state, its interrupt and the count of dropped records. -/
theorem logEvent_frame (s : State) (a b c d e : Nat) :
    ∃ m r o h, logEvent s a b c d e = { s with mgmt := m, recov := r, out := o, hostPorts := h } := by
  unfold logEvent
  dsimp only
  by_cases h1 : s.recov.baristaDown = true
  · rw [if_pos h1]
    by_cases h2 : s.mgmt.logHub.length < 1024
    · rw [if_pos h2]; exact ⟨_, _, _, _, rfl⟩
    · rw [if_neg h2]; exact ⟨_, _, _, _, rfl⟩
  · rw [if_neg h1]
    by_cases h2 : s.mgmt.logBuffer.length < 4096
    · rw [if_pos h2]; exact ⟨_, _, _, _, rfl⟩
    · rw [if_neg h2]
      obtain ⟨m, o, h, e⟩ := mgmtEvent_frame s 4
      exact ⟨m, s.recov, o, h, e⟩

/-- R356: tracing touches the trace ring. -/
theorem trace_frame (s : State) (k : Nat) (c : Cmd) (n : Nat) : ∃ r, trace s k c n = { s with trace := r } := by
  unfold trace
  by_cases h : traced s k c.ctx = true
  · rw [if_pos h]; exact ⟨_, rfl⟩
  · rw [if_neg h]; exact ⟨_, rfl⟩

/-- R31, R49: a release touches the cluster of the command and its region. -/
theorem release_frame (s : State) (c : Cmd) : ∃ k r, release s c = { s with clusters := k, regions := r } := by
  unfold release
  cases c.pos with
  | none => exact ⟨_, _, rfl⟩
  | some q => exact ⟨_, _, rfl⟩

theorem noteKill_frame (s : State) (c : Cmd) : ∃ k r, noteKill s c = { s with clusters := k, trace := r } := by
  unfold noteKill
  cases c.pos with
  | none => obtain ⟨r, e⟩ := trace_frame s 6 c 0; exact ⟨_, r, e⟩
  | some q => obtain ⟨r, e⟩ := trace_frame (modCluster s q (fun k => { k with cnt3 := k.cnt3 + 1 })) 6 c 0; exact ⟨_, r, e⟩

theorem countRows_frame (s : State) (c : Cmd) : ∃ k r, countRows s c = { s with clusters := k, regions := r } := by
  unfold countRows
  cases c.pos with
  | none => exact ⟨_, _, rfl⟩
  | some q => exact ⟨_, _, rfl⟩

@[simp] theorem release_cmds (s : State) (c : Cmd) : (release s c).cmds = s.cmds := by
  obtain ⟨_, _, e⟩ := release_frame s c; rw [e]
@[simp] theorem countRows_cmds (s : State) (c : Cmd) : (countRows s c).cmds = s.cmds := by
  obtain ⟨_, _, e⟩ := countRows_frame s c; rw [e]
@[simp] theorem trace_cmds (s : State) (k : Nat) (c : Cmd) (n : Nat) : (trace s k c n).cmds = s.cmds := by
  obtain ⟨_, e⟩ := trace_frame s k c n; rw [e]
@[simp] theorem noteKill_cmds (s : State) (c : Cmd) : (noteKill s c).cmds = s.cmds := by
  obtain ⟨_, _, e⟩ := noteKill_frame s c; rw [e]
@[simp] theorem findCmd_release (s : State) (c : Cmd) (n i : Nat) : findCmd (release s c) n i = findCmd s n i := by
  simp [findCmd]
@[simp] theorem findCmd_countRows (s : State) (c : Cmd) (n i : Nat) : findCmd (countRows s c) n i = findCmd s n i := by
  simp [findCmd]
@[simp] theorem findCmd_unreserve (s : State) (c : Cmd) (n i : Nat) : findCmd (unreserve s c) n i = findCmd s n i := rfl

/-! ### The driver of the descriptor rows -/

/-- R237: what the issue of a command with its work done leaves. -/
theorem issueCmd_done (sp : CmdSpec) (s : State) (c c' : Cmd) (hp : c.peerError = none) (ha : awaits s c = false)
    (hr : rowsFree s c = true) (hd : sp.run s c = .done c') :
    issueCmd sp s c = setCmd (release (countRows s c') c)
      { c' with stage := .issued, await := [], counter := none, accs := []
                seen := c'.seen.filter (fun l => !((c'.gens ++ c'.leadGens).any (fun g => g.1 / 64 == l)))
                held := if hClass c.desc = 1 ∧ hOp c.desc = 6 then c.held else [] } := by
  unfold issueCmd
  simp [hp, ha, hr, hd]

/-- A descriptor row whose command is at the stage where its issue starts. -/
theorem descStep_issue (owns : Desc → Bool) (sp : CmdSpec) (s : State) (n i : Nat) (c : Cmd) (h : findCmd s n i = some c)
    (ho : owns c.desc = true) (hs : c.stage = sp.from_) (hf : c.stage ≠ .fetched) :
    descStep owns sp n i s = issueCmd sp s c := by
  unfold descStep
  simp [h, ho, ← hs, hf]

/-- A descriptor row whose command has not been validated. -/
theorem descStep_validate (owns : Desc → Bool) (sp : CmdSpec) (s : State) (n i : Nat) (c : Cmd) (h : findCmd s n i = some c)
    (ho : owns c.desc = true) (hf : c.stage = .fetched) :
    descStep owns sp n i s = validate sp s c := by
  unfold descStep
  simp [h, ho, hf]

end Sys2Proof.Machine
end

