-- ==== Sys2Proof/Laws/Lists.lean ====
section
/-! SUPPORT. Laws of the sorted lists and maps: membership after an addition or a removal, maps with every value changed, poisoned
lines. -/

namespace Sys2Proof.Machine

theorem mem_sins (l : List Nat) (k x : Nat) : x ∈ sins l k ↔ x = k ∨ x ∈ l := by
  induction l with
  | nil => simp [sins]
  | cons a l ih =>
    simp only [sins]
    split
    · simp
    · split
      · subst_vars; simp
      · simp [ih]; tauto

theorem mem_srem (l : List Nat) (k x : Nat) : x ∈ srem l k ↔ x ∈ l ∧ x ≠ k := by simp [srem]

theorem mem_foldl_sins (ks l : List Nat) (x : Nat) : x ∈ ks.foldl sins l ↔ x ∈ ks ∨ x ∈ l := by
  induction ks generalizing l with
  | nil => simp
  | cons k ks ih => simp [ih, mem_sins]; tauto

theorem mem_poisonLines (s : State) (ls : List Nat) (x : Nat) : x ∈ (poisonLines s ls).poison ↔ x ∈ ls ∨ x ∈ s.poison :=
  mem_foldl_sins ls s.poison x

/-- A map with every value changed by a function of its key. -/
theorem aget?_map {α : Type} (m : AMap α) (f : Nat → α → α) (k : Nat) :
    aget? (m.map (fun e => (e.1, f e.1 e.2))) k = (aget? m k).map (f k) := by
  induction m with
  | nil => rfl
  | cons e m ih =>
    obtain ⟨a, v⟩ := e
    simp only [List.map_cons, aget?]
    split
    · subst_vars; rfl
    · exact ih

theorem aget_map {α : Type} (m : AMap α) (f : Nat → α → α) (k : Nat) (d : α) (hd : f k d = d) :
    aget (m.map (fun e => (e.1, f e.1 e.2))) k d = f k (aget m k d) := by
  simp only [aget, aget?_map]
  cases aget? m k <;> simp [hd]

end Sys2Proof.Machine
end

