-- ==== Sys2Proof/Laws/Events.lean ====
section
/-! SUPPORT. Laws of the events: what each leaves, with the messages and the pending bits of host ports left open. -/

namespace Sys2Proof.Machine

/-- R348: a vector changes no field of a host port but its pending bits. -/
theorem sendVector_port (s : State) (p v q : Nat) : ∃ b, hostPortOf (sendVector s p v) q = { hostPortOf s q with pba := b } := by
  unfold sendVector
  split
  · exact ⟨(hostPortOf s q).pba, rfl⟩
  · rw [hostPortOf_modHostPort]
    split
    · subst_vars; exact ⟨_, rfl⟩
    · exact ⟨_, rfl⟩

theorem raiseSource_port (s : State) (n q : Nat) : ∃ b, hostPortOf (raiseSource s n) q = { hostPortOf s q with pba := b } := by
  unfold raiseSource
  dsimp only
  by_cases h : (aget s.regs.sysVec n 0#32).getLsbD 31 = true
  · rw [if_pos h]; exact sendVector_port _ _ _ _
  · rw [if_neg h]; exact ⟨_, rfl⟩

/-- What a raised source leaves: the state with other messages and pending bits. -/
def raised (s t : State) : Prop :=
  (∃ o h, t = { s with out := o, hostPorts := h }) ∧ t.out.host = s.out.host ∧ t.out.mgmt = s.out.mgmt
    ∧ ∀ q, ∃ b, hostPortOf t q = { hostPortOf s q with pba := b }

theorem sendVector_raised (s : State) (p v : Nat) : raised s (sendVector s p v) := by
  refine ⟨sendVector_frame s p v, ?_, ?_, fun q => sendVector_port s p v q⟩
  · unfold sendVector; split <;> rfl
  · unfold sendVector; split <;> rfl

theorem raiseSource_raised (s : State) (n : Nat) : raised s (raiseSource s n) := by
  unfold raiseSource
  dsimp only
  by_cases h : (aget s.regs.sysVec n 0#32).getLsbD 31 = true
  · rw [if_pos h]; exact sendVector_raised _ _ _
  · rw [if_neg h]; exact ⟨⟨_, _, rfl⟩, rfl, rfl, fun _ => ⟨_, rfl⟩⟩

theorem csetEvent_raised (s : State) (b : Nat) :
    raised { s with cset := { s.cset with evt := withFlag s.cset.evt b, evtCnt := s.cset.evtCnt + 1 } } (csetEvent s b) :=
  raiseSource_raised _ _

theorem powerEvent_raised (s : State) (b : Nat) :
    raised { s with power := { s.power with evt := withFlag s.power.evt b, evtCnt := s.power.evtCnt + 1 } } (powerEvent s b) :=
  raiseSource_raised _ _

theorem mgmtEvent_raised (s : State) (b : Nat) :
    raised { s with mgmt := { s.mgmt with evt := withFlag s.mgmt.evt b, evtCnt := s.mgmt.evtCnt + 1 } } (mgmtEvent s b) :=
  raiseSource_raised _ _

theorem linkEvent_raised (s : State) (b : Nat) :
    raised { s with links := { s.links with evt := withFlag s.links.evt b, evtCnt := s.links.evtCnt + 1 } } (linkEvent s b) :=
  raiseSource_raised _ _

theorem recovEvent_raised (s : State) :
    raised { s with recov := { s.recov with evt := withFlag s.recov.evt 0, evtCnt := s.recov.evtCnt + 1 } } (recovEvent s) :=
  raiseSource_raised _ _

theorem carafeEvent_raised (s : State) (d : Nat) :
    raised { s with carafes := amod s.carafes d {} (fun k => { k with evt := withFlag k.evt 0, evtCnt := k.evtCnt + 1 }) } (carafeEvent s d) :=
  raiseSource_raised _ _

theorem portEvent_raised (s : State) (p b : Nat) :
    raised { s with links := { s.links with ports := amod s.links.ports p {} (fun x =>
      { x with evt := withFlag x.evt b, evtCnt := x.evtCnt + 1 }) } } (portEvent s p b) :=
  raiseSource_raised _ _

/-- A raised state of a raised state. -/
theorem raised.trans {a b c : State} (h : raised a b) (k : raised b c) : raised a c := by
  obtain ⟨⟨o, p, e⟩, h1, h2, h3⟩ := h
  obtain ⟨⟨o', p', e'⟩, k1, k2, k3⟩ := k
  refine ⟨⟨o', p', by rw [e', e]⟩, k1.trans h1, k2.trans h2, fun q => ?_⟩
  obtain ⟨x, hx⟩ := h3 q
  obtain ⟨y, hy⟩ := k3 q
  exact ⟨y, by rw [hy, hx]⟩

/-- R359: an event of a host port. -/
theorem pciEvent_raised (s : State) (p b : Nat) :
    raised (modHostPort s p (fun h => { h with evt := withFlag h.evt b, evtCnt := h.evtCnt + 1 })) (pciEvent s p b) := by
  unfold pciEvent
  dsimp only
  split
  · exact raiseSource_raised _ _
  · exact (raiseSource_raised _ _).trans (sendVector_raised _ _ _)


end Sys2Proof.Machine
end

