-- ==== Sys2Proof/Laws/Meet.lean ====
section
/-! SUPPORT. Laws of the lines of ranges, and of what a command meets where every line of it is in place. -/

namespace Sys2Proof.Machine
theorem mem_linesOfAll {rs : List (Nat × Nat)} {l : Nat} : l ∈ linesOfAll rs ↔ ∃ r ∈ rs, l ∈ linesOf r.1 r.2 := by
  have key : ∀ (rs : List (Nat × Nat)) (acc : List Nat),
      l ∈ rs.foldl (fun ls r => (linesOf r.1 r.2).foldl sins ls) acc ↔ l ∈ acc ∨ ∃ r ∈ rs, l ∈ linesOf r.1 r.2 := by
    intro rs
    induction rs with
    | nil => simp
    | cons r rs ih =>
      intro acc
      simp only [List.foldl_cons, ih, List.mem_cons, exists_eq_or_imp]
      rw [mem_foldl_sins]
      tauto
  simp [linesOfAll, key]

theorem mem_linesOf {a n l : Nat} (h : l ∈ linesOf a n) : a / 64 ≤ l ∧ l * 64 < a + n := by
  unfold linesOf at h
  split at h
  · simp at h
  · simp only [List.mem_map, List.mem_range] at h
    obtain ⟨i, hi, rfl⟩ := h
    omega

theorem meet_fine {s : State} {used writes : List (Nat × Nat)}
    (hu : ∀ l ∈ linesOfAll used, meetLine s false (l * 64) = .fine ∧ linePoisoned s (l * 64) = false)
    (hw : ∀ l ∈ linesOfAll writes, meetLine s true (l * 64) = .fine) : meet s used writes = .fine := by
  have h1 : ((linesOfAll used).map (· * 64)).map (meetLine s false) = List.replicate (linesOfAll used).length .fine := by
    rw [List.eq_replicate_iff]; simp; intro l hl; exact (hu l hl).1
  have h2 : (linesOfAll writes).map (fun l => meetLine s true (l * 64)) = List.replicate (linesOfAll writes).length .fine := by
    rw [List.eq_replicate_iff]; simp; intro l hl; exact hw l hl
  have h3 : ((linesOfAll used).map (· * 64)).any (linePoisoned s) = false := by
    rw [List.any_eq_false]; simp; intro l hl; exact (hu l hl).2
  unfold meet
  simp [h1, h2, h3, worst, List.contains_eq_mem]
end Sys2Proof.Machine
end

