-- ==== Sys2Proof/Tests/Slice0.lean ====
section
/-! SUPPORT. Witnesses for the hypotheses of the statements, the refusals of WellFormed, and small tests of single commands whose
results are worked out from the rules of spec/. -/

namespace Sys2Proof.Tests

set_option Elab.async false

open Sys2Proof Sys2Proof.Machine

def mkDesc (fs : List (Nat × Nat)) : Desc := BitVec.ofNat 1024 (fs.map (fun f => f.2 * 2 ^ (8 * f.1))).sum
def wPort : HostPort :=
  { link := .up, ready := true, perst := false, busMaster := true, memSpace := true, msixEnable := true }
def upPort : Port := { state := .up, peer := 5, peerValid := true, since := 10#64 }
def wCtx : Ctx := { state := .active, svc := 1, sqAddr := BitVec.ofNat 64 (2^47), cqAddr := BitVec.ofNat 64 (2^47+4096), dbAddr := BitVec.ofNat 64 (2^47+8192), pollI := 2, acl := [{ base := 0, limit := 2^40, read := true, write := true, allMod := true }], sqTailSeen := 5 }
def wS : State :=
  { State.reset with
      phase := .running, localTime := 10 ^ 15
      hostPorts := [(0, wPort), (1, wPort)]
      pool := [(0, {}), (1, {}), (2, {}), (3, {})]
      ctxs := [(3, wCtx)]
      links := { ports := [(3, upPort), (31, upPort)], routes := [(5, { mask := 8#32 })], presents := [(5, 1#32)] } }
def wDead : State := { wS with phase := .hubDead }
def wStand (g : StandbyStage) : Standby := { ctx := 3, idx := 7, stage := g, wakeMs := 20 }
def cAt (g : Stage) (cls op : Nat) (fs : List (Nat × Nat)) : Cmd :=
  { ctx := 3, idx := 7, desc := mkDesc ([(0, cls), (1, op), (2, 1)] ++ fs), stage := g, pos := some 9 }
def at2 (s : State) (c : Cmd) : State := { s with cmds := [c] }
def wF : Flit := { cls := 1, dst := 0, src := 5, epoch := 0, seq := 0, tag := 9, address := 131, data := [] }
def bytesOf (n k : Nat) : List Byte := (List.range k).map (fun i => BitVec.ofNat 8 (n / 256 ^ i))
def D4 : List (Nat × Nat) := [(16, 40), (24, 200), (28, 6), (33, 7), (34, 7), (40, 50), (64, 65536)]
def mv1 : Cmd := { cAt .validated 2 1 [(16, 64), (20, 64), (24, 1), (32, 0), (40, 65536), (48, 1), (52, 1)] with pos := none }
def cv1 (g : Stage) : Cmd := { cAt g 1 2 [(16, 2), (20, 4), (24, 2), (28, 4), (32, 1), (34, 7), (35, 7), (40, 64), (48, 65536), (80, 1), (84, 1), (88, 2), (92, 2)] with pos := none }
def scr (a n : Nat) : AclEntry := { base := 2^46 + a, limit := 2^46 + a + n - 1, read := true, write := true, allMod := false }
def kA : Ctx := { wCtx with acl := [scr 0 128], saveLo := 65536 + 1, saveHi := 0, lastRun := 3 }
def kB : Ctx := { wCtx with acl := [scr 64 128], saveLo := 131072 + 1, saveHi := 0, res := .swapped }
def wR : State := { wS with ctxs := [(3, kB), (4, kA)], cmds := [cv1 .validated] }
def tabHead (a : Nat) (chain fmt : Nat) : List Host.Cell :=
  [(a, 4#8), (a + 4, 16#8), (a + 9, 16#8), (a + 40, BitVec.ofNat 8 fmt), (a + 42, 1#8), (a + 43, BitVec.ofNat 8 (2 * chain)), (a + 44, 16#8)]
def tabMem : Memory := [(0, 128#8)] ++ tabHead 128 1 5 ++ [(4096, 57#8), (4105, 4#8)]
def cTab (cls op : Nat) (fs : List (Nat × Nat)) : Cmd := { cAt .placed cls op fs with list := [128] }
def mm1 (g : Stage) : Cmd := { cAt g 1 1 [(16, 1), (18, 1), (20, 2), (24, 1), (26, 1), (28, 2), (32, 1), (34, 2), (37, 5), (38, 5), (39, 7), (48, 0), (56, 64), (64, 65536), (96, 1), (100, 1), (104, 1)] with qFree := 64 }
def el1 : Cmd := cAt .placed 1 7 [(16, 1), (20, 2), (24, 1), (28, 2), (32, 1), (36, 7), (37, 7), (48, 0), (56, 64), (64, 128), (72, 65536), (88, 1), (92, 1)]
def wSet : State := { wS with cset := { wS.cset with shadowValid := true } }
def sw5 : Cmd := { cAt .validated 5 5 [(16, 0)] with pos := none }
def noBr (c : Cmd) : Cmd := { c with desc := c.desc + mkDesc [(4, 0xFFFFFFFF)] }

def sStepRunsFront0 : State := { wS with pending := [.swap, .invAll] }
def cStepRunsFront0 : Instr := .swap
def qStepRunsFront0 : List Instr := [.invAll]
def iEveryCommandAnswers0 : Instr := .apertureRead (2^25-4) 4
def iEveryCommandAnswers1 : Instr := .apertureRead (2^25-4) 5
def sResetsAndMemory0 : State := { wS with mem := [(0, 1#8), (65535, 1#8), (2^46+7, 1#8), (2^47, 5#8)] }
def sStartUpAndPower3 : State := { State.reset with phase := .startup true }
def sStartUpAndPower4 : State := { wS with phase := .startup true, links := { wS.links with ports := [(31, { })] } }
def sStandbyStages0 : State := { wS with cmds := [cAt .validated 5 7 [(16, 20)]] }
def cStandbyStages0 : Cmd := cAt .validated 5 7 [(16, 20)]
def sStandbyStages1 : State := { wS with cmds := [cAt .validated 5 7 [(16, 20)]], standby := some (wStand .draining) }
def bStandbyStages1 : Standby := wStand .draining
def sStandbyStages2 : State := let x := { wS with cmds := [cAt .validated 5 7 [(16, 20)]], standby := some (wStand .draining) }; { x with hostPorts := [(0, { wPort with aspmL1 := true })] }
def sStandbyStages3 : State := { wS with cmds := [cAt .validated 5 7 [(16, 20)]], standby := some (wStand .saving) }
def bStandbyStages3 : Standby := wStand .saving
def sStandbyStages4 : State := { wS with cmds := [cAt .validated 5 7 [(16, 20)]], standby := some (wStand .asleep) }
def bStandbyStages4 : Standby := wStand .asleep
def sStandbyStages5 : State := { wS with cmds := [cAt .validated 5 7 [(16, 20)]], standby := some { wStand .asleep with cause := some 2 } }
def bStandbyStages5 : Standby := { wStand .asleep with cause := some 2 }
def sPortStates1 : State := { wS with links := { wS.links with ports := [(3, upPort), (31, { state := .disabled, enable := false })] } }
def sPortStates2 : State := { wS with links := { wS.links with ports := [(3, upPort), (31, { state := .training })] } }
def sPortStates4 : State := { wS with links := { wS.links with ports := [(3, upPort), (31, { state := .down })] } }
def sPortStates6 : State := { wS with links := { wS.links with ports := [(3, upPort), (31, { state := .up, replays := 257 })] } }
def sPortStates8 : State := { wS with mgmt := { wS.mgmt with running := [{ rank := rkLink, scope := 3, since := 0, info := (0,0) }] } }
def sPortStates9 : State := { wS with links := { wS.links with ports := [(3, upPort), (31, { state := .recovering })] } }
def sRouteTable0 : State := { wS with regs := { wS.regs with routeData0 := 5, routeData1 := 9 } }
def fTransitForwards0 : Flit := { wF with dst := 5 }
def sRemoteReadIsServed0 : State := { wS with mem := [(3, 5#8), (255, 9#8)] }
def eRemoteReadIsServed0 : Page := {}
def sRemoteReplyLands0 : State := { wS with cmds := [{ cAt .placed 1 2 [] with await := [36,37,99] }], links := { wS.links with reads := [{ tag := 9, die := 0, module := 5, line := 9, ctx := 3, idx := 7, epoch := 0 }] } }
def fRemoteReplyLands0 : Flit := { wF with data := List.replicate 256 7#8, address := 0 }
def rRemoteReplyLands0 : ReadOut := { tag := 9, die := 0, module := 5, line := 9, ctx := 3, idx := 7, epoch := 0 }
def cRemoteReplyLands0 : Cmd := { cAt .placed 1 2 [] with await := [36,37,99] }
def fRemoteWriteAtPeer1 : Flit := { wF with data := [1#8,2#8,3#8] }
def sRemoteWriteAtPeer2 : State := { wS with links := { wS.links with holdsIn := [{ src := 5, tag := 9, pages := [0], data := [(3, 1#8), (65535, 7#8)], since := 0 }] } }
def sRemoteWriteAtPeer3 : State := { wS with links := { wS.links with holdsIn := [{ src := 5, tag := 9, pages := [0], data := [], since := 0 }] } }
def sHoldAcknowledged0 : State := { wS with cmds := [{ cAt .issued 1 2 [] with holdsDue := [(5,0),(5,1)], work := { writes := [(2^50*5+4, 1#8)] } }] }
def fHoldAcknowledged0 : Flit := { wF with data := [0#8], tag := 3+256*7, address := 2^50*5+4 }
def cHoldAcknowledged0 : Cmd := { cAt .issued 1 2 [] with holdsDue := [(5,0),(5,1)], work := { writes := [(2^50*5+4, 1#8)] } }
def fDeathAndPresence0 : Flit := { wF with data := [5#8,0,0,0,1,0,0,0,2] }
def sDeathAndPresence2 : State := { wS with links := { wS.links with dead := [(9, 1#32)], unreachable := [9] } }
def fDeathAndPresence2 : Flit := { wF with data := [9#8,0,0,0,2,0,0,0] }
def sDeathAndPresence3 : State := { wS with links := { wS.links with dead := [(5, 1#32)], unreachable := [5] } }
def fDeathAndPresence3 : Flit := { wF with data := [5#8,0,0,0,2,0,0,0], seq := 77 }
def sDeathAndPresence4 : State := { wS with links := { wS.links with waitSince := [(9, 1#64)] } }
def sWatchdogs2 : State := { wS with recov := { baristaHeld := true, baristaDown := true, restarts := 255 } }
def sCollectivesEndIssue0 : State := { wS with cmds := [{ cAt .placed 4 1 D4 with coll := some { channel := 200, step := 6, groupId := 77, portMask := 8, members := [0, 5], rank := 0, es := 40, segments := 1, started := true, committed := [0] } }] }
def cCollectivesEndIssue0 : Cmd := { cAt .placed 4 1 D4 with coll := some { channel := 200, step := 6, groupId := 77, portMask := 8, members := [0, 5], rank := 0, es := 40, segments := 1, started := true, committed := [0] } }
def rCollectivesEndIssue0 : CollRun := { channel := 200, step := 6, groupId := 77, portMask := 8, members := [0, 5], rank := 0, es := 40, segments := 1, started := true, committed := [0] }
def sCollectivesEndIssue1 : State := { wS with cmds := [{ cAt .placed 4 2 D4 with coll := some { channel := 200, step := 6, groupId := 77, portMask := 8, members := [0, 5], rank := 0, es := 40, segments := 1, started := true, committed := [0] } }] }
def cCollectivesEndIssue1 : Cmd := { cAt .placed 4 2 D4 with coll := some { channel := 200, step := 6, groupId := 77, portMask := 8, members := [0, 5], rank := 0, es := 40, segments := 1, started := true, committed := [0] } }
def sCollectivesEndIssue2 : State := { wS with cmds := [{ cAt .placed 4 3 D4 with coll := some { channel := 200, step := 6, groupId := 77, portMask := 8, members := [0, 5], rank := 0, es := 40, segments := 1, started := true, committed := [0] } }] }
def cCollectivesEndIssue2 : Cmd := { cAt .placed 4 3 D4 with coll := some { channel := 200, step := 6, groupId := 77, portMask := 8, members := [0, 5], rank := 0, es := 40, segments := 1, started := true, committed := [0] } }
def sCollectivesEndIssue3 : State := { wS with cmds := [{ cAt .placed 4 4 D4 with coll := some { channel := 200, step := 6, groupId := 77, portMask := 8, members := [0, 5], rank := 0, es := 40, segments := 1, started := true, committed := [0] } }] }
def cCollectivesEndIssue3 : Cmd := { cAt .placed 4 4 D4 with coll := some { channel := 200, step := 6, groupId := 77, portMask := 8, members := [0, 5], rank := 0, es := 40, segments := 1, started := true, committed := [0] } }
def sCollectiveAborts0 : State := { wS with cmds := [{ cAt .placed 4 2 D4 with coll := some { channel := 200, step := 6, groupId := 77, portMask := 8, members := [0, 5], rank := 0, es := 40, segments := 1, started := true } }] }
def cCollectiveAborts0 : Cmd := { cAt .placed 4 2 D4 with coll := some { channel := 200, step := 6, groupId := 77, portMask := 8, members := [0, 5], rank := 0, es := 40, segments := 1, started := true } }
def rCollectiveAborts0 : CollRun := { channel := 200, step := 6, groupId := 77, portMask := 8, members := [0, 5], rank := 0, es := 40, segments := 1, started := true }
def fCollectiveAborts1 : Flit := { wF with address := 200, tag := 6, data := [1#8] }
def fContributionEnters0 : Flit := { wF with address := 200 + 2^9*1, tag := 6, data := bytesOf (77 + 2^32*0) 8 ++ List.replicate 128 3#8 }
def sRallySlotAdds0 : State := { wS with cmds := [{ cAt .placed 4 2 D4 with coll := some { channel := 200, step := 6, groupId := 77, portMask := 8, members := [0, 5], rank := 0, es := 40, segments := 1, started := true, contribs := (List.range 40).flatMap (fun z => [(z*16384, 0x3F800000#32), (z*16384+1, 0x40000000#32)]) } }] }
def cRallySlotAdds0 : Cmd := { cAt .placed 4 2 D4 with coll := some { channel := 200, step := 6, groupId := 77, portMask := 8, members := [0, 5], rank := 0, es := 40, segments := 1, started := true, contribs := (List.range 40).flatMap (fun z => [(z*16384, 0x3F800000#32), (z*16384+1, 0x40000000#32)]) } }
def rRallySlotAdds0 : CollRun := { channel := 200, step := 6, groupId := 77, portMask := 8, members := [0, 5], rank := 0, es := 40, segments := 1, started := true, contribs := (List.range 40).flatMap (fun z => [(z*16384, 0x3F800000#32), (z*16384+1, 0x40000000#32)]) }
def esRallySlotAdds0 : List Nat := ((lineStarts (coOf cRallySlotAdds0.desc)).filter (lineReady (coOf cRallySlotAdds0.desc) rRallySlotAdds0)).tail
def sWaitReads0 : State := { wS with mem := [(128, 6#8)], cmds := [cAt .validated 5 2 [(16, 0), (20, 50), (24, 128), (32, 6)]] }
def cWaitReads0 : Cmd := cAt .validated 5 2 [(16, 0), (20, 50), (24, 128), (32, 6)]
def sWaitReads1 : State := { wS with mem := [(128, 6#8)], cmds := [cAt .validated 5 2 [(16, 1), (20, 50), (24, 128), (32, 6)]] }
def cWaitReads1 : Cmd := cAt .validated 5 2 [(16, 1), (20, 50), (24, 128), (32, 6)]
def sWaitReads2 : State := { wS with mem := [(128, 5#8)], cmds := [cAt .validated 5 2 [(16, 0), (20, 50), (24, 128), (32, 6)]] }
def sWaitReads3 : State := { wS with mem := [(128, 5#8)], cmds := [cAt .validated 5 2 [(16, 1), (20, 50), (24, 128), (32, 6)]] }
def sWaitReads4 : State := { wS with mem := [(128, 1#8)], cmds := [cAt .validated 5 2 [(16, 1), (20, 50), (24, 128), (32, 6)]] }
def sSignalWrites0 : State := { wS with mem := [(128, 255#8),(129,255#8)], cmds := [cAt .validated 5 3 [(16, 1), (20, 50), (24, 128), (32, 6)]] }
def cSignalWrites0 : Cmd := cAt .validated 5 3 [(16, 1), (20, 50), (24, 128), (32, 6)]
def sSignalWrites1 : State := { wS with mem := [(128, 255#8),(129,255#8)] }
def fSignalWrites1 : Flit := { wF with address := 128, data := bytesOf (1 + 2^64*7) 16 }
def sFenceCompletes0 : State := { wS with cmds := [cAt .validated 5 1 []] }
def cFenceCompletes0 : Cmd := cAt .validated 5 1 []
def sFenceCompletes1 : State := { wS with cmds := [{ cAt .validated 5 1 [] with idx := 6 }, cAt .validated 5 1 []] }
def xFenceCompletes2 : Cmd := { cAt .validated 5 1 [] with idx := 6 }
def sFenceCompletes3 : State := { wS with cmds := [cAt .fetched 5 1 [(127, 1)]] }
def cFenceCompletes3 : Cmd := cAt .fetched 5 1 [(127, 1)]
def sHuddles0 : State := { wS with cmds := [cAt .validated 5 4 [(16, 4), (18, 0), (20, 3), (24, 9), (28, 50)]], huddles := [(4, { epoch := 9 })] }
def cHuddles0 : Cmd := cAt .validated 5 4 [(16, 4), (18, 0), (20, 3), (24, 9), (28, 50)]
def xHuddles0 : Hd := hdOf cHuddles0.desc
def sHuddles1 : State := { wS with cmds := [cAt .validated 5 4 [(16, 4), (18, 0), (20, 2), (24, 9), (28, 50)]], huddles := [(4, { epoch := 9, participants := 2, timeoutUs := 50, arrivals := [{ module := 5, tag := 7, cls := 1 }] })] }
def cHuddles1 : Cmd := cAt .validated 5 4 [(16, 4), (18, 0), (20, 2), (24, 9), (28, 50)]
def xHuddles1 : Hd := hdOf cHuddles1.desc
def sHuddles2 : State := { wS with huddles := [(4, { epoch := 9 })] }
def fHuddles2 : Flit := { wF with address := 1028, data := bytesOf (9*2^32 + 2*2^64+50*2^96) 16 }
def hHuddles2 : Huddle := { epoch := 9 }
def sHuddles3 : State := { wS with cmds := [{ cAt .validated 5 4 [(16, 4), (18, 5), (20, 2), (24, 9), (28, 50)] with arrived := true }] }
def fHuddles3 : Flit := { wF with tag := 3+256*7, data := bytesOf (1+9*2^32) 8 }
def cHuddles3 : Cmd := { cAt .validated 5 4 [(16, 4), (18, 5), (20, 2), (24, 9), (28, 50)] with arrived := true }
def sHuddles4 : State := { wS with huddles := [(4, { epoch := 9, participants := 2, timeoutUs := 50, arrivals := [{ module := 5, tag := 7, cls := 1 }] })] }
def sPolling1 : State := { wS with ctxs := [(3, { wCtx with polling := true, idlePolls := 7, pollI := 9 })] }
def kPolling1 : Ctx := ctxOf sPolling1 3
def kFetchAndRingErrors1 : Ctx := ctxOf wS 3
def sCompletionRecords0 : State := { wS with cmds := [{ cv1 .decided with status := .poison, failOrder := 3 }], ctxs := [(3, { wCtx with cqTail := 64, dbAddr := 0x8000, cqAddr := 0x10000 })] }
def aCompletionRecords0 : Nat := hostAddr sCompletionRecords0 ((ctxOf sCompletionRecords0 3).cqAddr.toNat + 32 * ((ctxOf sCompletionRecords0 3).cqTail.toNat % 2 ^ (ctxOf sCompletionRecords0 3).cqLog2))
def cCompletionRecords0 : Cmd := (findCmd sCompletionRecords0 3 7).getD default
def kCompletionRecords0 : Ctx := ctxOf sCompletionRecords0 3
def sCompletionRecords1 : State := { wS with ctxs := [(3, { wCtx with irqPending := true, irqHoldoff := 7, msixVector := 4 })] }
def kCompletionRecords1 : Ctx := ctxOf sCompletionRecords1 3
def sContextControl0 : State := { wS with ctxs := [(3, { wCtx with state := .disabled, sqAddr := 0x10000, cqAddr := 0x20000, dbAddr := 0x30000, aclAccepted := true, keyReg := 9 })] }
def kContextControl0 : Ctx := ctxOf sContextControl0 3
def sContextControl1 : State := { wS with ctxs := [(3, { wCtx with state := .disabled })] }
def kContextControl1 : Ctx := ctxOf sContextControl1 3
def sContextControl3 : State := { wS with cmds := [{ cv1 .issued with idx := 5 }, { cv1 .committed with idx := 6 }, cv1 .placed, { cv1 .fetched with idx := 8 }, { cv1 .placed with ctx := 4 }], ctxs := [(3, { wCtx with stopping := true, sqHead := 9 })] }
def sContextControl4 : State := { wS with cmds := [{ cv1 .issued with idx := 5 }, { cv1 .committed with idx := 6 }, cv1 .placed, { cv1 .fetched with idx := 8 }, { cv1 .placed with ctx := 4 }], ctxs := [(3, { wCtx with state := .halted, haltReason := .stop, sqHead := 9, heldRecords := [(7, true),(8, false)] })] }
def kContextControl4 : Ctx := ctxOf sContextControl4 3
def sContextControl5 : State := { wS with cmds := [{ cv1 .issued with idx := 5 }, { cv1 .committed with idx := 6 }, cv1 .placed, { cv1 .fetched with idx := 8 }, { cv1 .placed with ctx := 4 }], ctxs := [(3, { wCtx with sqHead := 9 })] }
def kContextControl5 : Ctx := ctxOf sContextControl5 3
def sContextControl6 : State := { wS with cmds := [{ cv1 .issued with idx := 5 }, { cv1 .decided with idx := 6 }, cv1 .placed, { cv1 .fetched with idx := 8 }, { cv1 .placed with ctx := 4 }], branches := [(1, { ctx := 3, granules := 2 }), (2, { ctx := 4 })], ctxs := [(3, { wCtx with state := .resetting, stopping := true, sqHead := 9, evtCnt := 9 })] }
def kContextControl6 : Ctx := ctxOf sContextControl6 3
def sKillsLeaveNoTrace0 : State := { wS with cmds := [cv1 .issued] }
def cKillsLeaveNoTrace0 : Cmd := (findCmd sKillsLeaveNoTrace0 3 7).getD default
def sKillsLeaveNoTrace1 : State := { wS with ctxs := [(3, { wCtx with stopping := true })], cmds := [cv1 .issued] }
def cKillsLeaveNoTrace1 : Cmd := (findCmd sKillsLeaveNoTrace1 3 7).getD default
def sPlacement0 : State := { wS with cmds := [cv1 .validated] }
def cPlacement0 : Cmd := (findCmd sPlacement0 3 7).getD default
def sPlacement1 : State := { wS with cmds := [mv1] }
def cPlacement1 : Cmd := (findCmd sPlacement1 3 7).getD default
def sPlacement2 : State := { wS with cset := { wS.cset with active := mset (mset wS.cset.active 0x80 1) 0xC5 0 }, cmds := [{ cv1 .validated with desc := (cv1 .validated).desc + mkDesc [(40, 2^46-64)] }] }
def cPlacement2 : Cmd := (findCmd sPlacement2 3 7).getD default
def sPlacementLoop0 : State := { wS with regions := [(1, { slow := true })] }
def ratesPlacementLoop0 : List Nat := [5, 9, 1, 3]
def sPlacementLoop1 : State := { wS with regions := [(0, { slow := true })], branches := [(1, { ctx := 3, granules := 2, statePos := 0 }), (2, { ctx := 3, granules := 2, statePos := 0 })] }
def ratesPlacementLoop1 : List Nat := []
def xPlacementLoop1 : Branch := (branchOf sPlacementLoop1 1).getD default
def sResidency0 : State := { wR with pool := [(0, {}), (1, { pinned := true })], ctxs := [(3, kB), (4, { kA with svc := 2 })] }
def kResidency0 : Ctx := ctxOf sResidency0 4
def sResidency1 : State := { wR with ctxs := [(3, kB), (4, { kA with markWait := true })] }
def kResidency1 : Ctx := ctxOf sResidency1 4
def sResidency2 : State := { wR with mem := [(65536, 7#8), (2^46, 5#8), (2^46+127, 6#8)], ctxs := [(3, kB), (4, { kA with res := .saving })] }
def kResidency2 : Ctx := ctxOf sResidency2 4
def sResidency3 : State := { wR with ctxs := [(3, kB), (4, { kA with res := .swapped })] }
def sResidency4 : State := { wR with mem := [(65536, 7#8), (131072, 3#8), (2^46, 5#8), (2^46+127, 6#8)], ctxs := [(3, { kB with res := .restoring, saveEmpty := false }), (4, { kA with res := .swapped })] }
def kResidency4 : Ctx := ctxOf sResidency4 3
def sComputeRowsIssue0 : State := { wS with cmds := [mm1 .placed], mem := [(0, 0#8)].filter (fun _ => false) ++ [(1, 128#8), (3, 63#8), (64, 64#8), (65, 64#8)] }
def cComputeRowsIssue0 : Cmd := (findCmd sComputeRowsIssue0 3 7).getD default
def sComputeRowsIssue1 : State := { wS with cmds := [{ cv1 .placed with pos := some 9 }], mem := [(0, 0#8)].filter (fun _ => false) ++ [(1, 128#8), (3, 63#8), (64, 64#8), (65, 64#8)] }
def cComputeRowsIssue1 : Cmd := (findCmd sComputeRowsIssue1 3 7).getD default
def sComputeRowsIssue2 : State := { wS with cmds := [cAt .placed 1 5 [(16, 1), (20, 1), (24, 2), (28, 2), (32, 1), (48, 0), (64, 65536), (72, 1), (76, 1)]], mem := [(0, 0#8)].filter (fun _ => false) ++ [(1, 128#8), (3, 63#8), (64, 64#8), (65, 64#8)] }
def cComputeRowsIssue2 : Cmd := (findCmd sComputeRowsIssue2 3 7).getD default
def sComputeRowsIssue3 : State := { wS with cmds := [cAt .placed 1 6 [(16, 1), (20, 1), (24, 1), (28, 1), (32, 1), (34, 7), (35, 7), (48, 0), (56, 64), (64, 128), (72, 65536), (104, 1), (108, 1), (112, 1), (116, 1)]], mem := [(0, 0#8)].filter (fun _ => false) ++ [(1, 128#8), (3, 63#8), (64, 64#8), (65, 64#8)] }
def cComputeRowsIssue3 : Cmd := (findCmd sComputeRowsIssue3 3 7).getD default
def sComputeRowsIssue4 : State := { wS with cmds := [el1], mem := [(0, 0#8)].filter (fun _ => false) ++ [(1, 128#8), (3, 63#8), (64, 64#8), (65, 64#8)] }
def cComputeRowsIssue4 : Cmd := (findCmd sComputeRowsIssue4 3 7).getD default
def sComputeRowsIssue5 : State := { wS with cmds := [cAt .placed 1 8 [(16, 1), (18, 1), (20, 1), (22, 1), (26, 1), (32, 1), (34, 1), (36, 1), (38, 1), (40, 1), (42, 1), (44, 1), (46, 1), (48, 1), (49, 1), (50, 1), (51, 1), (52, 1), (53, 1), (54, 1), (55, 1), (56, 1), (60, 5), (61, 5), (62, 7), (72, 0), (80, 64), (88, 65536)]], mem := [(0, 0#8)].filter (fun _ => false) ++ [(1, 128#8), (3, 63#8), (64, 64#8), (65, 64#8)] }
def cComputeRowsIssue5 : Cmd := (findCmd sComputeRowsIssue5 3 7).getD default
def sComputeRowsIssue6 : State := { wS with cmds := [cAt .placed 1 9 [(16, 1), (18, 1), (20, 1), (22, 1), (24, 1), (26, 1), (28, 1), (30, 2), (32, 7), (33, 7), (64, 0), (72, 64), (88, 65536), (96, 131072)]], mem := [(0, 0#8)].filter (fun _ => false) ++ [(1, 128#8), (3, 63#8), (64, 64#8), (65, 64#8)] }
def cComputeRowsIssue6 : Cmd := (findCmd sComputeRowsIssue6 3 7).getD default
def sTableRowsIssue0 : State := { wS with cmds := [cTab 1 3 [(16, 1), (18, 1), (20, 1), (22, 1), (23, 1), (24, 16), (26, 5), (27, 5), (28, 7), (35, 63), (48, 512), (56, 131072), (64, 0), (104, 1), (108, 1)]], mem := tabMem }
def cTableRowsIssue0 : Cmd := (findCmd sTableRowsIssue0 3 7).getD default
def sTableRowsIssue1 : State := { wS with cmds := [cTab 1 4 [(16, 1), (18, 1), (20, 1), (22, 1), (23, 1), (24, 16), (26, 5), (27, 5), (28, 7), (35, 63), (48, 512), (56, 131072), (64, 0), (80, 640), (88, 768), (96, 896), (104, 1), (108, 1)]], mem := (tabMem.map (fun c => c) |> fun m => mapply m ((161, 4#8) :: tabHead 1024 0 7)) }
def cTableRowsIssue1 : Cmd := (findCmd sTableRowsIssue1 3 7).getD default
def sTableRowsIssue2 : State := { wS with cmds := [cTab 3 1 [(16, 1), (20, 1), (24, 1), (26, 1), (27, 5), (28, 16), (32, 0), (40, 512), (48, 640), (56, 768), (80, 1), (84, 1)]], mem := tabMem }
def cTableRowsIssue2 : Cmd := (findCmd sTableRowsIssue2 3 7).getD default
def sTableRowsIssue3 : State := { wS with cmds := [cTab 3 2 [(16, 1), (24, 128), (32, 512)]], mem := tabMem }
def cTableRowsIssue3 : Cmd := (findCmd sTableRowsIssue3 3 7).getD default
def sTableRowsIssue4 : State := { wS with cmds := [cTab 3 3 [(16, 1), (18, 1), (19, 5), (20, 16), (24, 0), (32, 512), (40, 1024), (48, 65536)]], mem := tabMem }
def cTableRowsIssue4 : Cmd := (findCmd sTableRowsIssue4 3 7).getD default
def sTableRowsIssue5 : State := { wS with cmds := [cTab 3 4 [(16, 16), (20, 16), (24, 1), (32, 0), (40, 512), (48, 1), (56, 65536)]], mem := tabMem }
def cTableRowsIssue5 : Cmd := (findCmd sTableRowsIssue5 3 7).getD default
def sTableRowsIssue6 : State := { wS with cmds := [{ cAt .placed 3 5 [(16, 1), (20, 4), (24, 1), (28, 3), (40, 1)] with list := [] }], branches := [(1, { ctx := 3, granules := 2, tableCount := 1 }), (2, { ctx := 3, parked := true, granules := 1, saveAddr := 65536 })], mem := tabMem }
def cTableRowsIssue6 : Cmd := (findCmd sTableRowsIssue6 3 7).getD default
def sTableRowsIssue7 : State := { wS with cmds := [{ cAt .placed 3 6 [] with list := [1] }], branches := [(1, { ctx := 3, granules := 2, tableCount := 1 }), (2, { ctx := 3, parked := true, granules := 1, saveAddr := 65536 })], mem := tabMem }
def cTableRowsIssue7 : Cmd := (findCmd sTableRowsIssue7 3 7).getD default
def sTableRowsIssue8 : State := { wS with cmds := [cAt .placed 3 7 [(16, 1)]], branches := [(1, { ctx := 3, granules := 2, tableCount := 1 }), (2, { ctx := 3, parked := true, granules := 1, saveAddr := 65536 })], mem := tabMem }
def cTableRowsIssue8 : Cmd := (findCmd sTableRowsIssue8 3 7).getD default
def sTableRowsIssue9 : State := { wS with cmds := [cAt .placed 3 8 [(16, 1), (24, 131072)]], branches := [(1, { ctx := 3, granules := 2, tableCount := 1 }), (2, { ctx := 3, parked := true, granules := 1, saveAddr := 65536 })], mem := tabMem }
def cTableRowsIssue9 : Cmd := (findCmd sTableRowsIssue9 3 7).getD default
def rTableRowsIssue9 : Branch := (branchOf sTableRowsIssue9 (pkBranch cTableRowsIssue9.desc)).getD default
def sTableRowsIssue10 : State := { wS with cmds := [cAt .placed 3 8 [(16, 2), (20, 1)]], branches := [(1, { ctx := 3, granules := 2, tableCount := 1 }), (2, { ctx := 3, parked := true, granules := 1, saveAddr := 65536 })], mem := tabMem }
def cTableRowsIssue10 : Cmd := (findCmd sTableRowsIssue10 3 7).getD default
def rTableRowsIssue10 : Branch := (branchOf sTableRowsIssue10 (pkBranch cTableRowsIssue10.desc)).getD default
def sMoveRowsIssue0 : State := { wS with cmds := [{ mv1 with stage := .placed }], mem := [(0, 0#8)].filter (fun _ => false) ++ [(1, 128#8), (3, 63#8), (64, 64#8), (65, 64#8)] }
def cMoveRowsIssue0 : Cmd := (findCmd sMoveRowsIssue0 3 7).getD default
def xMoveRowsIssue0 : Mv := mvOf cMoveRowsIssue0.desc
def sMoveRowsIssue1 : State := { wS with cmds := [{ cAt .placed 2 2 [(16, 1), (20, 1), (24, 0), (32, 0), (40, 65536), (48, 4), (52, 512)] with pos := none }], mem := [(5, 9#8)] }
def cMoveRowsIssue1 : Cmd := (findCmd sMoveRowsIssue1 3 7).getD default
def xMoveRowsIssue1 : Tl := tlOf cMoveRowsIssue1.desc
def sPoolRowsIssue0 : State := { wS with cmds := [{ cAt .placed 2 3 [(16, 1), (20, 1), (24, 65536)] with pos := none }] }
def cPoolRowsIssue0 : Cmd := (findCmd sPoolRowsIssue0 3 7).getD default
def sPoolRowsIssue1 : State := { wS with cmds := [{ cAt .placed 2 3 [(16, 2), (20, 1), (24, 65536)] with pos := none }] }
def cPoolRowsIssue1 : Cmd := (findCmd sPoolRowsIssue1 3 7).getD default
def sPoolRowsIssue2 : State := { wS with cmds := [{ cAt .placed 2 3 [(16, 3), (20, 1), (24, 65536)] with pos := none }] }
def cPoolRowsIssue2 : Cmd := (findCmd sPoolRowsIssue2 3 7).getD default
def sPoolRowsIssue3 : State := { wS with cmds := [{ cAt .placed 2 3 [(16, 4), (20, 1), (24, 65536)] with pos := none }] }
def cPoolRowsIssue3 : Cmd := (findCmd sPoolRowsIssue3 3 7).getD default
def sPoolRowsIssue4 : State := { wS with cmds := [{ cAt .placed 2 3 [(16, 5), (20, 1), (24, 65536)] with pos := none }] }
def cPoolRowsIssue4 : Cmd := (findCmd sPoolRowsIssue4 3 7).getD default
def sPoolRowsIssue5 : State := { wS with cmds := [{ cAt .placed 2 3 [(16, 6), (20, 1), (24, 65536)] with pos := none }], mgmt := { wS.mgmt with running := [{ rank := rkRetire, scope := 1, since := 0, info := (3, 7) }] } }
def cPoolRowsIssue5 : Cmd := (findCmd sPoolRowsIssue5 3 7).getD default
def sPoolRowsIssue6 : State := { wS with cmds := [{ cAt .placed 2 3 [(16, 7), (20, 1), (24, 65536)] with pos := none }] }
def cPoolRowsIssue6 : Cmd := (findCmd sPoolRowsIssue6 3 7).getD default
def sPoolPages0 : State := { wS with mem := [(5 * 65536, 7#8)] }
def ePoolPages1 : Page := (aget? wS.pool 1).getD default
def sPoolPages2 : State := { wS with mem := [(65536, 7#8), (131071, 7#8)] }
def ePoolPages2 : Page := (aget? sPoolPages2.pool 1).getD default
def sPoolPages3 : State := { wS with cmds := [{ mv1 with stage := .placed }] }
def ePoolPages3 : Page := (aget? sPoolPages3.pool 1).getD default
def sPoolPages5 : State := { wS with pool := [(1, { pinned := true })] }
def ePoolPages5 : Page := (aget? sPoolPages5.pool 1).getD default
def sPoolPages6 : State := { wS with mem := [(65536, 7#8), (131071, 7#8), (2^47, 3#8)], cset := { wS.cset with active := mset (mset wS.cset.active 0x88F 0) 0x88D 128 |> fun m => mset m 0x890 4 } }
def ePoolPages6 : Page := (aget? sPoolPages6.pool 1).getD default
def sPoolPages8 : State := { wS with pool := [(1, { state := .evicted, slot := 3 })], cset := { wS.cset with active := mset (mset wS.cset.active 0x88F 0) 0x88D 128 |> fun m => mset m 0x890 4 } }
def ePoolPages8 : Page := (aget? sPoolPages8.pool 1).getD default
def sPoolPages9 : State := { wS with pool := [(1, { state := .lost })] }
def ePoolPages9 : Page := (aget? sPoolPages9.pool 1).getD default
def sPoolEvents1 : State := { wS with pool := [(0, { age := 7 }), (1, { age := 9, pinned := true })], carafes := [(0, { retired := List.replicate 14 (2, 5) })], mem := [(2, 7#8)], cset := { wS.cset with active := mapply wS.cset.active [(0x88D, 128#8), (0x890, 4#8), (0x880, 0xB9#8), (0x8C4, 4#8), (0x8C8, 2#8), (0x8C9, 5#8), (0x8CA, 1#8)] } }
def sPoolEvents2 : State := { wS with pool := [(1, { age := 255, touched := false }), (2, { age := 7, touched := true }), (3, { pinned := true, age := 4 })] }
def sCommitMakesVisible0 : State := { wS with cmds := [{ cv1 .issued with work := { writes := [(65536, 5#8), (65537, 0#8), (3, 9#8)], result := 77, reseq := true } }], mem := [(0, 0#8)].filter (fun _ => false) ++ [(1, 128#8), (3, 63#8), (64, 64#8), (65, 64#8)] }
def cCommitMakesVisible0 : Cmd := (findCmd sCommitMakesVisible0 3 7).getD default
def wCommitMakesVisible0 : Work := { writes := [(65536, 5#8), (65537, 0#8), (3, 9#8)], result := 77, reseq := true }
def sPoolCommits0 : State := { wS with cmds := [{ cAt .issued 2 3 [(16, 3), (20, 2), (24, 65536)] with pos := none }] }
def cPoolCommits0 : Cmd := (findCmd sPoolCommits0 3 7).getD default
def sPoolCommits1 : State := { wS with cmds := [{ cAt .issued 2 3 [(16, 3), (20, 2), (24, 196608)] with pos := none }] }
def cPoolCommits1 : Cmd := (findCmd sPoolCommits1 3 7).getD default
def stPoolCommits1 : Status := .state
def sBranchCommits0 : State := { wS with cmds := [{ cAt .issued 3 8 [(16, 1), (24, 131072)] with pos := none }], branches := [(1, { ctx := 3, granules := 2, tableCount := 1 }), (2, { ctx := 3, parked := true, granules := 1, saveAddr := 65536 })], mem := tabMem, brMem := [(2^21, 5#8), (2^21+8191, 9#8)] }
def cBranchCommits0 : Cmd := (findCmd sBranchCommits0 3 7).getD default
def rBranchCommits0 : Branch := (branchOf sBranchCommits0 (pkBranch cBranchCommits0.desc)).getD default
def sBranchCommits1 : State := { wS with cmds := [{ cAt .issued 3 5 [(16, 0xFFFFFFFF), (20, 4), (24, 1), (40, 2), (32, 576), (48, 99)] with pos := none }], branches := [(1, { ctx := 3, granules := 2, tableCount := 1 }), (2, { ctx := 3, parked := true, granules := 1, saveAddr := 65536 })], mem := tabMem }
def cBranchCommits1 : Cmd := (findCmd sBranchCommits1 3 7).getD default
def xBranchCommits1 : Fk := fkOf cBranchCommits1.desc
def sRowsArriveIssueDrain0 : State := { wS with cmds := [{ cv1 .placed with pos := some 9, counter := some 63, await := [1, 2] }], clusters := [(9, { arrivals := [(63, { ctx := 3, idx := 7, expected := 2, count := 0 })] })] }
def cRowsArriveIssueDrain0 : Cmd := (findCmd sRowsArriveIssueDrain0 3 7).getD default
def kRowsArriveIssueDrain0 : Arrival := { ctx := 3, idx := 7, expected := 2, count := 0 }
def xRowsArriveIssueDrain1 : Mm := mmOf cComputeRowsIssue0.desc
def sRowsArriveIssueDrain2 : State := { wS with cmds := [{ mm1 .placed with await := [1], counter := some 3 }], clusters := [(9, { arrivals := [(3, { ctx := 3, idx := 7, expected := 2, count := 0 })] })] }
def cRowsArriveIssueDrain2 : Cmd := (findCmd sRowsArriveIssueDrain2 3 7).getD default
def sRowsArriveIssueDrain3 : State := { wS with cmds := [{ mm1 .placed with rowsIssued := 1 }], mem := [(0, 0#8)].filter (fun _ => false) ++ [(1, 128#8), (3, 63#8), (64, 64#8), (65, 64#8)] }
def cRowsArriveIssueDrain3 : Cmd := (findCmd sRowsArriveIssueDrain3 3 7).getD default
def xRowsArriveIssueDrain3 : Mm := mmOf cRowsArriveIssueDrain3.desc
def cWalkerAndPolls0 : Cmd := (walkerCmd sTableRowsIssue0 1 128).getD default
def sWalkerAndPolls1 : State := { wS with cmds := [{ cv1 .placed with mismatch := true }] }
def cWalkerAndPolls1 : Cmd := (findCmd sWalkerAndPolls1 3 7).getD default
def sWalkerAndPolls2 : State := { wS with cmds := [cAt .placed 1 8 [(28, 5), (69, 1), (120, 128)]], mem := [(128, 6#8)] }
def cWalkerAndPolls2 : Cmd := (findCmd sWalkerAndPolls2 3 7).getD default
def xWalkerAndPolls2 : Wn := wnOf cWalkerAndPolls2.desc
def sSnapshots0 : State := { wS with cmds := [{ cAt .validated 5 6 [(16, 0), (17, 255), (20, 0), (24, 0), (32, 5 * 2^50), (40, 1), (44, 40), (48, 2^64-1), (56, 192), (64, 256), (72, 512), (80, 5)] with turn := 3 }], mem := [(256, 2#8), (260, 9#8), (264, 8#8), (322, 5#8), (5 * 2^50, 3#8), (5*2^50 + 8, 7#8), (5*2^50+18, 3#8), (5*2^50+24, 96#8)] }
def cSnapshots0 : Cmd := (findCmd sSnapshots0 3 7).getD default
def sSnapshots1 : State := { wS with cmds := [{ cAt .validated 5 6 [(16, 1), (17, 255), (20, 0), (24, 0), (32, 5 * 2^50), (40, 1), (44, 40), (48, 2^64-1), (56, 192), (64, 256), (72, 512), (80, 5)] with turn := 2 }], mem := [(256, 2#8), (260, 9#8), (264, 8#8), (322, 5#8), (5 * 2^50, 3#8), (5*2^50 + 8, 7#8), (5*2^50+18, 3#8), (5*2^50+24, 96#8)] }
def cSnapshots1 : Cmd := (findCmd sSnapshots1 3 7).getD default
def sSnapshots2 : State := { wS with cmds := [{ cAt .validated 5 6 [(16, 2), (17, 255), (20, 0), (24, 0), (32, 5 * 2^50), (40, 1), (44, 40), (48, 2^64-1), (56, 192), (64, 256), (72, 512), (80, 5)] with turn := 1 }], mem := [(256, 2#8), (260, 9#8), (264, 8#8), (322, 5#8), (5 * 2^50, 3#8), (5*2^50 + 8, 7#8), (5*2^50+18, 3#8), (5*2^50+24, 96#8)] }
def cSnapshots2 : Cmd := (findCmd sSnapshots2 3 7).getD default
def sSnapshots3 : State := { wS with cmds := [{ cAt .validated 5 6 [(16, 3), (17, 255), (20, 0), (24, 0), (32, 5 * 2^50), (40, 1), (44, 40), (48, 2^64-1), (56, 192), (64, 256), (72, 512), (80, 5)] with turn := 2 }], mem := [(256, 2#8), (260, 9#8), (264, 8#8), (322, 5#8), (5 * 2^50, 3#8), (5*2^50 + 8, 7#8), (5*2^50+18, 3#8), (5*2^50+24, 96#8)] }
def cSnapshots3 : Cmd := (findCmd sSnapshots3 3 7).getD default
def sSnapshots4 : State := { wS with cmds := [{ cAt .validated 5 6 [(16, 4), (17, 255), (20, 0), (24, 0), (32, 5 * 2^50), (40, 1), (44, 40), (48, 2^64-1), (56, 192), (64, 256), (72, 512), (80, 5)] with turn := 1 }], mem := [(256, 2#8), (260, 9#8), (264, 8#8), (322, 5#8), (5 * 2^50, 3#8), (5*2^50 + 8, 7#8), (5*2^50+18, 3#8), (5*2^50+24, 96#8)] }
def cSnapshots4 : Cmd := (findCmd sSnapshots4 3 7).getD default
def sSnapshots5 : State := { wS with cmds := [{ cAt .validated 5 6 [(16, 5), (17, 255), (20, 0), (24, 0), (32, 5 * 2^50), (40, 1), (44, 40), (48, 2^64-1), (56, 192), (64, 256), (72, 512), (80, 5)] with turn := 1 }], mem := [(256, 2#8), (260, 9#8), (264, 8#8), (322, 5#8), (5 * 2^50, 3#8), (5*2^50 + 8, 7#8), (5*2^50+18, 3#8), (5*2^50+24, 96#8)] }
def cSnapshots5 : Cmd := (findCmd sSnapshots5 3 7).getD default
def sSnapshots6 : State := { wS with cmds := [{ cAt .validated 5 6 [(16, 6), (17, 255), (20, 0), (24, 0), (32, 5 * 2^50), (40, 1), (44, 40), (48, 2^64-1), (56, 192), (64, 256), (72, 512), (80, 5)] with turn := 3 }], mem := [(256, 2#8), (260, 9#8), (264, 8#8), (322, 5#8), (5 * 2^50, 3#8), (5*2^50 + 8, 7#8), (5*2^50+18, 3#8), (5*2^50+24, 96#8)] }
def cSnapshots6 : Cmd := (findCmd sSnapshots6 3 7).getD default
def sSnapshots7 : State := { wS with cmds := [{ { cAt .validated 5 6 [(16, 1), (17, 255), (20, 0), (24, 0), (32, 5 * 2^50), (40, 1), (44, 40), (48, 2^64-1), (56, 192), (64, 256), (72, 512), (80, 5)] with turn := 2 } with stage := .issued, lastValue := 0x0001518000007530, work := { writes := [(195, 63#8), (194, 128#8)], result := 1 } }], mem := [(256, 2#8), (260, 9#8), (264, 8#8), (322, 5#8), (5 * 2^50, 3#8), (5*2^50 + 8, 7#8), (5*2^50+18, 3#8), (5*2^50+24, 96#8)] }
def cSnapshots7 : Cmd := (findCmd sSnapshots7 3 7).getD default
def sDieResets0 : State := { wS with cmds := [{ cv1 .placed with pos := some 9 }, { cv1 .validated with idx := 8 }], mem := [(3, 1#8), (65536, 2#8), (2^46+5, 3#8), (2^46+2^28-1, 4#8), (2^46+2^28, 5#8)], regs := { wS.regs with svcMode := 0 }, clusters := [(9, { arrivals := [(3, { ctx := 3, idx := 7, expected := 2, count := 0 })], retired := [5] })] }
def sDieResets1 : State := { wS with cmds := [{ cv1 .placed with pos := some 9 }, { cv1 .validated with idx := 8 }], dies := [(15, { lastReset := some (wS.localTime - 60000000000) })] }
def sDieResets2 : State := { wS with dies := [(15, { resetting := true })] }
def sDieResets3 : State := { wS with cmds := [{ cv1 .issued with pos := some 9, work := { writes := [(5 * 2^50, 1#8)] }, holdsSent := true, holdsDue := [(5, 0)] }] }
def sDieResets4 : State := { wS with links := { wS.links with ports := [(28, {}), (31, {})] }, linkDies := [(7, { resetting := true })] }
def sLineErrors1 : State := { wS with retireQ := [(1,2,3),(4,5,6)] }
def sLineErrors2 : State := { wS with clusters := [(511, { errors := [(512+2047, 1)] })] }
def sLineErrors3 : State := { wS with clusters := [(511, { errors := [(511, 1)] })] }
def sChannels1 : State := { wS with carafes := [(15, { s0 := .standsFor 4, s1 := .retired })] }
def sChannels2 : State := { wS with carafes := [(15, { s0 := .standsFor 4, s1 := .retired, remapped := some 9 })] }
def sChannels3 : State := { wS with carafes := [(15, { busy := some { channel := 63, spare := 1, phase := .copying, failed := true } })] }
def bChannels3 : Subst := { channel := 63, spare := 1, phase := .copying, failed := true }
def sChannels4 : State := { wS with carafes := [(15, { s1 := .standsFor 63, s0 := .standsFor 63, busy := some { channel := 63, spare := 1, phase := .retraining, failed := false } })] }
def bChannels4 : Subst := { channel := 63, spare := 1, phase := .retraining, failed := false }
def sChannels5 : State := { wS with carafes := [(15, { busy := some { channel := 63, spare := 2, phase := .remapping, failed := true } })] }
def bChannels5 : Subst := { channel := 63, spare := 2, phase := .remapping, failed := true }
def sChannels7 : State := { wS with carafes := [(15, { scrub := [(63, 3600)] })] }
def sSetUpActions0 : State := { wS with regions := [(1, { lab := [(0, { head := 1, gen := 2, lead := 3, size := 4, page := 5, shared := false, node := 0, ref := true })] })] }
def sSetUpActions1 : State := { wS with mem := [(128, 9#8), (65600, 8#8)], branches := [(1, { ctx := 3 })], regs := { wS.regs with branchDir := 0x0000000900000040 } }
def sSetUpActions2 : State := { wS with cmds := [cAt .validated 3 5 []] }
def bsSetUpActions3 : List Byte := bytesOf (1 + 2^16) 64 ++ bytesOf (0x0 + 2^64*0xFFFF + 2^128*1) 32
def admSetUpActions3 : Bool := ((aclParse bsSetUpActions3).getD default).1
def esSetUpActions3 : List AclEntry := ((aclParse bsSetUpActions3).getD default).2
def bsSetUpActions4 : List Byte := []
def sSetUpActions5 : State := { wS with cmds := [cv1 .placed] }
def sSetUpActions6 : State := { wS with hostPorts := [(0, { wPort with pba := [2047], msixTable := [(2047, BitVec.ofNat 128 (2^96+5))] })] }
def sSetUpActions7 : State := { wS with trace := { head := 9, dropped := 4 } }
def sSetUpActions8 : State := { wS with regs := { wS.regs with logSel := 0xFFFFFFFFFFFFFFFF } }
def sSetUpActions9 : State := { wS with regs := { wS.regs with calSet := 7 } }
def sSetUpActions10 : State := { wS with mgmt := { wS.mgmt with pendingBank := some 1 } }
def sSetUpActions11 : State := { wS with mgmt := { wS.mgmt with lostAt := some 5 } }
def sSetUpActions12 : State := { wS with phase := .off, mgmt := { wS.mgmt with backupPin := true } }
def sSetUpActions13 : State := { wS with localTime := 0x0000000500000006 }
def sSetUpActions14 : State := { wS with mgmt := { wS.mgmt with calCount := 0x0000000500000006 } }
def sRegisterWrites1 : State := { wS with recov := { evt := 7 } }
def sRegisterWrites4 : State := { wS with ctxs := [(3, { wCtx with state := .disabled }), (255, { })] }
def vRegisterWrites5 : Nat := 16 + 31*32 + 3*1024 + 2047*4096 + 255 * 2^23
def sRegisterWrites8 : State := { wS with hostPorts := [(0, wPort), (1, { wPort with evt := 7 })] }
def sBarReadsZeroUntilReady1 : State := { wS with phase := .startup true }
def sHostLinks1 : State := { wS with hostPorts := [(0, wPort), (1, { wPort with link := .down, lost := true, timeouts := 4 })] }
def sHostLinks2 : State := { wS with hostPorts := [(0, { wPort with timeouts := 14 })] }
def sHostLinks3 : State := { wS with hostPorts := [(0, { wPort with timeouts := 15 })] }
def sHostLinks4 : State := { wS with hostPorts := [(0, { wPort with link := .down, downSince := some (wS.localTime - 100000000) })] }
def t0HostLinks4 : W64 := wS.localTime - 100000000
def sHostLinks5 : State := { wS with hostPorts := [(0, { wPort with lost := true }), (1, wPort)] }
def sHostLinks7 : State := { wS with mgmt := { wS.mgmt with sessions := [{ transport := 1, id := 5, established := true }] }, hostPorts := [(0, wPort), (1, { wPort with streams := [1], keyEpoch := [(1, 4)] })] }
def sAperture0 : State := { wS with mem := [(33554428 , 1#8), (33554431, 255#8)], pool := [(0, {}), (511, {})], poison := [0] }
def bsAperture1 : List Byte := [1#8, 0#8, 5#8, 6#8]
def opAperture2 : AtomicOp := .cas
def sAperture4 : State := { wS with pool := [(0, {}), (510, { state := .lost })] }
def bsSubstitution0 : List Byte := [1#8, 0#8, 5#8, 7#8]
def bsSubstitution2 : List Byte := (List.range 4096).map (fun i => mget wS.cset.active i)
def rSubstitution4 : SwapReq := { issuer := none, expect := 2 ^ 64 - 1, since := wSet.localTime }
def rSubstitution5 : SwapReq := { issuer := none, expect := 2 ^ 64 - 1, since := wS.localTime }
def sSubstitution6 : State := { wSet with cset := { wSet.cset with pending := some { issuer := none, expect := 0 } } }
def sSubstitution7 : State := { wSet with cmds := [sw5] }
def cSubstitution7 : Cmd := (findCmd sSubstitution7 3 7).getD default
def rSubstitution7 : SwapReq := { issuer := some (3, 7), expect := fld cSubstitution7.desc 16 8, since := sSubstitution7.localTime }
def sSubstitution8 : State := { wS with cmds := [sw5] }
def cSubstitution8 : Cmd := (findCmd sSubstitution8 3 7).getD default
def rSubstitution8 : SwapReq := { issuer := some (3, 7), expect := fld cSubstitution8.desc 16 8, since := sSubstitution8.localTime }
def sSubstitution9 : State := { wSet with cmds := [{ cv1 .placed with pos := some 9 }], cset := { wSet.cset with bench := mset wS.cset.active 0x880 0xB0, pending := some { issuer := none, expect := 0, admitted := true } } }
def rSubstitution9 : SwapReq := sSubstitution9.cset.pending.getD default
def sSubstitution10 : State := { wSet with cset := { wSet.cset with bench := mset wS.cset.active 0x45 9, pending := some { issuer := none, expect := 0, admitted := true } } }
def rSubstitution10 : SwapReq := sSubstitution10.cset.pending.getD default
def sUmpire0 : State := { wS with mgmt := { wS.mgmt with queued := [{ rank := rkSensor, scope := 15, since := 5, info := (63, 0) }] } }
def aUmpire0 : Activity := (umpNext sUmpire0).getD default
def sUmpire3 : State := { wS with power := { wS.power with outOfService := [7] } }
def sUmpire4 : State := { wS with power := { wS.power with outOfService := [7, 63] }, mgmt := { wS.mgmt with running := [{ rank := rkSensor, scope := 15, since := 5, info := (63, 0) }] } }
def sClocks3 : State := { wS with cset := { wS.cset with active := wS.cset.active.filter (fun c => c.1 != 0x43) }, regions := [(63, { boost := 1490 })] }
def sClocks5 : State := { wS with regions := [(63, { setMhz := 1500, effMhz := 1500 })] }
def sThermal1 : State := { wS with dies := [(15, { throttled := true })], regions := [(63, { setMhz := 1500 }), (60, { throttle := 905, setMhz := 910 })] }
def sThermal3 : State := { wS with regions := [(63, { setMhz := 1500 })] }
def sThermal4 : State := { wS with power := { wS.power with emergency := true, coolSince := some 5 } }
def sThermal5 : State := { wS with mem := [(3, 5#8)] }
def sManagement0 : State := { wS with mgmt := { wS.mgmt with ready := true, identityOk := true, tid := 9, sensorsOff := [7], eids := [(1, 44)], spdmState := [(4, 3), (0, 3)], logBuffer := (List.range 20).map (fun k => { seq := BitVec.ofNat 64 k, calStamp := 0, time := 1, incarn := 0, source := 0, severity := 0, code := 0, unit := 0, data := 0 }) } }
def sManagement22 : State := { { wS with mgmt := { wS.mgmt with ready := true, identityOk := true, tid := 9, sensorsOff := [7], eids := [(1, 44)], spdmState := [(4, 3), (0, 3)], logBuffer := (List.range 20).map (fun k => { seq := BitVec.ofNat 64 k, calStamp := 0, time := 1, incarn := 0, source := 0, severity := 0, code := 0, unit := 0, data := 0 }) } } with standby := some (wStand .asleep) }
def sFirmwareUpdate2 : State := { { wS with mgmt := { wS.mgmt with ready := true, identityOk := true, tid := 9, sensorsOff := [7], eids := [(1, 44)], spdmState := [(4, 3), (0, 3)], logBuffer := (List.range 20).map (fun k => { seq := BitVec.ofNat 64 k, calStamp := 0, time := 1, incarn := 0, source := 0, severity := 0, code := 0, unit := 0, data := 0 }) } } with mgmt := { ({ wS with mgmt := { wS.mgmt with ready := true, identityOk := true, tid := 9, sensorsOff := [7], eids := [(1, 44)], spdmState := [(4, 3), (0, 3)], logBuffer := (List.range 20).map (fun k => { seq := BitVec.ofNat 64 k, calStamp := 0, time := 1, incarn := 0, source := 0, severity := 0, code := 0, unit := 0, data := 0 }) } } : State).mgmt with update := some { ep := 2, bank := 1, component := some 1, size := 40, data := List.replicate 38 1#8 } } }
def uFirmwareUpdate2 : Update := { ep := 2, bank := 1, component := some 1, size := 40, data := List.replicate 38 1#8 }
def bsFirmwareUpdate5 : List Byte := [1#8, 2#8, 3#8]
def sFirmwareUpdate10 : State := { { wS with mgmt := { wS.mgmt with ready := true, identityOk := true, tid := 9, sensorsOff := [7], eids := [(1, 44)], spdmState := [(4, 3), (0, 3)], logBuffer := (List.range 20).map (fun k => { seq := BitVec.ofNat 64 k, calStamp := 0, time := 1, incarn := 0, source := 0, severity := 0, code := 0, unit := 0, data := 0 }) } } with mgmt := { ({ wS with mgmt := { wS.mgmt with ready := true, identityOk := true, tid := 9, sensorsOff := [7], eids := [(1, 44)], spdmState := [(4, 3), (0, 3)], logBuffer := (List.range 20).map (fun k => { seq := BitVec.ofNat 64 k, calStamp := 0, time := 1, incarn := 0, source := 0, severity := 0, code := 0, unit := 0, data := 0 }) } } : State).mgmt with bank1 := { valid := true } } }
def asSpdm2 : List Nat := [3,2,1,0,7]
def asSpdm3 : List Nat := [3,2,0,7]
def bsSpdm6 : List Byte := [1#8]
def sSpdm7 : State := { { wS with mgmt := { wS.mgmt with ready := true, identityOk := true, tid := 9, sensorsOff := [7], eids := [(1, 44)], spdmState := [(4, 3), (0, 3)], logBuffer := (List.range 20).map (fun k => { seq := BitVec.ofNat 64 k, calStamp := 0, time := 1, incarn := 0, source := 0, severity := 0, code := 0, unit := 0, data := 0 }) } } with mgmt := { ({ wS with mgmt := { wS.mgmt with ready := true, identityOk := true, tid := 9, sensorsOff := [7], eids := [(1, 44)], spdmState := [(4, 3), (0, 3)], logBuffer := (List.range 20).map (fun k => { seq := BitVec.ofNat 64 k, calStamp := 0, time := 1, incarn := 0, source := 0, severity := 0, code := 0, unit := 0, data := 0 }) } } : State).mgmt with sessions := [{ transport := 4, id := 7 }] } }
def sSpdm8 : State := { { wS with mgmt := { wS.mgmt with ready := true, identityOk := true, tid := 9, sensorsOff := [7], eids := [(1, 44)], spdmState := [(4, 3), (0, 3)], logBuffer := (List.range 20).map (fun k => { seq := BitVec.ofNat 64 k, calStamp := 0, time := 1, incarn := 0, source := 0, severity := 0, code := 0, unit := 0, data := 0 }) } } with mgmt := { ({ wS with mgmt := { wS.mgmt with ready := true, identityOk := true, tid := 9, sensorsOff := [7], eids := [(1, 44)], spdmState := [(4, 3), (0, 3)], logBuffer := (List.range 20).map (fun k => { seq := BitVec.ofNat 64 k, calStamp := 0, time := 1, incarn := 0, source := 0, severity := 0, code := 0, unit := 0, data := 0 }) } } : State).mgmt with sessions := (List.range 4).map (fun k => { transport := 4, id := k }) } }
def xSpdm9 : Session := { transport := 4, id := 3 }
def sSpdm10 : State := { { wS with mgmt := { wS.mgmt with ready := true, identityOk := true, tid := 9, sensorsOff := [7], eids := [(1, 44)], spdmState := [(4, 3), (0, 3)], logBuffer := (List.range 20).map (fun k => { seq := BitVec.ofNat 64 k, calStamp := 0, time := 1, incarn := 0, source := 0, severity := 0, code := 0, unit := 0, data := 0 }) } } with mgmt := { ({ wS with mgmt := { wS.mgmt with ready := true, identityOk := true, tid := 9, sensorsOff := [7], eids := [(1, 44)], spdmState := [(4, 3), (0, 3)], logBuffer := (List.range 20).map (fun k => { seq := BitVec.ofNat 64 k, calStamp := 0, time := 1, incarn := 0, source := 0, severity := 0, code := 0, unit := 0, data := 0 }) } } : State).mgmt with sessions := (List.range 4).map (fun k => { transport := 4, id := k, established := true }) } }
def xSpdm10 : Session := { transport := 4, id := 3, established := true }
def nonceSpdm13 : List Byte := List.replicate 32 7#8
def rsSpdm13 : List (Nat × Nat) := [(65536, 64), (0, 0)]
def sValidation0 : State := { wS with cmds := [{ cAt .validated 5 1 [] with idx := 6 }, cv1 .fetched] }
def cValidation0 : Cmd := (findCmd sValidation0 3 7).getD default
def sValidation1 : State := { wS with cmds := [{ cv1 .fetched with desc := (cv1 .fetched).desc + mkDesc [(20, 1)] }] }
def cValidation1 : Cmd := (findCmd sValidation1 3 7).getD default
def oValidation1 : Nat := ((firstFail (cvChecks sValidation1 cValidation1)).getD (0, .ok)).1
def stValidation1 : Status := ((firstFail (cvChecks sValidation1 cValidation1)).getD (0, .ok)).2
def sValidation2 : State := { wS with cmds := [{ noBr (cv1 .fetched) with desc := (noBr (cv1 .fetched)).desc - mkDesc [(16, 2)] }] }
def cValidation2 : Cmd := (findCmd sValidation2 3 7).getD default
def sValidation3 : State := { wS with cmds := [noBr (cv1 .fetched)] }
def cValidation3 : Cmd := (findCmd sValidation3 3 7).getD default
def sValidation4 : State := { wS with cmds := [noBr (cAt .fetched 5 1 [])] }
def cValidation4 : Cmd := (findCmd sValidation4 3 7).getD default
def sValidation5 : State := { wS with cmds := [cAt .fetched 5 8 []] }
def cValidation5 : Cmd := (findCmd sValidation5 3 7).getD default

/-! ### Outcomes of internal runs as data -/

def runOf (o : RunOut) : Option Cmd := match o with | .done d => some d | _ => none
theorem run_done {o : RunOut} (h : (runOf o).isSome = true) : o = .done ((runOf o).get h) := by
  cases o <;> simp [runOf] at h ⊢

def snapOf (o : SnapOut) : Option Cmd := match o with | .done d => some d | _ => none
theorem snap_done {o : SnapOut} (h : (snapOf o).isSome = true) : o = .done ((snapOf o).get h) := by
  cases o <;> simp [snapOf] at h ⊢

def poolOf (o : PoolOut) : Option (State × Nat) := match o with | .done s n => some (s, n) | _ => none
theorem pool_done {o : PoolOut} (h : (poolOf o).isSome = true) : o = .done ((poolOf o).get h).1 ((poolOf o).get h).2 := by
  cases o <;> simp [poolOf] at h ⊢

def poolFail (o : PoolOut) : Option Status := match o with | .fails st => some st | _ => none
theorem pool_fails {o : PoolOut} {st : Status} (h : poolFail o = some st) : o = .fails st := by
  cases o <;> simp_all [poolFail]

def readyIs (o : Final) (s : State) (w : Work) (hs : List Nat) : Bool :=
  match o with | .ready a b c d => decide (a = s) && decide (b = w) && c.isEmpty && decide (d = hs) | _ => false
theorem final_ready {o : Final} {s : State} {w : Work} {hs : List Nat} (h : readyIs o s w hs = true) : o = .ready s w [] hs := by
  cases o <;> simp_all [readyIs]

def labOf (o : Except TxStop (Option (Nat × Hit) × Tx)) : Option (Nat × Hit × Tx) :=
  match o with | .ok (some (g, p), u) => some (g, p, u) | _ => none
theorem lab_ok {o : Except TxStop (Option (Nat × Hit) × Tx)} (h : (labOf o).isSome = true) :
    o = .ok (some (((labOf o).get h).1, ((labOf o).get h).2.1), ((labOf o).get h).2.2) := by
  rcases o with _ | ⟨_ | ⟨g, p⟩, u⟩ <;> simp [labOf] at h ⊢

/-- Every line below 262,144 of a state like `wS` is in place. -/
theorem low_lines {m : Memory} {cs : List Cmd} {l : Nat} (hl : l < 4096) (b : Bool) :
    meetLine { wS with cmds := cs, mem := m } b (l * 64) = .fine ∧ linePoisoned { wS with cmds := cs, mem := m } (l * 64) = false := by
  have hr : rmap wS.cset.active = [] := by decide +kernel
  have hs : selfId wS = 0 := by decide +kernel
  have e1 : gaMod (l * 64) = 0 := by unfold gaMod; omega
  have e2 : isCarafe (l * 64) = true := by unfold isCarafe gaSpace; simp; omega
  have e3 : servedFrom { wS with cmds := cs, mem := m } (l * 64) = some (l * 64) := by
    have : gaOff (l * 64) = l * 64 := by unfold gaOff; omega
    have hs2 : selfId { wS with cmds := cs, mem := m } = 0 := hs
    simp [servedFrom, sources, e1, e2, hr, isDead, hs2, this]
  have e4 : pageState { wS with cmds := cs, mem := m } (pageOf (l * 64)) = some .resident := by
    have : pageOf (l * 64) = l / 1024 := by unfold pageOf gaOff; omega
    rw [this]
    have h4 : l / 1024 < 4 := by omega
    interval_cases l / 1024 <;> rfl
  have e5 : isDead { wS with cmds := cs, mem := m } (gaMod (l * 64)) = false := by
    have hs2 : selfId { wS with cmds := cs, mem := m } = 0 := hs
    simp [isDead, e1, hs2]
  have e6 : ownCarafe { wS with cmds := cs, mem := m } (l * 64) = true := by
    have hs2 : selfId { wS with cmds := cs, mem := m } = 0 := hs
    simp [ownCarafe, e2, e1, hs2]
  constructor
  · cases b <;> simp [meetLine, e3, e4, e5, e6]
  · unfold linePoisoned
    rw [e3]
    exact List.contains_nil

/-- Ranges below 262,144 are in place in a state like `wS`. -/
theorem low_meet {m : Memory} {cs : List Cmd} {us ws : List (Nat × Nat)} (h : (us ++ ws).all (fun r => decide (r.1 + r.2 ≤ 262144)) = true) :
    meet { wS with cmds := cs, mem := m } us ws = .fine := by
  have key : ∀ rs, (∀ r ∈ rs, r.1 + r.2 ≤ 262144) → ∀ l ∈ linesOfAll rs, l < 4096 := by
    intro rs hr l hl
    obtain ⟨r, h1, h2⟩ := mem_linesOfAll.1 hl
    have := mem_linesOf h2
    have := hr r h1
    omega
  simp only [List.all_append, Bool.and_eq_true, List.all_eq_true, decide_eq_true_eq] at h
  exact meet_fine (fun l hl => low_lines (key us h.1 l hl) false) (fun l hl => (low_lines (key ws h.2 l hl) true).1)


/-! ### Witnesses: the hypotheses of each clause of each statement are met -/

theorem witness_StepRunsFront : ∃ (s : State) (c : Instr) (q : List Instr), s.pending = c :: q :=
  ⟨sStepRunsFront0, cStepRunsFront0, qStepRunsFront0, by decide +kernel⟩

theorem witness_IdleStepIsOneHCycle : ∃ (s : State), s.pending = [] :=
  ⟨wS, by decide +kernel⟩

theorem witness_CommandsAnswer :
    (∃ (i : Instr) (s : State), inWindow i)
    ∧ (∃ (i : Instr) (s : State), ¬ inWindow i)
    ∧ (∃ (i : Instr) (s : State), i.wf = true) :=
  ⟨⟨iEveryCommandAnswers0, wS, (show 2 ^ 25 - 4 + 4 ≤ 2 ^ 25 by decide)⟩,
   ⟨iEveryCommandAnswers1, wS, (show ¬ (2 ^ 25 - 4 + 5 ≤ 2 ^ 25) by decide)⟩,
   ⟨iEveryCommandAnswers0, wS, by decide +kernel⟩⟩

theorem witness_ModuleResetKeepsAndClears : ∃ (s : State), barOpen s = true :=
  ⟨wS, by decide +kernel⟩

theorem witness_ResetsAndMemory :
    (∃ (s : State), s.mem.wf = true)
    ∧ (∃ (s : State), s.mem.wf = true ∧ barOpen s = true) :=
  ⟨⟨sResetsAndMemory0, by decide +kernel⟩,
   ⟨sResetsAndMemory0, by decide +kernel, by decide +kernel⟩⟩

theorem witness_StartUpAndPower :
    (∃ (s : State) (p : Nat), p = s.owner ∧ hasPower s = true)
    ∧ (∃ (s : State) (p : Nat), p < 2 ∧ p ≠ s.owner)
    ∧ (∃ (s : State) (p : Nat), p < 2 ∧ p = s.owner ∧ s.phase = .startup false)
    ∧ (∃ (s : State) (p : Nat), p < 2 ∧ (hostPortOf s p).ready = false ∧ (s.phase = .startup true ∨ s.phase = .bootFailed))
    ∧ (∃ (s : State), s.phase = .startup true)
    ∧ (∃ (s : State), s.phase ≠ .off) :=
  ⟨⟨wS, 0, by decide +kernel, by decide +kernel⟩,
   ⟨wS, 1, by decide +kernel, by decide +kernel⟩,
   ⟨State.reset, 0, by decide +kernel, by decide +kernel, by decide +kernel⟩,
   ⟨sStartUpAndPower3, 1, by decide +kernel, by decide +kernel, by decide +kernel⟩,
   ⟨sStartUpAndPower4, by decide +kernel⟩,
   ⟨wS, by decide +kernel⟩⟩

theorem witness_StandbyStages :
    (∃ (s : State) (n i : Nat) (c : Cmd), validatedAs s n i 5 7 c ∧ earlierDone s c = true ∧ s.standby = none)
    ∧ (∃ (s : State) (b : Standby), standbyAt s b .draining ∧ s.phase = .running ∧ (((othersFly s b.ctx = false ∧ channelsBusy s = false) ∨ us 1000 ≤ since s b.enteredAt)) ∧ standbyRefused s b.ctx = true ∧ ((∃ c, findCmd s b.ctx b.idx = some c ∧ c.stage = .validated)))
    ∧ (∃ (s : State) (b : Standby), standbyAt s b .draining ∧ s.phase = .running ∧ (((othersFly s b.ctx = false ∧ channelsBusy s = false) ∨ us 1000 ≤ since s b.enteredAt)) ∧ standbyRefused s b.ctx = false)
    ∧ (∃ (s : State) (b : Standby), standbyAt s b .saving ∧ ((∀ k ∈ s.ctxs, k.2.res ≠ .saving ∧ k.2.res ≠ .restoring)))
    ∧ (∃ (s : State) (b : Standby), s.standby = some b ∧ b.stage = .asleep ∧ b.cause = none ∧ b.wakeMs ≠ 0 ∧ us (1000 * b.wakeMs) ≤ since s b.enteredAt)
    ∧ (∃ (s : State) (b : Standby) (k : Nat), standbyAt s b .asleep ∧ b.cause = some k ∧ us 1500 ≤ since s b.wakeAt ∧ ((∃ c, findCmd s b.ctx b.idx = some c ∧ c.stage = .validated))) :=
  ⟨⟨sStandbyStages0, 3, 7, cStandbyStages0, by decide +kernel, by decide +kernel, by decide +kernel⟩,
   ⟨sStandbyStages1, bStandbyStages1, by decide +kernel, by decide +kernel, by decide +kernel, by decide +kernel, ⟨cAt .validated 5 7 [(16, 20)], by decide +kernel⟩⟩,
   ⟨sStandbyStages2, bStandbyStages1, by decide +kernel, by decide +kernel, by decide +kernel, by decide +kernel⟩,
   ⟨sStandbyStages3, bStandbyStages3, by decide +kernel, by decide +kernel⟩,
   ⟨sStandbyStages4, bStandbyStages4, by decide +kernel, by decide +kernel, by decide +kernel, by decide +kernel, by decide +kernel⟩,
   ⟨sStandbyStages5, bStandbyStages5, 2, by decide +kernel, by decide +kernel, by decide +kernel, ⟨cAt .validated 5 7 [(16, 20)], by decide +kernel⟩⟩⟩

theorem witness_PortStates :
    (∃ (s : State) (p : Nat), p < 32 ∧ takesWrites s)
    ∧ (∃ (s : State) (p : Nat), p < 32 ∧ takesWrites s ∧ (portOf s p).state = .disabled ∧ (linkDieOf s (p / 4)).resetting = false)
    ∧ (∃ (s : State) (p peer : Nat), p < 32 ∧ linksLive s = true ∧ (portOf s p).state = .training)
    ∧ (∃ (s : State) (p : Nat), p < 32 ∧ linksLive s = true ∧ (portOf s p).state = .training ∧ us 100000 ≤ since s (portOf s p).since)
    ∧ (∃ (s : State) (p : Nat), p < 32 ∧ linksLive s = true ∧ (portOf s p).state = .down ∧ us 1000 ≤ since s (portOf s p).since ∧ (portOf s p).enable = true ∧ (linkDieOf s (p / 4)).resetting = false)
    ∧ (∃ (s : State) (p : Nat), p < 32 ∧ (portOf s p).state = .up)
    ∧ (∃ (s : State) (p : Nat), p < 32 ∧ linksLive s = true ∧ (portOf s p).state = .up ∧ 256 < (portOf s p).replays)
    ∧ (∃ (s : State) (p : Nat), p < 32 ∧ linksLive s = true ∧ (portOf s p).state = .up)
    ∧ (∃ (s : State) (p : Nat), p < 32 ∧ takesWrites s ∧ linksLive s = true ∧ (portOf s p).state = .up ∧ umpKnown s rkLink p (0, 0) = false ∧ s.mgmt.queued = [] ∧ ((∀ a ∈ s.mgmt.running, compatible { rank := rkLink, scope := p, since := s.localTime, info := (0, 0) } a = true)))
    ∧ (∃ (s : State) (p : Nat), p < 32 ∧ linksLive s = true ∧ (portOf s p).state = .recovering)
    ∧ (∃ (s : State) (p : Nat), p < 32 ∧ linksLive s = true ∧ (portOf s p).state = .recovering ∧ us 2000 ≤ since s (portOf s p).since) :=
  ⟨⟨wS, 31, by decide +kernel, by decide +kernel⟩,
   ⟨sPortStates1, 31, by decide +kernel, by decide +kernel, by decide +kernel, by decide +kernel⟩,
   ⟨sPortStates2, 31, 16389, by decide +kernel, by decide +kernel, by decide +kernel⟩,
   ⟨sPortStates2, 31, by decide +kernel, by decide +kernel, by decide +kernel, by decide +kernel⟩,
   ⟨sPortStates4, 31, by decide +kernel, by decide +kernel, by decide +kernel, by decide +kernel, by decide +kernel, by decide +kernel⟩,
   ⟨wS, 31, by decide +kernel, by decide +kernel⟩,
   ⟨sPortStates6, 31, by decide +kernel, by decide +kernel, by decide +kernel, by decide +kernel⟩,
   ⟨wS, 31, by decide +kernel, by decide +kernel, by decide +kernel⟩,
   ⟨sPortStates8, 31, by decide +kernel, by decide +kernel, by decide +kernel, by decide +kernel, by decide +kernel, by decide +kernel, by decide +kernel⟩,
   ⟨sPortStates9, 31, by decide +kernel, by decide +kernel, by decide +kernel⟩,
   ⟨sPortStates9, 31, by decide +kernel, by decide +kernel, by decide +kernel, by decide +kernel⟩⟩

theorem witness_RouteTable :
    (∃ (s : State) (i : Nat), i < 16384 ∧ takesWrites s)
    ∧ (∃ (s : State) (i : Nat), i < 16384 ∧ takesWrites s) :=
  ⟨⟨sRouteTable0, 16383, by decide +kernel, by decide +kernel⟩,
   ⟨sRouteTable0, 5, by decide +kernel, by decide +kernel⟩⟩

theorem witness_TransitForwards : ∃ (s : State) (p k o : Nat) (f : Flit), linksLive s = true ∧ p < 32 ∧ portUp s p = true ∧ 1 ≤ k ∧ k ≤ 12 ∧ f.dst ≠ selfId s ∧ leavesBy s f.dst f.address o :=
  ⟨wS, 31, 12, 3, fTransitForwards0, by decide +kernel, by decide +kernel, by decide +kernel, by decide +kernel, by decide +kernel, by decide +kernel, by decide +kernel⟩

theorem witness_RemoteReads :
    (∃ (s : State) (p o : Nat) (f : Flit) (e : Page), nextInOrder s p f ∧ ownCarafe s (256 * (f.address / 256)) = true ∧ gaOff f.address < 2 ^ 39 ∧ aget? s.pool (pageOf f.address) = some e ∧ e.state = .resident ∧ leavesBy s f.src (256 * (f.address / 256) + poisonMask s (f.address / 256)) o)
    ∧ (∃ (s : State) (p : Nat) (f : Flit) (r : ReadOut) (c : Cmd), s.mem.wf = true ∧ nextInOrder s p f ∧ f.data.length = 256 ∧ bits f.address 5 4 = 0 ∧ s.links.reads.find? (fun r => r.tag == f.tag && r.module == f.src) = some r ∧ findCmd s r.ctx r.idx = some c ∧ c.epoch = r.epoch ∧ c.epoch.toNat = f.epoch ∧ c.stage = .placed) :=
  ⟨⟨sRemoteReadIsServed0, 3, 3, wF, eRemoteReadIsServed0, by decide +kernel, by decide +kernel, by decide +kernel, by decide +kernel, by decide +kernel, by decide +kernel⟩,
   ⟨sRemoteReplyLands0, 3, fRemoteReplyLands0, rRemoteReplyLands0, cRemoteReplyLands0, by decide +kernel, by decide +kernel, by decide +kernel, by decide +kernel, by decide +kernel, by decide +kernel, by decide +kernel, by decide +kernel, by decide +kernel⟩⟩

theorem witness_RemoteWrites :
    (∃ (s : State) (p o : Nat) (f : Flit) (e : Page), nextInOrder s p f ∧ ownCarafe s f.address = true ∧ aget? s.pool (pageOf f.address) = some e ∧ e.state = .resident ∧ leavesBy s f.src f.address o)
    ∧ (∃ (s : State) (p : Nat) (f : Flit), nextInOrder s p f)
    ∧ (∃ (s : State) (p o : Nat) (f : Flit), nextInOrder s p f ∧ ((∀ c ∈ (holdFor s f.src f.tag).data, ownCarafe s c.1 = true ∧ pageState s (pageOf c.1) = some .resident)) ∧ leavesBy s f.src f.address o)
    ∧ (∃ (s : State) (src tag : Nat), us 100 ≤ since s (holdFor s src tag).since ∧ (holdFor s src tag).data = [])
    ∧ (∃ (s : State) (p : Nat) (f : Flit) (c : Cmd), nextInOrder s p f ∧ findTag s f.tag = some c ∧ c.epoch.toNat = f.epoch ∧ c.stage = .issued ∧ (f.src, pageOf f.address) ∈ c.holdsDue ∧ f.data = [0]) :=
  ⟨⟨wS, 3, 3, wF, eRemoteReadIsServed0, by decide +kernel, by decide +kernel, by decide +kernel, by decide +kernel, by decide +kernel⟩,
   ⟨wS, 3, fRemoteWriteAtPeer1, by decide +kernel⟩,
   ⟨sRemoteWriteAtPeer2, 3, 3, wF, by decide +kernel, by decide +kernel, by decide +kernel⟩,
   ⟨sRemoteWriteAtPeer3, 5, 9, by decide +kernel, by decide +kernel⟩,
   ⟨sHoldAcknowledged0, 3, fHoldAcknowledged0, cHoldAcknowledged0, by decide +kernel, by decide +kernel, by decide +kernel, by decide +kernel, by decide +kernel, by decide +kernel⟩⟩

theorem witness_DeathAndPresence :
    (∃ (s : State) (p m : Nat) (inc : W32) (f : Flit), nextInOrder s p f ∧ lineNat f 0 2 = m ∧ lineNat f 4 4 = inc.toNat ∧ m < 16384 ∧ m ≠ selfId s ∧ (aget s.links.presents m 0#32).toNat ≤ inc.toNat ∧ deathKnown s m inc = false)
    ∧ (∃ (s : State) (m : Nat), m < 16384 ∧ m ≠ selfId s ∧ takesWrites s ∧ deathKnown s m (aget s.links.presents m 0#32) = false)
    ∧ (∃ (s : State) (p m : Nat) (inc : W32) (f : Flit), nextInOrder s p f ∧ f.src ≠ m ∧ lineNat f 0 2 = m ∧ lineNat f 4 4 = inc.toNat ∧ m < 16384 ∧ m ≠ selfId s ∧ newPresent s m inc = true)
    ∧ (∃ (s : State) (p m : Nat) (inc : W32) (f : Flit), arrivesOn s p f ∧ f.src = m ∧ f.seq < 2 ^ 32 ∧ lineNat f 0 2 = m ∧ lineNat f 4 4 = inc.toNat ∧ m < 16384 ∧ m ≠ selfId s ∧ newPresent s m inc = true)
    ∧ (∃ (s : State) (m : Nat) (w : W64), aget? s.links.waitSince m = some w ∧ us 10000 < since s w ∧ routePorts s m 0 = [] ∧ m ∉ s.links.unreachable) :=
  ⟨⟨wS, 3, 5, (1 : W32), fDeathAndPresence0, by decide +kernel, by decide +kernel, by decide +kernel, by decide +kernel, by decide +kernel, by decide +kernel, by decide +kernel⟩,
   ⟨wS, 16383, by decide +kernel, by decide +kernel, by decide +kernel, by decide +kernel⟩,
   ⟨sDeathAndPresence2, 3, 9, (2 : W32), fDeathAndPresence2, by decide +kernel, by decide +kernel, by decide +kernel, by decide +kernel, by decide +kernel, by decide +kernel, by decide +kernel⟩,
   ⟨sDeathAndPresence3, 3, 5, (2 : W32), fDeathAndPresence3, by decide +kernel, by decide +kernel, by decide +kernel, by decide +kernel, by decide +kernel, by decide +kernel, by decide +kernel, by decide +kernel⟩,
   ⟨sDeathAndPresence4, 9, (1 : W64), by decide +kernel, by decide +kernel, by decide +kernel, by decide +kernel⟩⟩

theorem witness_Watchdogs :
    (∃ (s : State), s.recov.refereeHeld = false ∧ s.recov.baristaHeld = false)
    ∧ (∃ (s : State), s.recov.refereeHeld = false ∧ s.recov.baristaHeld = false)
    ∧ (∃ (s : State), s.recov.baristaHeld = true ∧ recentRestarts s < 3)
    ∧ (∃ (s : State), s.phase = .running) :=
  ⟨⟨wS, by decide +kernel, by decide +kernel⟩,
   ⟨wS, by decide +kernel, by decide +kernel⟩,
   ⟨sWatchdogs2, by decide +kernel, by decide +kernel⟩,
   ⟨wS, by decide +kernel⟩⟩

theorem witness_CollectivesEnd :
    (∃ (s : State) (n i : Nat) (c : Cmd) (r : CollRun), findCmd s n i = some c ∧ hClass c.desc = 4 ∧ c.stage = .placed ∧ c.peerError = none ∧ c.coll = some r ∧ awaits s c = false ∧ r.started = true ∧ r.committed.length = r.segments ∧ fedNow s c (coOf c.desc) = .ready ∧ hOp c.desc = 1)
    ∧ (∃ (s : State) (n i : Nat) (c : Cmd) (r : CollRun), findCmd s n i = some c ∧ hClass c.desc = 4 ∧ c.stage = .placed ∧ c.peerError = none ∧ c.coll = some r ∧ awaits s c = false ∧ r.started = true ∧ r.committed.length = r.segments ∧ fedNow s c (coOf c.desc) = .ready ∧ hOp c.desc = 2)
    ∧ (∃ (s : State) (n i : Nat) (c : Cmd) (r : CollRun), findCmd s n i = some c ∧ hClass c.desc = 4 ∧ c.stage = .placed ∧ c.peerError = none ∧ c.coll = some r ∧ awaits s c = false ∧ r.started = true ∧ r.committed.length = r.segments ∧ fedNow s c (coOf c.desc) = .ready ∧ hOp c.desc = 3)
    ∧ (∃ (s : State) (n i : Nat) (c : Cmd) (r : CollRun), findCmd s n i = some c ∧ hClass c.desc = 4 ∧ c.stage = .placed ∧ c.peerError = none ∧ c.coll = some r ∧ awaits s c = false ∧ r.started = true ∧ r.committed.length = r.segments ∧ fedNow s c (coOf c.desc) = .ready ∧ hOp c.desc = 4)
    ∧ (∃ (s : State) (n i g : Nat) (c : Cmd) (r : CollRun), findCmd s n i = some c ∧ c.coll = some r ∧ r.started = true ∧ c.stage = .placed ∧ g < r.segments ∧ g ∉ r.committed ∧ us (coOf c.desc).deadline ≤ since s r.sentAt)
    ∧ (∃ (s : State) (p : Nat) (f : Flit) (c : Cmd) (r : CollRun), nextInOrder s p f ∧ collCmd s (lineChannel f) f.tag = some c ∧ onlyOne s c ∧ c.stage = .placed ∧ c.coll = some r ∧ r.channel = lineChannel f ∧ r.started = true ∧ f.data.length = 1) :=
  ⟨⟨sCollectivesEndIssue0, 3, 7, cCollectivesEndIssue0, rCollectivesEndIssue0, by decide +kernel, by decide +kernel, by decide +kernel, by decide +kernel, by decide +kernel, by decide +kernel, by decide +kernel, by decide +kernel, by decide +kernel, by decide +kernel⟩,
   ⟨sCollectivesEndIssue1, 3, 7, cCollectivesEndIssue1, rCollectivesEndIssue0, by decide +kernel, by decide +kernel, by decide +kernel, by decide +kernel, by decide +kernel, by decide +kernel, by decide +kernel, by decide +kernel, by decide +kernel, by decide +kernel⟩,
   ⟨sCollectivesEndIssue2, 3, 7, cCollectivesEndIssue2, rCollectivesEndIssue0, by decide +kernel, by decide +kernel, by decide +kernel, by decide +kernel, by decide +kernel, by decide +kernel, by decide +kernel, by decide +kernel, by decide +kernel, by decide +kernel⟩,
   ⟨sCollectivesEndIssue3, 3, 7, cCollectivesEndIssue3, rCollectivesEndIssue0, by decide +kernel, by decide +kernel, by decide +kernel, by decide +kernel, by decide +kernel, by decide +kernel, by decide +kernel, by decide +kernel, by decide +kernel, by decide +kernel⟩,
   ⟨sCollectiveAborts0, 3, 7, 0, cCollectiveAborts0, rCollectiveAborts0, by decide +kernel, by decide +kernel, by decide +kernel, by decide +kernel, by decide +kernel, by decide +kernel, by decide +kernel⟩,
   ⟨sCollectiveAborts0, 3, fCollectiveAborts1, cCollectiveAborts0, rCollectiveAborts0, by decide +kernel, by decide +kernel, by decide +kernel, by decide +kernel, by decide +kernel, by decide +kernel, by decide +kernel, by decide +kernel⟩⟩

theorem witness_ReductionAdds :
    (∃ (s : State) (p : Nat) (f : Flit) (c : Cmd) (r : CollRun), nextInOrder s p f ∧ collCmd s (lineChannel f) f.tag = some c ∧ onlyOne s c ∧ c.stage = .placed ∧ c.coll = some r ∧ r.started = true ∧ f.data.length ≠ 1 ∧ coReduces (coOf c.desc) = true ∧ memberAt r (lineRank f) = f.src ∧ lineRank f < r.members.length ∧ lineSegment f ≠ descSegment ∧ lineNat f 0 4 = r.groupId ∧ lineNat f 4 4 < 2 ^ 31)
    ∧ (∃ (s : State) (ld n i e : Nat) (c : Cmd) (r : CollRun) (es : List Nat), (aget s.linkDies ld {}).resetting = false ∧ findCmd s n i = some c ∧ slotCandidates s ld = [c] ∧ c.coll = some r ∧ (lineStarts (coOf c.desc)).filter (lineReady (coOf c.desc) r) = e :: es) :=
  ⟨⟨sCollectiveAborts0, 3, fContributionEnters0, cCollectiveAborts0, rCollectiveAborts0, by decide +kernel, by decide +kernel, by decide +kernel, by decide +kernel, by decide +kernel, by decide +kernel, by decide +kernel, by decide +kernel, by decide +kernel, by decide +kernel, by decide +kernel, by decide +kernel, by decide +kernel⟩,
   ⟨sRallySlotAdds0, 3, 3, 7, 0, cRallySlotAdds0, rRallySlotAdds0, esRallySlotAdds0, by decide +kernel, by decide +kernel, by decide +kernel, by decide +kernel, by decide +kernel⟩⟩

theorem witness_WaitReads :
    (∃ (s : State) (n i : Nat) (c : Cmd) (v : Nat), validatedAs s n i 5 2 c ∧ peerCarafe s (sgOf c.desc).addr = false ∧ meetLine s true (sgOf c.desc).addr = .fine ∧ s.poison.contains ((sgOf c.desc).addr / 64) = false ∧ v = mnat s.mem (sgOf c.desc).addr 8 ∧ (if (sgOf c.desc).op = 0 then (sgOf c.desc).value ≤ v else v = (sgOf c.desc).value))
    ∧ (∃ (s : State) (n i : Nat) (c : Cmd) (v : Nat), validatedAs s n i 5 2 c ∧ peerCarafe s (sgOf c.desc).addr = false ∧ meetLine s true (sgOf c.desc).addr = .fine ∧ s.poison.contains ((sgOf c.desc).addr / 64) = false ∧ v = mnat s.mem (sgOf c.desc).addr 8 ∧ (if (sgOf c.desc).op = 0 then (sgOf c.desc).value ≤ v else v = (sgOf c.desc).value))
    ∧ (∃ (s : State) (n i : Nat) (c : Cmd) (v : Nat), validatedAs s n i 5 2 c ∧ peerCarafe s (sgOf c.desc).addr = false ∧ meetLine s true (sgOf c.desc).addr = .fine ∧ s.poison.contains ((sgOf c.desc).addr / 64) = false ∧ v = mnat s.mem (sgOf c.desc).addr 8 ∧ ¬ (if (sgOf c.desc).op = 0 then (sgOf c.desc).value ≤ v else v = (sgOf c.desc).value))
    ∧ (∃ (s : State) (n i : Nat) (c : Cmd) (v : Nat), validatedAs s n i 5 2 c ∧ peerCarafe s (sgOf c.desc).addr = false ∧ meetLine s true (sgOf c.desc).addr = .fine ∧ s.poison.contains ((sgOf c.desc).addr / 64) = false ∧ v = mnat s.mem (sgOf c.desc).addr 8 ∧ ¬ (if (sgOf c.desc).op = 0 then (sgOf c.desc).value ≤ v else v = (sgOf c.desc).value))
    ∧ (∃ (s : State) (n i : Nat) (c : Cmd), validatedAs s n i 5 2 c ∧ (sgOf c.desc).timeout ≠ 0 ∧ us (sgOf c.desc).timeout ≤ since s c.validatedAt) :=
  ⟨⟨sWaitReads0, 3, 7, cWaitReads0, 6, by decide +kernel, by decide +kernel, by decide +kernel, by decide +kernel, by decide +kernel, by decide +kernel⟩,
   ⟨sWaitReads1, 3, 7, cWaitReads1, 6, by decide +kernel, by decide +kernel, by decide +kernel, by decide +kernel, by decide +kernel, by decide +kernel⟩,
   ⟨sWaitReads2, 3, 7, cWaitReads0, 5, by decide +kernel, by decide +kernel, by decide +kernel, by decide +kernel, by decide +kernel, by decide +kernel⟩,
   ⟨sWaitReads3, 3, 7, cWaitReads1, 5, by decide +kernel, by decide +kernel, by decide +kernel, by decide +kernel, by decide +kernel, by decide +kernel⟩,
   ⟨sWaitReads4, 3, 7, cWaitReads1, by decide +kernel, by decide +kernel, by decide +kernel⟩⟩

theorem witness_SignalWrites :
    (∃ (s : State) (n i : Nat) (c : Cmd), s.mem.wf = true ∧ validatedAs s n i 5 3 c ∧ earlierDone s c = true ∧ peerCarafe s (sgOf c.desc).addr = false ∧ meetLine s true (sgOf c.desc).addr = .fine ∧ (((sgOf c.desc).op = 1 → s.poison.contains ((sgOf c.desc).addr / 64) = false ∧ isHost (sgOf c.desc).addr = false)))
    ∧ (∃ (s : State) (p o : Nat) (f : Flit) (e : Page), s.mem.wf = true ∧ nextInOrder s p f ∧ ownCarafe s f.address = true ∧ aget? s.pool (pageOf f.address) = some e ∧ e.state = .resident ∧ lineNat f 0 1 ≤ 1 ∧ s.poison.contains (f.address / 64) = false ∧ leavesBy s f.src f.address o) :=
  ⟨⟨sSignalWrites0, 3, 7, cSignalWrites0, by decide +kernel, by decide +kernel, by decide +kernel, by decide +kernel, by decide +kernel, by decide +kernel⟩,
   ⟨sSignalWrites1, 3, 3, fSignalWrites1, eRemoteReadIsServed0, by decide +kernel, by decide +kernel, by decide +kernel, by decide +kernel, by decide +kernel, by decide +kernel, by decide +kernel, by decide +kernel⟩⟩

theorem witness_FenceCompletes :
    (∃ (s : State) (n i : Nat) (c : Cmd), validatedAs s n i 5 1 c ∧ earlierDone s c = true)
    ∧ (∃ (s : State) (n i : Nat) (c : Cmd), validatedAs s n i 5 1 c ∧ earlierDone s c = false)
    ∧ (∃ (s : State) (c x : Cmd), x ∈ earlier s c ∧ hClass x.desc = 5 ∧ hOp x.desc = 1)
    ∧ (∃ (s : State) (n i : Nat) (c : Cmd), findCmd s n i = some c ∧ c.stage = .fetched ∧ mayValidate s c = true ∧ awaits s c = false ∧ c.peerError = none ∧ hClass c.desc = 5 ∧ hOp c.desc = 1 ∧ ((∃ o, 16 ≤ o ∧ o < 128 ∧ fld c.desc o 1 ≠ 0))) :=
  ⟨⟨sFenceCompletes0, 3, 7, cFenceCompletes0, by decide +kernel, by decide +kernel⟩,
   ⟨sFenceCompletes1, 3, 7, cFenceCompletes0, by decide +kernel, by decide +kernel⟩,
   ⟨sFenceCompletes1, cFenceCompletes0, xFenceCompletes2, by decide +kernel, by decide +kernel, by decide +kernel⟩,
   ⟨sFenceCompletes3, 3, 7, cFenceCompletes3, by decide +kernel, by decide +kernel, by decide +kernel, by decide +kernel, by decide +kernel, by decide +kernel, by decide +kernel, ⟨127, by decide +kernel⟩⟩⟩

theorem witness_Huddles :
    (∃ (s : State) (n i : Nat) (c : Cmd) (x : Hd), validatedAs s n i 5 4 c ∧ x = hdOf c.desc ∧ c.arrived = false ∧ earlierDone s c = true ∧ x.home = selfId s ∧ (huddleOf s x.id).epoch.toNat = x.epoch ∧ (((huddleOf s x.id).participants = 0 ∨ ((huddleOf s x.id).participants = x.n ∧ (huddleOf s x.id).timeoutUs = x.timeout))) ∧ (huddleOf s x.id).arrivals.length + 1 < x.n)
    ∧ (∃ (s : State) (n i : Nat) (c : Cmd) (x : Hd), validatedAs s n i 5 4 c ∧ x = hdOf c.desc ∧ c.arrived = false ∧ earlierDone s c = true ∧ x.home = selfId s ∧ (huddleOf s x.id).epoch.toNat = x.epoch ∧ (((huddleOf s x.id).participants = 0 ∨ ((huddleOf s x.id).participants = x.n ∧ (huddleOf s x.id).timeoutUs = x.timeout))) ∧ x.n ≤ (huddleOf s x.id).arrivals.length + 1 ∧ ((∀ d ∈ s.cmds, cmdTag d = cmdTag c → d = c)))
    ∧ (∃ (s : State) (p : Nat) (f : Flit) (h : Huddle), nextInOrder s p f ∧ lineNat f 0 1 = 0 ∧ h = huddleOf s (f.address % 1024) ∧ h.epoch.toNat = lineNat f 4 4 ∧ ((h.participants = 0 ∨ (h.participants = lineNat f 8 4 ∧ h.timeoutUs = lineNat f 12 4))) ∧ h.arrivals.length + 1 < lineNat f 8 4)
    ∧ (∃ (s : State) (p : Nat) (f : Flit) (c : Cmd), nextInOrder s p f ∧ lineNat f 0 1 = 1 ∧ lineNat f 1 1 = 0 ∧ findTag s f.tag = some c ∧ huddling c = true ∧ (hdOf c.desc).home = f.src)
    ∧ (∃ (s : State) (id : Nat), (huddleOf s id).participants ≠ 0 ∧ (huddleOf s id).timeoutUs ≠ 0 ∧ us (huddleOf s id).timeoutUs ≤ since s (huddleOf s id).since) :=
  ⟨⟨sHuddles0, 3, 7, cHuddles0, xHuddles0, by decide +kernel, by decide +kernel, by decide +kernel, by decide +kernel, by decide +kernel, by decide +kernel, by decide +kernel, by decide +kernel⟩,
   ⟨sHuddles1, 3, 7, cHuddles1, xHuddles1, by decide +kernel, by decide +kernel, by decide +kernel, by decide +kernel, by decide +kernel, by decide +kernel, by decide +kernel, by decide +kernel, by decide +kernel⟩,
   ⟨sHuddles2, 3, fHuddles2, hHuddles2, by decide +kernel, by decide +kernel, by decide +kernel, by decide +kernel, by decide +kernel, by decide +kernel⟩,
   ⟨sHuddles3, 3, fHuddles3, cHuddles3, by decide +kernel, by decide +kernel, by decide +kernel, by decide +kernel, by decide +kernel, by decide +kernel⟩,
   ⟨sHuddles4, 4, by decide +kernel, by decide +kernel, by decide +kernel⟩⟩

theorem witness_Polling :
    (∃ (s : State) (n : Nat), takesWork s = true ∧ (ctxOf s n).state = .active ∧ (ctxOf s n).polling = false ∧ hostUp s = true)
    ∧ (∃ (s : State) (n a h : Nat) (k : Ctx), k = ctxOf s n ∧ k.polling = true ∧ (w32 a - k.sqHead).toNat ≤ 2 ^ k.sqLog2 ∧ w32 a ≠ k.sqTailSeen)
    ∧ (∃ (s : State) (n a h : Nat) (k : Ctx), k = ctxOf s n ∧ k.polling = true ∧ (w32 a - k.sqHead).toNat ≤ 2 ^ k.sqLog2 ∧ w32 a = k.sqTailSeen)
    ∧ (∃ (s : State) (n a h : Nat) (k : Ctx), k = ctxOf s n ∧ k.polling = true ∧ 2 ^ k.sqLog2 < (w32 a - k.sqHead).toNat) :=
  ⟨⟨wS, 3, by decide +kernel, by decide +kernel, by decide +kernel, by decide +kernel⟩,
   ⟨sPolling1, 3, 64, 7, kPolling1, by decide +kernel, by decide +kernel, by decide +kernel, by decide +kernel⟩,
   ⟨sPolling1, 3, 5, 7, kPolling1, by decide +kernel, by decide +kernel, by decide +kernel, by decide +kernel⟩,
   ⟨sPolling1, 3, 65, 7, kPolling1, by decide +kernel, by decide +kernel, by decide +kernel⟩⟩

theorem witness_FetchAndRingErrors :
    (∃ (s : State) (n : Nat) (d : Desc), mayFetch s n = true)
    ∧ (∃ (s : State) (n : Nat) (k : Ctx), k = ctxOf s n ∧ k.state = .active) :=
  ⟨⟨wS, 3, (5 : Desc), by decide +kernel⟩,
   ⟨wS, 3, kFetchAndRingErrors1, by decide +kernel, by decide +kernel⟩⟩

theorem witness_CompletionRecords :
    (∃ (s : State) (n i a : Nat) (c : Cmd) (k : Ctx), s.mem.wf = true ∧ findCmd s n i = some c ∧ c.stage = .decided ∧ k = ctxOf s n ∧ hostUp s = true ∧ ¬ (k.state = .halted ∧ k.haltReason = .ringAccess) ∧ a = hostAddr s (k.cqAddr.toNat + 32 * (k.cqTail.toNat % 2 ^ k.cqLog2)) ∧ ((a + 32 ≤ hostAddr s (k.dbAddr.toNat + 32) ∨ hostAddr s (k.dbAddr.toNat + 32) + 32 ≤ a)))
    ∧ (∃ (s : State) (n : Nat) (k : Ctx), k = ctxOf s n ∧ k.irqPending = true ∧ k.holdoffEnd.toNat ≤ s.localTime.toNat) :=
  ⟨⟨sCompletionRecords0, 3, 7, aCompletionRecords0, cCompletionRecords0, kCompletionRecords0, by decide +kernel, by decide +kernel, by decide +kernel, by decide +kernel, by decide +kernel, by decide +kernel, by decide +kernel, by decide +kernel⟩,
   ⟨sCompletionRecords1, 3, kCompletionRecords1, by decide +kernel, by decide +kernel, by decide +kernel⟩⟩

theorem witness_ContextControl :
    (∃ (s : State) (n : Nat) (k : Ctx), takesWrites s ∧ k = ctxOf s n ∧ k.state = .disabled ∧ mayEnable k = true)
    ∧ (∃ (s : State) (n : Nat) (k : Ctx), takesWrites s ∧ k = ctxOf s n ∧ k.state = .disabled ∧ mayEnable k = false)
    ∧ (∃ (s : State) (n : Nat), takesWrites s ∧ (ctxOf s n).state = .active)
    ∧ (∃ (s : State) (n : Nat), hubKeys s ∧ s.standby = none ∧ (ctxOf s n).state = .active ∧ (ctxOf s n).stopping = true)
    ∧ (∃ (s : State) (n : Nat) (k : Ctx), takesWrites s ∧ k = ctxOf s n ∧ k.state = .halted ∧ k.haltReason ≠ .dieReset)
    ∧ (∃ (s : State) (n : Nat) (k : Ctx), takesWrites s ∧ k = ctxOf s n ∧ k.state ≠ .disabled ∧ k.state ≠ .resetting)
    ∧ (∃ (s : State) (n : Nat) (k : Ctx), k = ctxOf s n ∧ k.state = .resetting ∧ ((∀ c ∈ s.cmds, c.ctx = n → c.stage ≠ .committed))) :=
  ⟨⟨sContextControl0, 3, kContextControl0, by decide +kernel, by decide +kernel, by decide +kernel, by decide +kernel⟩,
   ⟨sContextControl1, 3, kContextControl1, by decide +kernel, by decide +kernel, by decide +kernel, by decide +kernel⟩,
   ⟨wS, 3, by decide +kernel, by decide +kernel⟩,
   ⟨sContextControl3, 3, by decide +kernel, by decide +kernel, by decide +kernel, by decide +kernel⟩,
   ⟨sContextControl4, 3, kContextControl4, by decide +kernel, by decide +kernel, by decide +kernel, by decide +kernel⟩,
   ⟨sContextControl5, 3, kContextControl5, by decide +kernel, by decide +kernel, by decide +kernel, by decide +kernel⟩,
   ⟨sContextControl6, 3, kContextControl6, by decide +kernel, by decide +kernel, by decide +kernel⟩⟩

theorem witness_KillsLeaveNoTrace :
    (∃ (s : State) (n i : Nat) (c : Cmd), findCmd s n i = some c ∧ killable c = true ∧ s.standby = none ∧ (ctxOf s n).stopping = false)
    ∧ (∃ (s : State) (n i : Nat) (c : Cmd), findCmd s n i = some c ∧ killable c = true ∧ s.standby = none ∧ (ctxOf s n).stopping = true) :=
  ⟨⟨sKillsLeaveNoTrace0, 3, 7, cKillsLeaveNoTrace0, by decide +kernel, by decide +kernel, by decide +kernel, by decide +kernel⟩,
   ⟨sKillsLeaveNoTrace1, 3, 7, cKillsLeaveNoTrace1, by decide +kernel, by decide +kernel, by decide +kernel, by decide +kernel⟩⟩

theorem witness_PlacementAndItsLoop :
    (∃ (s : State) (n i q : Nat) (b : Bool) (c : Cmd), findCmd s n i = some c ∧ mayPlace s c = true ∧ needsCluster c.desc = true ∧ spot s c = .on q b ∧ ((b = true ∨ inTurn s c q = true)))
    ∧ (∃ (s : State) (n i : Nat) (c : Cmd), findCmd s n i = some c ∧ mayPlace s c = true ∧ needsCluster c.desc = false ∧ trackerUsed s (operandDie s c) < 4096)
    ∧ (∃ (s : State) (n i : Nat) (c : Cmd), findCmd s n i = some c ∧ mayPlace s c = true ∧ needsCluster c.desc = true ∧ spot s c = .fails)
    ∧ (∃ (s : State) (rates : List Nat), us 100 ≤ since s s.loopAt)
    ∧ (∃ (s : State) (rates : List Nat) (b q : Nat) (x : Branch), us 100 ≤ since s s.loopAt ∧ ((∀ r, r < 64 → slowNow (regionOf s r) (rates.getD r 0) (twiceMedian ((rates.take 64).filter (· != 0))) = (regionOf s r).slow)) ∧ branchOf s b = some x ∧ mayMove s b q = true) :=
  ⟨⟨sPlacement0, 3, 7, 0, false, cPlacement0, by decide +kernel, by decide +kernel, by decide +kernel, by decide +kernel, by decide +kernel⟩,
   ⟨sPlacement1, 3, 7, cPlacement1, by decide +kernel, by decide +kernel, by decide +kernel, by decide +kernel⟩,
   ⟨sPlacement2, 3, 7, cPlacement2, by decide +kernel, by decide +kernel, by decide +kernel, by decide +kernel⟩,
   ⟨sPlacementLoop0, ratesPlacementLoop0, by decide +kernel⟩,
   ⟨sPlacementLoop1, ratesPlacementLoop1, 1, 8, xPlacementLoop1, by decide +kernel, by decide +kernel, by decide +kernel, by decide +kernel⟩⟩

theorem witness_Residency :
    (∃ (s : State) (n r : Nat) (k : Ctx), k = ctxOf s n ∧ hubKeys s ∧ k.res = .resident ∧ k.state ≠ .disabled ∧ k.markWait = false ∧ runnable s r = true ∧ n ∈ evictable s r ∧ waitedLongest s r = true ∧ leastRun s n r = true ∧ ((∀ m ∈ conflicting s r, (ctxOf s m).res ≠ .saving ∧ (ctxOf s m).markWait = false)) ∧ marks s n = none)
    ∧ (∃ (s : State) (n : Nat) (k : Ctx), k = ctxOf s n ∧ k.markWait = true ∧ k.res = .resident ∧ us 100 ≤ since s k.markSince)
    ∧ (∃ (s : State) (n : Nat) (k : Ctx), s.mem.wf = true ∧ s.standby = none ∧ k = ctxOf s n ∧ k.res = .saving ∧ k.savedRanges = none)
    ∧ (∃ (s : State) (n : Nat), placing s = true ∧ runnable s n = true ∧ waitedLongest s n = true ∧ granulesBack s n = true ∧ ((∀ m ∈ conflicting s n, (ctxOf s m).res = .swapped)))
    ∧ (∃ (s : State) (n : Nat) (k : Ctx), s.mem.wf = true ∧ s.standby = none ∧ k = ctxOf s n ∧ k.res = .restoring ∧ k.savedRanges = none ∧ k.saveEmpty = false) :=
  ⟨⟨sResidency0, 4, 3, kResidency0, by decide +kernel, by decide +kernel, by decide +kernel, by decide +kernel, by decide +kernel, by decide +kernel, by decide +kernel, by decide +kernel, by decide +kernel, by decide +kernel, by decide +kernel⟩,
   ⟨sResidency1, 4, kResidency1, by decide +kernel, by decide +kernel, by decide +kernel, by decide +kernel⟩,
   ⟨sResidency2, 4, kResidency2, by decide +kernel, by decide +kernel, by decide +kernel, by decide +kernel, by decide +kernel⟩,
   ⟨sResidency3, 3, by decide +kernel, by decide +kernel, by decide +kernel, by decide +kernel, by decide +kernel⟩,
   ⟨sResidency4, 3, kResidency4, by decide +kernel, by decide +kernel, by decide +kernel, by decide +kernel, by decide +kernel, by decide +kernel⟩⟩

theorem witness_ComputeRowsIssue :
    (∃ (s : State) (n i : Nat) (c : Cmd), issueDue s n i 1 1 c ∧ meet s (mmUsed (mmOf c.desc)) (mmWrites (mmOf c.desc)) = .fine)
    ∧ (∃ (s : State) (n i : Nat) (c : Cmd), issueDue s n i 1 2 c ∧ meet s (cvUsed (cvOf c.desc)) (cvWrites (cvOf c.desc)) = .fine)
    ∧ (∃ (s : State) (n i : Nat) (c : Cmd), issueDue s n i 1 5 c ∧ meet s (foGroupRange (foOf c.desc)) (foWrites (foOf c.desc)) = .fine ∧ meet s (foUsed (operandMem s (foGroupRange (foOf c.desc))) (foOf c.desc)) (foWrites (foOf c.desc)) = .fine)
    ∧ (∃ (s : State) (n i : Nat) (c : Cmd), issueDue s n i 1 6 c ∧ meet s (scUsed (scOf c.desc)) (scWrites (scOf c.desc)) = .fine ∧ (((scOf c.desc).src = 0 → ∀ b ∈ headerBranches c.desc, b ∉ s.brPoison)))
    ∧ (∃ (s : State) (n i : Nat) (c : Cmd), issueDue s n i 1 7 c ∧ meet s (elUsed (elOf c.desc)) (elWrites (elOf c.desc)) = .fine)
    ∧ (∃ (s : State) (n i : Nat) (c : Cmd), issueDue s n i 1 8 c ∧ wnHaloWait c (wnOf c.desc) = false ∧ meet s (wnUsed (wnOf c.desc)) (wnWrites (wnOf c.desc)) = .fine)
    ∧ (∃ (s : State) (n i : Nat) (c : Cmd), issueDue s n i 1 9 c ∧ meet s (dtUsed (dtOf c.desc)) (dtWrites (dtOf c.desc)) = .fine) :=
  ⟨⟨sComputeRowsIssue0, 3, 7, cComputeRowsIssue0, by decide +kernel, by decide +kernel⟩,
   ⟨sComputeRowsIssue1, 3, 7, cComputeRowsIssue1, by decide +kernel, by decide +kernel⟩,
   ⟨sComputeRowsIssue2, 3, 7, cComputeRowsIssue2, by decide +kernel, by decide +kernel, by decide +kernel⟩,
   ⟨sComputeRowsIssue3, 3, 7, cComputeRowsIssue3, by decide +kernel, by decide +kernel, by decide +kernel⟩,
   ⟨sComputeRowsIssue4, 3, 7, cComputeRowsIssue4, by decide +kernel, by decide +kernel⟩,
   ⟨sComputeRowsIssue5, 3, 7, cComputeRowsIssue5, by decide +kernel, by decide +kernel, by decide +kernel⟩,
   ⟨sComputeRowsIssue6, 3, 7, cComputeRowsIssue6, by decide +kernel, by decide +kernel⟩⟩

theorem witness_TableRowsIssue :
    (∃ (s : State) (n i : Nat) (c d : Cmd), issueDue s n i 1 3 c ∧ atRun s c = .done d)
    ∧ (∃ (s : State) (n i : Nat) (c d : Cmd), issueDue s n i 1 4 c ∧ bwdRun s c = .done d)
    ∧ (∃ (s : State) (n i : Nat) (c d : Cmd), issueDue s n i 3 1 c ∧ apSpec.run s c = .done d)
    ∧ (∃ (s : State) (n i : Nat) (c d : Cmd), issueDue s n i 3 2 c ∧ tuSpec.run s c = .done d)
    ∧ (∃ (s : State) (n i : Nat) (c d : Cmd), issueDue s n i 3 3 c ∧ vfSpec.run s c = .done d)
    ∧ (∃ (s : State) (n i : Nat) (c d : Cmd), issueDue s n i 3 4 c ∧ pmSpec.run s c = .done d)
    ∧ (∃ (s : State) (n i : Nat) (c d : Cmd), issueDue s n i 3 5 c ∧ fkRun s c = .done d)
    ∧ (∃ (s : State) (n i : Nat) (c d : Cmd), issueDue s n i 3 6 c ∧ pnRun s c = .done d)
    ∧ (∃ (s : State) (n i : Nat) (c d : Cmd), issueDue s n i 3 7 c ∧ prRun s c = .done d)
    ∧ (∃ (s : State) (n i : Nat) (c : Cmd) (r : Branch), issueDue s n i 3 8 c ∧ pkUnpark c.desc = false ∧ branchOf s (pkBranch c.desc) = some r ∧ r.parked = false ∧ meet s [] (saveRange s c.desc) = .fine)
    ∧ (∃ (s : State) (n i : Nat) (c : Cmd) (r : Branch), issueDue s n i 3 8 c ∧ pkUnpark c.desc = true ∧ branchOf s (pkBranch c.desc) = some r ∧ r.parked = true ∧ meet s (if r.granules = 0 then [] else [(r.saveAddr.toNat, r.granules * 4096)]) [] = .fine) :=
  ⟨⟨sTableRowsIssue0, 3, 7, cTableRowsIssue0, _, by decide +kernel, run_done (by decide +kernel)⟩,
   ⟨sTableRowsIssue1, 3, 7, cTableRowsIssue1, _, by decide +kernel, run_done (by decide +kernel)⟩,
   ⟨sTableRowsIssue2, 3, 7, cTableRowsIssue2, _, by decide +kernel, run_done (by decide +kernel)⟩,
   ⟨sTableRowsIssue3, 3, 7, cTableRowsIssue3, _, by decide +kernel, run_done (by decide +kernel)⟩,
   ⟨sTableRowsIssue4, 3, 7, cTableRowsIssue4, _, by decide +kernel, run_done (by decide +kernel)⟩,
   ⟨sTableRowsIssue5, 3, 7, cTableRowsIssue5, _, by decide +kernel, run_done (by decide +kernel)⟩,
   ⟨sTableRowsIssue6, 3, 7, cTableRowsIssue6, _, by decide +kernel, run_done (by decide +kernel)⟩,
   ⟨sTableRowsIssue7, 3, 7, cTableRowsIssue7, _, by decide +kernel, run_done (by decide +kernel)⟩,
   ⟨sTableRowsIssue8, 3, 7, cTableRowsIssue8, _, by decide +kernel, run_done (by decide +kernel)⟩,
   ⟨sTableRowsIssue9, 3, 7, cTableRowsIssue9, rTableRowsIssue9, by decide +kernel, by decide +kernel, by decide +kernel, by decide +kernel, by decide +kernel⟩,
   ⟨sTableRowsIssue10, 3, 7, cTableRowsIssue10, rTableRowsIssue10, by decide +kernel, by decide +kernel, by decide +kernel, by decide +kernel, by decide +kernel⟩⟩

theorem witness_MoveRowsIssue :
    (∃ (s : State) (n i : Nat) (c : Cmd) (x : Mv), s.mem.wf = true ∧ issueDue s n i 2 1 c ∧ x = mvOf c.desc ∧ meet s (mvUsed x) (mvWrites x) = .fine ∧ x.dstBs * 64 ≥ x.len ∧ 0 < x.len)
    ∧ (∃ (s : State) (n i : Nat) (c : Cmd) (x : Tl), s.mem.wf = true ∧ issueDue s n i 2 2 c ∧ x = tlOf c.desc ∧ meet s (tlUsed x) (tlWrites x) = .fine ∧ 4 ≤ x.ld ∧ 128 * x.ld ≤ x.stride) :=
  ⟨⟨sMoveRowsIssue0, 3, 7, cMoveRowsIssue0, xMoveRowsIssue0, by decide +kernel, by decide +kernel, rfl, by decide +kernel, by decide +kernel, by decide +kernel⟩,
   ⟨sMoveRowsIssue1, 3, 7, cMoveRowsIssue1, xMoveRowsIssue1, by decide +kernel, by decide +kernel, rfl, low_meet (by decide +kernel), by decide +kernel, by decide +kernel⟩⟩

theorem witness_PoolRowsIssue :
    (∃ (s : State) (n i : Nat) (c : Cmd), issueDue s n i 2 3 c ∧ (poOf c.desc).op = 1)
    ∧ (∃ (s : State) (n i : Nat) (c : Cmd), issueDue s n i 2 3 c ∧ (poOf c.desc).op = 2)
    ∧ (∃ (s : State) (n i : Nat) (c : Cmd), issueDue s n i 2 3 c ∧ (poOf c.desc).op = 3)
    ∧ (∃ (s : State) (n i : Nat) (c : Cmd), issueDue s n i 2 3 c ∧ (poOf c.desc).op = 4)
    ∧ (∃ (s : State) (n i : Nat) (c : Cmd), issueDue s n i 2 3 c ∧ (poOf c.desc).op = 5)
    ∧ (∃ (s : State) (n i : Nat) (c : Cmd), issueDue s n i 2 3 c ∧ (poOf c.desc).op = 6 ∧ retireAdmitted s c = true)
    ∧ (∃ (s : State) (n i : Nat) (c : Cmd), issueDue s n i 2 3 c ∧ (poOf c.desc).op = 7) :=
  ⟨⟨sPoolRowsIssue0, 3, 7, cPoolRowsIssue0, by decide +kernel, by decide +kernel⟩,
   ⟨sPoolRowsIssue1, 3, 7, cPoolRowsIssue1, by decide +kernel, by decide +kernel⟩,
   ⟨sPoolRowsIssue2, 3, 7, cPoolRowsIssue2, by decide +kernel, by decide +kernel⟩,
   ⟨sPoolRowsIssue3, 3, 7, cPoolRowsIssue3, by decide +kernel, by decide +kernel⟩,
   ⟨sPoolRowsIssue4, 3, 7, cPoolRowsIssue4, by decide +kernel, by decide +kernel⟩,
   ⟨sPoolRowsIssue5, 3, 7, cPoolRowsIssue5, by decide +kernel, by decide +kernel, by decide +kernel⟩,
   ⟨sPoolRowsIssue6, 3, 7, cPoolRowsIssue6, by decide +kernel, by decide +kernel⟩⟩

theorem witness_PoolPagesMove :
    (∃ (s : State) (p : Nat), aget? s.pool p = none ∧ 0 < freeFrames s (zoneOf s p))
    ∧ (∃ (s : State) (p : Nat) (e : Page), aget? s.pool p = some e)
    ∧ (∃ (s : State) (p : Nat) (e : Page), aget? s.pool p = some e ∧ pageInUse s p = false)
    ∧ (∃ (s : State) (p : Nat) (e : Page), aget? s.pool p = some e ∧ pageInUse s p = true)
    ∧ (∃ (s : State) (p : Nat) (e : Page), aget? s.pool p = some e ∧ e.state = .resident)
    ∧ (∃ (s : State) (p : Nat) (e : Page), aget? s.pool p = some e ∧ e.state = .resident)
    ∧ (∃ (s : State) (p i : Nat) (e : Page), s.mem.wf = true ∧ aget? s.pool p = some e ∧ e.state = .resident ∧ e.pinned = false ∧ pageHeld s p = false ∧ slotMeet s = .fine ∧ freeSlot s = some i)
    ∧ (∃ (s : State) (p : Nat) (e : Page), aget? s.pool p = some e ∧ e.state = .resident ∧ 0 < freeFrames s (zoneOf s p) ∧ (carafeOf s (zoneOf s p).1).retired.length < 4096)
    ∧ (∃ (s : State) (p : Nat) (e : Page), aget? s.pool p = some e ∧ e.state = .evicted ∧ slotMeet s = .fine ∧ 0 < freeFrames s (zoneOf s p))
    ∧ (∃ (s : State) (p k : Nat) (e : Page), aget? s.pool p = some e ∧ e.state = .lost ∧ (k = 3 ∨ k = 5 ∨ k = 6 ∨ k = 7) ∧ pageHeld s p = false)
    ∧ (∃ (s : State) (p : Nat) (e : Page), aget? s.pool p = some e ∧ e.state = .evicted ∧ slotMeet s = .fine ∧ 0 < freeFrames s (zoneOf s p))
    ∧ (∃ (s : State) (d m l p i : Nat), s.mem.wf = true ∧ 64 * freeFrames s (d, m, l) < zoneFrames s.cset.active m ∧ (carafeOf s d).failed = false ∧ slotMeet s = .fine ∧ evictChoice s (d, m, l) = some p ∧ freeSlot s = some i)
    ∧ (∃ (s : State), us (agePeriod s.cset.active) ≤ since s s.ageAt ∧ asleep s = false) :=
  ⟨⟨sPoolPages0, 5, by decide +kernel, by decide +kernel⟩,
   ⟨wS, 1, ePoolPages1, by decide +kernel⟩,
   ⟨sPoolPages2, 1, ePoolPages2, by decide +kernel, by decide +kernel⟩,
   ⟨sPoolPages3, 1, ePoolPages3, by decide +kernel, by decide +kernel⟩,
   ⟨wS, 1, ePoolPages1, by decide +kernel, by decide +kernel⟩,
   ⟨sPoolPages5, 1, ePoolPages5, by decide +kernel, by decide +kernel⟩,
   ⟨sPoolPages6, 1, 0, ePoolPages6, by decide +kernel, by decide +kernel, by decide +kernel, by decide +kernel, by decide +kernel, by decide +kernel, by decide +kernel⟩,
   ⟨wS, 1, ePoolPages1, by decide +kernel, by decide +kernel, by decide +kernel, by decide +kernel⟩,
   ⟨sPoolPages8, 1, ePoolPages8, by decide +kernel, by decide +kernel, by decide +kernel, by decide +kernel⟩,
   ⟨sPoolPages9, 1, 7, ePoolPages9, by decide +kernel, by decide +kernel, by decide +kernel, by decide +kernel⟩,
   ⟨sPoolPages8, 1, ePoolPages8, by decide +kernel, by decide +kernel, by decide +kernel, by decide +kernel⟩,
   ⟨sPoolEvents1, 0, 2, 5, 0, 0, by decide +kernel, by decide +kernel, by decide +kernel, by decide +kernel, by decide +kernel, by decide +kernel⟩,
   ⟨sPoolEvents2, by decide +kernel, by decide +kernel⟩⟩

theorem witness_CommitMakesVisible : ∃ (s : State) (n i : Nat) (c : Cmd) (w : Work) (heads : List Nat), commitDue s n i c ∧ isSnapshot c.desc = false ∧ isSignal c.desc = false ∧ c.coll = none ∧ ¬ (hClass c.desc = 2 ∧ hOp c.desc = 3) ∧ finalOf s c = .ready s w [] heads ∧ meetCells s (allCells s w) = .fine ∧ peerPages s (allCells s w) = [] :=
  ⟨sCommitMakesVisible0, 3, 7, cCommitMakesVisible0, wCommitMakesVisible0, ratesPlacementLoop1, by decide +kernel, by decide +kernel, by decide +kernel, by decide +kernel, by decide +kernel, final_ready (by decide +kernel), by decide +kernel, by decide +kernel⟩

theorem witness_PoolCommits :
    (∃ (s s1 : State) (n i m : Nat) (c : Cmd), commitDue s n i c ∧ hClass c.desc = 2 ∧ hOp c.desc = 3 ∧ c.work = {} ∧ c.coll = none ∧ poolCommit s c = .done s1 m)
    ∧ (∃ (s : State) (n i : Nat) (c : Cmd) (st : Status), commitDue s n i c ∧ hClass c.desc = 2 ∧ hOp c.desc = 3 ∧ c.coll = none ∧ poolCommit s c = .fails st) :=
  ⟨⟨sPoolCommits0, _, 3, 7, _, cPoolCommits0, by decide +kernel, by decide +kernel, by decide +kernel, by decide +kernel, by decide +kernel, pool_done (by decide +kernel)⟩,
   ⟨sPoolCommits1, 3, 7, cPoolCommits1, stPoolCommits1, by decide +kernel, by decide +kernel, by decide +kernel, by decide +kernel, pool_fails (by decide +kernel)⟩⟩

theorem witness_BranchCommits :
    (∃ (s : State) (n i : Nat) (c : Cmd) (r : Branch), s.mem.wf = true ∧ commitDue s n i c ∧ hClass c.desc = 3 ∧ hOp c.desc = 8 ∧ pkUnpark c.desc = false ∧ c.coll = none ∧ c.work = {} ∧ c.gens = [] ∧ c.leadGens = [] ∧ branchOf s (pkBranch c.desc) = some r ∧ 0 < r.granules ∧ pkBranch c.desc ∉ s.brPoison ∧ s.regs.branchDirOn = false ∧ ownCarafe s (pkSave c.desc) = true ∧ ownCarafe s (pkSave c.desc + r.granules * 4096 - 1) = true ∧ gaOff (pkSave c.desc) + r.granules * 4096 ≤ 2 ^ 39 ∧ accessible s c.ctx true (pkSave c.desc, r.granules * 4096) = true ∧ meet s [] [(pkSave c.desc, r.granules * 4096)] = .fine)
    ∧ (∃ (s : State) (n i : Nat) (c : Cmd) (x : Fk), commitDue s n i c ∧ hClass c.desc = 3 ∧ hOp c.desc = 5 ∧ x = fkOf c.desc ∧ fkRoot x = true ∧ x.granules = 0 ∧ c.coll = none ∧ c.work = {} ∧ c.gens = [] ∧ c.leadGens = [] ∧ s.regs.branchDirOn = false) :=
  ⟨⟨sBranchCommits0, 3, 7, cBranchCommits0, rBranchCommits0, by decide +kernel, by decide +kernel, by decide +kernel, by decide +kernel, by decide +kernel, by decide +kernel, by decide +kernel, by decide +kernel, by decide +kernel, by decide +kernel, by decide +kernel, by decide +kernel, by decide +kernel, by decide +kernel, by decide +kernel, by decide +kernel, by decide +kernel, by decide +kernel⟩,
   ⟨sBranchCommits1, 3, 7, cBranchCommits1, xBranchCommits1, by decide +kernel, by decide +kernel, by decide +kernel, rfl, by decide +kernel, by decide +kernel, by decide +kernel, by decide +kernel, by decide +kernel, by decide +kernel, by decide +kernel⟩⟩

theorem witness_RowsArriveIssueDrain :
    (∃ (s : State) (q j a : Nat) (l : Line) (p : Bool) (k : Arrival) (c : Cmd), ownCarafe s (64 * (a / 64)) = true ∧ pageState s (pageOf (64 * (a / 64))) = some .resident ∧ aget? (clusterOf s q).arrivals j = some k ∧ findCmd s k.ctx k.idx = some c ∧ c.pos = some q ∧ c.counter = some j ∧ a / 64 ∈ c.await ∧ c.await.Nodup)
    ∧ (∃ (s : State) (n i q : Nat) (c : Cmd) (x : Mm), issueDue s n i 1 1 c ∧ x = mmOf c.desc ∧ c.pos = some q ∧ groupMayStart x c = true ∧ meet s (mmUsed x) (mmWrites x) = .fine ∧ c.rowsIssued < (mmRows x c.qFree).length)
    ∧ (∃ (s : State) (n i q : Nat) (c : Cmd), findCmd s n i = some c ∧ hClass c.desc = 1 ∧ hOp c.desc = 1 ∧ c.stage = .placed ∧ c.peerError = none ∧ c.pos = some q ∧ awaits s c = true)
    ∧ (∃ (s : State) (n i : Nat) (c : Cmd) (x : Mm), findCmd s n i = some c ∧ hClass c.desc = 1 ∧ hOp c.desc = 1 ∧ c.stage = .placed ∧ x = mmOf c.desc ∧ mmDrainReady x c = true ∧ meet s (mmUsed x) (mmWrites x) = .fine) :=
  ⟨⟨sRowsArriveIssueDrain0, 9, 63, 130, default, true, kRowsArriveIssueDrain0, cRowsArriveIssueDrain0, by decide +kernel, by decide +kernel, by decide +kernel, by decide +kernel, by decide +kernel, by decide +kernel, by decide +kernel, by decide +kernel⟩,
   ⟨sComputeRowsIssue0, 3, 7, 9, cComputeRowsIssue0, xRowsArriveIssueDrain1, by decide +kernel, rfl, by decide +kernel, by decide +kernel, by decide +kernel, by decide +kernel⟩,
   ⟨sRowsArriveIssueDrain2, 3, 7, 9, cRowsArriveIssueDrain2, by decide +kernel, by decide +kernel, by decide +kernel, by decide +kernel, by decide +kernel, by decide +kernel, by decide +kernel⟩,
   ⟨sRowsArriveIssueDrain3, 3, 7, cRowsArriveIssueDrain3, xRowsArriveIssueDrain3, by decide +kernel, by decide +kernel, by decide +kernel, by decide +kernel, rfl, by decide +kernel, by decide +kernel⟩⟩

theorem witness_WalkerAndPolls :
    (∃ (s : State) (r head token gen : Nat) (p : Hit) (c : Cmd) (u : Tx), walkerCmd s r head = some c ∧ (labResolve head token).run (txStart s c) = .ok (some (gen, p), u))
    ∧ (∃ (s : State) (n i : Nat) (c : Cmd), findCmd s n i = some c ∧ c.mismatch = true ∧ c.retryAt.toNat ≤ s.localTime.toNat)
    ∧ (∃ (s : State) (n i : Nat) (c : Cmd) (x : Wn), findCmd s n i = some c ∧ hClass c.desc = 1 ∧ hOp c.desc = 8 ∧ c.stage = .placed ∧ x = wnOf c.desc ∧ wnHaloWait c x = true ∧ meet s [(x.sig, 8)] [] = .fine ∧ x.sigValue ≤ mnat (operandMem s [(x.sig, 8)]) x.sig 8) :=
  ⟨⟨sTableRowsIssue0, 1, 128, 5, _, _, cWalkerAndPolls0, _, by decide +kernel, lab_ok (by decide +kernel)⟩,
   ⟨sWalkerAndPolls1, 3, 7, cWalkerAndPolls1, by decide +kernel, by decide +kernel, by decide +kernel⟩,
   ⟨sWalkerAndPolls2, 3, 7, cWalkerAndPolls2, xWalkerAndPolls2, by decide +kernel, by decide +kernel, by decide +kernel, by decide +kernel, rfl, by decide +kernel, by decide +kernel, by decide +kernel⟩⟩

theorem witness_Snapshots :
    (∃ (s : State) (n i : Nat) (c d : Cmd), validatedAs s n i 5 6 c ∧ earlierDone s c = true ∧ awaits s c = false ∧ c.peerError = none ∧ snapTurn s c = .done d ∧ (snOf c.desc).op = 0)
    ∧ (∃ (s : State) (n i : Nat) (c d : Cmd), validatedAs s n i 5 6 c ∧ earlierDone s c = true ∧ awaits s c = false ∧ c.peerError = none ∧ snapTurn s c = .done d ∧ (snOf c.desc).op = 1)
    ∧ (∃ (s : State) (n i : Nat) (c d : Cmd), validatedAs s n i 5 6 c ∧ earlierDone s c = true ∧ awaits s c = false ∧ c.peerError = none ∧ snapTurn s c = .done d ∧ (snOf c.desc).op = 2)
    ∧ (∃ (s : State) (n i : Nat) (c d : Cmd), validatedAs s n i 5 6 c ∧ earlierDone s c = true ∧ awaits s c = false ∧ c.peerError = none ∧ snapTurn s c = .done d ∧ (snOf c.desc).op = 3)
    ∧ (∃ (s : State) (n i : Nat) (c d : Cmd), validatedAs s n i 5 6 c ∧ earlierDone s c = true ∧ awaits s c = false ∧ c.peerError = none ∧ snapTurn s c = .done d ∧ (snOf c.desc).op = 4)
    ∧ (∃ (s : State) (n i : Nat) (c d : Cmd), validatedAs s n i 5 6 c ∧ earlierDone s c = true ∧ awaits s c = false ∧ c.peerError = none ∧ snapTurn s c = .done d ∧ (snOf c.desc).op = 5)
    ∧ (∃ (s : State) (n i : Nat) (c d : Cmd), validatedAs s n i 5 6 c ∧ earlierDone s c = true ∧ awaits s c = false ∧ c.peerError = none ∧ snapTurn s c = .done d ∧ (snOf c.desc).op = 6)
    ∧ (∃ (s : State) (n i : Nat) (c : Cmd) (w : Work), commitDue s n i c ∧ hClass c.desc = 5 ∧ hOp c.desc = 6 ∧ (snOf c.desc).op = 1 ∧ c.coll = none ∧ finalOf s c = .ready s w [] [] ∧ meetCells s (allCells s w) = .fine ∧ peerPages s (allCells s w) = []) :=
  ⟨⟨sSnapshots0, 3, 7, cSnapshots0, _, by decide +kernel, by decide +kernel, by decide +kernel, by decide +kernel, snap_done (by decide +kernel), by decide +kernel⟩,
   ⟨sSnapshots1, 3, 7, cSnapshots1, _, by decide +kernel, by decide +kernel, by decide +kernel, by decide +kernel, snap_done (by decide +kernel), by decide +kernel⟩,
   ⟨sSnapshots2, 3, 7, cSnapshots2, _, by decide +kernel, by decide +kernel, by decide +kernel, by decide +kernel, snap_done (by decide +kernel), by decide +kernel⟩,
   ⟨sSnapshots3, 3, 7, cSnapshots3, _, by decide +kernel, by decide +kernel, by decide +kernel, by decide +kernel, snap_done (by decide +kernel), by decide +kernel⟩,
   ⟨sSnapshots4, 3, 7, cSnapshots4, _, by decide +kernel, by decide +kernel, by decide +kernel, by decide +kernel, snap_done (by decide +kernel), by decide +kernel⟩,
   ⟨sSnapshots5, 3, 7, cSnapshots5, _, by decide +kernel, by decide +kernel, by decide +kernel, by decide +kernel, snap_done (by decide +kernel), by decide +kernel⟩,
   ⟨sSnapshots6, 3, 7, cSnapshots6, _, by decide +kernel, by decide +kernel, by decide +kernel, by decide +kernel, snap_done (by decide +kernel), by decide +kernel⟩,
   ⟨sSnapshots7, 3, 7, cSnapshots7, cSnapshots7.work, by decide +kernel, by decide +kernel, by decide +kernel, by decide +kernel, by decide +kernel, final_ready (by decide +kernel), by decide +kernel, by decide +kernel⟩⟩

theorem witness_DieResets :
    (∃ (s : State) (d : Nat), hubKeys s ∧ s.phase = .running ∧ s.standby = none ∧ d < 16 ∧ (dieOf s d).resetting = false ∧ resetRecent s (dieOf s d) = false)
    ∧ (∃ (s : State) (d : Nat), s.phase = .running ∧ s.standby = none ∧ d < 16 ∧ (dieOf s d).resetting = false ∧ resetRecent s (dieOf s d) = true)
    ∧ (∃ (s : State) (d : Nat), (dieOf s d).resetting = true)
    ∧ (∃ (s : State) (l : Nat), hubKeys s ∧ s.phase = .running ∧ l < 8 ∧ (linkDieOf s l).resetting = false ∧ resetRecent s (linkDieOf s l) = false)
    ∧ (∃ (s : State) (l : Nat), l < 8 ∧ (linkDieOf s l).resetting = true) :=
  ⟨⟨sDieResets0, 0, by decide +kernel, by decide +kernel, by decide +kernel, by decide +kernel, by decide +kernel, by decide +kernel⟩,
   ⟨sDieResets1, 15, by decide +kernel, by decide +kernel, by decide +kernel, by decide +kernel, by decide +kernel⟩,
   ⟨sDieResets2, 15, by decide +kernel⟩,
   ⟨sDieResets3, 7, by decide +kernel, by decide +kernel, by decide +kernel, by decide +kernel, by decide +kernel⟩,
   ⟨sDieResets4, 7, by decide +kernel, by decide +kernel⟩⟩

theorem witness_LineErrors :
    (∃ (s : State) (a k : Nat), ownCarafe s a = true ∧ pageState s (pageOf a) = some .resident)
    ∧ (∃ (s : State), takesWrites s)
    ∧ (∃ (s : State) (q a g : Nat), q < 512 ∧ g = 512 + a % 2 ^ 23 / 4096)
    ∧ (∃ (s : State) (q a g : Nat), q < 512 ∧ g = a / 4096 % 512) :=
  ⟨⟨wS, 65599, 6, by decide +kernel, by decide +kernel⟩,
   ⟨sLineErrors1, by decide +kernel⟩,
   ⟨sLineErrors2, 511, 8388607, 2559, by decide +kernel, by decide +kernel⟩,
   ⟨sLineErrors3, 511, 2097151, 511, by decide +kernel, by decide +kernel⟩⟩

theorem witness_Channels :
    (∃ (s : State) (d c k i : Nat), d < 16 ∧ c < 64 ∧ carafeIdle s d ∧ (carafeOf s d).remapped ≠ some c ∧ freeSpare (carafeOf s d) = some i)
    ∧ (∃ (s : State) (d c k : Nat), d < 16 ∧ c < 64 ∧ k < 2 ∧ carafeIdle s d ∧ (carafeOf s d).remapped = none ∧ freeSpare (carafeOf s d) = none)
    ∧ (∃ (s : State) (d c k x : Nat), d < 16 ∧ c < 64 ∧ k < 2 ∧ carafeIdle s d ∧ (carafeOf s d).remapped = some x ∧ x ≠ c ∧ freeSpare (carafeOf s d) = none)
    ∧ (∃ (s : State) (d : Nat) (b : Subst), (carafeOf s d).busy = some b ∧ b.phase = .copying)
    ∧ (∃ (s : State) (d : Nat) (b : Subst) (ok : Bool), (carafeOf s d).busy = some b ∧ b.phase = .retraining ∧ b.spare < 2 ∧ (carafeOf s d).waiting = [] ∧ spareOf (carafeOf s d) b.spare = .standsFor b.channel)
    ∧ (∃ (s : State) (d : Nat) (b : Subst), (carafeOf s d).busy = some b ∧ b.phase = .remapping ∧ (carafeOf s d).waiting = [])
    ∧ (∃ (s : State) (d l r : Nat), d < 16 ∧ l < 6)
    ∧ (∃ (s : State) (d c n f : Nat) (e : Bool) (p : Nat), s.phase = .running ∧ s.standby = none ∧ d < 16 ∧ c < 64 ∧ umpireFree s rkScrub d (0, 0) ∧ p = aget (carafeOf s d).scrub c 86400) :=
  ⟨⟨wS, 15, 63, 1, 0, by decide +kernel, by decide +kernel, by decide +kernel, by decide +kernel, by decide +kernel⟩,
   ⟨sChannels1, 15, 63, 1, by decide +kernel, by decide +kernel, by decide +kernel, by decide +kernel, by decide +kernel, by decide +kernel⟩,
   ⟨sChannels2, 15, 63, 1, 9, by decide +kernel, by decide +kernel, by decide +kernel, by decide +kernel, by decide +kernel, by decide +kernel, by decide +kernel⟩,
   ⟨sChannels3, 15, bChannels3, by decide +kernel, by decide +kernel⟩,
   ⟨sChannels4, 15, bChannels4, true, by decide +kernel, by decide +kernel, by decide +kernel, by decide +kernel, by decide +kernel⟩,
   ⟨sChannels5, 15, bChannels5, by decide +kernel, by decide +kernel, by decide +kernel⟩,
   ⟨wS, 15, 5, 1600, by decide +kernel, by decide +kernel⟩,
   ⟨sChannels7, 15, 63, 7, 17, true, 3600, by decide +kernel, by decide +kernel, by decide +kernel, by decide +kernel, by decide +kernel, by decide +kernel⟩⟩

theorem witness_SetUpActions :
    (∃ (s : State), takesWrites s)
    ∧ (∃ (s : State) (v : Nat), takesWrites s ∧ branchOpsFly s = false)
    ∧ (∃ (s : State) (v : Nat), branchOpsFly s = true ∧ takesWrites s)
    ∧ (∃ (s : State) (n v : Nat) (bs : List Byte) (adm : Bool) (es : List AclEntry), takesWrites s ∧ ctxBusy s n = false ∧ (ctxOf s n).aclHi.toNat < 2 ^ 14 ∧ aclParse bs = some (adm, es))
    ∧ (∃ (s : State) (n v : Nat) (bs : List Byte), takesWrites s ∧ ctxBusy s n = false ∧ aclParse bs = none)
    ∧ (∃ (s : State) (n v : Nat) (bs : List Byte), takesWrites s ∧ ctxBusy s n = true)
    ∧ (∃ (s : State) (v : Nat), takesWrites s ∧ v < 2048)
    ∧ (∃ (s : State), takesWrites s)
    ∧ (∃ (s : State) (v : Nat), takesWrites s)
    ∧ (∃ (s : State), takesWrites s)
    ∧ (∃ (s : State), takesWrites s)
    ∧ (∃ (s : State) (b : Bool), s.phase ≠ .off ∧ s.mgmt.backupPin ≠ b)
    ∧ (∃ (s : State), s.phase = .off ∧ s.mgmt.backupPin = true)
    ∧ (∃ (s : State), barOpen s = true)
    ∧ (∃ (s : State), barOpen s = true) :=
  ⟨⟨sSetUpActions0, by decide +kernel⟩,
   ⟨sSetUpActions1, (65600+1), by decide +kernel, by decide +kernel⟩,
   ⟨sSetUpActions2, (65600+1), by decide +kernel, by decide +kernel⟩,
   ⟨sContextControl1, 3, (4096+7), bsSetUpActions3, admSetUpActions3, esSetUpActions3, by decide +kernel, by decide +kernel, by decide +kernel, by decide +kernel⟩,
   ⟨wS, 3, (4096+7), bsSetUpActions4, by decide +kernel, by decide +kernel, by decide +kernel⟩,
   ⟨sSetUpActions5, 3, (4096+7), bsSetUpActions4, by decide +kernel, by decide +kernel⟩,
   ⟨sSetUpActions6, 2047, by decide +kernel, by decide +kernel⟩,
   ⟨sSetUpActions7, by decide +kernel⟩,
   ⟨sSetUpActions8, (2^32+7), by decide +kernel⟩,
   ⟨sSetUpActions9, by decide +kernel⟩,
   ⟨sSetUpActions10, by decide +kernel⟩,
   ⟨sSetUpActions11, true, by decide +kernel, by decide +kernel⟩,
   ⟨sSetUpActions12, by decide +kernel, by decide +kernel⟩,
   ⟨sSetUpActions13, by decide +kernel⟩,
   ⟨sSetUpActions14, by decide +kernel⟩⟩

theorem witness_RegisterWrites :
    (∃ (s : State) (v : Nat), takesWrites s ∧ s.owner < 2)
    ∧ (∃ (s : State) (v : Nat), takesWrites s ∧ s.owner < 2)
    ∧ (∃ (s : State) (v : Nat), takesWrites s ∧ s.owner < 2)
    ∧ (∃ (s : State) (n v : Nat), takesWrites s ∧ s.owner < 2 ∧ n < 256 ∧ (ctxOf s n).state ≠ .disabled)
    ∧ (∃ (s : State) (n v : Nat), takesWrites s ∧ s.owner < 2 ∧ n < 256 ∧ (ctxOf s n).state = .disabled)
    ∧ (∃ (s : State) (n v : Nat), takesWrites s ∧ s.owner < 2 ∧ n < 256 ∧ (ctxOf s n).state = .disabled ∧ 6 ≤ bits v 4 0 ∧ bits v 4 0 ≤ 16 ∧ bits v 9 5 = 31 ∧ bits v 11 10 = 3 ∧ v < 2 ^ 32)
    ∧ (∃ (s : State) (o n v : Nat), takesWrites s ∧ s.owner < 2 ∧ o + n ≤ 0x20000 ∧ ((n = 4 ∨ n = 8)) ∧ o % n ≠ 0)
    ∧ (∃ (s : State) (p v : Nat), p < 2 ∧ p ≠ s.owner ∧ (hostPortOf s p).ready = true ∧ (hostPortOf s p).memSpace = true)
    ∧ (∃ (s : State) (p v : Nat), p < 2 ∧ p ≠ s.owner ∧ (hostPortOf s p).ready = true ∧ (hostPortOf s p).memSpace = true) :=
  ⟨⟨wS, (2^32+3), by decide +kernel, by decide +kernel⟩,
   ⟨sRegisterWrites1, 5, by decide +kernel, by decide +kernel⟩,
   ⟨wS, 5, by decide +kernel, by decide +kernel⟩,
   ⟨wS, 3, (2^63+5), by decide +kernel, by decide +kernel, by decide +kernel, by decide +kernel⟩,
   ⟨sRegisterWrites4, 255, (2^64-1), by decide +kernel, by decide +kernel, by decide +kernel, by decide +kernel⟩,
   ⟨sRegisterWrites4, 255, vRegisterWrites5, by decide +kernel, by decide +kernel, by decide +kernel, by decide +kernel, by decide +kernel, by decide +kernel, by decide +kernel, by decide +kernel, by decide +kernel⟩,
   ⟨wS, (0x20000 - 5), 4, 3, by decide +kernel, by decide +kernel, by decide +kernel, by decide +kernel, by decide +kernel⟩,
   ⟨wS, 1, 3, by decide +kernel, by decide +kernel, by decide +kernel, by decide +kernel⟩,
   ⟨sRegisterWrites8, 1, 5, by decide +kernel, by decide +kernel, by decide +kernel, by decide +kernel⟩⟩

theorem witness_BarReadsZeroUntilReady :
    (∃ (s : State) (r : Bool) (o : Nat), s.phase = .startup r)
    ∧ (∃ (s : State) (r : Bool) (o n v : Nat), s.phase = .startup r ∧ s.owner < 2 ∧ o + n ≤ 2 ^ 26)
    ∧ (∃ (s : State), barOpen s = true) :=
  ⟨⟨State.reset, false, 0, by decide +kernel⟩,
   ⟨sBarReadsZeroUntilReady1, true, (2^26-4), 4, 7, by decide +kernel, by decide +kernel, by decide +kernel⟩,
   ⟨wS, by decide +kernel⟩⟩

theorem witness_HostLinks :
    (∃ (s : State) (p n w : Nat) (f : Bool), p < 2 ∧ s.phase ≠ .off ∧ (hostPortOf s p).link ≠ .down)
    ∧ (∃ (s : State) (p n w : Nat) (f : Bool), p < 2 ∧ s.phase ≠ .off ∧ (hostPortOf s p).link ≠ .up ∧ s.links.early = [])
    ∧ (∃ (s : State), (hostPortOf s s.owner).busMaster = true ∧ (hostPortOf s s.owner).timeouts + 1 < 16)
    ∧ (∃ (s : State), (hostPortOf s s.owner).busMaster = true ∧ (hostPortOf s s.owner).lost = false ∧ 16 ≤ (hostPortOf s s.owner).timeouts + 1)
    ∧ (∃ (s : State) (t0 : W64), (hostPortOf s s.owner).busMaster = true ∧ (hostPortOf s s.owner).lost = false ∧ (hostPortOf s s.owner).link = .down ∧ (hostPortOf s s.owner).downSince = some t0 ∧ us 100000 ≤ since s t0)
    ∧ (∃ (s : State) (p : Nat), p < 2 ∧ p ≠ s.owner ∧ (hostPortOf s p).ready = true ∧ barOpen s = true ∧ (hostPortOf s s.owner).lost = true)
    ∧ (∃ (s : State) (p : Nat), p < 2 ∧ p ≠ s.owner ∧ (hostPortOf s p).ready = true ∧ (hostPortOf s p).request = false)
    ∧ (∃ (s : State) (p x : Nat), p < 2 ∧ x < 2 ∧ doeSession s p = true)
    ∧ (∃ (s : State) (p x : Nat), p < 2 ∧ x < 2 ∧ doeSession s p = true)
    ∧ (∃ (s : State) (p x : Nat), p < 2 ∧ x < 2 ∧ doeSession s p = true)
    ∧ (∃ (s : State) (p x : Nat) (b : Bool), p < 2 ∧ x < 2 ∧ doeSession s p = true)
    ∧ (∃ (s : State) (p x : Nat), p < 2 ∧ x ∈ (hostPortOf s p).streams) :=
  ⟨⟨wS, 1, 6, 16, true, by decide +kernel, by decide +kernel, by decide +kernel⟩,
   ⟨sHostLinks1, 1, 6, 16, true, by decide +kernel, by decide +kernel, by decide +kernel, by decide +kernel⟩,
   ⟨sHostLinks2, by decide +kernel, by decide +kernel⟩,
   ⟨sHostLinks3, by decide +kernel, by decide +kernel, by decide +kernel⟩,
   ⟨sHostLinks4, t0HostLinks4, by decide +kernel, by decide +kernel, by decide +kernel, by decide +kernel, by decide +kernel⟩,
   ⟨sHostLinks5, 1, by decide +kernel, by decide +kernel, by decide +kernel, by decide +kernel, by decide +kernel⟩,
   ⟨wS, 1, by decide +kernel, by decide +kernel, by decide +kernel, by decide +kernel⟩,
   ⟨sHostLinks7, 1, 1, by decide +kernel, by decide +kernel, by decide +kernel⟩,
   ⟨sHostLinks7, 1, 1, by decide +kernel, by decide +kernel, by decide +kernel⟩,
   ⟨sHostLinks7, 1, 1, by decide +kernel, by decide +kernel, by decide +kernel⟩,
   ⟨sHostLinks7, 1, 1, true, by decide +kernel, by decide +kernel, by decide +kernel⟩,
   ⟨sHostLinks7, 1, 1, by decide +kernel, by decide +kernel⟩⟩

theorem witness_Aperture :
    (∃ (s : State) (o n : Nat), apertureOpen s o n)
    ∧ (∃ (s : State) (o : Nat) (bs : List Byte), s.mem.wf = true ∧ s.standby = none ∧ apertureOpen s o bs.length)
    ∧ (∃ (s : State) (o n x y : Nat) (op : AtomicOp), s.mem.wf = true ∧ apertureOpen s o n ∧ ((n = 4 ∨ n = 8)) ∧ o % n = 0)
    ∧ (∃ (s : State) (o n : Nat), s.phase ≠ .hubDead ∧ asleep s = false ∧ barOpen s = true ∧ 0 < n ∧ n ≤ 64 - o % 64 ∧ o + n ≤ 2 ^ 25 ∧ pageState s (pageOf (apertureAddr s o)) = none)
    ∧ (∃ (s : State) (o n : Nat), s.phase ≠ .hubDead ∧ asleep s = false ∧ barOpen s = true ∧ 0 < n ∧ n ≤ 64 - o % 64 ∧ o + n ≤ 2 ^ 25 ∧ pageState s (pageOf (apertureAddr s o)) = some .lost) :=
  ⟨⟨sAperture0, (2^25-4), 4, by decide +kernel⟩,
   ⟨sAperture0, (2^25-4), bsAperture1, by decide +kernel, by decide +kernel, by decide +kernel⟩,
   ⟨sAperture0, (2^25-4), 4, (2^32-1), (1 + 255 * 2^24), opAperture2, by decide +kernel, by decide +kernel, by decide +kernel, by decide +kernel⟩,
   ⟨sAperture0, (2^25-65536-4), 4, by decide +kernel, by decide +kernel, by decide +kernel, by decide +kernel, by decide +kernel, by decide +kernel, by decide +kernel⟩,
   ⟨sAperture4, (2^25-65536-4), 4, by decide +kernel, by decide +kernel, by decide +kernel, by decide +kernel, by decide +kernel, by decide +kernel, by decide +kernel⟩⟩

theorem witness_Substitution :
    (∃ (s : State) (o : Nat) (bs : List Byte), takesWrites s ∧ s.cset.pending = none ∧ s.cset.bench.wf = true ∧ o % 4 = 0 ∧ bs.length % 4 = 0 ∧ o + bs.length ≤ 65536)
    ∧ (∃ (s : State), takesWrites s ∧ s.cset.pending = none)
    ∧ (∃ (s : State) (bs : List Byte), takesWrites s ∧ s.cset.pending = none ∧ s.cset.loadAddr.toNat < 2 ^ 46)
    ∧ (∃ (s : State), takesWrites s ∧ s.cset.pending = none)
    ∧ (∃ (s : State) (r : SwapReq), takesWrites s ∧ mayRequest s none ∧ r = { issuer := none, expect := 2 ^ 64 - 1, since := s.localTime } ∧ swapRefusal s r = 0)
    ∧ (∃ (s : State) (r : SwapReq), takesWrites s ∧ mayRequest s none ∧ r = { issuer := none, expect := 2 ^ 64 - 1, since := s.localTime } ∧ swapRefusal s r ≠ 0)
    ∧ (∃ (s : State), takesWrites s ∧ s.cset.pending ≠ none)
    ∧ (∃ (s : State) (n i : Nat) (c : Cmd) (r : SwapReq), validatedAs s n i 5 5 c ∧ earlierDone s c = true ∧ mayRequest s (some (n, i)) ∧ r = { issuer := some (n, i), expect := fld c.desc 16 8, since := s.localTime } ∧ swapRefusal s r = 0)
    ∧ (∃ (s : State) (n i : Nat) (c : Cmd) (r : SwapReq), validatedAs s n i 5 5 c ∧ earlierDone s c = true ∧ mayRequest s (some (n, i)) ∧ r = { issuer := some (n, i), expect := fld c.desc 16 8, since := s.localTime } ∧ swapRefusal s r ≠ 0)
    ∧ (∃ (s : State) (r : SwapReq), s.cset.pending = some r ∧ r.issuer = none ∧ r.admitted = true ∧ drainDiffers s.cset.active s.cset.bench = true ∧ drainBusy s = true ∧ us 50 ≤ since s r.since)
    ∧ (∃ (s : State) (r : SwapReq), s.cset.pending = some r ∧ r.issuer = none ∧ r.admitted = true ∧ ((drainDiffers s.cset.active s.cset.bench = false ∨ drainBusy s = false)) ∧ setPort s.cset.bench = s.owner ∧ imgModule s.cset.bench = selfId s ∧ selfId { s with cset := { s.cset with active := imgTake s.cset.bench } } = selfId s ∧ swapPlan s s.cset.bench = some ([], [])) :=
  ⟨⟨wSet, 65532, bsSubstitution0, by decide +kernel, by decide +kernel, by decide +kernel, by decide +kernel, by decide +kernel, by decide +kernel⟩,
   ⟨wSet, by decide +kernel, by decide +kernel⟩,
   ⟨wSet, bsSubstitution2, by decide +kernel, by decide +kernel, by decide +kernel⟩,
   ⟨wSet, by decide +kernel, by decide +kernel⟩,
   ⟨wSet, rSubstitution4, by decide +kernel, by decide +kernel, by decide +kernel, by decide +kernel⟩,
   ⟨wS, rSubstitution5, by decide +kernel, by decide +kernel, by decide +kernel, by decide +kernel⟩,
   ⟨sSubstitution6, by decide +kernel, by decide +kernel⟩,
   ⟨sSubstitution7, 3, 7, cSubstitution7, rSubstitution7, by decide +kernel, by decide +kernel, by decide +kernel, by decide +kernel, by decide +kernel⟩,
   ⟨sSubstitution8, 3, 7, cSubstitution8, rSubstitution8, by decide +kernel, by decide +kernel, by decide +kernel, by decide +kernel, by decide +kernel⟩,
   ⟨sSubstitution9, rSubstitution9, by decide +kernel, by decide +kernel, by decide +kernel, by decide +kernel, by decide +kernel, by decide +kernel⟩,
   ⟨sSubstitution10, rSubstitution10, by decide +kernel, by decide +kernel, by decide +kernel, by decide +kernel, by decide +kernel, by decide +kernel, by decide +kernel, by decide +kernel⟩⟩

theorem witness_Umpire :
    (∃ (s : State) (a : Activity), umpNext s = some a)
    ∧ (∃ (s : State) (a : Activity), umpNext s = some a ∧ a.rank = rkSensor)
    ∧ (∃ (s : State), umpNext s = none)
    ∧ (∃ (s : State) (d x : Nat), d < 16 ∧ sensorOfDie d x = true ∧ umpireFree s rkSensor d (x, 0))
    ∧ (∃ (s : State) (d x : Nat), d < 16 ∧ sensorOfDie d x = true ∧ umpRuns s rkSensor d (x, 0) = true) :=
  ⟨⟨sUmpire0, aUmpire0, by decide +kernel⟩,
   ⟨sUmpire0, aUmpire0, by decide +kernel, by decide +kernel⟩,
   ⟨wS, by decide +kernel⟩,
   ⟨sUmpire3, 15, 63, by decide +kernel, by decide +kernel, by decide +kernel⟩,
   ⟨sUmpire4, 15, 63, by decide +kernel, by decide +kernel, by decide +kernel⟩⟩

theorem witness_Clocks :
    (∃ (s : State) (w r : Nat), s.phase = .running ∧ us 100 ≤ since s s.power.capAt ∧ budgetW (profile s) < w ∧ r < 64 ∧ regionReserved s r = false ∧ 900 < (regionOf s r).setMhz)
    ∧ (∃ (s : State) (w : Nat), s.phase = .running ∧ us 100 ≤ since s s.power.capAt ∧ w ≤ budgetW (profile s) ∧ budgetW (profile s) ≤ w + 100)
    ∧ (∃ (s : State) (w r : Nat), s.phase = .running ∧ us 100 ≤ since s s.power.capAt ∧ w + 100 < budgetW (profile s) ∧ dutyLimited s = false ∧ r < 64)
    ∧ (∃ (s : State) (r : Nat), s.phase = .running ∧ r < 64 ∧ mayBoost s r = true ∧ us 100 ≤ since s (regionOf s r).lastBoost)
    ∧ (∃ (s : State) (r : Nat) (low : Bool), r < 64)
    ∧ (∃ (s : State) (r : Nat), r < 64)
    ∧ (∃ (s : State) (r : Nat), r < 64 ∧ profile s = 3 ∧ regionReserved s r = false ∧ (regionOf s r).gated = false ∧ ((∀ c ∈ s.cmds, regionUses r c = false)) ∧ us 100 ≤ since s (regionOf s r).idleSince) :=
  ⟨⟨wS, 451, 63, by decide +kernel, by decide +kernel, by decide +kernel, by decide +kernel, by decide +kernel, by decide +kernel⟩,
   ⟨wS, 350, by decide +kernel, by decide +kernel, by decide +kernel, by decide +kernel⟩,
   ⟨wS, 349, 63, by decide +kernel, by decide +kernel, by decide +kernel, by decide +kernel, by decide +kernel⟩,
   ⟨sClocks3, 63, by decide +kernel, by decide +kernel, by decide +kernel, by decide +kernel⟩,
   ⟨wS, 63, true, by decide +kernel⟩,
   ⟨sClocks5, 63, by decide +kernel⟩,
   ⟨wS, 63, by decide +kernel, by decide +kernel, by decide +kernel, by decide +kernel, by decide +kernel, by decide +kernel⟩⟩

theorem witness_Thermal :
    (∃ (s : State) (d r : Nat), d < 16 ∧ 1600 ≤ tempNat (BitVec.ofNat 16 r) ∧ (dieOf s d).throttled = false)
    ∧ (∃ (s : State) (d r : Nat), d < 16 ∧ 1600 ≤ tempNat (BitVec.ofNat 16 r) ∧ (dieOf s d).throttled = true ∧ us 10 ≤ since s (dieOf s d).throttleAt)
    ∧ (∃ (s : State) (d r : Nat), d < 16 ∧ dieTemp (noteTemp s (4 * d) r) d < 98 * 16 ∧ us 10 ≤ since s (dieOf s d).throttleAt)
    ∧ (∃ (s : State) (x r : Nat), x < 169 ∧ s.phase ≠ .off ∧ s.phase ≠ .tripped ∧ s.power.emergency = false ∧ x ∉ s.power.outOfService ∧ emergencyTemp x ≤ tempNat (BitVec.ofNat 16 r))
    ∧ (∃ (s : State) (t0 : W64), s.power.emergency = true ∧ s.power.coolSince = some t0 ∧ us 10000 ≤ since s t0)
    ∧ (∃ (s : State) (x r : Nat), x < 169 ∧ s.phase ≠ .off ∧ s.phase ≠ .tripped ∧ tripTemp x ≤ tempNat (BitVec.ofNat 16 r)) :=
  ⟨⟨wS, 15, 1600, by decide +kernel, by decide +kernel, by decide +kernel⟩,
   ⟨sThermal1, 15, 1600, by decide +kernel, by decide +kernel, by decide +kernel, by decide +kernel⟩,
   ⟨sThermal1, 15, 1567, by decide +kernel, by decide +kernel, by decide +kernel⟩,
   ⟨sThermal3, 168, 1760, by decide +kernel, by decide +kernel, by decide +kernel, by decide +kernel, by decide +kernel, by decide +kernel⟩,
   ⟨sThermal4, (5 : W64), by decide +kernel, by decide +kernel, by decide +kernel⟩,
   ⟨sThermal5, 168, 1920, by decide +kernel, by decide +kernel, by decide +kernel, by decide +kernel⟩⟩

theorem witness_Management :
    (∃ (s : State) (ep : Nat) (eid : Nat), epAnswers s ep = true)
    ∧ (∃ (s : State) (ep : Nat), epAnswers s ep = true)
    ∧ (∃ (s : State) (ep : Nat), epAnswers s ep = true)
    ∧ (∃ (s : State) (ep : Nat) (k : Nat), epAnswers s ep = true)
    ∧ (∃ (s : State) (ep : Nat), epAnswers s ep = true)
    ∧ (∃ (s : State) (ep : Nat) (k : Nat), epAnswers s ep = true)
    ∧ (∃ (s : State) (ep : Nat), epAnswers s ep = true)
    ∧ (∃ (s : State) (ep : Nat) (k : Nat), epAnswers s ep = true)
    ∧ (∃ (s : State) (ep : Nat) (k : Nat), epAnswers s ep = true)
    ∧ (∃ (s : State) (ep : Nat), epAnswers s ep = true)
    ∧ (∃ (s : State) (ep : Nat) (k : Nat), epAnswers s ep = true)
    ∧ (∃ (s : State) (ep : Nat), epAnswers s ep = true)
    ∧ (∃ (s : State) (ep : Nat) (k : Nat), epAnswers s ep = true)
    ∧ (∃ (s : State) (ep : Nat) (k : Nat), epAnswers s ep = true)
    ∧ (∃ (s : State) (ep : Nat) (k : Nat) (b : Bool), epAnswers s ep = true ∧ k ∈ sensorIds)
    ∧ (∃ (s : State) (ep : Nat) (k : Nat), epAnswers s ep = true)
    ∧ (∃ (s : State) (ep : Nat), epAnswers s ep = true)
    ∧ (∃ (s : State) (ep : Nat), epAnswers s ep = true)
    ∧ (∃ (s : State) (ep : Nat), epAnswers s ep = true)
    ∧ (∃ (s : State) (ep : Nat), epAnswers s ep = true)
    ∧ (∃ (s : State) (ep : Nat) (a k : Nat), epAnswers s ep = true)
    ∧ (∃ (s : State) (ep : Nat), epAnswers s ep = true ∧ s.standby = none)
    ∧ (∃ (s : State) (ep : Nat) (b : Standby), epAnswers s ep = true ∧ s.standby = some b ∧ b.cause = none) :=
  ⟨⟨sManagement0, 2, 300, by decide +kernel⟩,
   ⟨sManagement0, 2, by decide +kernel⟩,
   ⟨sManagement0, 2, by decide +kernel⟩,
   ⟨sManagement0, 2, 0x7F, by decide +kernel⟩,
   ⟨sManagement0, 2, by decide +kernel⟩,
   ⟨sManagement0, 2, 0, by decide +kernel⟩,
   ⟨sManagement0, 2, by decide +kernel⟩,
   ⟨sManagement0, 2, 256, by decide +kernel⟩,
   ⟨sManagement0, 2, 5, by decide +kernel⟩,
   ⟨sManagement0, 2, by decide +kernel⟩,
   ⟨sManagement0, 2, 2, by decide +kernel⟩,
   ⟨sManagement0, 2, by decide +kernel⟩,
   ⟨sManagement0, 2, 171, by decide +kernel⟩,
   ⟨sManagement0, 2, 0x138, by decide +kernel⟩,
   ⟨sManagement0, 2, 7, true, by decide +kernel, by decide +kernel⟩,
   ⟨sManagement0, 2, 8, by decide +kernel⟩,
   ⟨sManagement0, 2, by decide +kernel⟩,
   ⟨sManagement0, 2, by decide +kernel⟩,
   ⟨sManagement0, 2, by decide +kernel⟩,
   ⟨sManagement0, 2, by decide +kernel⟩,
   ⟨sManagement0, 2, 3, 40, by decide +kernel⟩,
   ⟨sManagement0, 2, by decide +kernel, by decide +kernel⟩,
   ⟨sManagement22, 2, bStandbyStages4, by decide +kernel, by decide +kernel, by decide +kernel⟩⟩

theorem witness_FirmwareUpdate :
    (∃ (s : State), baristaUp s = true ∧ flushDue s = true ∧ umpireFree s rkLog 0 (0, 0) ∧ s.mgmt.logFlash.length + s.mgmt.logBuffer.length ≤ 524288)
    ∧ (∃ (s : State) (ep : Nat), epAnswers s ep = true ∧ s.mgmt.update = none)
    ∧ (∃ (s : State) (ep : Nat) (u : Update), epAnswers s ep = true ∧ s.mgmt.update = some u)
    ∧ (∃ (s : State) (ep : Nat) (u : Update) (k : Nat), epAnswers s ep = true ∧ s.mgmt.update = some u ∧ u.ep = ep)
    ∧ (∃ (s : State) (ep : Nat) (u : Update) (k n : Nat), epAnswers s ep = true ∧ s.mgmt.update = some u ∧ u.ep = ep ∧ (k = 1 ∨ k = 2) ∧ n ≤ 2 ^ 25)
    ∧ (∃ (s : State) (ep : Nat) (u : Update) (bs : List Byte), epAnswers s ep = true ∧ s.mgmt.update = some u ∧ u.ep = ep ∧ u.component ≠ none ∧ u.slice = none ∧ u.data.length < u.size ∧ umpireFree s rkStaging 0 (0, 0))
    ∧ (∃ (s : State) (ep : Nat) (u : Update), epAnswers s ep = true ∧ s.mgmt.update = some u ∧ u.ep = ep ∧ u.component = some 1)
    ∧ (∃ (s : State) (ep : Nat) (u : Update), epAnswers s ep = true ∧ s.mgmt.update = some u ∧ u.ep = ep)
    ∧ (∃ (s : State) (ep : Nat) (u : Update), epAnswers s ep = true ∧ s.mgmt.update = some u ∧ u.ep = ep)
    ∧ (∃ (s : State) (u : Update), s.mgmt.update = some u ∧ us 60000000 ≤ since s u.lastTime)
    ∧ (∃ (s : State) (ep : Nat), epAnswers s ep = true ∧ (bankOf s (1 - s.mgmt.activeBank)).valid = true)
    ∧ (∃ (s : State) (ep : Nat), epAnswers s ep = true ∧ (bankOf s (1 - s.mgmt.activeBank)).valid = true ∧ umpireFree s rkActivate 0 (0, 0) ∧ s.mgmt.activeBank ≤ 1 ∧ bankVerifies (bankOf s (1 - s.mgmt.activeBank)) (nextOwnerKey s) s.mgmt.floor = true)
    ∧ (∃ (s : State) (ep : Nat), epAnswers s ep = true ∧ (bankOf s (1 - s.mgmt.activeBank)).valid = true ∧ umpireFree s rkActivate 0 (0, 0) ∧ s.mgmt.activeBank ≤ 1 ∧ bankVerifies (bankOf s (1 - s.mgmt.activeBank)) (nextOwnerKey s) s.mgmt.floor = true ∧ takesWrites s) :=
  ⟨⟨sManagement0, by decide +kernel, by decide +kernel, by decide +kernel, by decide +kernel⟩,
   ⟨sManagement0, 2, by decide +kernel, by decide +kernel⟩,
   ⟨sFirmwareUpdate2, 2, uFirmwareUpdate2, by decide +kernel, by decide +kernel⟩,
   ⟨sFirmwareUpdate2, 2, uFirmwareUpdate2, 7, by decide +kernel, by decide +kernel, by decide +kernel⟩,
   ⟨sFirmwareUpdate2, 2, uFirmwareUpdate2, 2, (2^25), by decide +kernel, by decide +kernel, by decide +kernel, by decide +kernel, by decide +kernel⟩,
   ⟨sFirmwareUpdate2, 2, uFirmwareUpdate2, bsFirmwareUpdate5, by decide +kernel, by decide +kernel, by decide +kernel, by decide +kernel, by decide +kernel, by decide +kernel, by decide +kernel⟩,
   ⟨sFirmwareUpdate2, 2, uFirmwareUpdate2, by decide +kernel, by decide +kernel, by decide +kernel, by decide +kernel⟩,
   ⟨sFirmwareUpdate2, 2, uFirmwareUpdate2, by decide +kernel, by decide +kernel, by decide +kernel⟩,
   ⟨sFirmwareUpdate2, 2, uFirmwareUpdate2, by decide +kernel, by decide +kernel, by decide +kernel⟩,
   ⟨sFirmwareUpdate2, uFirmwareUpdate2, by decide +kernel, by decide +kernel⟩,
   ⟨sFirmwareUpdate10, 2, by decide +kernel, by decide +kernel⟩,
   ⟨sFirmwareUpdate10, 2, by decide +kernel, by decide +kernel, by decide +kernel, by decide +kernel, by decide +kernel⟩,
   ⟨sFirmwareUpdate10, 2, by decide +kernel, by decide +kernel, by decide +kernel, by decide +kernel, by decide +kernel, by decide +kernel⟩⟩

theorem witness_Spdm :
    (∃ (s : State) (tr : Nat), trAnswers s tr = true)
    ∧ (∃ (s : State) (tr : Nat), spdmServed s tr 1)
    ∧ (∃ (s : State) (tr : Nat) (as : List Nat), spdmServed s tr 2 ∧ ((∀ i, i < 4 → i ∈ as)))
    ∧ (∃ (s : State) (tr : Nat) (as : List Nat), spdmServed s tr 2 ∧ (¬ (∀ i, i < 4 → i ∈ as)))
    ∧ (∃ (s : State) (tr : Nat), spdmServed s tr 3)
    ∧ (∃ (s : State) (tr : Nat) (k o n : Nat), spdmServed s tr 3)
    ∧ (∃ (s : State) (tr : Nat) (k : Nat) (bs : List Byte), spdmServed s tr 3)
    ∧ (∃ (s : State) (tr : Nat) (id : Nat) (bs : List Byte), spdmServed s tr 3 ∧ findSession s tr id = none ∧ (sessionsOf s tr).length < 4)
    ∧ (∃ (s : State) (tr : Nat) (id : Nat) (bs : List Byte), spdmServed s tr 3 ∧ 4 ≤ (sessionsOf s tr).length)
    ∧ (∃ (s : State) (tr : Nat) (id : Nat) (x : Session), spdmServed s tr 3 ∧ findSession s tr id = some x ∧ x.established = false)
    ∧ (∃ (s : State) (tr : Nat) (id : Nat) (x : Session), spdmServed s tr 3 ∧ findSession s tr id = some x ∧ x.established = true)
    ∧ (∃ (s : State) (tr : Nat) (id : Nat) (x : Session) (k : Nat), spdmServed s tr 3 ∧ findSession s tr id = some x ∧ x.established = true ∧ (k = 1 ∨ k = 2))
    ∧ (∃ (s : State) (tr : Nat) (id : Nat) (x : Session), spdmServed s tr 3 ∧ findSession s tr id = some x ∧ x.established = true)
    ∧ (∃ (s : State) (tr : Nat) (nonce : List Byte) (rs : List (Nat × Nat)), spdmServed s tr 3 ∧ nonce.length = 32 ∧ rs.length ≤ 8 ∧ ((∀ r ∈ rs, reportRange s r = true)) ∧ ((∀ r ∈ rs, ∀ i, i < r.2 → pageState s (pageOf (r.1 + i)) = some .resident ∧ (r.1 + i) / 64 ∉ s.poison))) :=
  ⟨⟨sManagement0, 4, by decide +kernel⟩,
   ⟨sManagement0, 4, by decide +kernel⟩,
   ⟨sManagement0, 4, asSpdm2, by decide +kernel, by decide +kernel⟩,
   ⟨sManagement0, 4, asSpdm3, by decide +kernel, by decide +kernel⟩,
   ⟨sManagement0, 4, by decide +kernel⟩,
   ⟨sManagement0, 4, 0, 5, 9, by decide +kernel⟩,
   ⟨sManagement0, 4, 1, bsSpdm6, by decide +kernel⟩,
   ⟨sSpdm7, 4, 8, bsSetUpActions4, by decide +kernel, by decide +kernel, by decide +kernel⟩,
   ⟨sSpdm8, 4, 8, bsSetUpActions4, by decide +kernel, by decide +kernel⟩,
   ⟨sSpdm8, 4, 3, xSpdm9, by decide +kernel, by decide +kernel, by decide +kernel⟩,
   ⟨sSpdm10, 4, 3, xSpdm10, by decide +kernel, by decide +kernel, by decide +kernel⟩,
   ⟨sSpdm10, 4, 3, xSpdm10, 2, by decide +kernel, by decide +kernel, by decide +kernel, by decide +kernel⟩,
   ⟨sSpdm10, 4, 3, xSpdm10, by decide +kernel, by decide +kernel, by decide +kernel⟩,
   ⟨sManagement0, 4, nonceSpdm13, rsSpdm13, by decide +kernel, by decide +kernel, by decide +kernel, by decide +kernel, by decide +kernel⟩⟩

theorem witness_Validation :
    (∃ (s : State) (n i : Nat) (c : Cmd), findCmd s n i = some c ∧ c.stage = .fetched ∧ mayValidate s c = false)
    ∧ (∃ (s : State) (n i o : Nat) (st : Status) (c : Cmd), findCmd s n i = some c ∧ hClass c.desc = 1 ∧ hOp c.desc = 2 ∧ c.stage = .fetched ∧ mayValidate s c = true ∧ awaits s c = false ∧ c.peerError = none ∧ firstFail (cvChecks s c) = some (o, st))
    ∧ (∃ (s : State) (n i : Nat) (c : Cmd), findCmd s n i = some c ∧ hClass c.desc = 1 ∧ hOp c.desc = 2 ∧ c.stage = .fetched ∧ mayValidate s c = true ∧ awaits s c = false ∧ c.peerError = none ∧ firstFail (cvChecks s c) = none ∧ cvNoop (cvOf c.desc) = true)
    ∧ (∃ (s : State) (n i : Nat) (c : Cmd), findCmd s n i = some c ∧ hClass c.desc = 1 ∧ hOp c.desc = 2 ∧ c.stage = .fetched ∧ mayValidate s c = true ∧ awaits s c = false ∧ c.peerError = none ∧ firstFail (cvChecks s c) = none ∧ cvNoop (cvOf c.desc) = false)
    ∧ (∃ (s : State) (n i : Nat) (c : Cmd), findCmd s n i = some c ∧ hClass c.desc = 5 ∧ hOp c.desc = 1 ∧ c.stage = .fetched ∧ mayValidate s c = true ∧ awaits s c = false ∧ c.peerError = none ∧ firstFail (fenceChecks s c) = none)
    ∧ (∃ (s : State) (n i : Nat) (c : Cmd), findCmd s n i = some c ∧ opListed (hClass c.desc) (hOp c.desc) = false ∧ c.stage = .fetched ∧ mayValidate s c = true ∧ awaits s c = false ∧ c.peerError = none) :=
  ⟨⟨sValidation0, 3, 7, cValidation0, by decide +kernel, by decide +kernel, by decide +kernel⟩,
   ⟨sValidation1, 3, 7, oValidation1, stValidation1, cValidation1, by decide +kernel, by decide +kernel, by decide +kernel, by decide +kernel, by decide +kernel, by decide +kernel, by decide +kernel, by decide +kernel⟩,
   ⟨sValidation2, 3, 7, cValidation2, by decide +kernel, by decide +kernel, by decide +kernel, by decide +kernel, by decide +kernel, by decide +kernel, by decide +kernel, by decide +kernel, by decide +kernel⟩,
   ⟨sValidation3, 3, 7, cValidation3, by decide +kernel, by decide +kernel, by decide +kernel, by decide +kernel, by decide +kernel, by decide +kernel, by decide +kernel, by decide +kernel, by decide +kernel⟩,
   ⟨sValidation4, 3, 7, cValidation4, by decide +kernel, by decide +kernel, by decide +kernel, by decide +kernel, by decide +kernel, by decide +kernel, by decide +kernel, by decide +kernel⟩,
   ⟨sValidation5, 3, 7, cValidation5, by decide +kernel, by decide +kernel, by decide +kernel, by decide +kernel, by decide +kernel, by decide +kernel⟩⟩
theorem witness_CommandsKeepQueueAndTime : ∃ (i : Instr) (s t : State), exec i s = .next t :=
  ⟨.invAll, wS, _, rfl⟩

theorem witness_StepKeepsCanonicalMemory : ∃ (s t : State), s.canonical ∧ step s = .next t :=
  ⟨{ wS with pending := [.apertureWrite 3 [1#8, 0#8]] }, _, by decide +kernel, rfl⟩

theorem witness_GrinderRoundsToNearest : ∃ (f : Fmt) (neg : Bool) (n d : Nat) (e : Int), 0 < d :=
  ⟨.fp4, true, 7, 3, -2, by decide⟩

/-! ### Each check of WellFormed refuses an ill-formed command -/

/-- A flit with a class of nine bits, and one with a payload of 257 bytes. -/
def wideFlit : Flit := { cls := 256, dst := 0, src := 0, epoch := 0, seq := 0, tag := 0, address := 0, data := [] }
def longFlit : Flit := { wideFlit with cls := 0, data := List.replicate 257 0#8 }

theorem test_wf_refuses_context : Instr.wf (.matmul 256 0) = false := by decide

theorem test_wf_refuses_index : Instr.wf (.matmul 0 (2 ^ 32)) = false := by decide

theorem test_wf_refuses_die : Instr.wf (.dieReset 16) = false := by decide

theorem test_wf_refuses_link_die : Instr.wf (.linkDieReset 8) = false := by decide

theorem test_wf_refuses_region : Instr.wf (.boostStep 64) = false := by decide

theorem test_wf_refuses_cluster : Instr.wf (.lineArrival 512 0 0 0 false) = false := by decide

theorem test_wf_refuses_counter : Instr.wf (.lineArrival 0 64 0 0 false) = false := by decide

theorem test_wf_refuses_address : Instr.wf (.carafeUncorrectable (2 ^ 64) 0) = false := by decide

theorem test_wf_refuses_reason : Instr.wf (.carafeUncorrectable 0 8) = false := by decide

theorem test_wf_refuses_channel : Instr.wf (.patrolScrub 0 64 0 0 false) = false := by decide

theorem test_wf_refuses_cause : Instr.wf (.channelSubstitution 0 0 8) = false := by decide

theorem test_wf_refuses_port : Instr.wf (.portRetrain 32) = false := by decide

theorem test_wf_refuses_host_port : Instr.wf (.perst 2) = false := by decide

theorem test_wf_refuses_module : Instr.wf (.declareDead 16384) = false := by decide

theorem test_wf_refuses_huddle : Instr.wf (.huddleTimeout 1024) = false := by decide

theorem test_wf_refuses_page : Instr.wf (.pageRecall (2 ^ 23)) = false := by decide

theorem test_wf_refuses_mode : Instr.wf (.pageEviction 0 3 0) = false := by decide

theorem test_wf_refuses_selector : Instr.wf (.pageEviction 0 1 64) = false := by decide

theorem test_wf_refuses_layer : Instr.wf (.carafeThrottle 0 6 0) = false := by decide

theorem test_wf_refuses_sensor : Instr.wf (.thermalTrip 171 0) = false := by decide

theorem test_wf_refuses_half : Instr.wf (.coolantHot 65536) = false := by decide

theorem test_wf_refuses_byte : Instr.wf (.setEndpointId 0 256) = false := by decide

theorem test_wf_refuses_vector : Instr.wf (.msixUnmask 2048) = false := by decide

theorem test_wf_refuses_stream : Instr.wf (.ideIntegrityFail 0 2) = false := by decide

theorem test_wf_refuses_endpoint : Instr.wf (.getTid 3) = false := by decide

theorem test_wf_refuses_transport : Instr.wf (.getVersion 5) = false := by decide

theorem test_wf_refuses_bar : Instr.wf (.registerWrite 0 (2 ^ 26) 4 0) = false := by decide

theorem test_wf_refuses_aperture : Instr.wf (.apertureRead (2 ^ 25) 4) = false := by decide

theorem test_wf_refuses_bench : Instr.wf (.benchWrite 65535 [0#8, 0#8]) = false := by decide

theorem test_wf_refuses_rates : Instr.wf (.placementLoop [900] []) = false := by decide

theorem test_wf_refuses_flit_field : Instr.wf (.readReq 0 wideFlit) = false := by decide

theorem test_wf_refuses_flit_length : Instr.wf (.writeData 0 longFlit) = false := by decide +kernel


/-! ### Results worked out by hand from the rules -/

/-- The table of commands gives no bits, so no word spells one. -/
theorem test_no_word : decodeTableWord 16 0xFFFF = none := rfl

/-- Chapter 3, worked example: the contribution of group 0 rounds up from 36,400,091 to 36,400,092 units of 2^−20. -/
theorem test_contribution : roundTo fltFp32 (.fin false 36400091 1 (-20)) = roundTo fltFp32 (.fin false 36400092 1 (-20)) := by decide +kernel

/-- Chapter 3, worked example: 28,000,092 × 2^−20 becomes 26.75 in BF16, which is 214 × 2^−3, code 0x41D6. -/
theorem test_grind_bf16 : grind .bf16 .nearest (.fin false 28000092 1 (-20)) = (0x41D6, .plain) := by decide +kernel

/-- Chapter 3, worked example: the quotient 118.75 in INT8 with a draw above the share of the upper neighbour. -/
theorem test_grind_draw : grind .int8 (.draw 13000000) (.fin false 475 4 0) = (118, .plain) := by decide +kernel

/-- The same with a draw below it. -/
theorem test_grind_draw_up : grind .int8 (.draw 9000000) (.fin false 475 4 0) = (119, .plain) := by decide +kernel

/-- Chapter 3, worked example: 130 saturates at 127. -/
theorem test_grind_saturates : grind .int8 .nearest (.fin false 130 1 0) = (127, .saturated) := by decide +kernel

/-- Chapter 8, worked example: an imap entry at base 65,536 of 32,768 pages, ALL64, die_mask 0x00F0. -/
def imapMem : Memory :=
  [(0x8C2, 1#8), (0x8C5, 0x80#8), (0x8CA, 0xF0#8)]

/-- R201, R202: page 66,536 lives on CD4, and its line 86 on channel 62. -/
theorem test_home_die : homeDieIn imapMem 66536 = 4 := by decide +kernel
theorem test_channel :
    channelOf { wS with cset := { wS.cset with active := imapMem } } 66536 86 = 62 := by decide +kernel

/-- Chapter 13, worked example: the generation word at pool byte 0x1_03E8_5640 through the aperture. -/
def genState : State :=
  { wS with
      pool := [(66536, {})], mem := [(0x103E85640, 0x52#8), (0x103E85641, 0x0A#8)]
      regs := { wS.regs with apertureLo := 1#7, apertureHi := 1#7 } }

/-- A 32-bit compare and swap from 0x0A52 to 0x0A53 takes the table, and returns 0x0A52. -/
theorem test_aperture_cas :
    (apertureAtomic 0x01E85640 4 .cas 0x0A53 0x0A52 genState).mem = [(0x103E85640, 0x53#8), (0x103E85641, 0x0A#8)] := by decide +kernel
theorem test_aperture_cas_reply :
    (apertureAtomic 0x01E85640 4 .cas 0x0A53 0x0A52 genState).out.host = [.data 0x01E85640 [0x52#8, 0x0A#8, 0#8, 0#8] false] := by decide +kernel

/-- Chapter 9, worked example: a poll that finds sq_tail 100 halves I from 16 µs to 8 µs. -/
theorem test_poll_halves :
    (ctxOf (pollResult 3 100 0 { wS with ctxs := [(3, { wCtx with pollI := 16, polling := true, sqLog2 := 8 })] }) 3).pollI = 8 := by decide +kernel

/-- Chapter 15, worked example: a step at 100.25 °C lowers a region from 1,450 MHz to 1,425 MHz. -/
theorem test_throttle_step :
    ((dieThrottleStep 9 0x0644 { wS with
        localTime := 10000#64, dies := [(9, { throttled := true, throttleAt := 0#64 })]
        regions := [(36, { boost := 1450, setMhz := 1450 })] }).regions.map (fun r => (r.1, r.2.throttle))).lookup 36 = some 1425 := by decide +kernel


end Sys2Proof.Tests
end

section
/-! PROOFS. What a write of a register does (O46): the path of a word, of a double word and of an unaligned access from REGISTER_WRITE to the
register block that takes it, for the owning and for the reduced function; then each clause of the obligation from what the block does. -/

namespace Sys2Proof.Machine

/-! ### From REGISTER_WRITE to the word that a block takes -/

/-- R343: an access within BAR0 meets no fault. -/
theorem exec_registerWrite {o n : Nat} (p v : Nat) (s : State) (h : o + n ≤ 2 ^ 26) :
    exec (.registerWrite p o n v) s = .next (registerWrite p o n v s) :=
  if_neg (Nat.not_lt.mpr h)

theorem accessOk_iff (o n : Nat) : accessOk o n = true ↔ (n = 4 ∨ n = 8) ∧ o % n = 0 := by
  simp [accessOk]

/-- R408: a function whose registers are open is not the reduced one. -/
theorem isReduced_owner {s : State} (h : barOpen s = true) : isReduced s s.owner = false := by
  have hphase : s.phase ≠ .bootFailed := by rintro e; simp [barOpen, e] at h
  simp [isReduced, hphase]

theorem isReduced_other {s : State} {p : Nat} (h : p ≠ s.owner) : isReduced s p = true := by
  simp [isReduced, h]

/-- R416: with no standby, a write of the owning function takes effect at once. -/
theorem registerWrite_owner {s : State} (h : takesWrites s) (hp : s.owner < 2) (o n v : Nat) :
    registerWrite s.owner o n v s = ownWrite o n v s := by
  obtain ⟨hopen, hawake⟩ := h
  have hheld : barWrite s o n v (ownWrite o n v) = ownWrite o n v s := by simp [barWrite, hopen, hawake]
  simp [registerWrite, Nat.not_le.mpr hp, isReduced_owner hopen, hheld]

/-- R343: what is below the aperture and no burst is taken word by word where it is aligned, and is a bad access where it is not. -/
theorem ownWrite_register {o n : Nat} (v : Nat) (s : State) (hlow : o < 0x2000000) (hbench : o + n ≤ 0x20000 ∨ n ≤ 8) :
    ownWrite o n v s = if accessOk o n then asWords o n v (writeWord s.owner) s else badAccess s := by
  have hburst : ¬ (0x20000 ≤ o ∧ o + n ≤ 0x30000 ∧ 8 < n) := by omega
  simp only [ownWrite, if_neg (Nat.not_le.mpr hlow), if_neg hburst]

theorem exec_ownWord {s : State} (h : takesWrites s) (hp : s.owner < 2) {o : Nat} (v : Nat) (hlow : o < 0x2000000) (ho : o % 4 = 0) :
    exec (.registerWrite s.owner o 4 v) s = .next (writeWord s.owner o (v % 2 ^ 32) s) := by
  rw [exec_registerWrite _ _ _ (by omega), registerWrite_owner h hp, ownWrite_register v s hlow (.inr (by decide)),
    if_pos ((accessOk_iff o 4).mpr ⟨.inl rfl, ho⟩)]
  rfl

theorem exec_ownDouble {s : State} (h : takesWrites s) (hp : s.owner < 2) {o : Nat} (v : Nat) (hlow : o < 0x2000000) (ho : o % 8 = 0) :
    exec (.registerWrite s.owner o 8 v) s
      = .next (writeWord s.owner o (v % 2 ^ 32) (writeWord s.owner (o + 4) (v / 2 ^ 32 % 2 ^ 32) s)) := by
  rw [exec_registerWrite _ _ _ (by omega), registerWrite_owner h hp, ownWrite_register v s hlow (.inr (by decide)),
    if_pos ((accessOk_iff o 8).mpr ⟨.inr rfl, ho⟩)]
  rfl

theorem exec_ownUnaligned {s : State} (h : takesWrites s) (hp : s.owner < 2) {o n : Nat} (v : Nat) (hlow : o + n ≤ 0x20000)
    (ho : o % n ≠ 0) : exec (.registerWrite s.owner o n v) s = .next (badAccess s) := by
  have hbad : ¬ accessOk o n = true := fun hok => ho ((accessOk_iff o n).mp hok).2
  rw [exec_registerWrite _ _ _ (by omega), registerWrite_owner h hp, ownWrite_register v s (by omega) (.inl hlow), if_neg hbad]

/-- R344: the reduced function takes its words with no regard to the phase of the module. -/
theorem exec_reducedWord {s : State} {p o : Nat} (v : Nat) (hp : p < 2) (hother : p ≠ s.owner) (hready : (hostPortOf s p).ready = true)
    (hmem : (hostPortOf s p).memSpace = true) (hlow : o + 4 ≤ 2 ^ 26) (ho : o % 4 = 0) :
    exec (.registerWrite p o 4 v) s = .next (writeReduced p o (v % 2 ^ 32) s) := by
  have hok : accessOk o 4 = true := (accessOk_iff o 4).mpr ⟨.inl rfl, ho⟩
  rw [exec_registerWrite _ _ _ hlow]
  simp [registerWrite, Nat.not_le.mpr hp, isReduced_other hother, hready, hmem, hok, asWords]

theorem writeWord_hub {o : Nat} (p v : Nat) (s : State) (h : o < 0x10000) : writeWord p o v s = writeHub o v s := if_pos h

/-- R254: the 256 bytes of a context's registers. -/
theorem writeWord_ctx {n k : Nat} (p v : Nat) (s : State) (hn : n < 256) (hk : k < 0x100) :
    writeWord p (0x100000 + 0x100 * n + k) v s = writeCtx n k v s := by
  have hctx : (0x100000 + 0x100 * n + k - 0x100000) / 0x100 = n := by omega
  have hreg : (0x100000 + 0x100 * n + k) % 0x100 = k := by omega
  unfold writeWord
  rw [if_neg (by omega), if_neg (by omega), if_neg (by omega), if_neg (by omega), if_neg (by omega), if_pos (by omega), hctx, hreg]

theorem exec_ownCtxWord {s : State} (h : takesWrites s) (hp : s.owner < 2) {n k : Nat} (v : Nat) (hn : n < 256) (hk : k < 0x100)
    (ha : k % 4 = 0) :
    exec (.registerWrite s.owner (0x100000 + 0x100 * n + k) 4 v) s = .next (writeCtx n k (v % 2 ^ 32) s) := by
  rw [exec_ownWord h hp v (by omega) (by omega), writeWord_ctx _ _ _ hn hk]

theorem exec_ownCtxDouble {s : State} (h : takesWrites s) (hp : s.owner < 2) {n k : Nat} (v : Nat) (hn : n < 256) (hk : k + 4 < 0x100)
    (ha : k % 8 = 0) :
    exec (.registerWrite s.owner (0x100000 + 0x100 * n + k) 8 v) s
      = .next (writeCtx n k (v % 2 ^ 32) (writeCtx n (k + 4) (v / 2 ^ 32 % 2 ^ 32) s)) := by
  rw [exec_ownDouble h hp v (by omega) (by omega), Nat.add_assoc _ k 4, writeWord_ctx _ _ _ hn hk,
    writeWord_ctx _ _ _ hn (by omega)]

/-! ### Fields -/

theorem w32_mod (v : Nat) : w32 (v % 2 ^ 32) = w32 v := by
  simp [w32, ← BitVec.toNat_inj]

/-- R7: an access of 4 bytes clears by the low 32 bits of its value. -/
theorem w1c_mod (e : W32) (v : Nat) : w1c e (v % 2 ^ 32) = e &&& ~~~(w32 v) := by
  rw [w1c, w32_mod]

/-- R9: a quiescent field of a context that is not DISABLED keeps its value. -/
theorem whileDisabled_of_ne {s : State} {n : Nat} (f : Ctx → Ctx) (h : (ctxOf s n).state ≠ .disabled) : whileDisabled n f s = s :=
  if_neg h

/-- R9: a quiescent field of a DISABLED context is written, and no other context is. -/
theorem whileDisabled_leaves {s : State} {n : Nat} (f : Ctx → Ctx) (h : (ctxOf s n).state = .disabled) :
    ctxOf (whileDisabled n f s) n = f (ctxOf s n) ∧ otherCtxs s (whileDisabled n f s) n
      ∧ whileDisabled n f s = { s with ctxs := (whileDisabled n f s).ctxs } := by
  rw [whileDisabled, if_pos h]
  exact ⟨by rw [ctxOf_modCtx, if_pos rfl], fun m hm => by rw [ctxOf_modCtx, if_neg hm], rfl⟩

/-- The halves of a double word of a DISABLED context, where the first one leaves it DISABLED. -/
theorem whileDisabled_twice_leaves {s : State} {n : Nat} (f g : Ctx → Ctx) (h : (ctxOf s n).state = .disabled)
    (hf : (f (ctxOf s n)).state = .disabled) :
    ctxOf (whileDisabled n g (whileDisabled n f s)) n = g (f (ctxOf s n)) ∧ otherCtxs s (whileDisabled n g (whileDisabled n f s)) n
      ∧ whileDisabled n g (whileDisabled n f s) = { s with ctxs := (whileDisabled n g (whileDisabled n f s)).ctxs } := by
  obtain ⟨hctx, hothers, hframe⟩ := whileDisabled_leaves f h
  obtain ⟨hctx', hothers', hframe'⟩ := whileDisabled_leaves g (hctx ▸ hf : (ctxOf (whileDisabled n f s) n).state = .disabled)
  exact ⟨by rw [hctx', hctx], fun m hm => (hothers' m hm).trans (hothers m hm), by rw [hframe', hframe]⟩

theorem otherHostPorts_modHostPort (s : State) (p : Nat) (f : HostPort → HostPort) : otherHostPorts s (modHostPort s p f) p :=
  fun q hq => by rw [hostPortOf_modHostPort, if_neg hq]

/-- A double word written in its two halves, the high one first, with the low `k` bits reserved. -/
theorem putLo_putHi (a : W64) (v : Nat) {k : Nat} (hk : k ≤ 32) :
    putLo (putHi a (v / 2 ^ 32 % 2 ^ 32)) (v % 2 ^ 32) k = w64 (v % 2 ^ 64 / 2 ^ k * 2 ^ k) := by
  have hhi : hi32 (putHi a (v / 2 ^ 32 % 2 ^ 32)) = v / 2 ^ 32 % 2 ^ 32 := by
    simp only [hi32, lo32, putHi, w64, BitVec.toNat_ofNat]; omega
  have hpow : 2 ^ k * 2 ^ (32 - k) = 2 ^ 32 := by rw [← Nat.pow_add, Nat.add_sub_cancel' hk]
  have hsplit : v % 2 ^ 64 = v % 2 ^ 32 + 2 ^ k * (2 ^ (32 - k) * (v / 2 ^ 32 % 2 ^ 32)) := by
    rw [← Nat.mul_assoc, hpow]; omega
  rw [putLo, hhi, Nat.mod_mod, hsplit, Nat.add_mul_div_left _ _ (Nat.two_pow_pos k), Nat.add_mul,
    Nat.mul_comm (2 ^ (32 - k) * _), ← Nat.mul_assoc, hpow, Nat.add_comm, Nat.mul_comm (2 ^ 32)]

/-- R255, R10: RING_CFG with a length of the submission ring that is listed, and a length of the completion ring and a service class that
are not. -/
theorem writeRingCfg_sqOnly {v : Nat} (c : Ctx) (hlo : 6 ≤ bits v 4 0) (hhi : bits v 4 0 ≤ 16) (hcq : bits v 9 5 = 31)
    (hsvc : bits v 11 10 = 3) :
    writeRingCfg v c = { c with sqLog2 := bits v 4 0, msixVector := bits v 22 12, irqHoldoff := bits v 30 23 } := by
  simp [writeRingCfg, hlo, hhi, hcq, hsvc]

/-- R348: a vector of a port leaves the other ports as they are. -/
theorem sendVector_otherPorts (s : State) (p v : Nat) : otherHostPorts s (sendVector s p v) p := by
  intro q hq
  unfold sendVector
  split
  · rfl
  · rw [hostPortOf_modHostPort, if_neg hq]

/-- R361: an event source sends at the owning port alone. -/
theorem raiseSource_otherPorts (s : State) (n : Nat) : otherHostPorts s (raiseSource s n) s.owner := by
  unfold raiseSource
  dsimp only
  split
  · exact sendVector_otherPorts _ _ _
  · exact fun _ _ => rfl

/-- R359: the port of a bad access is the owning one. -/
theorem badAccess_otherPorts (s : State) : otherHostPorts s (badAccess s) s.owner := by
  intro q hq
  have hraise : badAccess s
      = raiseSource (modHostPort s s.owner (fun h => { h with evt := withFlag h.evt 4, evtCnt := h.evtCnt + 1 })) 4 := if_pos rfl
  rw [hraise]
  exact (raiseSource_otherPorts (modHostPort s s.owner _) 4 q hq).trans (otherHostPorts_modHostPort s s.owner _ q hq)

/-- R343, R359: a bad access sets its flag at the owning port and is counted there. -/
theorem badAccess_leaves (s : State) :
    (hostPortOf (badAccess s) s.owner).evt = withFlag (hostPortOf s s.owner).evt 4
      ∧ (hostPortOf (badAccess s) s.owner).evtCnt = (hostPortOf s s.owner).evtCnt + 1 ∧ otherHostPorts s (badAccess s) s.owner
      ∧ badAccess s = { s with hostPorts := (badAccess s).hostPorts, out := (badAccess s).out } := by
  obtain ⟨⟨o, h, hframe⟩, -, -, hport⟩ := pciEvent_raised s s.owner 4
  obtain ⟨b, hb⟩ := hport s.owner
  rw [hostPortOf_modHostPort, if_pos rfl] at hb
  refine ⟨congrArg HostPort.evt hb, congrArg HostPort.evtCnt hb, badAccess_otherPorts s, ?_⟩
  rw [badAccess, hframe]
  rfl

/-! ### What each register does -/

theorem registerWrite_svcMode (s : State) (v : Nat) (h : takesWrites s) (hp : s.owner < 2) :
    exec (.registerWrite s.owner 0x14 4 v) s = .next { s with regs := { s.regs with svcMode := BitVec.ofNat 2 (v % 2 ^ 32) } } := by
  rw [exec_ownWord h hp v (by decide) (by decide), writeWord_hub _ _ _ (by decide)]
  rfl

theorem registerWrite_recovEvents (s : State) (v : Nat) (h : takesWrites s) (hp : s.owner < 2) :
    exec (.registerWrite s.owner 0x24 4 v) s = .next { s with recov := { s.recov with evt := s.recov.evt &&& ~~~(w32 v) } } := by
  rw [exec_ownWord h hp v (by decide) (by decide), writeWord_hub _ _ _ (by decide), ← w1c_mod]
  rfl

theorem registerWrite_reservedHub (s : State) (v : Nat) (h : takesWrites s) (hp : s.owner < 2) :
    exec (.registerWrite s.owner 0x40 4 v) s = .next s := by
  rw [exec_ownWord h hp v (by decide) (by decide), writeWord_hub _ _ _ (by decide)]
  rfl

theorem registerWrite_quiescent (s : State) (n v : Nat) (h : takesWrites s) (hp : s.owner < 2) (hn : n < 256)
    (hc : (ctxOf s n).state ≠ .disabled) :
    exec (.registerWrite s.owner (0x100000 + 0x100 * n) 4 v) s = .next s
    ∧ exec (.registerWrite s.owner (0x100018 + 0x100 * n) 4 v) s = .next s := by
  constructor
  · rw [← Nat.add_zero (0x100000 + 0x100 * n), exec_ownCtxWord h hp v hn (by decide) (by decide)]
    exact congrArg _ (whileDisabled_of_ne _ hc)
  · rw [show 0x100018 + 0x100 * n = 0x100000 + 0x100 * n + 0x18 by omega, exec_ownCtxWord h hp v hn (by decide) (by decide)]
    exact congrArg _ (whileDisabled_of_ne _ hc)

theorem registerWrite_sqAddr (s : State) (n v : Nat) (h : takesWrites s) (hp : s.owner < 2) (hn : n < 256)
    (hc : (ctxOf s n).state = .disabled) :
    ∃ t, exec (.registerWrite s.owner (0x100000 + 0x100 * n) 8 v) s = .next t
      ∧ ctxOf t n = { ctxOf s n with sqAddr := w64 (v % 2 ^ 64 / 4096 * 4096) } ∧ otherCtxs s t n ∧ t = { s with ctxs := t.ctxs } := by
  rw [← Nat.add_zero (0x100000 + 0x100 * n), exec_ownCtxDouble h hp v hn (by decide) (by decide)]
  obtain ⟨hctx, hothers, hframe⟩ := whileDisabled_twice_leaves
    (fun k => { k with sqAddr := putHi k.sqAddr (v / 2 ^ 32 % 2 ^ 32) }) (fun k => { k with sqAddr := putLo k.sqAddr (v % 2 ^ 32) 12 }) hc hc
  refine ⟨_, rfl, hctx.trans ?_, hothers, hframe⟩
  exact congrArg (fun a => { ctxOf s n with sqAddr := a }) (putLo_putHi (ctxOf s n).sqAddr v (k := 12) (by decide))

theorem registerWrite_ringCfg (s : State) (n v : Nat) (h : takesWrites s) (hp : s.owner < 2) (hn : n < 256)
    (hc : (ctxOf s n).state = .disabled) (hlo : 6 ≤ bits v 4 0) (hhi : bits v 4 0 ≤ 16) (hcq : bits v 9 5 = 31)
    (hsvc : bits v 11 10 = 3) (hv : v < 2 ^ 32) :
    ∃ t, exec (.registerWrite s.owner (0x100018 + 0x100 * n) 4 v) s = .next t
      ∧ ctxOf t n = { ctxOf s n with sqLog2 := bits v 4 0, msixVector := bits v 22 12, irqHoldoff := bits v 30 23 }
      ∧ otherCtxs s t n ∧ t = { s with ctxs := t.ctxs } := by
  rw [show 0x100018 + 0x100 * n = 0x100000 + 0x100 * n + 0x18 by omega, exec_ownCtxWord h hp v hn (by decide) (by decide),
    Nat.mod_eq_of_lt hv]
  obtain ⟨hctx, hothers, hframe⟩ := whileDisabled_leaves (writeRingCfg v) hc
  exact ⟨_, rfl, hctx.trans (writeRingCfg_sqOnly _ hlo hhi hcq hsvc), hothers, hframe⟩

theorem registerWrite_unaligned (s : State) (o n v : Nat) (h : takesWrites s) (hp : s.owner < 2) (hlow : o + n ≤ 0x20000)
    (ho : o % n ≠ 0) :
    ∃ t, exec (.registerWrite s.owner o n v) s = .next t ∧ (hostPortOf t s.owner).evt = withFlag (hostPortOf s s.owner).evt 4
      ∧ (hostPortOf t s.owner).evtCnt = (hostPortOf s s.owner).evtCnt + 1 ∧ otherHostPorts s t s.owner
      ∧ t = { s with hostPorts := t.hostPorts, out := t.out } :=
  ⟨_, exec_ownUnaligned h hp v hlow ho, badAccess_leaves s⟩

theorem registerWrite_reducedReserved (s : State) (p v : Nat) (hp : p < 2) (hother : p ≠ s.owner)
    (hready : (hostPortOf s p).ready = true) (hmem : (hostPortOf s p).memSpace = true) :
    exec (.registerWrite p 0x14 4 v) s = .next s := by
  rw [exec_reducedWord v hp hother hready hmem (by decide) (by decide), writeReduced, if_neg (by omega), if_neg (by decide),
    if_neg (by decide)]

theorem registerWrite_reducedEvents (s : State) (p v : Nat) (hp : p < 2) (hother : p ≠ s.owner)
    (hready : (hostPortOf s p).ready = true) (hmem : (hostPortOf s p).memSpace = true) :
    ∃ t, exec (.registerWrite p (0x40008 + 4 * p) 4 v) s = .next t
      ∧ hostPortOf t p = { hostPortOf s p with evt := (hostPortOf s p).evt &&& ~~~(w32 v) } ∧ otherHostPorts s t p
      ∧ t = { s with hostPorts := t.hostPorts } := by
  rw [exec_reducedWord v hp hother hready hmem (by omega) (by omega), writeReduced, if_pos rfl]
  refine ⟨_, rfl, ?_, otherHostPorts_modHostPort _ _ _, rfl⟩
  rw [clearPci, hostPortOf_modHostPort, if_pos rfl, w1c_mod]

/-- Settles O46: each clause is what the block that takes the word does with it. -/
theorem registerWrites : Obligations.RegisterWrites :=
  ⟨registerWrite_svcMode, registerWrite_recovEvents, registerWrite_reservedHub, registerWrite_quiescent, registerWrite_sqAddr,
    registerWrite_ringCfg, fun s o n v h hp hlow _ ho => registerWrite_unaligned s o n v h hp hlow ho,
    fun s p v hp hother hready hmem => ⟨registerWrite_reducedReserved s p v hp hother hready hmem,
      registerWrite_reducedEvents s p v hp hother hready hmem⟩⟩

end Sys2Proof.Machine
end

section
/-! PROOFS. Lines that cannot be corrected (O43): what the listing of a page leaves of the retirement queue, and what one more error of a
granule leaves of its cluster; then each clause of the obligation from these. -/

namespace Sys2Proof.Machine

/-! ### The retirement queue (R212, R224) -/

/-- R212: a page is listed once. -/
theorem listPage_listed {s : State} {p : Nat} (k : Nat) (h : ∃ e ∈ s.retireQ, e.1 = p) : listPage k s p = s :=
  if_pos (by simpa using h)

theorem listPage_unlisted {s : State} {p : Nat} (k : Nat) (h : ∀ e ∈ s.retireQ, e.1 ≠ p) :
    listPage k s p
      = if s.retireQ.length < 256 then raiseSource { s with retireQ := s.retireQ ++ [(p, homeDie s p, k % 4)] } 0
        else raiseSource { s with retireOvf := true, retireOvfCnt := s.retireOvfCnt + 1 } 0 :=
  if_neg (by rw [List.any_eq_true]; rintro ⟨e, he, hp⟩; exact h e he (beq_iff_eq.mp hp))

/-- R212: a page not yet listed joins the queue at its end, while the queue has room. -/
theorem listPage_room {s : State} {p : Nat} (k : Nat) (h : ∀ e ∈ s.retireQ, e.1 ≠ p) (hroom : s.retireQ.length < 256) :
    ∃ o ports, listPage k s p = { s with retireQ := s.retireQ ++ [(p, homeDie s p, k % 4)], out := o, hostPorts := ports } := by
  rw [listPage_unlisted k h, if_pos hroom]
  exact raiseSource_frame _ 0

/-- R224: a page not yet listed is counted where the queue is full. -/
theorem listPage_full {s : State} {p : Nat} (k : Nat) (h : ∀ e ∈ s.retireQ, e.1 ≠ p) (hfull : 256 ≤ s.retireQ.length) :
    ∃ o ports, listPage k s p = { s with retireOvf := true, retireOvfCnt := s.retireOvfCnt + 1, out := o, hostPorts := ports } := by
  rw [listPage_unlisted k h, if_neg (Nat.not_lt.mpr hfull)]
  exact raiseSource_frame _ 0

/-- R212: listing a page touches the queue, its overflow and the event source. -/
theorem listPage_frame (k : Nat) (s : State) (p : Nat) :
    ∃ q v n o ports, listPage k s p = { s with retireQ := q, retireOvf := v, retireOvfCnt := n, out := o, hostPorts := ports } := by
  by_cases hlisted : ∃ e ∈ s.retireQ, e.1 = p
  · exact ⟨_, _, _, _, _, listPage_listed k hlisted⟩
  · have hnew : ∀ e ∈ s.retireQ, e.1 ≠ p := fun e he hp => hlisted ⟨e, he, hp⟩
    by_cases hroom : s.retireQ.length < 256
    · obtain ⟨o, ports, e⟩ := listPage_room k hnew hroom
      exact ⟨_, _, _, o, ports, e⟩
    · obtain ⟨o, ports, e⟩ := listPage_full k hnew (Nat.le_of_not_lt hroom)
      exact ⟨_, _, _, o, ports, e⟩

theorem mem_poisonLines_one (s : State) (l x : Nat) : x ∈ (poisonLines s [l]).poison ↔ x = l ∨ x ∈ s.poison := by
  rw [mem_poisonLines, List.mem_singleton]

/-- R211, R212: a line of an own RESIDENT page is poisoned, and the page is listed. -/
theorem carafeUncorrectable_resident {s : State} {a : Nat} (k : Nat) (hown : ownCarafe s a = true)
    (hres : pageState s (pageOf a) = some .resident) :
    exec (.carafeUncorrectable a k) s = .next (listPage k (poisonLines s [a / 64]) (pageOf a)) :=
  congrArg Host.Outcome.next (if_pos (by simp [hown, hres]))

theorem carafeUncorrectable_leaves (s : State) (a k : Nat) (hown : ownCarafe s a = true)
    (hres : pageState s (pageOf a) = some .resident) :
    ∃ t, exec (.carafeUncorrectable a k) s = .next t ∧ (∀ l, l ∈ t.poison ↔ l = a / 64 ∨ l ∈ s.poison)
      ∧ ((∃ e ∈ s.retireQ, e.1 = pageOf a) → t = { s with poison := t.poison })
      ∧ ((∀ e ∈ s.retireQ, e.1 ≠ pageOf a) → s.retireQ.length < 256 →
          t.retireQ = s.retireQ ++ [(pageOf a, homeDie s (pageOf a), k % 4)] ∧ t.retireOvf = s.retireOvf)
      ∧ ((∀ e ∈ s.retireQ, e.1 ≠ pageOf a) → 256 ≤ s.retireQ.length →
          t.retireQ = s.retireQ ∧ t.retireOvf = true ∧ t.retireOvfCnt = s.retireOvfCnt + 1)
      ∧ t.mem = s.mem ∧ t.pool = s.pool ∧ t.cmds = s.cmds := by
  obtain ⟨q, v, n, o, ports, hframe⟩ := listPage_frame k (poisonLines s [a / 64]) (pageOf a)
  refine ⟨_, carafeUncorrectable_resident k hown hres, fun l => ?_, fun hlisted => ?_, fun hnew hroom => ?_, fun hnew hfull => ?_, ?_⟩
  · rw [hframe]
    exact mem_poisonLines_one s _ l
  · rw [listPage_listed k (s := poisonLines s [a / 64]) hlisted]
    rfl
  · obtain ⟨_, _, e⟩ := listPage_room k (s := poisonLines s [a / 64]) hnew hroom
    rw [e]
    exact ⟨rfl, rfl⟩
  · obtain ⟨_, _, e⟩ := listPage_full k (s := poisonLines s [a / 64]) hnew hfull
    rw [e]
    exact ⟨rfl, rfl, rfl⟩
  · rw [hframe]
    exact ⟨rfl, rfl, rfl⟩

/-- R416: a write of the owning function that is not held takes effect at once. -/
theorem barWrite_takesWrites {s : State} (h : takesWrites s) (o n v : Nat) (f : State → State) : barWrite s o n v f = f s := by
  obtain ⟨hopen, hawake⟩ := h
  simp [barWrite, hopen, hawake]

theorem retireQueuePop_leaves (s : State) (h : takesWrites s) :
    exec .retireQueuePop s = .next { s with retireQ := s.retireQ.drop 1 } :=
  congrArg Host.Outcome.next (barWrite_takesWrites h _ _ _ _)

/-! ### Granules (R18) -/

/-- R18: an error of a granule is counted. -/
theorem granuleError_errors (k : Cluster) (g : Nat) : aget (granuleError k g).errors g 0 = aget k.errors g 0 + 1 :=
  (aget_aput _ _ _ _ _).trans (if_pos rfl)

/-- R18: a granule's second error retires it. -/
theorem granuleError_second {k : Cluster} {g : Nat} (h : 1 ≤ aget k.errors g 0) : g ∈ (granuleError k g).retired := by
  have hsecond : (granuleError k g).retired = sins k.retired g := if_pos (Nat.succ_le_succ h)
  rw [hsecond, mem_sins]
  exact Or.inl rfl

/-- R18: a granule's first error retires nothing. -/
theorem granuleError_first {k : Cluster} {g : Nat} (h : aget k.errors g 0 = 0) : (granuleError k g).retired = k.retired :=
  if_neg (by simp [h])

/-- R18: the cluster of a state whose granule has had one more error, and every other cluster. -/
theorem granuleError_leaves {s t : State} {q g : Nat} (h : t.clusters = aput s.clusters q (granuleError (clusterOf s q) g)) :
    clusterOf t q = granuleError (clusterOf s q) g ∧ ∀ o, o ≠ q → clusterOf t o = clusterOf s o := by
  have hread : ∀ o, clusterOf t o = if o = q then granuleError (clusterOf s q) g else clusterOf s o := fun o => by
    rw [clusterOf, h, aget_aput]
    rfl
  exact ⟨(hread q).trans (if_pos rfl), fun o ho => (hread o).trans (if_neg ho)⟩

/-- R18, R32: a line of a scratchpad. -/
theorem scratchpadUncorrectable_window {s : State} {q : Nat} (a : Nat) (hq : q < 512) :
    scratchpadUncorrectable q a false s
      = poisonLines (modCluster s q (fun k => granuleError k (512 + a % 2 ^ 23 / 4096)))
          [(2 ^ 50 * selfId s + 2 ^ 46 + 2 ^ 23 * q + a % 2 ^ 23) / 64] :=
  if_neg (Nat.not_le.mpr hq)

/-- R18, R32: a line of an accumulator memory: beside its granule, its holder alone can be touched. -/
theorem scratchpadUncorrectable_accumulator {s : State} {q : Nat} (a : Nat) (hq : q < 512) :
    ∃ cs b, scratchpadUncorrectable q a true s
      = { modCluster s q (fun k => granuleError k (a / 4096 % 512)) with cmds := cs, brPoison := b } := by
  rw [scratchpadUncorrectable, if_neg (Nat.not_le.mpr hq), if_pos rfl]
  dsimp only
  split
  case h_1 n i _ =>
    split
    · exact ⟨_, _, rfl⟩
    · exact ⟨_, _, rfl⟩
  case h_2 b _ => exact ⟨_, _, rfl⟩
  case h_3 => exact ⟨_, _, rfl⟩

theorem scratchpadUncorrectable_window_leaves (s : State) (q a g : Nat) (hq : q < 512) (hg : g = 512 + a % 2 ^ 23 / 4096) :
    ∃ t, exec (.scratchpadUncorrectable q a false) s = .next t
      ∧ (∀ l, l ∈ t.poison ↔ l = (2 ^ 50 * selfId s + 2 ^ 46 + 2 ^ 23 * q + a % 2 ^ 23) / 64 ∨ l ∈ s.poison)
      ∧ aget (clusterOf t q).errors g 0 = aget (clusterOf s q).errors g 0 + 1
      ∧ (1 ≤ aget (clusterOf s q).errors g 0 → g ∈ (clusterOf t q).retired)
      ∧ (aget (clusterOf s q).errors g 0 = 0 → (clusterOf t q).retired = (clusterOf s q).retired)
      ∧ (∀ o, o ≠ q → clusterOf t o = clusterOf s o) ∧ t = { s with poison := t.poison, clusters := t.clusters } := by
  subst hg
  refine ⟨_, congrArg Host.Outcome.next (scratchpadUncorrectable_window a hq), fun l => mem_poisonLines_one _ _ l, ?_⟩
  generalize ht : poisonLines (modCluster s q _) _ = t
  obtain ⟨hself, hothers⟩ := granuleError_leaves (t := t) (by rw [← ht]; rfl)
  rw [hself]
  exact ⟨granuleError_errors _ _, granuleError_second, granuleError_first, hothers, by rw [← ht]; rfl⟩

theorem scratchpadUncorrectable_accumulator_leaves (s : State) (q a g : Nat) (hq : q < 512) (hg : g = a / 4096 % 512) :
    ∃ t, exec (.scratchpadUncorrectable q a true) s = .next t
      ∧ aget (clusterOf t q).errors g 0 = aget (clusterOf s q).errors g 0 + 1
      ∧ (1 ≤ aget (clusterOf s q).errors g 0 → g ∈ (clusterOf t q).retired)
      ∧ (∀ o, o ≠ q → clusterOf t o = clusterOf s o)
      ∧ t = { s with clusters := t.clusters, cmds := t.cmds, brPoison := t.brPoison } := by
  subst hg
  obtain ⟨cs, b, ht⟩ := scratchpadUncorrectable_accumulator (s := s) a hq
  obtain ⟨hself, hothers⟩ := granuleError_leaves (s := s) (congrArg State.clusters ht)
  refine ⟨_, rfl, ?_, fun h => ?_, hothers, ?_⟩
  · rw [hself]
    exact granuleError_errors _ _
  · rw [hself]
    exact granuleError_second h
  · rw [ht]
    rfl

/-- Settles O43: what the listing of a page, a pop of the queue and an error of a granule leave. -/
theorem lineErrors : Obligations.LineErrors :=
  ⟨carafeUncorrectable_leaves, retireQueuePop_leaves, scratchpadUncorrectable_window_leaves, scratchpadUncorrectable_accumulator_leaves⟩

end Sys2Proof.Machine
end

section
/-! PROOFS. Link die resets (O42): the clause about the commands that run again fails in a hub that lists one descriptor twice. -/

namespace Sys2Proof.Machine

/-- R297: an issued command that holds a write to module 5 in the commit buffer of port 28, on link die 7. -/
def bufferedCmd : Cmd :=
  { ctx := 3, idx := 7, desc := 0, stage := .issued, holdsSent := true, work := { writes := [(5 * 2 ^ 50, 1#8)] } }

/-- A running module whose hub lists that command twice. The keys of `hubKeys` are still those of one descriptor: it asks that descriptors
of one context and ring index are equal, and not that each is listed once. -/
def twiceListed : State :=
  { phase := .running
    links := { ports := [(28, { state := .up })], routes := [(5, { mask := 0x10000000#32 })] }
    cmds := [bufferedCmd, bufferedCmd] }

theorem twiceListed_hubKeys : hubKeys twiceListed := by
  have hmem : ∀ c ∈ twiceListed.cmds, c = bufferedCmd := by simp [twiceListed]
  exact fun c hc d hd _ _ => (hmem d hd).trans (hmem c hc).symm

theorem twiceListed_buffersOn : buffersOn twiceListed 7 bufferedCmd = true := by decide +kernel

/-- R21: the reset takes each of the two entries in turn, and each kill sets both: the epoch tag rises twice. -/
theorem twiceListed_epoch : (findCmd (linkDieReset 7 twiceListed) 3 7).map Cmd.epoch = some (bufferedCmd.epoch + 2) := by
  decide +kernel

/-- Refutes O42: in a hub that lists one descriptor twice, which `hubKeys` allows, a link die's reset kills the command twice, so it runs
again under the second epoch tag after its own and not under the next. -/
theorem not_dieResets : ¬ Obligations.DieResets := by
  rintro ⟨-, -, -, hlinkDie, -⟩
  obtain ⟨t, ht, -, -, -, hrerun, -⟩ := hlinkDie twiceListed 7 twiceListed_hubKeys rfl (by decide) rfl rfl
  obtain rfl : linkDieReset 7 twiceListed = t := Host.Outcome.next.inj ht
  obtain ⟨k, hk, -, -, hnext, -⟩ := hrerun bufferedCmd (by simp [twiceListed]) twiceListed_buffersOn
  have htwice : some k.epoch = some (bufferedCmd.epoch + 2) := by
    rw [← twiceListed_epoch]
    exact congrArg (Option.map Cmd.epoch) hk.symm
  rw [hnext] at htwice
  exact absurd htwice (by decide)

end Sys2Proof.Machine
end

section
/-! PROOFS. The issue of the Compute commands (O31): what the driver of the descriptor rows leaves once the run of a command has come to its
work, and what each chapter's run comes to where its operands and its destination are in place. -/

namespace Sys2Proof.Machine

/-! ### What the end of issue leaves (R237, R238) -/

/-- R38, R40: the issue of a Compute command moves its work, its open accumulators and its counts of row instructions and drains, and
nothing else of it. -/
def issueMoves (c d : Cmd) : Prop :=
  d = { c with work := d.work, accs := d.accs, rowsIssued := d.rowsIssued, drained := d.drained }

theorem issueMoves_work (c : Cmd) (w : Work) : issueMoves c { c with work := w } := rfl

theorem issueMoves.trans {c d e : Cmd} (hcd : issueMoves c d) (hde : issueMoves d e) : issueMoves c e := by
  unfold issueMoves at *
  rw [hde, hcd]

theorem issueMoves.keeps {c d : Cmd} (h : issueMoves c d) :
    d.ctx = c.ctx ∧ d.idx = c.idx ∧ d.pos = c.pos ∧ d.status = c.status ∧ d.desc = c.desc ∧ d.epoch = c.epoch := by
  rw [h]
  exact ⟨rfl, rfl, rfl, rfl, rfl, rfl⟩

/-- R31, R49: a released command owns no rows. -/
theorem freeCluster_rowOwner_ne (k : Cluster) (c : Cmd) : (freeCluster k c).rowOwner ≠ some (c.ctx, c.idx) := by
  unfold freeCluster
  dsimp only
  split
  · nofun
  · assumption

theorem clusterOf_modRegion (s : State) (r : Nat) (f : Region → Region) (q : Nat) : clusterOf (modRegion s r f) q = clusterOf s q := rfl

theorem clusterOf_setCmd (s : State) (c : Cmd) (q : Nat) : clusterOf (setCmd s c) q = clusterOf s q := rfl

/-- R31, R49: a release frees the cluster that the command stands on, and no other. -/
theorem clusterOf_release (s : State) (c : Cmd) (q : Nat) :
    clusterOf (release s c) q = if c.pos = some q then freeCluster (clusterOf s q) c else clusterOf s q := by
  unfold release
  cases hpos : c.pos with
  | none => rfl
  | some p =>
    by_cases hq : q = p
    · simp [hq, clusterOf_modRegion, clusterOf_modCluster]
    · simp [hq, Ne.symm hq, clusterOf_modRegion, clusterOf_modCluster]

/-- R52: the rows of a command are counted on the cluster that it stands on, and on no other. -/
theorem clusterOf_countRows_ne {c : Cmd} {q : Nat} (s : State) (h : c.pos ≠ some q) : clusterOf (countRows s c) q = clusterOf s q := by
  unfold countRows
  cases hpos : c.pos with
  | none => rfl
  | some p =>
    have hq : q ≠ p := by rintro rfl; exact h hpos
    rw [clusterOf_modRegion, clusterOf_modCluster, if_neg hq]

/-- R237, R238: a row whose run has come to work ends the issue of its command. -/
theorem descStep_issued {owns : Desc → Bool} {sp : CmdSpec} {s : State} {c d : Cmd} (hfind : findCmd s c.ctx c.idx = some c)
    (howns : owns c.desc = true) (hfrom : c.stage = sp.from_) (hplaced : c.stage = .placed) (hpeer : c.peerError = none)
    (hawaits : awaits s c = false) (hrows : rowsFree s c = true) (hrun : sp.run s c = .done d) (hmoves : issueMoves c d) :
    issued s (descStep owns sp c.ctx c.idx s) c d := by
  have hnew : c.stage ≠ .fetched := by rw [hplaced]; decide
  obtain ⟨hctx, hidx, hpos, hstatus, hdesc, hepoch⟩ := hmoves.keeps
  rw [descStep_issue owns sp s _ _ c hfind howns hfrom hnew, issueCmd_done sp s c d hpeer hawaits hrows hrun]
  refine ⟨⟨_, findCmd_setCmd_self (d := c) _ (by simpa using hfind) hctx hidx, rfl, hstatus, hdesc, rfl, rfl, rfl, rfl, hepoch⟩,
    fun n i hother => ?_, fun q hq => ?_, fun q hq => ?_, ?_⟩
  · have hkey : ¬ (d.ctx = n ∧ d.idx = i) := by rwa [hctx, hidx]
    rw [findCmd_setCmd_ne, findCmd_release, findCmd_countRows]
    exact hkey
  · rw [clusterOf_setCmd, clusterOf_release, if_pos hq]
    exact freeCluster_rowOwner_ne _ c
  · rw [clusterOf_setCmd, clusterOf_release, if_neg hq, clusterOf_countRows_ne s (by rwa [hpos])]
  · obtain ⟨ks, rs, hcount⟩ := countRows_frame s d
    obtain ⟨ks', rs', hrelease⟩ := release_frame (countRows s d) c
    rw [hrelease, hcount]
    rfl

theorem isOp_listed {d : Desc} {cls op : Nat} (hcls : hClass d = cls) (hop : hOp d = op) : isOp cls op d = true := by
  simp [isOp, hcls, hop]

/-- A Compute row whose issue is due ends it with what its run has come to. -/
theorem computeRow_issued {sp : CmdSpec} {s : State} {n i op : Nat} {c d : Cmd} (h : issueDue s n i 1 op c) (hfrom : sp.from_ = .placed)
    (hrun : sp.run s c = .done d) (hmoves : issueMoves c d) : issued s (descStep (isOp 1 op) sp n i s) c d := by
  obtain ⟨hfind, hcls, hop, hplaced, hpeer, hawaits, hrows⟩ := h
  obtain ⟨rfl, rfl⟩ := findCmd_key hfind
  exact descStep_issued hfind (isOp_listed hcls hop) (hplaced.trans hfrom.symm) hplaced hpeer hawaits hrows hrun hmoves

/-! ### What each run comes to (R38, R72, R140, R149, R164, R167, R181) -/

theorem mmIssueNext_moves (m : Memory) (x : Mm) (c : Cmd) : issueMoves c (mmIssueNext m x c) := by
  unfold mmIssueNext
  split
  · rfl
  · rfl

theorem mmDrainNext_moves (m : Memory) (x : Mm) (c : Cmd) : issueMoves c (mmDrainNext m x c) := by
  unfold mmDrainNext
  split
  · rfl
  · rfl

theorem iter_moves {f : Cmd → Cmd} (hf : ∀ c, issueMoves c (f c)) (n : Nat) (c : Cmd) : issueMoves c (iter f n c) := by
  induction n generalizing c with
  | zero => rfl
  | succ n ih => exact (hf c).trans (ih (f c))

/-- R38, R40: what is left of a MATMUL's row instructions and drains moves the command alone as its issue does. -/
theorem mmFinish_moves (m : Memory) (x : Mm) (c : Cmd) : issueMoves c (mmFinish m x c) :=
  (iter_moves (mmIssueNext_moves m x) _ c).trans (iter_moves (mmDrainNext_moves m x) _ _)

/-- R38, R52: the command with its MATMUL finished, its resequencing noted and its rows counted. -/
def mmIssued (s : State) (c : Cmd) : Cmd :=
  let e := mmFinish (operandMem s (mmUsed (mmOf c.desc))) (mmOf c.desc) c
  { e with work := { e.work with reseq := decide (1 < (mmGroups (mmOf c.desc) c.qFree).length), rows := e.rowsIssued - c.rowsIssued } }

theorem mmIssued_moves (s : State) (c : Cmd) : issueMoves c (mmIssued s c) :=
  (mmFinish_moves _ _ c).trans (issueMoves_work _ _)

theorem mmRun_fine {s : State} {c : Cmd} (h : meet s (mmUsed (mmOf c.desc)) (mmWrites (mmOf c.desc)) = .fine) :
    mmRun s c = .done (mmIssued s c) := by
  simp only [mmRun, h]
  rfl

theorem cvRun_fine {s : State} {c : Cmd} (h : meet s (cvUsed (cvOf c.desc)) (cvWrites (cvOf c.desc)) = .fine) :
    cvRun s c = .done { c with work := cvWork (operandMem s (cvUsed (cvOf c.desc))) c (cvOf c.desc) } := by
  simp only [cvRun, h]

theorem foRun_fine {s : State} {c : Cmd} (hgroup : meet s (foGroupRange (foOf c.desc)) (foWrites (foOf c.desc)) = .fine)
    (h : meet s (foUsed (operandMem s (foGroupRange (foOf c.desc))) (foOf c.desc)) (foWrites (foOf c.desc)) = .fine) :
    foRun s c = .done { c with work := foWork (operandMem s (foUsed (operandMem s (foGroupRange (foOf c.desc))) (foOf c.desc))) (foOf c.desc) } := by
  simp only [foRun, hgroup, h]

theorem scRun_fine {s : State} {c : Cmd} (h : meet s (scUsed (scOf c.desc)) (scWrites (scOf c.desc)) = .fine)
    (hsound : (scOf c.desc).src = 0 → ∀ b ∈ headerBranches c.desc, b ∉ s.brPoison) :
    scRun s c = .done { c with work := scWork (operandMem s (scUsed (scOf c.desc))) s.brMem c (scOf c.desc) } := by
  have hclean : ¬ ((scOf c.desc).src = 0 && (headerBranches c.desc).any s.brPoison.contains) = true := by simpa using hsound
  simp only [scRun, h, if_neg hclean]

theorem elRun_fine {s : State} {c : Cmd} (h : meet s (elUsed (elOf c.desc)) (elWrites (elOf c.desc)) = .fine) :
    elRun s c = .done { c with work := elWork (operandMem s (elUsed (elOf c.desc))) c (elOf c.desc) } := by
  simp only [elRun, h]

/-- R41, R174, R52: a WINDOW's work with its resequencing noted and its rows counted. -/
def wnIssuedWork (s : State) (c : Cmd) : Work :=
  { wnWork (operandMem s (wnUsed (wnOf c.desc))) c (wnOf c.desc) with
    reseq := wnReseq (wnOf c.desc) c.qFree, rows := Config.amount 1 [c.desc.toNat] }

theorem wnRun_fine {s : State} {c : Cmd} (hhalo : wnHaloWait c (wnOf c.desc) = false)
    (h : meet s (wnUsed (wnOf c.desc)) (wnWrites (wnOf c.desc)) = .fine) :
    wnRun s c = .done { c with work := wnIssuedWork s c } := by
  simp only [wnRun, hhalo, h]
  rfl

theorem dtRun_fine {s : State} {c : Cmd} (h : meet s (dtUsed (dtOf c.desc)) (dtWrites (dtOf c.desc)) = .fine) :
    dtRun s c = .done { c with work := dtWork (operandMem s (dtUsed (dtOf c.desc))) (dtOf c.desc) } := by
  simp only [dtRun, h]

/-! ### The rows -/

theorem matmul_issues {s : State} {n i : Nat} {c : Cmd} (hdue : issueDue s n i 1 1 c)
    (h : meet s (mmUsed (mmOf c.desc)) (mmWrites (mmOf c.desc)) = .fine) :
    ∃ t, exec (.matmul n i) s = .next t ∧ issued s t c (mmIssued s c) :=
  ⟨_, rfl, computeRow_issued (sp := mmSpec) hdue rfl (mmRun_fine h) (mmIssued_moves s c)⟩

theorem window_issues {s : State} {n i : Nat} {c : Cmd} (hdue : issueDue s n i 1 8 c) (hhalo : wnHaloWait c (wnOf c.desc) = false)
    (h : meet s (wnUsed (wnOf c.desc)) (wnWrites (wnOf c.desc)) = .fine) :
    ∃ t, exec (.window n i) s = .next t ∧ issued s t c { c with work := wnIssuedWork s c } :=
  ⟨_, rfl, computeRow_issued (sp := wnSpec) hdue rfl (wnRun_fine hhalo h) (issueMoves_work c _)⟩

/-- Settles O31: each row is the driver's end of issue with the work that its own run comes to. -/
theorem computeRowsIssue : Obligations.ComputeRowsIssue := by
  refine ⟨fun s n i c hdue h => ?_, fun s n i c hdue h => ?_, fun s n i c hdue hgroup h => ?_, fun s n i c hdue h hsound => ?_,
    fun s n i c hdue h => ?_, fun s n i c hdue hhalo h => ?_, fun s n i c hdue h => ?_⟩
  case refine_1 =>
    obtain ⟨t, hnext, hissued⟩ := matmul_issues hdue h
    exact ⟨t, _, hnext, hissued, rfl, rfl, decide_eq_true_iff⟩
  case refine_2 => exact ⟨_, rfl, computeRow_issued (sp := cvSpec) hdue rfl (cvRun_fine h) (issueMoves_work c _)⟩
  case refine_3 => exact ⟨_, rfl, computeRow_issued (sp := foSpec) hdue rfl (foRun_fine hgroup h) (issueMoves_work c _)⟩
  case refine_4 => exact ⟨_, rfl, computeRow_issued (sp := scSpec) hdue rfl (scRun_fine h hsound) (issueMoves_work c _)⟩
  case refine_5 => exact ⟨_, rfl, computeRow_issued (sp := elSpec) hdue rfl (elRun_fine h) (issueMoves_work c _)⟩
  case refine_6 =>
    obtain ⟨t, hnext, hissued⟩ := window_issues hdue hhalo h
    exact ⟨t, _, hnext, hissued, rfl, rfl, rfl⟩
  case refine_7 => exact ⟨_, rfl, computeRow_issued (sp := dtSpec) hdue rfl (dtRun_fine h) (issueMoves_work c _)⟩

end Sys2Proof.Machine
end

section
/-! PROOFS. Operand lines, row instructions and drains (O39): what one landed line, one row instruction and one drained tile leave of the
command and of its cluster; then each clause of the obligation from these. -/

namespace Sys2Proof.Machine

/-! ### A cluster after a change of one -/

theorem clusterOf_modCluster_self (s : State) (q : Nat) (f : Cluster → Cluster) : clusterOf (modCluster s q f) q = f (clusterOf s q) := by
  rw [clusterOf_modCluster, if_pos rfl]

theorem clusterOf_modCluster_ne (s : State) {q o : Nat} (f : Cluster → Cluster) (h : o ≠ q) :
    clusterOf (modCluster s q f) o = clusterOf s o := by
  rw [clusterOf_modCluster, if_neg h]

theorem findCmd_modCluster (s : State) (q : Nat) (f : Cluster → Cluster) (n i : Nat) :
    findCmd (modCluster s q f) n i = findCmd s n i := rfl

/-! ### Lines that land (R31) -/

/-- Of lines awaited once each, one that lands is one arrival. -/
theorem length_filter_landed {ls : List Nat} {l : Nat} (hmem : l ∈ ls) (hnodup : ls.Nodup) : (ls.filter [l].contains).length = 1 := by
  have hone : ls.filter [l].contains = ls.filter (· == l) := List.filter_congr (fun x _ => by rw [Bool.eq_iff_iff]; simp)
  rw [hone, ← List.countP_eq_length_filter]
  exact List.count_eq_one_of_mem hnodup hmem

/-- R31: a counter that has counted one more line. -/
def oneArrived (k : Arrival) (poisoned : Bool) : Arrival := { k with count := k.count + 1, poisoned := k.poisoned || poisoned }

/-- R31: a line that a command awaits lands: the command awaits it no longer, and its counter counts it. -/
theorem landLines_one {s : State} {c : Cmd} {q j l : Nat} {k : Arrival} (p : Bool) (hpos : c.pos = some q) (hcounter : c.counter = some j)
    (hbound : aget? (clusterOf s q).arrivals j = some k) (hmem : l ∈ c.await) (hnodup : c.await.Nodup) :
    landLines s c [l] p
      = setCmd (modCluster s q (fun x => { x with arrivals := aput x.arrivals j (oneArrived k p) }))
          { c with await := c.await.filter (· != l) } := by
  have hleft : c.await.filter (fun x => !([l].contains x)) = c.await.filter (· != l) :=
    List.filter_congr (fun x _ => by rw [Bool.eq_iff_iff]; simp)
  simp only [landLines, length_filter_landed hmem hnodup, hleft, countArrivals, hpos, hcounter, modCluster, hbound]
  rfl

/-- R31: a line of an own RESIDENT page lands for the command whose counter it comes to. -/
theorem lineArrival_own {s : State} {q j a : Nat} (line : Line) (p : Bool) {k : Arrival} {c : Cmd}
    (hown : ownCarafe s (64 * (a / 64)) = true)
    (hres : pageState s (pageOf (64 * (a / 64))) = some .resident) (hbound : aget? (clusterOf s q).arrivals j = some k)
    (hfind : findCmd s k.ctx k.idx = some c) (hmem : a / 64 ∈ c.await) :
    lineArrival q j a line p s = landLines s c [a / 64] (s.poison.contains (a / 64)) := by
  simp [lineArrival, hown, hres, hbound, hfind, hmem]

theorem lineArrival_lands (s : State) (q j a : Nat) (l : Line) (p : Bool) (k : Arrival) (c : Cmd)
    (hown : ownCarafe s (64 * (a / 64)) = true) (hres : pageState s (pageOf (64 * (a / 64))) = some .resident)
    (hbound : aget? (clusterOf s q).arrivals j = some k) (hfind : findCmd s k.ctx k.idx = some c) (hpos : c.pos = some q)
    (hcounter : c.counter = some j) (hmem : a / 64 ∈ c.await) (hnodup : c.await.Nodup) :
    ∃ t d, exec (.lineArrival q j a l p) s = .next t ∧ findCmd t k.ctx k.idx = some d ∧ d.await = c.await.filter (· != a / 64)
      ∧ aget? (clusterOf t q).arrivals j = some { k with count := k.count + 1, poisoned := k.poisoned || s.poison.contains (a / 64) }
      ∧ (∀ o, o ≠ q → clusterOf t o = clusterOf s o) ∧ t = { s with cmds := t.cmds, clusters := t.clusters } := by
  obtain ⟨hctx, hidx⟩ := findCmd_key hfind
  refine ⟨_, { c with await := c.await.filter (· != a / 64) },
    congrArg Host.Outcome.next ((lineArrival_own l p hown hres hbound hfind hmem).trans
      (landLines_one _ hpos hcounter hbound hmem hnodup)), ?_, rfl, ?_, fun o ho => ?_, rfl⟩
  · exact findCmd_setCmd_self (d := c) _ hfind hctx hidx
  · rw [clusterOf_setCmd, clusterOf_modCluster_self, aget?_aput, if_pos rfl]
    rfl
  · rw [clusterOf_setCmd, clusterOf_modCluster_ne s _ ho]

/-! ### Row instructions (R30, R37, R52) -/

/-- R30, R52: a placed MATMUL whose operands have not all landed issues nothing, and its cluster counts the waiting. -/
theorem rowInstructionIssue_waits {s : State} {n i q : Nat} {c : Cmd} (hfind : findCmd s n i = some c) (hcls : hClass c.desc = 1)
    (hop : hOp c.desc = 1) (hplaced : c.stage = .placed) (hpeer : c.peerError = none) (hpos : c.pos = some q)
    (hawaits : awaits s c = true) :
    rowInstructionIssue n i s = modCluster s q (fun k => { k with cnt1 := k.cnt1 + 1 }) := by
  simp [rowInstructionIssue, hfind, hcls, hop, hplaced, hpeer, hpos, hawaits]

/-- R37: the next row instruction of a MATMUL issues, and the rows of its cluster are its own until its last one has. -/
theorem rowInstructionIssue_issues {s : State} {n i q : Nat} {c : Cmd} (hdue : issueDue s n i 1 1 c) (hpos : c.pos = some q)
    (hgroup : groupMayStart (mmOf c.desc) c = true) (hmeet : meet s (mmUsed (mmOf c.desc)) (mmWrites (mmOf c.desc)) = .fine)
    (hleft : c.rowsIssued < (mmRows (mmOf c.desc) c.qFree).length) :
    rowInstructionIssue n i s
      = setCmd (modCluster s q (fun k =>
            { k with cnt0 := k.cnt0 + 1
                     rowOwner := if (mmRows (mmOf c.desc) c.qFree).length = c.rowsIssued + 1 then none else some (n, i) }))
          (mmIssueNext (operandMem s (mmUsed (mmOf c.desc))) (mmOf c.desc) c) := by
  obtain ⟨hfind, hcls, hop, hplaced, hpeer, hawaits, hrows⟩ := hdue
  simp [rowInstructionIssue, hfind, hcls, hop, hplaced, hpeer, hpos, hawaits, hrows, hgroup, hmeet, hleft]

/-- R37, R40: while one is left, a row instruction issued accumulates its pass and is counted. -/
theorem mmIssueNext_of_get {x : Mm} {c : Cmd} {r : RowInstr} (m : Memory) (h : (mmRows x c.qFree)[c.rowsIssued]? = some r) :
    mmIssueNext m x c = { c with accs := issueRow m x c.accs r, rowsIssued := c.rowsIssued + 1 } := by
  rw [mmIssueNext, h]

theorem rowInstructionIssue_accumulates (s : State) (n i q : Nat) (c : Cmd) (x : Mm) (hdue : issueDue s n i 1 1 c) (hx : x = mmOf c.desc)
    (hpos : c.pos = some q) (hgroup : groupMayStart x c = true) (hmeet : meet s (mmUsed x) (mmWrites x) = .fine)
    (hleft : c.rowsIssued < (mmRows x c.qFree).length) :
    ∃ t k, exec (.rowInstructionIssue n i) s = .next t ∧ findCmd t n i = some k ∧ k.rowsIssued = c.rowsIssued + 1
      ∧ (∀ r, (mmRows x c.qFree)[c.rowsIssued]? = some r → k.accs = issueRow (operandMem s (mmUsed x)) x c.accs r)
      ∧ (clusterOf t q).cnt0 = (clusterOf s q).cnt0 + 1
      ∧ (c.rowsIssued + 1 < (mmRows x c.qFree).length → (clusterOf t q).rowOwner = some (n, i))
      ∧ t = { s with cmds := t.cmds, clusters := t.clusters } := by
  subst hx
  obtain ⟨hctx, hidx⟩ := findCmd_key hdue.1
  have hnext := List.getElem?_eq_getElem hleft
  have hstep := rowInstructionIssue_issues hdue hpos hgroup hmeet hleft
  rw [mmIssueNext_of_get _ hnext] at hstep
  refine ⟨_, _, congrArg Host.Outcome.next hstep, findCmd_setCmd_self (d := c) _ hdue.1 hctx hidx, rfl, fun r hr => ?_, ?_,
    fun hmore => ?_, rfl⟩
  · rw [Option.some.inj (hnext.symm.trans hr)]
  · rw [clusterOf_setCmd, clusterOf_modCluster_self]
  · rw [clusterOf_setCmd, clusterOf_modCluster_self]
    exact if_neg hmore.ne'

theorem rowInstructionIssue_counts_waiting (s : State) (n i q : Nat) (c : Cmd) (hfind : findCmd s n i = some c) (hcls : hClass c.desc = 1)
    (hop : hOp c.desc = 1) (hplaced : c.stage = .placed) (hpeer : c.peerError = none) (hpos : c.pos = some q)
    (hawaits : awaits s c = true) :
    ∃ t, exec (.rowInstructionIssue n i) s = .next t ∧ (clusterOf t q).cnt1 = (clusterOf s q).cnt1 + 1
      ∧ t = { s with clusters := t.clusters } := by
  refine ⟨_, congrArg Host.Outcome.next (rowInstructionIssue_waits hfind hcls hop hplaced hpeer hpos hawaits), ?_, rfl⟩
  rw [clusterOf_modCluster_self]

/-! ### Drains (R40) -/

/-- R40: a tile whose last pass is written drains into the work of its command. -/
theorem tileDrain_ready {s : State} {n i : Nat} {c : Cmd} (hfind : findCmd s n i = some c) (hcls : hClass c.desc = 1)
    (hop : hOp c.desc = 1) (hplaced : c.stage = .placed) (hready : mmDrainReady (mmOf c.desc) c = true)
    (hmeet : meet s (mmUsed (mmOf c.desc)) (mmWrites (mmOf c.desc)) = .fine) :
    tileDrain n i s = setCmd s (mmDrainNext (operandMem s (mmUsed (mmOf c.desc))) (mmOf c.desc) c) := by
  simp [tileDrain, hfind, hcls, hop, hplaced, hready, hmeet]

/-- R40: a tile is ready to drain only where one is left. -/
theorem exists_tile_of_mmDrainReady {x : Mm} {c : Cmd} (h : mmDrainReady x c = true) : ∃ r, (mmTiles x c.qFree)[c.drained]? = some r := by
  unfold mmDrainReady at h
  split at h
  next r hr => exact ⟨r, hr⟩
  next => exact absurd h Bool.false_ne_true

theorem mmDrainNext_of_get {x : Mm} {c : Cmd} {r : RowInstr} (m : Memory) (h : (mmTiles x c.qFree)[c.drained]? = some r) :
    mmDrainNext m x c = { c with work := drainTile m x c c.work r, drained := c.drained + 1 } := by
  rw [mmDrainNext, h]

theorem tileDrain_drains (s : State) (n i : Nat) (c : Cmd) (x : Mm) (hfind : findCmd s n i = some c) (hcls : hClass c.desc = 1)
    (hop : hOp c.desc = 1) (hplaced : c.stage = .placed) (hx : x = mmOf c.desc) (hready : mmDrainReady x c = true)
    (hmeet : meet s (mmUsed x) (mmWrites x) = .fine) :
    ∃ t k, exec (.tileDrain n i) s = .next t ∧ findCmd t n i = some k ∧ k.drained = c.drained + 1
      ∧ (∀ r, (mmTiles x c.qFree)[c.drained]? = some r → k.work = drainTile (operandMem s (mmUsed x)) x c c.work r)
      ∧ t = { s with cmds := t.cmds } := by
  subst hx
  obtain ⟨hctx, hidx⟩ := findCmd_key hfind
  obtain ⟨tile, htile⟩ := exists_tile_of_mmDrainReady hready
  have hstep := tileDrain_ready hfind hcls hop hplaced hready hmeet
  rw [mmDrainNext_of_get _ htile] at hstep
  refine ⟨_, _, congrArg Host.Outcome.next hstep, findCmd_setCmd_self (d := c) _ hfind hctx hidx, rfl, fun r hr => ?_, rfl⟩
  rw [Option.some.inj (htile.symm.trans hr)]

/-- Settles O39: what a landed line, a row instruction, a wait of the rows and a drained tile leave. -/
theorem rowsArriveIssueDrain : Obligations.RowsArriveIssueDrain :=
  ⟨lineArrival_lands, rowInstructionIssue_accumulates, rowInstructionIssue_counts_waiting, tileDrain_drains⟩

end Sys2Proof.Machine
end

section
/-! PROOFS. Kills (O28): which parts of the state the steps of a kill leave as they are, and what becomes of the killed command; then each
clause of the obligation from these. -/

namespace Sys2Proof.Machine

/-! ### What a kill leaves as it is (R50, R238) -/

/-- R50: no byte of memory, no page and no branch differs, and the hub holds the same commands. -/
def sameContents (s t : State) : Prop :=
  t.mem = s.mem ∧ t.poison = s.poison ∧ t.pool = s.pool ∧ t.branches = s.branches ∧ t.brMem = s.brMem ∧ t.cmds = s.cmds

theorem sameContents.trans {s t u : State} (hst : sameContents s t) (htu : sameContents t u) : sameContents s u := by
  obtain ⟨hmem, hpoison, hpool, hbranches, hbrMem, hcmds⟩ := hst
  obtain ⟨hmem', hpoison', hpool', hbranches', hbrMem', hcmds'⟩ := htu
  exact ⟨hmem'.trans hmem, hpoison'.trans hpoison, hpool'.trans hpool, hbranches'.trans hbranches, hbrMem'.trans hbrMem,
    hcmds'.trans hcmds⟩

theorem sameContents.findCmd {s t : State} (h : sameContents s t) (n i : Nat) : findCmd t n i = findCmd s n i := by
  obtain ⟨-, -, -, -, -, hcmds⟩ := h
  rw [Machine.findCmd, hcmds, Machine.findCmd]

theorem emit_frame (s : State) (mask : Nat) (m : Msg) : ∃ l, emit s mask m = { s with links := l } := by
  unfold emit
  split
  · exact ⟨_, rfl⟩
  · exact ⟨_, rfl⟩

/-- R287, R294: a message sent touches the links. -/
theorem send_frame (s : State) (mask mtype cls dst epoch tag address : Nat) (data : List Byte) :
    ∃ l, send s mask mtype cls dst epoch tag address data = { s with links := l } := by
  let q := aget s.links.seqOut (seqKey dst cls) 0#32
  obtain ⟨l, e⟩ := emit_frame { s with links := { s.links with seqOut := aput s.links.seqOut (seqKey dst cls) (q + 1) } } mask
    { mtype := mtype, flit := { cls := cls, dst := dst, src := selfId s, epoch := epoch, seq := q.toNat, tag := tag, address := address,
                                data := data } }
  exact ⟨l, e⟩

/-- R252: a withdrawn arrival touches the huddle counter here, or the links. -/
theorem huddleWithdraw_frame (s : State) (c : Cmd) : ∃ l h, huddleWithdraw s c = { s with links := l, huddles := h } := by
  unfold huddleWithdraw
  dsimp only
  split
  · exact ⟨_, _, rfl⟩
  · split
    · exact ⟨_, _, rfl⟩
    · obtain ⟨l, e⟩ := send_frame s 0 mtHuddle (hSvc c.desc) (hdOf c.desc).home c.epoch.toNat (cmdTag c) (hdOf c.desc).id
        (leBytes 1 hkWithdraw ++ leBytes 3 0 ++ leBytes 4 (hdOf c.desc).epoch)
      exact ⟨l, _, e⟩

theorem sameContents_noteKill (s : State) (c : Cmd) : sameContents s (noteKill s c) := by
  obtain ⟨_, _, e⟩ := noteKill_frame s c
  rw [e]
  exact ⟨rfl, rfl, rfl, rfl, rfl, rfl⟩

theorem sameContents_release (s : State) (c : Cmd) : sameContents s (release s c) := by
  obtain ⟨_, _, e⟩ := release_frame s c
  rw [e]
  exact ⟨rfl, rfl, rfl, rfl, rfl, rfl⟩

theorem sameContents_huddleWithdraw (s : State) (c : Cmd) : sameContents s (huddleWithdraw s c) := by
  obtain ⟨_, _, e⟩ := huddleWithdraw_frame s c
  rw [e]
  exact ⟨rfl, rfl, rfl, rfl, rfl, rfl⟩

theorem sameContents_csetEvent (s : State) (b : Nat) : sameContents s (csetEvent s b) := by
  obtain ⟨_, _, e⟩ := raiseSource_frame { s with cset := { s.cset with evt := withFlag s.cset.evt b, evtCnt := s.cset.evtCnt + 1 } } 5
  rw [csetEvent, e]
  exact ⟨rfl, rfl, rfl, rfl, rfl, rfl⟩

/-- R369: a command whose substitution pends. -/
def asksSwap (s : State) (c : Cmd) : Bool :=
  match s.cset.pending with
  | some r => r.issuer == some (c.ctx, c.idx)
  | none => false

/-- R252, R369: a killed command's arrival at a huddle and its substitution are withdrawn. -/
def requestsWithdrawn (s : State) (c : Cmd) : State :=
  let s1 := huddleWithdraw s c
  if asksSwap s1 c then
    csetEvent (umpEnd { s1 with cset := { s1.cset with pending := none, swapResult := 0x18 } } rkSwap 0 (c.ctx, c.idx)) 2
  else s1

/-- R418: what a kill leaves of a standby. -/
theorem withdraw_standby (s : State) (c : Cmd) : ∃ b, withdraw s c = { requestsWithdrawn s c with standby := b } := by
  have hstages : withdraw s c = match (requestsWithdrawn s c).standby with
    | some b =>
      if b.ctx = c.ctx ∧ b.idx = c.idx ∧ b.stage = .draining then { requestsWithdrawn s c with standby := leaveEntry b }
      else requestsWithdrawn s c
    | none => requestsWithdrawn s c := rfl
  rw [hstages]
  split
  · split
    · exact ⟨_, rfl⟩
    · exact ⟨_, rfl⟩
  · exact ⟨_, rfl⟩

theorem sameContents_requestsWithdrawn (s : State) (c : Cmd) : sameContents s (requestsWithdrawn s c) := by
  unfold requestsWithdrawn
  dsimp only
  split
  · exact (sameContents_huddleWithdraw s c).trans (sameContents_csetEvent (umpEnd _ _ _ _) 2)
  · exact sameContents_huddleWithdraw s c

/-- R267: what a killed command has asked for elsewhere is withdrawn with no trace. -/
theorem sameContents_withdraw (s : State) (c : Cmd) : sameContents s (withdraw s c) := by
  obtain ⟨_, e⟩ := withdraw_standby s c
  rw [e]
  exact sameContents_requestsWithdrawn s c

/-! ### What becomes of the command (R238, R245, R267, R268) -/

/-- A command that ends without commit: its status is decided, and nothing that it would have changed has changed. -/
theorem failCmd_leaves (s : State) (c : Cmd) (st : Status) (order result : Nat) :
    ∃ u, sameContents s u ∧ failCmd s c st order result = setCmd u (decided s c st order result) :=
  ⟨unreserve (release s c) c, sameContents_release s c, rfl⟩

theorem decidedAs_setCmd {s u : State} {c d : Cmd} {n i : Nat} (hfind : findCmd u n i = some d) (hkey : c.ctx = n ∧ c.idx = i)
    (st : Status) (order result : Nat) : decidedAs (setCmd u (decided s c st order result)) n i st result :=
  ⟨_, findCmd_setCmd_self (d := d) _ hfind hkey.1 hkey.2, rfl, rfl, rfl⟩

/-- R310: a collective that ends without commit fails, its place on its channel given up first. -/
theorem endColl_fails (s : State) (c : Cmd) (st : Status) : ∃ u, sameContents s u ∧ endColl s c st = failCmd u c st 0 0 := by
  unfold endColl
  split
  case h_1 r hcoll => exact ⟨modChan s r.channel _, ⟨rfl, rfl, rfl, rfl, rfl, rfl⟩, rfl⟩
  case h_2 hcoll => exact ⟨s, ⟨rfl, rfl, rfl, rfl, rfl, rfl⟩, rfl⟩

/-- R245: a kill that ends a command fails it. -/
theorem killWith_fails (s : State) (c : Cmd) (st : Status) : ∃ u, sameContents s u ∧ killWith s c st = failCmd u c st 0 0 := by
  have hkilled : sameContents s (withdraw (noteKill s c) c) := (sameContents_noteKill s c).trans (sameContents_withdraw _ c)
  unfold killWith
  split
  · obtain ⟨u, hsame, hfails⟩ := endColl_fails (withdraw (noteKill s c) c) c st
    exact ⟨u, hkilled.trans hsame, hfails⟩
  · exact ⟨_, hkilled, rfl⟩

/-- R267: a kill after which the command runs again. -/
theorem killAgain_requeues (s : State) (c : Cmd) : ∃ u, sameContents s u ∧ killAgain s c = setCmd u (requeued c) :=
  ⟨dropActivities (release (withdraw (noteKill s c) c) c) c,
    ((sameContents_noteKill s c).trans (sameContents_withdraw _ c)).trans (sameContents_release _ c), rfl⟩

theorem rerunOf_setCmd {u : State} {c d : Cmd} (hfind : findCmd u c.ctx c.idx = some d) : rerunOf (setCmd u (requeued c)) c :=
  ⟨_, findCmd_setCmd_self (d := d) _ hfind rfl rfl, rfl, rfl, rfl, rfl, rfl, rfl, rfl, rfl, rfl⟩

/-- R418: with no standby, no command has begun to enter it. -/
theorem sleeping_awake {s : State} (h : s.standby = none) (c : Cmd) : sleeping s c = false := by
  rw [sleeping, h]

/-! ### The clauses -/

theorem commandKill_again (s : State) (n i : Nat) (c : Cmd) (hfind : findCmd s n i = some c) (hkill : killable c = true)
    (hawake : s.standby = none) (hgoing : (ctxOf s n).stopping = false) :
    ∃ t, exec (.commandKill n i) s = .next t ∧ rerunOf t c ∧ t.mem = s.mem ∧ t.poison = s.poison ∧ t.pool = s.pool
      ∧ t.branches = s.branches ∧ t.brMem = s.brMem := by
  obtain ⟨rfl, rfl⟩ := findCmd_key hfind
  have hstep : commandKill c.ctx c.idx s = killAgain s c := by
    simp [commandKill, hfind, hkill, sleeping_awake hawake, hgoing]
  obtain ⟨u, hsame, hkilled⟩ := killAgain_requeues s c
  have hrerun : rerunOf (setCmd u (requeued c)) c := rerunOf_setCmd ((hsame.findCmd _ _).trans hfind)
  obtain ⟨hmem, hpoison, hpool, hbranches, hbrMem, -⟩ := hsame
  exact ⟨_, congrArg Host.Outcome.next (hstep.trans hkilled), hrerun, hmem, hpoison, hpool, hbranches, hbrMem⟩

theorem commandKill_ends (s : State) (n i : Nat) (c : Cmd) (hfind : findCmd s n i = some c) (hkill : killable c = true)
    (hawake : s.standby = none) (hstopping : (ctxOf s n).stopping = true) :
    ∃ t, exec (.commandKill n i) s = .next t ∧ decidedAs t n i .killed 0 ∧ t.mem = s.mem ∧ t.poison = s.poison ∧ t.pool = s.pool
      ∧ t.branches = s.branches ∧ t.brMem = s.brMem := by
  have hstep : commandKill n i s = killWith s c .killed := by
    simp [commandKill, hfind, hkill, sleeping_awake hawake, hstopping]
  obtain ⟨u, hkilled, hfails⟩ := killWith_fails s c .killed
  obtain ⟨v, hfailed, hdecides⟩ := failCmd_leaves u c .killed 0 0
  have hsame := hkilled.trans hfailed
  have hdecided : decidedAs (setCmd v (decided u c .killed 0 0)) n i .killed 0 :=
    decidedAs_setCmd ((hsame.findCmd n i).trans hfind) (findCmd_key hfind) _ _ _
  obtain ⟨hmem, hpoison, hpool, hbranches, hbrMem, -⟩ := hsame
  exact ⟨_, congrArg Host.Outcome.next (hstep.trans (hfails.trans hdecides)), hdecided, hmem, hpoison, hpool, hbranches, hbrMem⟩

/-- Settles O28: a kill goes through parts of the state that hold no contents, and replaces the command alone. -/
theorem killsLeaveNoTrace : Obligations.KillsLeaveNoTrace := ⟨commandKill_again, commandKill_ends⟩

end Sys2Proof.Machine
end

section
/-! PROOFS. Placement and its loop (O29): what the steps of a placement leave, where the front end sends a command, and what one run of the
placement loop leaves of the regions and the branches; then each clause of the obligation from these. -/

namespace Sys2Proof.Machine

/-! ### Actions in order -/

/-- What each of several actions does to the state, all of them in order do. -/
theorem seqAll_rel {α : Type} {R : State → State → Prop} {f : State → α → State} (hrefl : ∀ s, R s s)
    (htrans : ∀ {s t u}, R s t → R t u → R s u) (hf : ∀ s x, R s (f s x)) (xs : List α) (s : State) : R s (seqAll s xs f) := by
  induction xs generalizing s with
  | nil => exact hrefl s
  | cons x xs ih => exact htrans (hf s x) (ih (f s x))

/-- Nothing differs but the links. -/
def onlyLinks (s t : State) : Prop := ∃ k, t = { s with links := k }

theorem onlyLinks.refl (s : State) : onlyLinks s s := ⟨_, rfl⟩

theorem onlyLinks.trans {s t u : State} : onlyLinks s t → onlyLinks t u → onlyLinks s u := by
  rintro ⟨_, rfl⟩ ⟨k, rfl⟩
  exact ⟨k, rfl⟩

/-- Nothing differs but the regions. -/
def onlyRegions (s t : State) : Prop := ∃ k, t = { s with regions := k }

theorem onlyRegions.refl (s : State) : onlyRegions s s := ⟨_, rfl⟩

theorem onlyRegions.trans {s t u : State} : onlyRegions s t → onlyRegions t u → onlyRegions s u := by
  rintro ⟨_, rfl⟩ ⟨k, rfl⟩
  exact ⟨k, rfl⟩

/-! ### Lines asked for (R203, R296) -/

theorem askLine_onlyLinks (c : Cmd) (s : State) (l : Nat) : onlyLinks s (askLine c s l) := by
  unfold askLine
  split
  · obtain ⟨k, e⟩ := send_frame { s with links := _ } 0 mtReadReq (hSvc c.desc) (gaMod (256 * l)) c.epoch.toNat s.links.nextTag
      (256 * l) []
    exact ⟨k, e⟩
  · exact ⟨_, rfl⟩

/-- A command that awaits lines stands in the hub with them, and beside it the links alone are touched. -/
theorem awaitLines_frame (s : State) (c : Cmd) (ls : List Nat) : onlyLinks (setCmd s { c with await := ls }) (awaitLines s c ls) :=
  seqAll_rel onlyLinks.refl onlyLinks.trans (askLine_onlyLinks _) _ _

/-! ### A command placed (R31, R269, R274) -/

/-- R269, R274: the last steps of a placement: the context has run now, the placement is traced, and the command awaits its lines. -/
def settled (s : State) (c : Cmd) (ls : List Nat) : State := awaitLines (trace (noteRun s c.ctx) 3 c 0) c ls

theorem noteRun_lastRun (s : State) (n : Nat) : (ctxOf (noteRun s n) n).lastRun = s.localTime := by
  rw [noteRun, ctxOf_modCtx, if_pos rfl]

theorem settled_leaves {s : State} {c d : Cmd} (ls : List Nat) (hfind : findCmd s c.ctx c.idx = some d) :
    findCmd (settled s c ls) c.ctx c.idx = some { c with await := ls } ∧ (ctxOf (settled s c ls) c.ctx).lastRun = s.localTime
      ∧ (settled s c ls).mem = s.mem ∧ (settled s c ls).clusters = s.clusters := by
  obtain ⟨r, htrace⟩ := trace_frame (noteRun s c.ctx) 3 c 0
  obtain ⟨k, hawait⟩ := awaitLines_frame (trace (noteRun s c.ctx) 3 c 0) c ls
  rw [settled, hawait, htrace]
  exact ⟨findCmd_setCmd_self (d := d) _ hfind rfl rfl, noteRun_lastRun s c.ctx, rfl, rfl⟩

/-! ### The cluster as the command finds it (R31, R41, R266) -/

/-- R266, R281: a Live command finds the cluster with the borrowed work on it killed; any other finds it as it is. -/
def foundBy (s : State) (c : Cmd) (q : Nat) : State := if hSvc c.desc = 0 then killBorrowed s q else s

/-- R266: kills of borrowed work leave time, contexts and memory, and keep a descriptor of each context and ring index. -/
def borrowedKilled (s t : State) : Prop :=
  t.localTime = s.localTime ∧ t.ctxs = s.ctxs ∧ t.mem = s.mem ∧ ∀ n i, (findCmd t n i).isSome = (findCmd s n i).isSome

theorem borrowedKilled.refl (s : State) : borrowedKilled s s := ⟨rfl, rfl, rfl, fun _ _ => rfl⟩

theorem borrowedKilled.trans {s t u : State} (hst : borrowedKilled s t) (htu : borrowedKilled t u) : borrowedKilled s u := by
  obtain ⟨htime, hctxs, hmem, hkeys⟩ := hst
  obtain ⟨htime', hctxs', hmem', hkeys'⟩ := htu
  exact ⟨htime'.trans htime, hctxs'.trans hctxs, hmem'.trans hmem, fun n i => (hkeys' n i).trans (hkeys n i)⟩

theorem isSome_findCmd_setCmd (s : State) (c : Cmd) (n i : Nat) : (findCmd (setCmd s c) n i).isSome = (findCmd s n i).isSome := by
  rw [findCmd_setCmd]
  split
  · exact Option.isSome_map
  · rfl

theorem borrowedKilled_kill (s : State) (c d : Cmd) : borrowedKilled s (setCmd (release (noteKill s c) c) d) := by
  obtain ⟨ks, r, hnote⟩ := noteKill_frame s c
  obtain ⟨ks', rs, hrelease⟩ := release_frame (noteKill s c) c
  refine ⟨?_, ?_, ?_, fun n i => ?_⟩
  · rw [hrelease, hnote]; rfl
  · rw [hrelease, hnote]; rfl
  · rw [hrelease, hnote]; rfl
  · rw [isSome_findCmd_setCmd, findCmd_release, (sameContents_noteKill s c).findCmd]

theorem borrowedKilled_foundBy (s : State) (c : Cmd) (q : Nat) : borrowedKilled s (foundBy s c q) := by
  unfold foundBy
  split
  · exact seqAll_rel borrowedKilled.refl borrowedKilled.trans (fun s k => borrowedKilled_kill s k _) _ s
  · exact borrowedKilled.refl s

/-- R266: only work that is not Live borrows. -/
theorem hSvc_of_mem_lenders {s : State} {c : Cmd} {q : Nat} (h : q ∈ lenders s c) : hSvc c.desc ≠ 0 := by
  intro hlive
  simp [lenders, mayBorrow, hlive] at h

/-- R269: a cluster is chosen where it has room for the command as the command finds it. -/
theorem roomOn_of_spot {s : State} {c : Cmd} {q : Nat} {b : Bool} (h : spot s c = .on q b) : roomOn (foundBy s c q) c q = true := by
  have hlent : ∀ k, (lenders s c).find? (fun b => lends s b && roomOn s c b) = some k → roomOn (foundBy s c k) c k = true := by
    intro k hk
    have hroom := List.find?_some hk
    have hnotLive := hSvc_of_mem_lenders (List.mem_of_find?_eq_some hk)
    rw [foundBy, if_neg hnotLive]
    exact (Bool.and_eq_true_iff.mp hroom).2
  unfold spot at h
  split at h
  · cases h
  · split at h
    next k _ =>
      change (if roomOn (foundBy s c k) c k = true then Spot.on k false else _) = _ at h
      split at h
      next hroom =>
        cases h
        exact hroom
      next =>
        split at h
        next l hl =>
          cases h
          exact hlent _ hl
        next => cases h
    next =>
      split at h
      · cases h
      · split at h
        next l hl =>
          cases h
          exact hlent _ hl
        next =>
          split at h
          · cases h
          · cases h

/-- R31, R41: where there is room, granules are taken and one of the 64 arrival counters is free. -/
theorem taken_of_roomOn {s : State} {c : Cmd} {q : Nat} (h : roomOn s c q = true) :
    ∃ held j, takeGranules s c q = some held ∧ freeCounter s q = some j ∧ j < 64 := by
  simp only [roomOn, Bool.and_eq_true, Option.isSome_iff_exists] at h
  obtain ⟨⟨⟨⟨held, hheld⟩, ⟨j, hj⟩⟩, -⟩, -⟩ := h
  exact ⟨held, j, hheld, hj, List.mem_range.mp (List.mem_of_find?_eq_some hj)⟩

/-! ### A command placed on a cluster (R31, R269) -/

/-- R31, R41, R279: the command as it stands on a cluster, with its granules and its arrival counter. -/
def standing (s : State) (c : Cmd) (q : Nat) (borrowed : Bool) (held : List (Nat × Nat)) (j : Nat) : Cmd :=
  { c with stage := .placed, pos := some q, die := q / 32, held := held, borrowed := borrowed, placedAt := s.localTime
           qFree := freeGranules s q, counter := some j, overBudget := beyondBudget s c q }

/-- R31: the arrival counter of a command, for the lines of its operands. -/
def awaiting (s : State) (c : Cmd) : Arrival := { ctx := c.ctx, idx := c.idx, expected := (operandLines s c).length, count := 0 }

/-- R31, R265, R279: the cluster with the arrival counter bound, the turn of Bulk and the declared Live cost noted. -/
def hosting (s : State) (c : Cmd) (q turn j : Nat) (k : Cluster) : Cluster :=
  { k with arrivals := aput k.arrivals j (awaiting s c)
           bulkTurn := turn
           liveCost := if hSvc c.desc = 0 then liveSum s c q else k.liveCost
           liveWin := if hSvc c.desc = 0 then liveWindow s.localTime else k.liveWin }

theorem aget?_hosting (s : State) (c : Cmd) (q turn j : Nat) (k : Cluster) :
    aget? (hosting s c q turn j k).arrivals j = some (awaiting s c) := by
  rw [hosting, aget?_aput, if_pos rfl]

theorem clusterOf_of_clusters {s t : State} (h : t.clusters = s.clusters) (q : Nat) : clusterOf t q = clusterOf s q := by
  rw [clusterOf, h, clusterOf]

/-- R390: the regions of the clusters that hold the command's granules, no longer gated. -/
def awoken (s : State) (q : Nat) (held : List (Nat × Nat)) : State := seqAll s ((held.map (·.1 / 8)).foldl sins [q / 8]) ungate

theorem awoken_onlyRegions (s : State) (q : Nat) (held : List (Nat × Nat)) : onlyRegions s (awoken s q held) :=
  seqAll_rel onlyRegions.refl onlyRegions.trans (fun _ _ => ⟨_, rfl⟩) _ s

theorem placeOn_room {s : State} {c : Cmd} {q j : Nat} {held : List (Nat × Nat)} (b : Bool)
    (hheld : takeGranules (foundBy s c q) c q = some held) (hj : freeCounter (foundBy s c q) q = some j) :
    placeOn s c q b
      = settled (modCluster (awoken (foundBy s c q) q held) q (hosting (foundBy s c q) c q (nextTurn s c q) j))
          (standing (foundBy s c q) c q b held j) (operandLines (foundBy s c q) c) := by
  unfold foundBy at *
  simp only [placeOn, hheld, hj]
  rfl

theorem commandPlace_on {s : State} {n i q : Nat} {b : Bool} {c : Cmd} (hfind : findCmd s n i = some c) (hmay : mayPlace s c = true)
    (hneeds : needsCluster c.desc = true) (hspot : spot s c = .on q b) (hturn : b = true ∨ inTurn s c q = true) :
    commandPlace n i s = placeOn s c q b := by
  have hfirst : (b || inTurn s c q) = true := by simpa using hturn
  simp [commandPlace, hfind, hmay, hneeds, hspot, hfirst]

theorem commandPlace_onCluster (s : State) (n i q : Nat) (b : Bool) (c : Cmd) (hfind : findCmd s n i = some c) (hmay : mayPlace s c = true)
    (hneeds : needsCluster c.desc = true) (hspot : spot s c = .on q b) (hturn : b = true ∨ inTurn s c q = true) :
    ∃ t k j a, exec (.commandPlace n i) s = .next t ∧ findCmd t n i = some k ∧ k.stage = .placed ∧ k.pos = some q ∧ k.die = q / 32
      ∧ k.borrowed = b ∧ k.placedAt = s.localTime ∧ k.counter = some j ∧ j < 64 ∧ aget? (clusterOf t q).arrivals j = some a
      ∧ a.ctx = n ∧ a.idx = i ∧ a.count = 0 ∧ a.expected = k.await.length ∧ (ctxOf t n).lastRun = s.localTime ∧ t.mem = s.mem := by
  obtain ⟨rfl, rfl⟩ := findCmd_key hfind
  obtain ⟨held, j, hheld, hj, hbound⟩ := taken_of_roomOn (roomOn_of_spot hspot)
  have hstep := (commandPlace_on hfind hmay hneeds hspot hturn).trans (placeOn_room b hheld hj)
  obtain ⟨htime, -, hmem, hkeys⟩ := borrowedKilled_foundBy s c q
  generalize foundBy s c q = u at *
  obtain ⟨d, hd⟩ := Option.isSome_iff_exists.mp ((hkeys c.ctx c.idx).trans (Option.isSome_iff_exists.mpr ⟨c, hfind⟩))
  obtain ⟨rs, hawoken⟩ := awoken_onlyRegions u q held
  rw [hawoken] at hstep
  obtain ⟨hplaced, hrun, hmem', hclusters⟩ := settled_leaves (s := modCluster { u with regions := rs } q _)
    (c := standing u c q b held j) (d := d) (operandLines u c) hd
  refine ⟨_, _, j, awaiting u c, congrArg Host.Outcome.next hstep, hplaced, rfl, rfl, rfl, rfl, htime, rfl, hbound, ?_, rfl, rfl, rfl,
    rfl, hrun.trans htime, hmem'.trans hmem⟩
  rw [clusterOf_of_clusters hclusters, clusterOf_modCluster_self]
  exact aget?_hosting _ _ _ _ _ _

/-! ### A command placed without a cluster, or failed (R264, R269) -/

/-- R269: the command as it stands on a die. -/
def standingOnDie (s : State) (c : Cmd) : Cmd := { c with stage := .placed, die := operandDie s c, placedAt := s.localTime }

theorem commandPlace_onDie (s : State) (n i : Nat) (c : Cmd) (hfind : findCmd s n i = some c) (hmay : mayPlace s c = true)
    (hneeds : needsCluster c.desc = false) (hroom : trackerUsed s (operandDie s c) < 4096) :
    ∃ t k, exec (.commandPlace n i) s = .next t ∧ findCmd t n i = some k ∧ k.stage = .placed ∧ k.die = operandDie s c
      ∧ k.placedAt = s.localTime ∧ (ctxOf t n).lastRun = s.localTime ∧ t.mem = s.mem ∧ t.clusters = s.clusters := by
  obtain ⟨rfl, rfl⟩ := findCmd_key hfind
  have hstep : commandPlace c.ctx c.idx s
      = settled s (standingOnDie s c) ((farLines s (cmdUsed s c)).filter (canLand s)) := by
    simp [commandPlace, hfind, hmay, hneeds, placeFree, hroom, settled, standingOnDie]
  obtain ⟨hplaced, hrun, hmem, hclusters⟩ := settled_leaves (c := standingOnDie s c) (d := c)
    ((farLines s (cmdUsed s c)).filter (canLand s)) hfind
  exact ⟨_, _, congrArg Host.Outcome.next hstep, hplaced, rfl, rfl, rfl, hrun, hmem, hclusters⟩

theorem commandPlace_nowhere (s : State) (n i : Nat) (c : Cmd) (hfind : findCmd s n i = some c) (hmay : mayPlace s c = true)
    (hneeds : needsCluster c.desc = true) (hspot : spot s c = .fails) :
    ∃ t, exec (.commandPlace n i) s = .next t ∧ decidedAs t n i .state 0 ∧ t.mem = s.mem := by
  have hstep : commandPlace n i s = failCmd s c .state 0 0 := by simp [commandPlace, hfind, hmay, hneeds, hspot]
  obtain ⟨u, hsame, hfails⟩ := failCmd_leaves s c .state 0 0
  have hdecided : decidedAs (setCmd u (decided s c .state 0 0)) n i .state 0 :=
    decidedAs_setCmd ((hsame.findCmd n i).trans hfind) (findCmd_key hfind) _ _ _
  obtain ⟨hmem, -⟩ := hsame
  exact ⟨_, congrArg Host.Outcome.next (hstep.trans hfails), hdecided, hmem⟩

/-! ### The placement loop (R270, R145) -/

/-- R270: the mark that the rate of a region asks for, among the rates of all. -/
def markDue (rates : List Nat) (s : State) (r : Nat) : Bool :=
  slowNow (regionOf s r) (rates.getD r 0) (twiceMedian ((rates.take 64).filter (· != 0)))

/-- R270: a region marked as its rate asks. -/
def remark (rates : List Nat) (s : State) (r : Nat) : State :=
  if markDue rates s r = (regionOf s r).slow then s
  else modRegion s r (fun x => { x with slow := !x.slow })

/-- R270: the loop runs no more often than every 100 µs. -/
theorem placementLoop_due {s : State} (rates : List Nat) (moves : List (Nat × Nat)) (h : us 100 ≤ since s s.loopAt) :
    placementLoop rates moves s = moveBranches 64 (seqAll { s with loopAt := s.localTime } (List.range 64) (remark rates)) moves :=
  if_pos h

theorem moveBranches_nil (n : Nat) (s : State) : moveBranches n s [] = s := by
  cases n with
  | zero => rw [moveBranches]
  | succ n => rw [moveBranches]; nofun

theorem remark_slow (rates : List Nat) (s : State) (r : Nat) : (regionOf (remark rates s r) r).slow = markDue rates s r := by
  unfold remark
  split
  next hsame => exact hsame.symm
  next hdiffers =>
    rw [regionOf_modRegion, if_pos rfl]
    exact (Bool.eq_not_of_ne hdiffers).symm

theorem remark_other (rates : List Nat) (s : State) {r o : Nat} (h : o ≠ r) : regionOf (remark rates s r) o = regionOf s o := by
  unfold remark
  split
  · rfl
  · rw [regionOf_modRegion, if_neg h]

theorem remark_onlyRegions (rates : List Nat) (s : State) (r : Nat) : onlyRegions s (remark rates s r) := by
  unfold remark
  split
  · exact ⟨_, rfl⟩
  · exact ⟨_, rfl⟩

theorem seqAll_remark_other (rates : List Nat) {o : Nat} (rs : List Nat) (s : State) (h : o ∉ rs) :
    regionOf (seqAll s rs (remark rates)) o = regionOf s o := by
  induction rs generalizing s with
  | nil => rfl
  | cons r rs ih =>
    obtain ⟨hr, hrs⟩ := List.ne_and_not_mem_of_not_mem_cons h
    exact (ih _ hrs).trans (remark_other rates s hr)

/-- R270: the loop marks each region by its own rate. -/
theorem seqAll_remark_slow (rates : List Nat) {o : Nat} (rs : List Nat) (s : State) (hmem : o ∈ rs) (hnodup : rs.Nodup) :
    (regionOf (seqAll s rs (remark rates)) o).slow = markDue rates s o := by
  induction rs generalizing s with
  | nil => exact absurd hmem List.not_mem_nil
  | cons r rs ih =>
    obtain ⟨hnew, hnodup⟩ := List.nodup_cons.mp hnodup
    by_cases ho : o = r
    · subst ho
      exact (congrArg Region.slow (seqAll_remark_other rates rs (remark rates s o) hnew)).trans (remark_slow rates s o)
    · have hrest := ih (remark rates s r) (List.mem_of_ne_of_mem ho hmem) hnodup
      rwa [markDue, remark_other rates s ho] at hrest

/-- R270: where every mark stands as its rate asks, the loop marks nothing. -/
theorem seqAll_remark_still (rates : List Nat) (rs : List Nat) (s : State)
    (h : ∀ r ∈ rs, markDue rates s r = (regionOf s r).slow) : seqAll s rs (remark rates) = s := by
  induction rs with
  | nil => rfl
  | cons r rs ih =>
    obtain ⟨hr, hrs⟩ := List.forall_mem_cons.mp h
    have hfirst : remark rates s r = s := if_pos hr
    exact (congrArg (seqAll · rs (remark rates)) hfirst).trans (ih hrs)

theorem placementLoop_marks (s : State) (rates : List Nat) (hdue : us 100 ≤ since s s.loopAt) :
    ∃ t, exec (.placementLoop rates []) s = .next t ∧ t.loopAt = s.localTime
      ∧ (∀ r, r < 64 → (regionOf t r).slow
          = slowNow (regionOf s r) (rates.getD r 0) (twiceMedian ((rates.take 64).filter (· != 0))))
      ∧ t = { s with loopAt := t.loopAt, regions := t.regions } := by
  have hstep := (placementLoop_due rates [] hdue).trans (moveBranches_nil _ _)
  obtain ⟨k, hframe⟩ := seqAll_rel onlyRegions.refl onlyRegions.trans (remark_onlyRegions rates) (List.range 64)
    { s with loopAt := s.localTime }
  refine ⟨_, congrArg Host.Outcome.next hstep, ?_, fun r hr => ?_, ?_⟩
  · rw [hframe]
  · exact seqAll_remark_slow rates (List.range 64) { s with loopAt := s.localTime } (List.mem_range.mpr hr) List.nodup_range
  · rw [hframe]

/-- R122: mirroring records touches memory. -/
theorem mirror_frame (s : State) (bs : List Nat) : ∃ m p, mirror s bs = { s with mem := m, poison := p } := by
  unfold mirror
  split
  · exact ⟨_, _, rfl⟩
  · exact ⟨_, _, rfl⟩

/-- R145: the state of a branch that may move goes to the cluster picked. -/
theorem moveBranch_moves {s : State} {b q : Nat} {x : Branch} (hbranch : branchOf s b = some x) (hmay : mayMove s b q = true) :
    moveBranch s (b, q) = mirror { s with branches := aput s.branches b { x with statePos := qToPos q } } [b] := by
  simp [moveBranch, hmay, hbranch]

theorem moveBranches_one {s : State} {b q : Nat} (n : Nat) (hmay : mayMove s b q = true) :
    moveBranches (n + 1) s [(b, q)] = moveBranch s (b, q) := by
  rw [moveBranches, if_pos hmay, moveBranches_nil]

theorem placementLoop_moves (s : State) (rates : List Nat) (b q : Nat) (x : Branch) (hdue : us 100 ≤ since s s.loopAt)
    (hstill : ∀ r, r < 64 →
      slowNow (regionOf s r) (rates.getD r 0) (twiceMedian ((rates.take 64).filter (· != 0))) = (regionOf s r).slow)
    (hbranch : branchOf s b = some x) (hmay : mayMove s b q = true) :
    ∃ t, exec (.placementLoop rates [(b, q)]) s = .next t ∧ branchOf t b = some { x with statePos := qToPos q }
      ∧ (∀ d, d ≠ b → branchOf t d = branchOf s d) ∧ t.brMem = s.brMem ∧ t.cmds = s.cmds := by
  have hmarks : seqAll { s with loopAt := s.localTime } (List.range 64) (remark rates) = { s with loopAt := s.localTime } :=
    seqAll_remark_still rates _ _ (fun r hr => hstill r (List.mem_range.mp hr))
  have hmay' : mayMove { s with loopAt := s.localTime } b q = true := hmay
  have hbranch' : branchOf { s with loopAt := s.localTime } b = some x := hbranch
  have hstep : placementLoop rates [(b, q)] s = _ :=
    (placementLoop_due rates _ hdue).trans ((congrArg (moveBranches 64 · _) hmarks).trans
      ((moveBranches_one 63 hmay').trans (moveBranch_moves hbranch' hmay')))
  obtain ⟨m, p, hmirror⟩ :=
    mirror_frame { s with loopAt := s.localTime, branches := aput s.branches b { x with statePos := qToPos q } } [b]
  refine ⟨_, congrArg Host.Outcome.next (hstep.trans hmirror), ?_, fun d hd => ?_, rfl, rfl⟩
  · exact (aget?_aput _ _ _ _).trans (if_pos rfl)
  · exact (aget?_aput _ _ _ _).trans (if_neg hd)

/-- Settles O29: where a placement sends a command, and what a run of the loop marks and moves. -/
theorem placementAndItsLoop : Obligations.PlacementAndItsLoop :=
  ⟨⟨commandPlace_onCluster, commandPlace_onDie, commandPlace_nowhere⟩, placementLoop_marks, placementLoop_moves⟩

end Sys2Proof.Machine
end

section
/-! PROOFS. The grinder under round to nearest (O59): a rising scale of magnitudes rounded to the nearest of two codes and cut off at its
end; the scale of a floating format, binade by binade; then the encodings of both signs. -/

namespace Sys2Proof.Machine

/-! ### Rounding to the nearest point of a scale

A scale gives the value of each magnitude code, in rising order. -/

/-- A code is as near to a value as each of the two codes around the value, of which it is one. -/
def RoundsOnto (V : Nat → ℚ) (x : ℚ) (c : Nat) : Prop :=
  ∃ lo, (c = lo ∨ c = lo + 1) ∧ V lo ≤ x ∧ x ≤ V (lo + 1) ∧ |x - V c| ≤ |x - V lo| ∧ |x - V c| ≤ |x - V (lo + 1)|

theorem RoundsOnto.nearest {V : Nat → ℚ} {x : ℚ} {c : Nat} (h : RoundsOnto V x c) (hV : Monotone V) (k : Nat) :
    |x - V c| ≤ |x - V k| := by
  obtain ⟨lo, -, hlo, hhi, hnearLo, hnearHi⟩ := h
  rcases Nat.lt_or_ge lo k with hk | hk
  · have hbeyond : V (lo + 1) ≤ V k := hV hk
    refine hnearHi.trans ?_
    rw [abs_of_nonpos (by linarith), abs_of_nonpos (by linarith)]
    linarith
  · have hbelow : V k ≤ V lo := hV hk
    refine hnearLo.trans ?_
    rw [abs_of_nonneg (by linarith), abs_of_nonneg (by linarith)]
    linarith

/-- R66: where the scale ends, the code that saturates there is the nearest of those left. -/
theorem RoundsOnto.nearest_saturated {V : Nat → ℚ} {x : ℚ} {c : Nat} (h : RoundsOnto V x c) (hV : Monotone V) {top k : Nat}
    (hk : k ≤ top) : |x - V (min c top)| ≤ |x - V k| := by
  rcases Nat.le_total c top with hc | hc
  · rw [min_eq_left hc]
    exact h.nearest hV k
  · rcases hc.eq_or_lt with rfl | hover
    · rw [min_self]
      exact h.nearest hV k
    obtain ⟨lo, hside, hlo, -⟩ := h
    have htop : V top ≤ V lo := hV (by omega)
    have hbelow : V k ≤ V top := hV hk
    rw [min_eq_right hc, abs_of_nonneg (by linarith), abs_of_nonneg (by linarith)]
    linarith

/-- R65: to nearest, the fraction decides: at most a half rounds down, at least a half up. -/
theorem roundNearest_cases {q r d : Nat} (hr : r < d) :
    (roundNearest q r d = q ∧ (r / d : ℚ) ≤ 1 / 2) ∨ (roundNearest q r d = q + 1 ∧ 1 / 2 ≤ (r / d : ℚ)) := by
  have hd : (0 : ℚ) < d := by exact_mod_cast Nat.zero_lt_of_lt hr
  unfold roundNearest
  split
  next hup =>
    have hhalf : d ≤ 2 * r := by omega
    have hhalf' : (d : ℚ) ≤ 2 * r := by exact_mod_cast hhalf
    exact .inr ⟨rfl, by rw [le_div_iff₀ hd]; linarith⟩
  next hdown =>
    have hhalf : 2 * r ≤ d := by omega
    have hhalf' : 2 * (r : ℚ) ≤ d := by exact_mod_cast hhalf
    exact .inl ⟨rfl, by rw [div_le_iff₀ hd]; linarith⟩

/-- A scale with a step of `u` at a code rounds the value `q + r / d` steps to nearest. -/
theorem roundsOnto_roundNearest {V : Nat → ℚ} {base q r d : Nat} {u : ℚ} (hu : 0 < u) (hr : r < d)
    (hlo : V (base + q) = q * u) (hhi : V (base + (q + 1)) = (q + 1) * u) :
    RoundsOnto V ((q + r / d) * u) (base + roundNearest q r d) := by
  have hd : (0 : ℚ) < d := by exact_mod_cast Nat.zero_lt_of_lt hr
  have hfrac : (r / d : ℚ) < 1 := (div_lt_one hd).mpr (by exact_mod_cast hr)
  have hfrac0 : (0 : ℚ) ≤ r / d := by positivity
  have hbelow : |(q + r / d) * u - V (base + q)| = r / d * u := by
    rw [hlo, ← sub_mul, abs_of_nonneg (mul_nonneg (by linarith) hu.le)]
    ring
  have habove : |(q + r / d) * u - V (base + (q + 1))| = (1 - r / d) * u := by
    rw [hhi, ← sub_mul, abs_of_nonpos (mul_nonpos_of_nonpos_of_nonneg (by linarith) hu.le)]
    ring
  refine ⟨base + q, ?_, ?_, ?_, ?_⟩
  · rcases roundNearest_cases (q := q) hr with ⟨hm, -⟩ | ⟨hm, -⟩
    · exact .inl (by rw [hm])
    · exact .inr (by rw [hm, Nat.add_assoc])
  · rw [hlo]
    exact mul_le_mul_of_nonneg_right (by linarith) hu.le
  · rw [Nat.add_assoc, hhi]
    exact mul_le_mul_of_nonneg_right (by linarith) hu.le
  · rw [Nat.add_assoc]
    rcases roundNearest_cases (q := q) hr with ⟨hm, hhalf⟩ | ⟨hm, hhalf⟩
    · rw [hm, hbelow, habove]
      exact ⟨le_rfl, mul_le_mul_of_nonneg_right (by linarith) hu.le⟩
    · rw [hm, hbelow, habove]
      exact ⟨mul_le_mul_of_nonneg_right (by linarith) hu.le, le_rfl⟩

/-! ### Exact magnitudes -/

theorem ratScale_den_pos (n : Nat) {d : Nat} (hd : 0 < d) (e : Int) : 0 < (ratScale n d e).2 := by
  unfold ratScale
  split
  · exact hd
  · exact Nat.mul_pos hd (Nat.two_pow_pos _)

theorem ratScale_value (n d : Nat) (e : Int) : ((ratScale n d e).1 / (ratScale n d e).2 : ℚ) = n / d * 2 ^ e := by
  unfold ratScale
  split
  next he =>
    obtain ⟨k, rfl⟩ := Int.eq_ofNat_of_zero_le he
    simp only [Int.toNat_natCast, zpow_natCast, Nat.cast_mul, Nat.cast_pow, Nat.cast_ofNat]
    ring
  next he =>
    obtain ⟨k, rfl⟩ := Int.exists_eq_neg_ofNat (not_le.mp he).le
    simp only [neg_neg, Int.toNat_natCast, zpow_neg, zpow_natCast, Nat.cast_mul, Nat.cast_pow, Nat.cast_ofNat]
    rw [div_mul_eq_div_div, div_eq_mul_inv (_ / _)]

theorem gridSplit_rest_lt (n : Nat) {d : Nat} (hd : 0 < d) (e g : Int) : (gridSplit n d e g).2.1 < (gridSplit n d e g).2.2 :=
  Nat.mod_lt _ (ratScale_den_pos n hd _)

theorem gridSplit_value (n : Nat) {d : Nat} (hd : 0 < d) (e g : Int) :
    (n / d * 2 ^ e : ℚ) = ((gridSplit n d e g).1 + (gridSplit n d e g).2.1 / (gridSplit n d e g).2.2) * 2 ^ g := by
  have hpos : ((ratScale n d (e - g)).2 : ℚ) ≠ 0 := by exact_mod_cast (ratScale_den_pos n hd _).ne'
  have hsplit : ((gridSplit n d e g).1 + (gridSplit n d e g).2.1 / (gridSplit n d e g).2.2 : ℚ)
      = (ratScale n d (e - g)).1 / (ratScale n d (e - g)).2 := by
    rw [eq_div_iff hpos, add_mul]
    simp only [gridSplit]
    rw [div_mul_cancel₀ _ hpos, mul_comm]
    exact_mod_cast Nat.div_add_mod _ _
  rw [hsplit, ratScale_value, mul_assoc, ← zpow_add₀ two_ne_zero, sub_add_cancel]

theorem gridSplit_floor_le (n : Nat) {d : Nat} (hd : 0 < d) (e g : Int) : ((gridSplit n d e g).1 : ℚ) * 2 ^ g ≤ n / d * 2 ^ e := by
  rw [gridSplit_value n hd e g]
  exact mul_le_mul_of_nonneg_right (le_add_of_nonneg_right (by positivity)) (by positivity)

theorem lt_gridSplit_floor (n : Nat) {d : Nat} (hd : 0 < d) (e g : Int) :
    (n / d * 2 ^ e : ℚ) < ((gridSplit n d e g).1 + 1) * 2 ^ g := by
  have hrest := gridSplit_rest_lt n hd e g
  have hfrac : ((gridSplit n d e g).2.1 / (gridSplit n d e g).2.2 : ℚ) < 1 :=
    (div_lt_one (by exact_mod_cast Nat.zero_lt_of_lt hrest)).mpr (by exact_mod_cast hrest)
  rw [gridSplit_value n hd e g]
  exact mul_lt_mul_of_pos_right (by linarith) (by positivity)

/-- The binary logarithm of a quotient lies below the difference of the logarithms or at it, as the comparison decides. -/
theorem ratLog2_bounds {n d : Nat} (hn : n ≠ 0) (hd : d ≠ 0) :
    (2 : ℚ) ^ ratLog2 n d ≤ n / d ∧ (n / d : ℚ) < 2 ^ (ratLog2 n d + 1) := by
  have hd' : (0 : ℚ) < d := by exact_mod_cast Nat.pos_of_ne_zero hd
  have hnlo : (2 : ℚ) ^ (Nat.log2 n : Int) ≤ n := by exact_mod_cast Nat.log2_self_le hn
  have hnhi : (n : ℚ) < 2 ^ (Nat.log2 n + 1 : Int) := by exact_mod_cast Nat.lt_log2_self (n := n)
  have hdlo : (2 : ℚ) ^ (Nat.log2 d : Int) ≤ d := by exact_mod_cast Nat.log2_self_le hd
  have hdhi : (d : ℚ) < 2 ^ (Nat.log2 d + 1 : Int) := by exact_mod_cast Nat.lt_log2_self (n := d)
  have hcompare : d * 2 ^ (Nat.log2 n - Nat.log2 d) ≤ n * 2 ^ (Nat.log2 d - Nat.log2 n)
      ↔ (2 : ℚ) ^ ((Nat.log2 n : Int) - Nat.log2 d) ≤ n / d := by
    rw [le_div_iff₀ hd']
    rcases Nat.le_total (Nat.log2 d) (Nat.log2 n) with h | h
    · rw [Nat.sub_eq_zero_of_le h, ← Nat.cast_sub h, zpow_natCast, mul_comm, pow_zero, mul_one]
      norm_cast
    · rw [Nat.sub_eq_zero_of_le h, ← neg_sub, ← Nat.cast_sub h, zpow_neg, zpow_natCast, inv_mul_le_iff₀ (by positivity), mul_comm (2 ^ _),
        pow_zero, mul_one]
      norm_cast
  unfold ratLog2
  dsimp only
  split
  next h =>
    refine ⟨hcompare.mp h, ?_⟩
    rw [div_lt_iff₀ hd']
    calc (n : ℚ) < 2 ^ (Nat.log2 n + 1 : Int) := hnhi
      _ = 2 ^ ((Nat.log2 n : Int) - Nat.log2 d + 1) * 2 ^ (Nat.log2 d : Int) := by rw [← zpow_add₀ two_ne_zero]; congr 1; ring
      _ ≤ _ := mul_le_mul_of_nonneg_left hdlo (by positivity)
  next h =>
    refine ⟨?_, ?_⟩
    · rw [le_div_iff₀ hd']
      calc (2 : ℚ) ^ ((Nat.log2 n : Int) - Nat.log2 d - 1) * d
          ≤ 2 ^ ((Nat.log2 n : Int) - Nat.log2 d - 1) * 2 ^ (Nat.log2 d + 1 : Int) := mul_le_mul_of_nonneg_left hdhi.le (by positivity)
        _ = 2 ^ (Nat.log2 n : Int) := by rw [← zpow_add₀ two_ne_zero]; congr 1; ring
        _ ≤ n := hnlo
    · rw [sub_add_cancel]
      exact not_le.mp (mt hcompare.mpr h)

/-! ### The magnitudes of a floating format (R53)

Magnitude code `c` stands for `fltUnits f c` steps of `2 ^ fltStep f c`. -/

/-- The binade of a magnitude code above that of the subnormals. -/
def fltBinade (f : Flt) (c : Nat) : Nat := c / 2 ^ f.mbits - 1

/-- The value of a magnitude code, with the range taken as unlimited. -/
def fltMag (f : Flt) (c : Nat) : ℚ := (c - fltBinade f c * 2 ^ f.mbits : Nat) * 2 ^ (f.emin + fltBinade f c)

/-- Up to the end of its binade, where the next one begins, a code counts the steps of its binade. -/
theorem fltMag_of_binade (f : Flt) {k m : Nat} (hlow : 2 ^ f.mbits ≤ m ∨ k = 0) (hhigh : m ≤ 2 ^ (f.mbits + 1)) :
    fltMag f (k * 2 ^ f.mbits + m) = m * 2 ^ (f.emin + k) := by
  have hpos : 0 < 2 ^ f.mbits := Nat.two_pow_pos _
  rw [Nat.pow_succ] at hhigh
  rcases hhigh.eq_or_lt with rfl | hlt
  · have hnext : fltBinade f (k * 2 ^ f.mbits + 2 ^ f.mbits * 2) = k + 1 := by
      rw [fltBinade, ← Nat.mul_comm 2, ← Nat.add_mul, Nat.mul_div_cancel _ hpos]
      rfl
    have hunits : k * 2 ^ f.mbits + 2 ^ f.mbits * 2 - (k + 1) * 2 ^ f.mbits = 2 ^ f.mbits := by
      rw [Nat.add_mul]
      omega
    rw [fltMag, hnext, hunits, Nat.cast_add, Nat.cast_one, ← add_assoc, zpow_add_one₀ two_ne_zero]
    push_cast
    ring
  · have hbinade : fltBinade f (k * 2 ^ f.mbits + m) = k := by
      rw [fltBinade, Nat.add_comm, Nat.add_mul_div_right _ _ hpos]
      rcases hlow with hlow | rfl
      · rw [Nat.div_eq_of_lt_le (k := 1) (by omega) (by omega)]
        omega
      · have : m / 2 ^ f.mbits < 2 := Nat.div_lt_of_lt_mul hlt
        omega
    rw [fltMag, hbinade, Nat.add_sub_cancel_left]

/-- Every code is one of the steps of its binade. -/
theorem exists_binade (f : Flt) (c : Nat) :
    ∃ k m, c = k * 2 ^ f.mbits + m ∧ (2 ^ f.mbits ≤ m ∨ k = 0) ∧ m + 1 ≤ 2 ^ (f.mbits + 1) := by
  have hpos : 0 < 2 ^ f.mbits := Nat.two_pow_pos _
  have hrem : c % 2 ^ f.mbits < 2 ^ f.mbits := Nat.mod_lt _ hpos
  have hdiv : c / 2 ^ f.mbits * 2 ^ f.mbits + c % 2 ^ f.mbits = c := Nat.div_add_mod' c _
  rw [Nat.pow_succ]
  rcases Nat.eq_zero_or_eq_succ_pred (c / 2 ^ f.mbits) with hsub | hnormal
  · rw [hsub] at hdiv
    exact ⟨0, c, by omega, .inr rfl, by omega⟩
  · rw [hnormal, Nat.succ_mul] at hdiv
    exact ⟨(c / 2 ^ f.mbits).pred, 2 ^ f.mbits + c % 2 ^ f.mbits, by omega, .inl (by omega), by omega⟩

theorem fltMag_monotone (f : Flt) : Monotone (fltMag f) := by
  refine monotone_nat_of_le_succ fun c => ?_
  obtain ⟨k, m, rfl, hlow, hhigh⟩ := exists_binade f c
  have hnext : 2 ^ f.mbits ≤ m + 1 ∨ k = 0 := hlow.imp_left (Nat.le_trans · (Nat.le_succ m))
  rw [Nat.add_assoc, fltMag_of_binade f hlow (by omega), fltMag_of_binade f hnext hhigh]
  exact mul_le_mul_of_nonneg_right (by exact_mod_cast Nat.le_succ m) (by positivity)

theorem fltMag_zero (f : Flt) : fltMag f 0 = 0 := by simp [fltMag]

/-- What an encoding with a sign stands for. -/
theorem decodeFlt_signed {f : Flt} {c : Nat} (neg : Bool) (hc : c ≤ f.maxMag) (hmax : f.maxMag < 2 ^ (f.width - 1)) :
    fvNonfinite (decodeFlt f (signed f neg c)) = false
      ∧ fvRat (decodeFlt f (signed f neg c)) = (if neg then -1 else 1) * fltMag f c := by
  have hlow : c < 2 ^ (f.width - 1) := hc.trans_lt hmax
  have hmag : signed f neg c % 2 ^ (f.width - 1) = c := by
    unfold signed
    split
    · rw [Nat.add_mod_right, Nat.mod_eq_of_lt hlow]
    · exact Nat.mod_eq_of_lt hlow
  have hsign : (signed f neg c).testBit (f.width - 1) = neg := by
    cases neg
    · exact Nat.testBit_lt_two_pow hlow
    · simp [signed, Nat.add_comm c, Nat.testBit_two_pow_add_eq, Nat.testBit_lt_two_pow hlow]
  unfold decodeFlt
  simp only [hmag, hsign, if_pos hc]
  split
  next hsub =>
    have hbinade : fltBinade f c = 0 := by rw [fltBinade, hsub]
    have hmod : c % 2 ^ f.mbits = c := Nat.mod_eq_of_lt (Nat.lt_of_div_eq_zero (Nat.two_pow_pos _) hsub)
    refine ⟨rfl, ?_⟩
    simp [fvRat, fltMag, hbinade, hmod]
  next hnormal =>
    have hunits : c - fltBinade f c * 2 ^ f.mbits = c % 2 ^ f.mbits + 2 ^ f.mbits := by
      have hdiv := Nat.div_add_mod' c (2 ^ f.mbits)
      obtain ⟨k, hk⟩ := Nat.exists_eq_succ_of_ne_zero hnormal
      rw [hk, Nat.succ_mul] at hdiv
      rw [fltBinade, hk, Nat.succ_sub_one]
      omega
    refine ⟨rfl, ?_⟩
    rw [fltMag, hunits, ← mul_assoc]
    simp [fvRat, fltBinade]

/-! ### The floating grid at a magnitude -/

theorem emin_le_gridExp (f : Flt) (n d : Nat) (e : Int) : f.emin ≤ gridExp f n d e := by
  unfold gridExp
  split
  · exact le_rfl
  · exact le_max_right _ _

/-- The grid counts a magnitude in the steps of its binade: short of where the next one begins, and past the subnormals where the step is
not the smallest. -/
theorem gridSplit_gridExp (f : Flt) {n d : Nat} (hn : n ≠ 0) (hd : 0 < d) (e : Int) :
    (gridSplit n d e (gridExp f n d e)).1 + 1 ≤ 2 ^ (f.mbits + 1)
      ∧ (2 ^ f.mbits ≤ (gridSplit n d e (gridExp f n d e)).1 ∨ gridExp f n d e = f.emin) := by
  obtain ⟨hlog, hlog'⟩ := ratLog2_bounds hn hd.ne'
  have hfloor := gridSplit_floor_le n hd e (gridExp f n d e)
  have hfloor' := lt_gridSplit_floor n hd e (gridExp f n d e)
  have hgrid : gridExp f n d e = max (ratLog2 n d + e - f.mbits) f.emin := if_neg hn
  generalize gridExp f n d e = g at *
  constructor
  · have hbelow : ((gridSplit n d e g).1 : ℚ) * 2 ^ g < 2 ^ (f.mbits + 1) * 2 ^ g :=
      calc ((gridSplit n d e g).1 : ℚ) * 2 ^ g ≤ n / d * 2 ^ e := hfloor
        _ < 2 ^ (ratLog2 n d + 1) * 2 ^ e := mul_lt_mul_of_pos_right hlog' (by positivity)
        _ = 2 ^ (ratLog2 n d + e + 1) := by rw [← zpow_add₀ two_ne_zero]; congr 1; ring
        _ ≤ 2 ^ ((f.mbits + 1 : Nat) + g) := zpow_le_zpow_right₀ one_le_two (by omega)
        _ = 2 ^ (f.mbits + 1) * 2 ^ g := by rw [zpow_add₀ two_ne_zero, zpow_natCast]
    exact_mod_cast lt_of_mul_lt_mul_right hbelow (by positivity)
  · rcases eq_or_ne g f.emin with hmin | hmin
    · exact .inr hmin
    · have habove : (2 ^ f.mbits : ℚ) * 2 ^ g < ((gridSplit n d e g).1 + 1) * 2 ^ g :=
        calc (2 ^ f.mbits : ℚ) * 2 ^ g = 2 ^ (ratLog2 n d + e) := by
              rw [← zpow_natCast, ← zpow_add₀ two_ne_zero]; congr 1; omega
          _ = 2 ^ ratLog2 n d * 2 ^ e := zpow_add₀ two_ne_zero _ _
          _ ≤ n / d * 2 ^ e := mul_le_mul_of_nonneg_right hlog (by positivity)
          _ < ((gridSplit n d e g).1 + 1) * 2 ^ g := hfloor'
      have hlt : 2 ^ f.mbits < (gridSplit n d e g).1 + 1 := by exact_mod_cast lt_of_mul_lt_mul_right habove (by positivity)
      exact .inl (Nat.le_of_lt_succ hlt)

/-- R65, R66: the magnitude code that a floating format rounds to, with the range taken as unlimited. -/
theorem roundsOnto_gridCode (f : Flt) {n d : Nat} (hn : n ≠ 0) (hd : 0 < d) (e : Int) :
    RoundsOnto (fltMag f) (n / d * 2 ^ e)
      (gridCode f (roundNearest (gridSplit n d e (gridExp f n d e)).1 (gridSplit n d e (gridExp f n d e)).2.1
        (gridSplit n d e (gridExp f n d e)).2.2) (gridExp f n d e)) := by
  obtain ⟨hhigh, hlow⟩ := gridSplit_gridExp f hn hd e
  have hrest := gridSplit_rest_lt n hd e (gridExp f n d e)
  have hvalue := gridSplit_value n hd e (gridExp f n d e)
  have hstep : gridExp f n d e = f.emin + (gridExp f n d e - f.emin).toNat := by
    have := emin_le_gridExp f n d e
    omega
  have hlow' : 2 ^ f.mbits ≤ (gridSplit n d e (gridExp f n d e)).1 ∨ (gridExp f n d e - f.emin).toNat = 0 := hlow.imp_right (by omega)
  rw [hvalue]
  refine roundsOnto_roundNearest (by positivity) hrest ?_ ?_
  · rw [fltMag_of_binade f hlow' (by omega), ← hstep]
  · rw [fltMag_of_binade f (hlow'.imp_left (by omega)) hhigh, ← hstep, Nat.cast_add, Nat.cast_one]

/-! ### The formats (R53): magnitudes, the largest of each sign, and encodings -/

def signRat (neg : Bool) : ℚ := if neg then -1 else 1

/-- The value of a magnitude code. -/
def fmtMag (f : Fmt) : Nat → ℚ :=
  match f.flt with
  | some fl => fltMag fl
  | none => Nat.cast

/-- The code of the largest finite magnitude of a sign. -/
def fmtTop (f : Fmt) (neg : Bool) : Nat :=
  match f.flt with
  | some fl => fl.maxMag
  | none => if neg then 2 ^ (f.width - 1) else 2 ^ (f.width - 1) - 1

/-- The encoding of a magnitude code with a sign; an integer is in two's complement. -/
def fmtCode (f : Fmt) (neg : Bool) (m : Nat) : Nat :=
  match f.flt with
  | some fl => signed fl neg m
  | none => if neg then (2 * 2 ^ (f.width - 1) - m) % (2 * 2 ^ (f.width - 1)) else m

/-- An encoding stands for a finite magnitude with a sign. -/
def StandsFor (f : Fmt) (k : Nat) (neg : Bool) (m : Nat) : Prop :=
  m ≤ fmtTop f neg ∧ fvRat (decodeElt f k) = signRat neg * fmtMag f m

theorem two_pow_width (f : Fmt) : 2 ^ f.width = 2 * 2 ^ (f.width - 1) := by cases f <;> rfl

theorem flt_bounds {f : Fmt} {fl : Flt} (h : f.flt = some fl) : fl.width = f.width ∧ fl.maxMag < 2 ^ (f.width - 1) := by
  cases f <;> cases h <;> decide

theorem fmtMag_monotone (f : Fmt) : Monotone (fmtMag f) := by
  unfold fmtMag
  split
  · exact fltMag_monotone _
  · exact Nat.mono_cast

theorem fmtMag_zero (f : Fmt) : fmtMag f 0 = 0 := by
  cases hf : f.flt with
  | some fl => simp only [fmtMag, hf, fltMag_zero]
  | none => simp only [fmtMag, hf, Nat.cast_zero]

theorem decodeElt_of_flt {f : Fmt} {fl : Flt} (h : f.flt = some fl) (k : Nat) : decodeElt f k = decodeFlt fl k := by
  rw [decodeElt, h]

theorem decodeElt_of_int {f : Fmt} (h : f.flt = none) (k : Nat) :
    decodeElt f k = if k < 2 ^ (f.width - 1) then .fin false k 1 0 else .fin true (2 * 2 ^ (f.width - 1) - k) 1 0 := by
  rw [decodeElt, h]

/-- The encoding of a finite magnitude with a sign is a finite code of the format, and stands for it. -/
theorem fmtCode_standsFor {f : Fmt} {neg : Bool} {m : Nat} (hm : m ≤ fmtTop f neg) :
    fmtCode f neg m < 2 ^ f.width ∧ fvNonfinite (decodeElt f (fmtCode f neg m)) = false ∧ StandsFor f (fmtCode f neg m) neg m := by
  have hwidth := two_pow_width f
  have hpos := Nat.two_pow_pos (f.width - 1)
  unfold StandsFor
  cases hf : f.flt with
  | some fl =>
    obtain ⟨hflw, hmax⟩ := flt_bounds hf
    simp only [fmtTop, fmtCode, fmtMag, hf, decodeElt_of_flt hf] at hm ⊢
    obtain ⟨hfin, hval⟩ := decodeFlt_signed neg hm (hflw ▸ hmax)
    refine ⟨?_, hfin, hm, hval⟩
    unfold signed
    split
    · rw [hflw]; omega
    · omega
  | none =>
    simp only [fmtTop, fmtCode, fmtMag, hf, decodeElt_of_int hf] at hm ⊢
    generalize 2 ^ (f.width - 1) = h at *
    cases neg with
    | false =>
      simp only [Bool.false_eq_true, if_false] at hm ⊢
      rw [if_pos (by omega)]
      exact ⟨by omega, rfl, hm, by simp [fvRat, signRat]⟩
    | true =>
      simp only [if_true] at hm ⊢
      rcases Nat.eq_zero_or_pos m with rfl | hm0
      · rw [Nat.sub_zero, Nat.mod_self, if_pos hpos]
        exact ⟨by omega, rfl, hm, by simp [fvRat]⟩
      · rw [Nat.mod_eq_of_lt (by omega), if_neg (by omega), Nat.sub_sub_self (by omega)]
        exact ⟨by omega, rfl, hm, by simp [fvRat, signRat]⟩

/-- A finite code of a floating format is an encoding with a sign. -/
theorem exists_signed_of_finite {f : Flt} {k : Nat} (hwidth : 0 < f.width) (hk : k < 2 ^ f.width) (hfin : fvNonfinite (decodeFlt f k) = false) :
    ∃ neg m, m ≤ f.maxMag ∧ k = signed f neg m := by
  have hmag : k % 2 ^ (f.width - 1) ≤ f.maxMag := by
    by_contra hover
    rw [decodeFlt] at hfin
    simp only [if_neg hover] at hfin
    split at hfin <;> cases hfin
  have hdiv := Nat.div_add_mod' k (2 ^ (f.width - 1))
  have hdouble : 2 ^ f.width = 2 ^ (f.width - 1) * 2 := by rw [← Nat.pow_succ, Nat.succ_eq_add_one, Nat.sub_add_cancel hwidth]
  have htwo : k / 2 ^ (f.width - 1) < 2 := Nat.div_lt_of_lt_mul (hdouble ▸ hk)
  rcases Nat.le_one_iff_eq_zero_or_eq_one.mp (Nat.le_of_lt_succ htwo) with h | h
  · exact ⟨false, _, hmag, by rw [signed, if_neg Bool.false_ne_true]; rw [h] at hdiv; omega⟩
  · exact ⟨true, _, hmag, by rw [signed, if_pos rfl]; rw [h] at hdiv; omega⟩

/-- Every finite code of a format stands for a finite magnitude with a sign. -/
theorem exists_standsFor_of_finite {f : Fmt} {k : Nat} (hk : k < 2 ^ f.width) (hfin : fvNonfinite (decodeElt f k) = false) :
    ∃ neg m, StandsFor f k neg m := by
  cases hf : f.flt with
  | some fl =>
    obtain ⟨hflw, hmax⟩ := flt_bounds hf
    have hwidth : 0 < fl.width := by rw [hflw]; cases f <;> decide
    rw [decodeElt_of_flt hf] at hfin
    obtain ⟨neg, m, hm, rfl⟩ := exists_signed_of_finite hwidth (hflw ▸ hk) hfin
    have htop : m ≤ fmtTop f neg := by simpa only [fmtTop, hf] using hm
    have hcode : fmtCode f neg m = signed fl neg m := by simp only [fmtCode, hf]
    exact ⟨neg, m, hcode ▸ (fmtCode_standsFor htop).2.2⟩
  | none =>
    rw [two_pow_width] at hk
    simp only [StandsFor, fmtTop, fmtMag, hf, decodeElt_of_int hf]
    split
    next hlow => exact ⟨false, k, Nat.le_sub_one_of_lt hlow, by simp [fvRat, signRat]⟩
    next hhigh => exact ⟨true, 2 * 2 ^ (f.width - 1) - k, by rw [if_pos rfl]; omega, by simp [fvRat, signRat]⟩

/-! ### The grinder (R66) -/

/-- R65 to R67: the magnitude code that the grinder rounds a finite input to, with the range taken as unlimited. -/
def grindMag (f : Fmt) (b : RoundBy) (neg : Bool) (n d : Nat) (e : Int) : Nat :=
  match f.flt with
  | some fl =>
    let p := gridSplit n d e (gridExp fl n d e)
    if n = 0 then 0 else gridCode fl (roundBy b neg p.1 p.2.1 p.2.2) (gridExp fl n d e)
  | none =>
    let p := gridSplit n d e 0
    roundBy b neg p.1 p.2.1 p.2.2

/-- R66: the grinder saturates a finite input in the range of its sign. -/
theorem grind_fin (f : Fmt) (b : RoundBy) (neg : Bool) (n d : Nat) (e : Int) :
    (grind f b (.fin neg n d e)).1 = fmtCode f neg (min (grindMag f b neg n d e) (fmtTop f neg)) := by
  cases hf : f.flt with
  | some fl =>
    simp only [grind, grindMag, fmtCode, fmtTop, hf]
    by_cases hn : n = 0
    · rw [if_pos hn, if_pos hn, Nat.zero_min]
    rw [if_neg hn, if_neg hn, apply_ite Prod.fst]
    split
    next hc => rw [min_eq_left hc]
    next hc => rw [min_eq_right (not_le.mp hc).le]
  | none =>
    have hpos := Nat.two_pow_pos (f.width - 1)
    simp only [grind, grindMag, fmtCode, fmtTop, hf]
    generalize 2 ^ (f.width - 1) = h at *
    cases neg with
    | false =>
      simp only [Bool.false_eq_true, if_false]
      rw [apply_ite Prod.fst]
      split
      next hm => rw [min_eq_left (by omega)]
      next hm => rw [min_eq_right (by omega)]
    | true =>
      simp only [if_true]
      rw [apply_ite Prod.fst]
      split
      next hm => rw [min_eq_left hm]
      next hm =>
        rw [min_eq_right (by omega), Nat.mod_eq_of_lt (by omega)]
        omega

theorem roundsOnto_zero (f : Flt) : RoundsOnto (fltMag f) 0 0 := by
  have hnext : 0 ≤ fltMag f 1 := fltMag_zero f ▸ fltMag_monotone f (Nat.zero_le 1)
  exact ⟨0, .inl rfl, (fltMag_zero f).le, hnext, le_rfl, by simp [fltMag_zero]⟩

/-- R53, R65: to nearest, the grinder's magnitude code is one of the two around the input, and as near to it as either. -/
theorem roundsOnto_grindMag (f : Fmt) (neg : Bool) (n : Nat) {d : Nat} (hd : 0 < d) (e : Int) :
    RoundsOnto (fmtMag f) (n / d * 2 ^ e) (grindMag f .nearest neg n d e) := by
  cases hf : f.flt with
  | some fl =>
    simp only [grindMag, fmtMag, hf]
    split
    next hn => simpa [hn] using roundsOnto_zero fl
    next hn => exact roundsOnto_gridCode fl hn hd e
  | none =>
    simp only [grindMag, fmtMag, hf]
    have hround := roundsOnto_roundNearest (V := Nat.cast) (base := 0) (q := (gridSplit n d e 0).1) (u := 2 ^ (0 : Int))
      (by positivity) (gridSplit_rest_lt n hd e 0) (by simp) (by simp)
    rwa [← gridSplit_value n hd e 0, Nat.zero_add] at hround

theorem abs_signRat_mul (neg : Bool) (x : ℚ) : |signRat neg * x| = |x| := by
  cases neg
  · simp [signRat]
  · simp [signRat]

/-- Of two magnitudes with opposite signs, the distance is their sum: a zero is nearer to either. -/
theorem abs_sub_opposite {neg sgn : Bool} (h : sgn ≠ neg) {x y : ℚ} (hx : 0 ≤ x) (hy : 0 ≤ y) :
    |signRat neg * x - signRat sgn * y| = x + y := by
  have hopposite : signRat sgn = -signRat neg := by
    rw [Bool.eq_not_of_ne h]
    cases neg
    · rfl
    · exact (neg_neg 1).symm
  rw [hopposite, neg_mul, sub_neg_eq_add, ← mul_add, abs_signRat_mul, abs_of_nonneg (by positivity)]

/-- The nearest magnitude in the range of its sign is the nearest of both signs. -/
theorem nearest_of_standsFor {f : Fmt} {neg sgn : Bool} {x : ℚ} {c j k m : Nat} (hx : 0 ≤ x) (hc : RoundsOnto (fmtMag f) x c)
    (hj : StandsFor f j neg (min c (fmtTop f neg))) (hk : StandsFor f k sgn m) :
    |signRat neg * x - fvRat (decodeElt f j)| ≤ |signRat neg * x - fvRat (decodeElt f k)| := by
  obtain ⟨-, hj⟩ := hj
  obtain ⟨hm, hk⟩ := hk
  rw [hj, hk, ← mul_sub, abs_signRat_mul]
  by_cases hsame : sgn = neg
  · subst hsame
    rw [← mul_sub, abs_signRat_mul]
    exact hc.nearest_saturated (fmtMag_monotone f) hm
  · have hpos : 0 ≤ fmtMag f m := fmtMag_zero f ▸ fmtMag_monotone f (Nat.zero_le m)
    have hzero := hc.nearest_saturated (fmtMag_monotone f) (Nat.zero_le (fmtTop f neg))
    rw [fmtMag_zero, sub_zero, abs_of_nonneg hx] at hzero
    rw [abs_sub_opposite hsame hx hpos]
    linarith

/-- Settles O59: the grinder rounds the magnitude to the nearest and saturates it, and no code of the other sign is nearer. -/
theorem grinderRoundsToNearest : Obligations.GrinderRoundsToNearest := by
  intro f neg n d e hd
  obtain ⟨hlt, hfin, hstands⟩ := fmtCode_standsFor (f := f) (neg := neg) (min_le_right (grindMag f .nearest neg n d e) _)
  rw [grind_fin]
  refine ⟨hlt, hfin, fun k hk hkfin => ?_⟩
  obtain ⟨sgn, m, hkm⟩ := exists_standsFor_of_finite hk hkfin
  have hinput : fvRat (.fin neg n d e) = signRat neg * (n / d * 2 ^ e) := mul_assoc _ _ _
  rw [hinput]
  exact nearest_of_standsFor (by positivity) (roundsOnto_grindMag f neg n hd e) hstands hkm

end Sys2Proof.Machine
end

section
/-! PROOFS. Commits (O36): what the steps of a commit do for a command that is no SNAPSHOT, no SIGNAL and no collective and writes at no
peer; then what its commit leaves. -/

namespace Sys2Proof.Machine

/-! ### A command that is no SNAPSHOT (R325) -/

theorem taking_of_not_snapshot {c : Cmd} (h : isSnapshot c.desc = false) : taking c = false := by simp [taking, h]

theorem snapSeal_of_not_snapshot {c : Cmd} (s : State) (h : isSnapshot c.desc = false) : snapSeal s c = c := by
  simp [snapSeal, taking_of_not_snapshot h]

theorem snapCommit_of_not_snapshot {c : Cmd} (s : State) (h : isSnapshot c.desc = false) : snapCommit s c = s := by
  simp [snapCommit, h]

theorem snapEnd_of_not_snapshot {c : Cmd} (s : State) (h : isSnapshot c.desc = false) : snapEnd s c = s := by
  simp [snapEnd, taking_of_not_snapshot h]

/-! ### The end of a committed command (R48, R237) -/

theorem closeStep_of_no_coll {c : Cmd} (s : State) (h : c.coll = none) : closeStep s c = s := by simp [closeStep, h]

theorem acked_of_none_due {c : Cmd} (hdue : c.acksDue = []) (hcoll : c.coll = none) : acked c = true := by simp [acked, hdue, hcoll]

/-- R41, R48: the status of a command that has committed. -/
def committedStatus (w : Work) : Status := if w.reseq then .resequencedOk else .ok

/-- R237: a committed command that waits for no acknowledgement has its status. -/
theorem settle_acked {c : Cmd} (s : State) (hstage : c.stage = .committed) (hdue : c.acksDue = []) (hcoll : c.coll = none)
    (hsnap : isSnapshot c.desc = false) (hsignal : isSignal c.desc = false) :
    settle s c = setCmd (unreserve (release s c) c) (decided s c (committedStatus c.work) 0 c.work.result) := by
  have hsettles : (decide (c.stage = .committed) && acked c && !isSignal c.desc) = true := by
    simp [hstage, acked_of_none_due hdue hcoll, hsignal]
  rw [settle, if_pos hsettles, snapEnd_of_not_snapshot s hsnap, closeStep_of_no_coll s hcoll]
  rfl

/-! ### Peers (R297) -/

/-- The peer pages with that of a line among them. -/
def notePeerPage (ps : List (Nat × Nat)) (l : Nat) : List (Nat × Nat) :=
  if ps.contains (gaMod (64 * l), pageOf (64 * l)) then ps else ps ++ [(gaMod (64 * l), pageOf (64 * l))]

theorem peerPages_eq (s : State) (cs : List Host.Cell) : peerPages s cs = ((cellLines cs).filter (peerLine s)).foldl notePeerPage [] := rfl

theorem notePeerPage_ne_nil (ps : List (Nat × Nat)) (l : Nat) : notePeerPage ps l ≠ [] := by
  unfold notePeerPage
  split
  next hmem =>
    rintro rfl
    simp at hmem
  next => simp

theorem eq_nil_of_foldl_notePeerPage {ls : List Nat} {ps : List (Nat × Nat)} (h : ls.foldl notePeerPage ps = []) : ps = [] ∧ ls = [] := by
  induction ls generalizing ps with
  | nil => exact ⟨h, rfl⟩
  | cons l ls ih => exact absurd (ih h).1 (notePeerPage_ne_nil ps l)

theorem peerLines_eq_nil {s : State} {cs : List Host.Cell} (h : peerPages s cs = []) : (cellLines cs).filter (peerLine s) = [] :=
  (eq_nil_of_foldl_notePeerPage (peerPages_eq s cs ▸ h)).2

theorem peerLine_congr {s t : State} (h : t.cset = s.cset) : peerLine t = peerLine s := by
  funext l
  simp only [peerLine, peerCarafe, selfId, h]

/-- R297: a commit that writes at no peer sends nothing. -/
theorem sendCommits_local {s : State} {cs : List Host.Cell} (c : Cmd) (h : (cellLines cs).filter (peerLine s) = []) :
    sendCommits s c cs [] = s := by
  simp [sendCommits, sendWrites, seqAll, h]

/-! ### What becomes visible (R71, R211, R238) -/

theorem clearPoison_nil (p : List Nat) : clearPoison p [] = p := by
  have hcovers : ∀ l, coversLine [] l = false := fun _ => rfl
  simp [clearPoison, hcovers]

theorem mirror_nil (s : State) : mirror s [] = s := by
  unfold mirror
  split
  · simp [storeCells, mapply, clearPoison_nil]
  · rfl

/-- R197: a page, marked as accessed where its number is listed. -/
def markTouched (ps : List Nat) (k : Nat) (e : Page) : Page := if ps.contains k then { e with touched := true } else e

theorem touchPages_pool (s : State) (ps : List Nat) : (touchPages s ps).pool = s.pool.map (fun e => (e.1, markTouched ps e.1 e.2)) := by
  refine List.map_congr_left fun e _ => ?_
  unfold markTouched
  split
  · rfl
  · rfl

theorem markTouched_state (ps : List Nat) (k : Nat) (e : Page) : (markTouched ps k e).state = e.state := by
  unfold markTouched
  split
  · rfl
  · rfl

/-- R197: marking pages as accessed keeps their states. -/
theorem pageState_touchPages (s : State) (ps : List Nat) (p : Nat) : pageState (touchPages s ps) p = pageState s p := by
  rw [pageState, touchPages_pool, aget?_map, Option.map_map, pageState]
  exact congrArg (Option.map · (aget? s.pool p)) (funext (markTouched_state ps p))

/-- R238: the state with a command's work visible, the tables that it acquired dropped and its pages marked, before its status. -/
def madeVisible (s : State) (c : Cmd) (heads : List Nat) : State :=
  let s1 := storeCells s (allCells s c.work)
  let s2 := dropTables { s1 with brMem := mapply s1.brMem c.work.brWrites
                                 brPoison := s1.brPoison.filter (fun b => !(c.work.brWrites.any (fun w => w.1 / 2 ^ 21 == b))) } heads
  trace (touchPages s2 (pagesOf s2 (allRanges s2 c))) 4 c 0

/-- R238: a command that has committed and waits for no peer. -/
def committedCmd (c : Cmd) : Cmd := { c with stage := .committed, acksDue := [], held := [], accs := [] }

/-- R71, R211, R238: what a commit that changes no branch record and writes at no peer leaves, for a command's work. -/
def workVisible (s t : State) (w : Work) : Prop :=
  t.mem = mapply s.mem (allCells s w) ∧ t.poison = clearPoison s.poison (allCells s w) ∧ t.brMem = mapply s.brMem w.brWrites
    ∧ t.branches = s.branches ∧ t.links = s.links ∧ ∀ p, pageState t p = pageState s p

theorem madeVisible_workVisible (s : State) (c : Cmd) (heads : List Nat) : workVisible s (madeVisible s c heads) c.work := by
  unfold madeVisible
  dsimp only
  generalize hs2 : dropTables _ heads = s2
  obtain ⟨r, htrace⟩ := trace_frame (touchPages s2 (pagesOf s2 (allRanges s2 c))) 4 c 0
  have hstates := pageState_touchPages s2 (pagesOf s2 (allRanges s2 c))
  rw [htrace]
  subst hs2
  exact ⟨rfl, rfl, rfl, rfl, rfl, hstates⟩

theorem madeVisible_cset (s : State) (c : Cmd) (heads : List Nat) : (madeVisible s c heads).cset = s.cset := by
  unfold madeVisible
  dsimp only
  obtain ⟨r, htrace⟩ := trace_frame (touchPages _ _) 4 c 0
  rw [htrace]
  rfl

theorem madeVisible_cmds (s : State) (c : Cmd) (heads : List Nat) : (madeVisible s c heads).cmds = s.cmds := by
  unfold madeVisible
  dsimp only
  rw [trace_cmds]
  rfl

/-- R238: the commit of a command that is no SNAPSHOT, where it changes no branch record and writes at no peer. -/
theorem makeVisible_local {s : State} {c : Cmd} (heads : List Nat) (hsnap : isSnapshot c.desc = false)
    (hlocal : peerPages s (allCells s c.work) = []) :
    makeVisible s c [] heads = settle (setCmd (madeVisible s c heads) (committedCmd c)) (committedCmd c) := by
  have hpeers : (cellLines (allCells s c.work)).filter (peerLine (madeVisible s c heads)) = [] := by
    rw [peerLine_congr (madeVisible_cset s c heads)]
    exact peerLines_eq_nil hlocal
  have hmods : ((peerPages s (c.work.writes ++ addedStats s c.work)).map Prod.fst).dedup = [] := by
    rw [show peerPages s (c.work.writes ++ addedStats s c.work) = [] from hlocal]
    rfl
  have hsend := sendCommits_local c hpeers
  simp only [madeVisible, allCells] at hsend
  simp only [makeVisible, applyBrs, List.foldl_nil, List.filterMap_nil, mirror_nil, snapCommit_of_not_snapshot _ hsnap, hmods, hsend]
  rfl

/-- R297: a command whose cells meet nothing and lie at no peer commits at once. -/
theorem commitHeld_local {s : State} {c : Cmd} (ops : List BrOp) (heads : List Nat) (s0 : State) (c0 : Cmd)
    (hfine : meetCells s (allCells s c.work) = .fine) (hlocal : peerPages s (allCells s c.work) = []) :
    commitHeld s c ops heads s0 c0 = makeVisible s c ops heads := by
  unfold allCells at hfine hlocal
  simp [commitHeld, hfine, hlocal]

/-- R92, R238: a commit that is due and whose checks pass in the state as it is. -/
theorem commandCommit_ready {s : State} {n i : Nat} {c : Cmd} {w : Work} {ops : List BrOp} {heads : List Nat} (hdue : commitDue s n i c)
    (hsnap : isSnapshot c.desc = false) (hfinal : finalOf s c = .ready s w ops heads) :
    commandCommit n i s = commitHeld s { c with work := w } ops heads s c := by
  obtain ⟨hfind, hstage, hpeer, hawaits, htables⟩ := hdue
  have hseal := snapSeal_of_not_snapshot (c := { c with work := w }) s hsnap
  simp only [commandCommit, hfind, if_pos hstage, commitIssued, hawaits, htables, hfinal, hseal]
  split
  next st herror => exact absurd (herror.symm.trans hpeer) (Option.some_ne_none st)
  next => rfl

/-- R237: the release of a command's cluster and of its reservations leaves what its commit made visible. -/
theorem workVisible.settled {s t : State} {w : Work} (h : workVisible s t w) (c d : Cmd) :
    workVisible s (setCmd (unreserve (release t c) c) d) w := by
  obtain ⟨_, _, hrelease⟩ := release_frame t c
  rw [hrelease]
  exact h

/-- R237: the end of a committed command decides its status, and touches no other command. -/
theorem settle_acked_leaves {t : State} {c d : Cmd} (hfind : findCmd t c.ctx c.idx = some d) (hstage : c.stage = .committed)
    (hdue : c.acksDue = []) (hcoll : c.coll = none) (hsnap : isSnapshot c.desc = false) (hsignal : isSignal c.desc = false) :
    decidedAs (settle t c) c.ctx c.idx (committedStatus c.work) c.work.result
      ∧ ∀ a b, ¬ (c.ctx = a ∧ c.idx = b) → findCmd (settle t c) a b = findCmd t a b := by
  have hfreed : ∀ a b, findCmd (unreserve (release t c) c) a b = findCmd t a b := fun a b => by
    rw [findCmd_unreserve, findCmd_release]
  rw [settle_acked t hstage hdue hcoll hsnap hsignal]
  exact ⟨decidedAs_setCmd ((hfreed _ _).trans hfind) ⟨rfl, rfl⟩ _ _ _,
    fun a b hother => (findCmd_setCmd_ne (decided t c _ _ _) hother).trans (hfreed a b)⟩

/-- R71, R211, R237, R238: what the commit leaves of a command that is no SNAPSHOT, no SIGNAL and no collective and writes at no peer. -/
theorem makeVisible_leaves {s : State} {c d : Cmd} (heads : List Nat) (hfind : findCmd s c.ctx c.idx = some d)
    (hsnap : isSnapshot c.desc = false) (hsignal : isSignal c.desc = false) (hcoll : c.coll = none)
    (hlocal : peerPages s (allCells s c.work) = []) :
    decidedAs (makeVisible s c [] heads) c.ctx c.idx (committedStatus c.work) c.work.result
      ∧ workVisible s (makeVisible s c [] heads) c.work
      ∧ ∀ a b, ¬ (c.ctx = a ∧ c.idx = b) → findCmd (makeVisible s c [] heads) a b = findCmd s a b := by
  have hkept : ∀ a b, findCmd (madeVisible s c heads) a b = findCmd s a b := fun a b => by
    rw [findCmd, madeVisible_cmds, findCmd]
  have hcommitted := findCmd_setCmd_self (committedCmd c) ((hkept _ _).trans hfind) rfl rfl
  have hvisible : workVisible s (setCmd (madeVisible s c heads) (committedCmd c)) c.work := madeVisible_workVisible s c heads
  obtain ⟨hdecided, hothers⟩ := settle_acked_leaves (c := committedCmd c) hcommitted rfl rfl hcoll hsnap hsignal
  rw [makeVisible_local heads hsnap hlocal]
  refine ⟨hdecided, ?_, fun a b hother => ?_⟩
  · rw [settle_acked (c := committedCmd c) _ rfl rfl hcoll hsnap hsignal]
    exact hvisible.settled (committedCmd c) _
  · exact (hothers a b hother).trans ((findCmd_setCmd_ne (committedCmd c) hother).trans (hkept a b))

/-- Settles O36: the commit's checks pass in the state as it is, so all of the work becomes visible at once and the command has its status. -/
theorem commitMakesVisible : Obligations.CommitMakesVisible := by
  intro s n i c w heads hdue hsnap hsignal hcoll _ hfinal hfine hlocal
  have ⟨hfind, _⟩ := hdue
  obtain ⟨rfl, rfl⟩ := findCmd_key hfind
  have hstep := (commandCommit_ready hdue hsnap hfinal).trans (commitHeld_local (c := { c with work := w }) [] heads s c hfine hlocal)
  obtain ⟨hdecided, ⟨hmem, hpoison, hbrMem, hbranches, hlinks, hpages⟩, hothers⟩ :=
    makeVisible_leaves (c := { c with work := w }) heads hfind hsnap hsignal hcoll hlocal
  exact ⟨_, congrArg Host.Outcome.next hstep, hdecided, hmem, hpoison, hbrMem, hbranches, hlinks, hpages, hothers⟩

end Sys2Proof.Machine
end

section
/-! PROOFS. The issue of the attention, sequence-cache and branch commands (O32): the issue of a command that records generations, and what
each chapter's run moves of its command. -/

namespace Sys2Proof.Machine

/-! ### What the end of issue leaves of a command that reads tables (R91, R237) -/

/-- R91, R119, R138: the issue of a command that reads tables moves its work, the generations and lead entries that it has recorded, its
count of pages and its list of tables or branches, and nothing else of it. -/
def tableMoves (c d : Cmd) : Prop :=
  d = { c with work := d.work, gens := d.gens, leadGens := d.leadGens, pages := d.pages, list := d.list }

theorem tableMoves.keeps {c d : Cmd} (h : tableMoves c d) :
    d.ctx = c.ctx ∧ d.idx = c.idx ∧ d.pos = c.pos ∧ d.status = c.status ∧ d.desc = c.desc ∧ d.epoch = c.epoch := by
  rw [h]
  exact ⟨rfl, rfl, rfl, rfl, rfl, rfl⟩

/-- R237, R238: what `issueCmd` leaves where the run has recorded generations and lists beside its work, which `issueMoves` does not allow. -/
theorem issueCmd_issued {sp : CmdSpec} {s : State} {c d : Cmd} (hfind : findCmd s c.ctx c.idx = some c) (hpeer : c.peerError = none)
    (hawaits : awaits s c = false) (hrows : rowsFree s c = true) (hrun : sp.run s c = .done d) (hmoves : tableMoves c d) :
    issued s (issueCmd sp s c) c d := by
  obtain ⟨hctx, hidx, hpos, hstatus, hdesc, hepoch⟩ := hmoves.keeps
  rw [issueCmd_done sp s c d hpeer hawaits hrows hrun]
  refine ⟨⟨_, findCmd_setCmd_self (d := c) _ (by simpa using hfind) hctx hidx, rfl, hstatus, hdesc, rfl, rfl, rfl, rfl, hepoch⟩,
    fun n i hother => ?_, fun q hq => ?_, fun q hq => ?_, ?_⟩
  · rw [findCmd_setCmd_ne _ (by rwa [hctx, hidx]), findCmd_release, findCmd_countRows]
  · rw [clusterOf_setCmd, clusterOf_release, if_pos hq]
    exact freeCluster_rowOwner_ne _ c
  · rw [clusterOf_setCmd, clusterOf_release, if_neg hq, clusterOf_countRows_ne s (by rwa [hpos])]
  · obtain ⟨ks, rs, hcount⟩ := countRows_frame s d
    obtain ⟨ks', rs', hrelease⟩ := release_frame (countRows s d) c
    rw [hrelease, hcount]
    rfl

/-- A row whose command's issue is due ends it with what its run has come to. -/
theorem tableRow_issued {owns : Desc → Bool} {sp : CmdSpec} {s : State} {n i cls op : Nat} {c d : Cmd} (h : issueDue s n i cls op c)
    (howns : owns c.desc = true) (hfrom : sp.from_ = .placed) (hrun : sp.run s c = .done d) (hmoves : tableMoves c d) :
    issued s (descStep owns sp n i s) c d := by
  obtain ⟨hfind, -, -, hplaced, hpeer, hawaits, hrows⟩ := h
  obtain ⟨rfl, rfl⟩ := findCmd_key hfind
  rw [descStep_issue owns sp s _ _ c hfind howns (hplaced.trans hfrom.symm) (by rw [hplaced]; decide)]
  exact issueCmd_issued hfind hpeer hawaits hrows hrun hmoves

theorem isOp_issueDue {s : State} {n i cls op : Nat} {c : Cmd} (h : issueDue s n i cls op c) : isOp cls op c.desc = true := by
  obtain ⟨-, hcls, hop, -⟩ := h
  exact isOp_listed hcls hop

/-! ### What each run moves (R91, R94, R104, R110 to R115, R126, R136 to R138)

Of the ends of a run's transaction, the good one alone is `.done`. -/

theorem atRun_moves {s : State} {c d : Cmd} (h : atRun s c = .done d) : tableMoves c d := by
  dsimp only [atRun] at h
  split at h <;> cases h
  rfl

theorem bwdRun_moves {s : State} {c d : Cmd} (h : bwdRun s c = .done d) : tableMoves c d := by
  dsimp only [bwdRun] at h
  split at h <;> cases h
  rfl

theorem seqIssue_moves {s : State} {c d : Cmd} {used writes : List (Nat × Nat)} {agrees : Head → Bool} {heads : List Nat}
    (h : seqIssue s c used writes agrees heads = .done d) : tableMoves c d := by
  dsimp only [seqIssue] at h
  split at h <;> cases h
  rfl

theorem fkRun_moves {s : State} {c d : Cmd} (h : fkRun s c = .done d) : tableMoves c d := by
  dsimp only [fkRun] at h
  split at h <;> cases h
  rfl

theorem pnRun_moves {s : State} {c d : Cmd} (h : pnRun s c = .done d) : tableMoves c d := by
  dsimp only [pnRun] at h
  split at h <;> cases h
  rfl

theorem prRun_moves {s : State} {c d : Cmd} (h : prRun s c = .done d) : tableMoves c d := by
  dsimp only [prRun] at h
  split at h <;> cases h
  rfl

/-- R136: a PARK of a branch that is not parked, and an UNPARK of one that is, come to their end with the command as it was. -/
theorem pkRun_fine {s : State} {c : Cmd} {r : Branch} (unpark : Bool) (hbranch : branchOf s (pkBranch c.desc) = some r)
    (hparked : r.parked = unpark)
    (h : meet s (if unpark && r.granules != 0 then [(r.saveAddr.toNat, r.granules * 4096)] else [])
      (if unpark then [] else saveRange s c.desc) = .fine) :
    pkRun unpark s c = .done c := by
  simp only [pkRun, hbranch, hparked, bne_self_eq_false, h]
  rfl

theorem isPark_issueDue {s : State} {n i : Nat} {c : Cmd} {unpark : Bool} (h : issueDue s n i 3 8 c) (hdir : pkUnpark c.desc = unpark) :
    isPark unpark c.desc = true := by
  simp [isPark, isOp_issueDue h, hdir]

/-! ### The rows -/

theorem park_issues (s : State) (n i : Nat) (c : Cmd) (r : Branch) (hdue : issueDue s n i 3 8 c) (hdir : pkUnpark c.desc = false)
    (hbranch : branchOf s (pkBranch c.desc) = some r) (hparked : r.parked = false) (h : meet s [] (saveRange s c.desc) = .fine) :
    ∃ t, exec (.park n i) s = .next t ∧ issued s t c c :=
  ⟨_, rfl, tableRow_issued (sp := pkSpec false) hdue (isPark_issueDue hdue hdir) rfl (pkRun_fine false hbranch hparked h) rfl⟩

theorem unpark_issues (s : State) (n i : Nat) (c : Cmd) (r : Branch) (hdue : issueDue s n i 3 8 c) (hdir : pkUnpark c.desc = true)
    (hbranch : branchOf s (pkBranch c.desc) = some r) (hparked : r.parked = true)
    (h : meet s (if r.granules = 0 then [] else [(r.saveAddr.toNat, r.granules * 4096)]) [] = .fine) :
    ∃ t, exec (.unpark n i) s = .next t ∧ issued s t c c := by
  have hsave : meet s (if (true && r.granules != 0) = true then [(r.saveAddr.toNat, r.granules * 4096)] else []) [] = .fine := by
    simpa [ite_not] using h
  exact ⟨_, rfl, tableRow_issued (sp := pkSpec true) hdue (isPark_issueDue hdue hdir) rfl (pkRun_fine true hbranch hparked hsave) rfl⟩

/-- Settles O32: each row is the driver's end of issue with what its own run has recorded. -/
theorem tableRowsIssue : Obligations.TableRowsIssue :=
  ⟨fun _ _ _ _ _ hdue h => ⟨_, rfl, tableRow_issued (sp := atSpec) hdue (isOp_issueDue hdue) rfl h (atRun_moves h)⟩,
    fun _ _ _ _ _ hdue h => ⟨_, rfl, tableRow_issued (sp := bwdSpec) hdue (isOp_issueDue hdue) rfl h (bwdRun_moves h)⟩,
    fun _ _ _ _ _ hdue h => ⟨_, rfl, tableRow_issued (sp := apSpec) hdue (isOp_issueDue hdue) rfl h (seqIssue_moves h)⟩,
    fun _ _ _ _ _ hdue h => ⟨_, rfl, tableRow_issued (sp := tuSpec) hdue (isOp_issueDue hdue) rfl h (seqIssue_moves h)⟩,
    fun _ _ _ _ _ hdue h => ⟨_, rfl, tableRow_issued (sp := vfSpec) hdue (isOp_issueDue hdue) rfl h (seqIssue_moves h)⟩,
    fun _ _ _ _ _ hdue h => ⟨_, rfl, tableRow_issued (sp := pmSpec) hdue (isOp_issueDue hdue) rfl h (seqIssue_moves h)⟩,
    fun _ _ _ _ _ hdue h => ⟨_, rfl, tableRow_issued (sp := fkSpec) hdue (isOp_issueDue hdue) rfl h (fkRun_moves h)⟩,
    fun _ _ _ _ _ hdue h => ⟨_, rfl, tableRow_issued (sp := pnSpec) hdue (isOp_issueDue hdue) rfl h (pnRun_moves h)⟩,
    fun _ _ _ _ _ hdue h => ⟨_, rfl, tableRow_issued (sp := prSpec) hdue (isOp_issueDue hdue) rfl h (prRun_moves h)⟩,
    park_issues, unpark_issues⟩

end Sys2Proof.Machine
end

section
/-! PROOFS. Look-aside fills, generation retries and halo polls (O40): what a look-up leaves of the region's buffer and counters; then each
row by its command. -/

namespace Sys2Proof.Machine

/-! ### The look-aside buffer (R86 to R88) -/

/-- R88: the entries that a look-up of a table of a generation keeps. -/
def labKept (r : Region) (head gen : Nat) : AMap LabEntry := r.lab.filter (fun e => e.2.head != head || e.2.gen == gen)

theorem mem_aput_self {α : Type} (m : AMap α) (k : Nat) (v : α) : (k, v) ∈ aput m k v := by
  induction m with
  | nil => simp [aput]
  | cons e m ih =>
    obtain ⟨a, w⟩ := e
    simp only [aput]
    split
    · simp
    · split
      · simp
      · exact List.mem_cons_of_mem _ ih

/-- R87: a fill is counted, and its entry stands in the buffer. -/
theorem labFill_leaves (r : Region) (e : LabEntry) :
    (labFill r e).cntFills = r.cntFills + 1 ∧ (labFill r e).cntHits = r.cntHits ∧ ∃ k, (k, e) ∈ (labFill r e).lab := by
  unfold labFill
  split
  · exact ⟨rfl, rfl, _, mem_aput_self _ _ _⟩
  · exact ⟨rfl, rfl, _, mem_aput_self _ _ _⟩

/-- R86: a kept entry that covers the token makes the look-up a hit. -/
theorem labLookup_hit {r : Region} {head gen token : Nat} (p : Hit)
    (h : (labKept r head gen).any (fun e => labCovers head token e.2) = true) :
    (labLookup r head gen token p).cntHits = r.cntHits + 1 ∧ (labLookup r head gen token p).cntFills = r.cntFills := by
  obtain ⟨e, hmem, hcovers⟩ := List.any_eq_true.mp h
  unfold labLookup
  dsimp only
  split
  · exact ⟨rfl, rfl⟩
  next hnone => exact absurd hcovers (List.find?_eq_none.mp hnone e hmem)

/-- R86: the entry of a page that a walker has found for a table of a generation. -/
def labEntryOf (head gen : Nat) (p : Hit) : LabEntry :=
  { head := head, gen := gen, lead := p.start, size := p.size, page := p.addr, shared := p.shared, node := p.node, ref := true }

/-- R86, R87: with no kept entry that covers the token, the look-up fills one of the table, its generation and the page found. -/
theorem labLookup_miss {r : Region} {head gen token : Nat} (p : Hit)
    (h : (labKept r head gen).any (fun e => labCovers head token e.2) = false) :
    (labLookup r head gen token p).cntFills = r.cntFills + 1 ∧ (labLookup r head gen token p).cntHits = r.cntHits
      ∧ ∃ e ∈ (labLookup r head gen token p).lab, e.2.head = head ∧ e.2.gen = gen ∧ e.2.page = p.addr ∧ e.2.lead = p.start := by
  have hnone : (labKept r head gen).find? (fun e => labCovers head token e.2) = none :=
    List.find?_eq_none.mpr (List.any_eq_false.mp h)
  have hfill : labLookup r head gen token p = labFill { r with lab := labKept r head gen } (labEntryOf head gen p) := by
    unfold labLookup
    dsimp only
    rw [← labKept, hnone]
    rfl
  obtain ⟨hfills, hhits, k, hmem⟩ := labFill_leaves { r with lab := labKept r head gen } (labEntryOf head gen p)
  rw [hfill]
  exact ⟨hfills, hhits, _, hmem, rfl, rfl, rfl, rfl⟩

/-- R86: the walker's look-up of a page that it has found. -/
theorem lookasideFill_found {s : State} {r head token gen : Nat} {p : Hit} {c : Cmd} {u : Tx} (hwalker : walkerCmd s r head = some c)
    (hfound : (labResolve head token).run (txStart s c) = .ok (some (gen, p), u)) :
    lookasideFill r head token s = modRegion s r (fun x => labLookup x head gen token p) := by
  simp only [lookasideFill, hwalker, hfound]

theorem lookasideFill_leaves (s : State) (r head token gen : Nat) (p : Hit) (c : Cmd) (u : Tx) (hwalker : walkerCmd s r head = some c)
    (hfound : (labResolve head token).run (txStart s c) = .ok (some (gen, p), u)) :
    ∃ t, exec (.lookasideFill r head token) s = .next t
      ∧ ((labKept (regionOf s r) head gen).any (fun e => labCovers head token e.2) = true →
          (regionOf t r).cntHits = (regionOf s r).cntHits + 1 ∧ (regionOf t r).cntFills = (regionOf s r).cntFills)
      ∧ ((labKept (regionOf s r) head gen).any (fun e => labCovers head token e.2) = false →
          (regionOf t r).cntFills = (regionOf s r).cntFills + 1 ∧ (regionOf t r).cntHits = (regionOf s r).cntHits
          ∧ ∃ e ∈ (regionOf t r).lab, e.2.head = head ∧ e.2.gen = gen ∧ e.2.page = p.addr ∧ e.2.lead = p.start)
      ∧ (∀ o, o ≠ r → regionOf t o = regionOf s o) ∧ t = { s with regions := t.regions } := by
  have hregion : regionOf (modRegion s r (fun x => labLookup x head gen token p)) r = labLookup (regionOf s r) head gen token p := by
    rw [regionOf_modRegion, if_pos rfl]
  refine ⟨_, congrArg Host.Outcome.next (lookasideFill_found hwalker hfound), fun h => ?_, fun h => ?_, fun o ho => ?_, rfl⟩
  · rw [hregion]
    exact labLookup_hit p h
  · rw [hregion]
    exact labLookup_miss p h
  · rw [regionOf_modRegion, if_neg ho]

/-! ### Retries and polls (R91, R177) -/

theorem generationRetry_due (s : State) (n i : Nat) (c : Cmd) (hfind : findCmd s n i = some c) (hfailed : c.mismatch = true)
    (hdue : c.retryAt.toNat ≤ s.localTime.toNat) :
    ∃ t, exec (.generationRetry n i) s = .next t ∧ findCmd t n i = some { c with mismatch := false } ∧ t = { s with cmds := t.cmds } := by
  obtain ⟨hctx, hidx⟩ := findCmd_key hfind
  have hstep : generationRetry n i s = setCmd s { c with mismatch := false } := by simp [generationRetry, hfind, hfailed, hdue]
  exact ⟨_, congrArg Host.Outcome.next hstep, findCmd_setCmd_self (d := c) _ hfind hctx hidx, rfl⟩

/-- R177: the signal word of a WINDOW that waits for its halo rows has reached its value. -/
theorem haloSignalPoll_reached {s : State} {n i : Nat} {c : Cmd} (hfind : findCmd s n i = some c) (hcls : hClass c.desc = 1)
    (hop : hOp c.desc = 8) (hplaced : c.stage = .placed) (hwait : wnHaloWait c (wnOf c.desc) = true)
    (hmeet : meet s [((wnOf c.desc).sig, 8)] [] = .fine)
    (hvalue : (wnOf c.desc).sigValue ≤ mnat (operandMem s [((wnOf c.desc).sig, 8)]) (wnOf c.desc).sig 8) :
    haloSignalPoll n i s = setCmd s { c with haloReady := true } := by
  simp [haloSignalPoll, hfind, hcls, hop, hplaced, hwait, hmeet, hvalue]

theorem haloSignalPoll_leaves (s : State) (n i : Nat) (c : Cmd) (x : Wn) (hfind : findCmd s n i = some c) (hcls : hClass c.desc = 1)
    (hop : hOp c.desc = 8) (hplaced : c.stage = .placed) (hx : x = wnOf c.desc) (hwait : wnHaloWait c x = true)
    (hmeet : meet s [(x.sig, 8)] [] = .fine) (hvalue : x.sigValue ≤ mnat (operandMem s [(x.sig, 8)]) x.sig 8) :
    ∃ t, exec (.haloSignalPoll n i) s = .next t ∧ findCmd t n i = some { c with haloReady := true } ∧ t = { s with cmds := t.cmds } := by
  subst hx
  obtain ⟨hctx, hidx⟩ := findCmd_key hfind
  exact ⟨_, congrArg Host.Outcome.next (haloSignalPoll_reached hfind hcls hop hplaced hwait hmeet hvalue),
    findCmd_setCmd_self (d := c) _ hfind hctx hidx, rfl⟩

/-- Settles O40: what a look-up, a retry and a poll leave. -/
theorem walkerAndPolls : Obligations.WalkerAndPolls :=
  ⟨lookasideFill_leaves, generationRetry_due, haloSignalPoll_leaves⟩

end Sys2Proof.Machine
end

section
/-! PROOFS. The actions of set-up registers that a row names (O45): what each action leaves, and that a row whose write is not held performs
it at once. -/

namespace Sys2Proof.Machine

/-! ### Double words by their halves (R7) -/

/-- A double word with its low half replaced. -/
theorem w64_lowHalf (a : W64) {n : Nat} (h : n < 2 ^ 32) :
    (w64 (a.toNat / 2 ^ 32 * 2 ^ 32 + n)).toNat % 2 ^ 32 = n
      ∧ (w64 (a.toNat / 2 ^ 32 * 2 ^ 32 + n)).toNat / 2 ^ 32 = a.toNat / 2 ^ 32 := by
  have ha := a.isLt
  rw [w64, BitVec.toNat_ofNat]
  omega

/-! ### Look-aside buffers and the branch directory (R88, R118, R122, R147) -/

/-- R88: INV_ALL empties the buffer of every region. -/
theorem regionOf_invAll (s : State) (r : Nat) : regionOf (invAll s) r = { regionOf s r with lab := [] } :=
  aget_map s.regions (fun _ x => { x with lab := [] }) r {} rfl

theorem exec_invAll {s : State} (h : takesWrites s) : exec .invAll s = .next (invAll s) :=
  congrArg Host.Outcome.next (barWrite_takesWrites h _ _ _ _)

/-- R147: the registers of the directory after a write of MEM_BRANCH_DIR_0. -/
def dirWritten (s : State) (v : Nat) : State :=
  { s with regs := { s.regs with branchDirOn := bit v 0
                                 branchDir := w64 (s.regs.branchDir.toNat / 2 ^ 32 * 2 ^ 32 + v % 2 ^ 32 / 64 * 64) } }

/-- R122, R147: with no branch command in flight, a write sets the directory's registers; the records are mirrored where it enables. -/
theorem branchDirEnable_idle {s : State} (v : Nat) (h : branchOpsFly s = false) :
    branchDirEnable v s = dirWritten s v
      ∨ bit v 0 = true ∧ ∃ m p, branchDirEnable v s = { dirWritten s v with mem := m, poison := p } := by
  unfold branchDirEnable
  rw [if_neg (by simp [h])]
  dsimp only
  split
  next hon =>
    have hbit : bit v 0 = true := (Bool.and_eq_true_iff.mp hon).1
    exact .inr ⟨hbit, mirror_frame (dirWritten s v) _⟩
  next => exact .inl rfl

theorem exec_branchDirEnable {s : State} (h : takesWrites s) (v : Nat) : exec (.branchDirEnable v) s = .next (branchDirEnable v s) :=
  congrArg Host.Outcome.next (barWrite_takesWrites h _ _ _ _)

theorem branchDirEnable_leaves (s : State) (v : Nat) (h : takesWrites s) (hidle : branchOpsFly s = false) :
    ∃ t, exec (.branchDirEnable v) s = .next t
      ∧ t.regs.branchDirOn = bit v 0 ∧ t.regs.branchDir.toNat % 2 ^ 32 = v % 2 ^ 32 / 64 * 64
      ∧ t.regs.branchDir.toNat / 2 ^ 32 = s.regs.branchDir.toNat / 2 ^ 32
      ∧ (bit v 0 = false → t.mem = s.mem)
      ∧ t = { s with regs := { s.regs with branchDirOn := t.regs.branchDirOn, branchDir := t.regs.branchDir }, mem := t.mem,
                     poison := t.poison } := by
  obtain ⟨hlow, hhigh⟩ := w64_lowHalf s.regs.branchDir (n := v % 2 ^ 32 / 64 * 64) (by omega)
  refine ⟨_, exec_branchDirEnable h v, ?_⟩
  obtain hregs | ⟨hon, m, p, hmirrored⟩ := branchDirEnable_idle v hidle
  · rw [hregs]
    exact ⟨rfl, hlow, hhigh, fun _ => rfl, rfl⟩
  · rw [hmirrored]
    exact ⟨rfl, hlow, hhigh, fun hoff => absurd (hon.symm.trans hoff) (by decide), rfl⟩

theorem branchDirEnable_busy (s : State) (v : Nat) (hbusy : branchOpsFly s = true) (h : takesWrites s) :
    exec (.branchDirEnable v) s = .next s := by
  rw [exec_branchDirEnable h, branchDirEnable, if_pos hbusy]

/-! ### Access lists (R192, R193) -/

/-- A context changed twice, and no other. -/
theorem modCtx_twice_leaves (s : State) (n : Nat) (f g : Ctx → Ctx) :
    ctxOf (modCtx (modCtx s n f) n g) n = g (f (ctxOf s n)) ∧ otherCtxs s (modCtx (modCtx s n f) n g) n
      ∧ modCtx (modCtx s n f) n g = { s with ctxs := (modCtx (modCtx s n f) n g).ctxs } := by
  refine ⟨?_, fun m hm => ?_, rfl⟩
  · rw [ctxOf_modCtx, if_pos rfl, ctxOf_modCtx, if_pos rfl]
  · rw [ctxOf_modCtx, if_neg hm, ctxOf_modCtx, if_neg hm]

theorem exec_aclLoad {s : State} (h : takesWrites s) (n v : Nat) (bs : List Byte) :
    exec (.aclLoad n v bs) s = .next (aclLoad n v bs s) :=
  congrArg Host.Outcome.next (barWrite_takesWrites h _ _ _ _)

/-- R384: a context whose access list's address has been written. -/
def aclAddressed (v : Nat) (k : Ctx) : Ctx := { k with aclLo := w32 (v / 64 * 64) }

/-- R193: a context whose access list has been taken. -/
def aclTaken (adm : Bool) (es : List AclEntry) (k : Ctx) : Ctx :=
  { k with acl := es, poolAdmin := adm, aclAccepted := true, aclRefused := false, aclIgnored := false }

/-- R193: a context whose access list has been refused. -/
def aclRefusal (k : Ctx) : Ctx := { k with acl := [], poolAdmin := false, aclAccepted := false, aclRefused := true, aclIgnored := false }

theorem aclLoad_wellFormed {s : State} {n : Nat} {bs : List Byte} {adm : Bool} {es : List AclEntry} (v : Nat) (hidle : ctxBusy s n = false)
    (haddress : (ctxOf s n).aclHi.toNat < 2 ^ 14) (hparse : aclParse bs = some (adm, es)) :
    aclLoad n v bs s = modCtx (modCtx s n (aclAddressed v)) n (aclTaken adm es) := by
  simp only [aclLoad, hidle, ctxOf_modCtx, haddress, hparse, decide_true, if_true]
  rfl

theorem aclLoad_malformed {s : State} {n : Nat} {bs : List Byte} (v : Nat) (hidle : ctxBusy s n = false) (hparse : aclParse bs = none) :
    aclLoad n v bs s = modCtx (modCtx s n (aclAddressed v)) n aclRefusal := by
  simp only [aclLoad, hidle, hparse, ite_self]
  rfl

theorem aclLoad_busy {s : State} {n : Nat} (v : Nat) (bs : List Byte) (hbusy : ctxBusy s n = true) :
    aclLoad n v bs s = modCtx (modCtx s n (aclAddressed v)) n (fun k => { k with aclIgnored := true }) := if_pos hbusy

theorem aclLoad_takes (s : State) (n v : Nat) (bs : List Byte) (adm : Bool) (es : List AclEntry) (h : takesWrites s)
    (hidle : ctxBusy s n = false) (haddress : (ctxOf s n).aclHi.toNat < 2 ^ 14) (hparse : aclParse bs = some (adm, es)) :
    ∃ t, exec (.aclLoad n v bs) s = .next t
      ∧ ctxOf t n = { ctxOf s n with aclLo := w32 (v / 64 * 64), acl := es, poolAdmin := adm, aclAccepted := true, aclRefused := false,
                                     aclIgnored := false }
      ∧ otherCtxs s t n ∧ t = { s with ctxs := t.ctxs } := by
  rw [exec_aclLoad h, aclLoad_wellFormed v hidle haddress hparse]
  exact ⟨_, rfl, modCtx_twice_leaves s n _ _⟩

theorem aclLoad_refuses (s : State) (n v : Nat) (bs : List Byte) (h : takesWrites s) (hidle : ctxBusy s n = false)
    (hparse : aclParse bs = none) :
    ∃ t, exec (.aclLoad n v bs) s = .next t ∧ (ctxOf t n).acl = [] ∧ (ctxOf t n).poolAdmin = false ∧ (ctxOf t n).aclAccepted = false
      ∧ (ctxOf t n).aclRefused = true ∧ otherCtxs s t n ∧ t = { s with ctxs := t.ctxs } := by
  rw [exec_aclLoad h, aclLoad_malformed v hidle hparse]
  obtain ⟨hctx, hothers, hframe⟩ := modCtx_twice_leaves s n (aclAddressed v) aclRefusal
  refine ⟨_, rfl, ?_⟩
  rw [hctx]
  exact ⟨rfl, rfl, rfl, rfl, hothers, hframe⟩

theorem aclLoad_ignores (s : State) (n v : Nat) (bs : List Byte) (h : takesWrites s) (hbusy : ctxBusy s n = true) :
    ∃ t, exec (.aclLoad n v bs) s = .next t ∧ (ctxOf t n).acl = (ctxOf s n).acl ∧ (ctxOf t n).poolAdmin = (ctxOf s n).poolAdmin
      ∧ (ctxOf t n).aclIgnored = true ∧ otherCtxs s t n ∧ t = { s with ctxs := t.ctxs } := by
  rw [exec_aclLoad h, aclLoad_busy v bs hbusy]
  obtain ⟨hctx, hothers, hframe⟩ := modCtx_twice_leaves s n (aclAddressed v) (fun k => { k with aclIgnored := true })
  refine ⟨_, rfl, ?_⟩
  rw [hctx]
  exact ⟨rfl, rfl, rfl, hothers, hframe⟩

/-! ### Vectors unmasked (R348) -/

/-- R348: a host port with the mask bit of a vector clear. -/
def unmasked (v : Nat) (h : HostPort) : HostPort :=
  { h with msixTable := amod h.msixTable v 0#128 (fun e => e &&& ~~~(1#128 <<< 96)) }

theorem vectorMasked_unmasked (v : Nat) (h : HostPort) : vectorMasked (unmasked v h) v = false := by
  unfold vectorMasked unmasked
  simp [amod, aget?_aput]

/-- R348: a host port whose open vectors pend no longer. -/
def openSent (h : HostPort) : HostPort := { h with pba := h.pba.filter (fun v => !((h.pba.filter (vectorOpen h)).contains v)) }

theorem hostPortOf_sendPending (s : State) (p : Nat) : hostPortOf (sendPending s p) p = openSent (hostPortOf s p) :=
  (hostPortOf_modHostPort s p openSent p).trans (if_pos rfl)

theorem sendPending_otherPorts (s : State) (p : Nat) : otherHostPorts s (sendPending s p) p :=
  otherHostPorts_modHostPort s p openSent

/-- R348: a pending vector that is open is sent and pends no longer. -/
theorem sendPending_sends {s : State} {p v : Nat} (hpends : v ∈ (hostPortOf s p).pba) (hopen : vectorOpen (hostPortOf s p) v = true) :
    (p, v) ∈ (sendPending s p).out.msix ∧ v ∉ (hostPortOf (sendPending s p) p).pba := by
  have hdue : v ∈ (hostPortOf s p).pba.filter (vectorOpen (hostPortOf s p)) := List.mem_filter.mpr ⟨hpends, hopen⟩
  constructor
  · exact List.mem_append_right _ (List.mem_map.mpr ⟨v, hdue, rfl⟩)
  · rw [hostPortOf_sendPending]
    intro hleft
    have hnotDue := (List.mem_filter.mp hleft).2
    rw [List.contains_iff_mem.mpr hdue] at hnotDue
    exact Bool.false_ne_true hnotDue

theorem exec_msixUnmask {s : State} {v : Nat} (h : takesWrites s) (hv : v < 2048) :
    exec (.msixUnmask v) s = .next (sendPending (modHostPort s s.owner (unmasked v)) s.owner) :=
  congrArg Host.Outcome.next ((barWrite_takesWrites h _ _ _ _).trans (if_pos hv))

theorem msixUnmask_leaves (s : State) (v : Nat) (h : takesWrites s) (hv : v < 2048) :
    ∃ t, exec (.msixUnmask v) s = .next t
      ∧ vectorMasked (hostPortOf t s.owner) v = false ∧ otherHostPorts s t s.owner ∧ t = { s with hostPorts := t.hostPorts, out := t.out }
      ∧ (v ∈ (hostPortOf s s.owner).pba → vectorOpen (hostPortOf t s.owner) v = true →
          (s.owner, v) ∈ t.out.msix ∧ v ∉ (hostPortOf t s.owner).pba) := by
  have hport : hostPortOf (modHostPort s s.owner (unmasked v)) s.owner = unmasked v (hostPortOf s s.owner) := by
    rw [hostPortOf_modHostPort, if_pos rfl]
  refine ⟨_, exec_msixUnmask h hv, ?_, fun q hq => ?_, rfl, fun hpends hopen => ?_⟩
  · rw [hostPortOf_sendPending, hport]
    exact vectorMasked_unmasked v _
  · exact (sendPending_otherPorts _ _ q hq).trans (otherHostPorts_modHostPort s s.owner _ q hq)
  · rw [hostPortOf_sendPending] at hopen
    exact sendPending_sends (by rw [hport]; exact hpends) hopen

/-! ### The trace ring, the log and the latched counters (R356, R363, R383, R441, R443) -/

theorem traceEnable_restarts (s : State) (h : takesWrites s) :
    exec .traceEnable s = .next { s with regs := { s.regs with traceOn := true }, trace := { s.trace with head := 0 } } :=
  congrArg Host.Outcome.next (barWrite_takesWrites h _ _ _ _)

theorem logSelect_leaves (s : State) (v : Nat) (h : takesWrites s) :
    ∃ t, exec (.logSelect v) s = .next t ∧ t.regs.logSel.toNat % 2 ^ 32 = v % 2 ^ 32
      ∧ t.regs.logSel.toNat / 2 ^ 32 = s.regs.logSel.toNat / 2 ^ 32 ∧ t = { s with regs := { s.regs with logSel := t.regs.logSel } } := by
  obtain ⟨hlow, hhigh⟩ := w64_lowHalf s.regs.logSel (n := v % 2 ^ 32) (Nat.mod_lt _ (by decide))
  exact ⟨_, congrArg Host.Outcome.next (barWrite_takesWrites h _ _ _ _), hlow, hhigh, rfl⟩

theorem localTimeLoRead_latchesTime (s : State) (h : barOpen s = true) :
    exec (.localTimeLoRead false) s = .next { s with timeLatch := w32 (s.localTime.toNat / 2 ^ 32) } := by
  refine congrArg Host.Outcome.next ?_
  simp [localTimeLoRead, h]

theorem localTimeLoRead_latchesCalendar (s : State) (h : barOpen s = true) :
    exec (.localTimeLoRead true) s = .next { s with mgmt := { s.mgmt with calLatch := w32 (s.mgmt.calCount.toNat / 2 ^ 32) } } := by
  refine congrArg Host.Outcome.next ?_
  simp [localTimeLoRead, h]

/-! ### The calendar and the firmware banks (R434, R435, R440) -/

theorem calendarSet_leaves (s : State) (h : takesWrites s) :
    ∃ t, exec .calendarSet s = .next t ∧ t.mgmt.calCount = s.regs.calSet ∧ t.mgmt.calValid = true
      ∧ t.localTime = s.localTime ∧ t.mem = s.mem ∧ t.ctxs = s.ctxs ∧ t.cmds = s.cmds ∧ t.regs = s.regs := by
  refine ⟨_, congrArg Host.Outcome.next (barWrite_takesWrites h _ _ _ _), rfl, rfl, ?_⟩
  obtain ⟨m, r, o, p, hlogged⟩ := logEvent_frame s lsBarista 0 0x0060 0xFFFF (s.mgmt.calCount.toNat + 2 ^ 64 * s.regs.calSet.toNat)
  rw [calendarSet, hlogged]
  exact ⟨rfl, rfl, rfl, rfl, rfl⟩

theorem cancelPending_leaves (s : State) (h : takesWrites s) :
    exec .cancelPending s = .next { s with mgmt := { s.mgmt with pendingBank := none } } :=
  congrArg Host.Outcome.next (barWrite_takesWrites h _ _ _ _)

/-- R434: with main power, a change of the backup pin is noted and the calendar runs on. -/
theorem calVbatChange_powered (s : State) (b : Bool) (hphase : s.phase ≠ .off) (hpin : s.mgmt.backupPin ≠ b) :
    exec (.calVbatChange b) s = .next { s with mgmt := { s.mgmt with backupPin := b, lostAt := none } } := by
  refine congrArg Host.Outcome.next ?_
  simp [calVbatChange, hphase, hpin]

theorem calendarBack_not_lost {s : State} (h : s.mgmt.lostAt = none) : calendarBack s = s := by rw [calendarBack, h]

/-- R434, R448: without main power, the loss of the backup pin is timed by the calendar's count. -/
theorem calVbatChange_unpowered (s : State) (hphase : s.phase = .off) (hpin : s.mgmt.backupPin = true) :
    ∃ t, exec (.calVbatChange false) s = .next t
      ∧ t.mgmt.backupPin = false ∧ (s.mgmt.lostAt = none → t.mgmt.lostAt = some s.mgmt.calCount) := by
  have hstep : calVbatChange false s = { calendarBack s with mgmt := { (calendarBack s).mgmt with
      backupPin := false, lostAt := some ((calendarBack s).mgmt.lostAt.getD (calendarBack s).mgmt.calCount) } } := by
    simp [calVbatChange, hphase, hpin]
  refine ⟨_, congrArg Host.Outcome.next hstep, rfl, fun hheld => ?_⟩
  rw [calendarBack_not_lost hheld, hheld]
  rfl

/-- Settles O45: each row performs its action, and the action leaves what its rules give. -/
theorem setUpActions : Obligations.SetUpActions :=
  ⟨fun s h => ⟨_, exec_invAll h, regionOf_invAll s, rfl⟩, branchDirEnable_leaves, branchDirEnable_busy, aclLoad_takes, aclLoad_refuses,
    aclLoad_ignores, msixUnmask_leaves, traceEnable_restarts, logSelect_leaves, calendarSet_leaves, cancelPending_leaves,
    calVbatChange_powered, calVbatChange_unpowered, localTimeLoRead_latchesTime, localTimeLoRead_latchesCalendar⟩

end Sys2Proof.Machine
end

section
/-! PROOFS. The commits of branch commands (O38): cells at an address and what writing them meets; what the changes to branch records leave of
the state, and a commit that makes them; then the commit of a branch command from its transaction, for PARK and for a root FORK. -/

namespace Sys2Proof.Machine

/-! ### Cells at an address (R238) -/

theorem mem_cellsAt {a : Nat} {bs : List Byte} {x : Host.Cell} (h : x ∈ cellsAt a bs) : a ≤ x.1 ∧ x.1 < a + bs.length := by
  induction bs generalizing a with
  | nil => cases h
  | cons b bs ih =>
    rw [List.length_cons]
    rcases List.mem_cons.mp h with rfl | hrest
    · dsimp only
      omega
    · have := ih hrest
      omega

/-- R238: bytes written from an address are read there, in their order. -/
theorem mget_mapply_cellsAt {m : Memory} (hwf : m.wf = true) (a : Nat) {bs : List Byte} {o : Nat} (h : o < bs.length) :
    mget (mapply m (cellsAt a bs)) (a + o) = bs[o] := by
  induction bs generalizing m a o with
  | nil => cases h
  | cons b bs ih =>
    have hset : (mset m a b).wf = true := mset_wf m a b hwf
    change mget (mapply (mset m a b) (cellsAt (a + 1) bs)) (a + o) = _
    cases o with
    | zero =>
      have hbelow : ∀ x ∈ cellsAt (a + 1) bs, x.1 ≠ a := fun x hx => Nat.ne_of_gt (mem_cellsAt hx).1
      change mget (mapply (mset m a b) (cellsAt (a + 1) bs)) a = b
      rw [mget_mapply_of_not_mem _ _ a hset hbelow, mget_mset m a b a hwf, if_pos rfl]
    | succ o =>
      rw [show a + (o + 1) = a + 1 + o by omega]
      exact ih hset (a + 1) (Nat.lt_of_succ_lt_succ h)

theorem mem_cellLines {cs : List Host.Cell} {l : Nat} : l ∈ cellLines cs ↔ ∃ x ∈ cs, x.1 / 64 = l := by
  have hfold : cellLines cs = (cs.map (·.1 / 64)).foldl sins [] := by rw [cellLines, List.foldl_map]
  simp [hfold, mem_foldl_sins]

theorem line_mem_linesOf {a n x : Nat} (hlow : a ≤ x) (hhigh : x < a + n) : x / 64 ∈ linesOf a n := by
  rw [linesOf, if_neg (by omega), List.mem_map]
  exact ⟨x / 64 - a / 64, List.mem_range.mpr (by omega), by omega⟩

theorem cellLines_cellsAt {a : Nat} {bs : List Byte} {l : Nat} (h : l ∈ cellLines (cellsAt a bs)) : l ∈ linesOf a bs.length := by
  obtain ⟨x, hmem, rfl⟩ := mem_cellLines.mp h
  obtain ⟨hlow, hhigh⟩ := mem_cellsAt hmem
  exact line_mem_linesOf hlow hhigh

/-! ### What cells meet (R194, R206, R207, R297) -/

/-- What a written line meets has one of the statuses that `worst` finds (R261). -/
theorem meetLine_fails_listed {s : State} {write : Bool} {a : Nat} {st : Status} (h : meetLine s write a = .fails st) :
    st = .permission ∨ st = .moduleDead := by
  unfold meetLine at h
  repeat' split at h
  all_goals cases h
  all_goals simp

theorem worst_ne_none {fs : List Status} (h : .permission ∈ fs ∨ .moduleDead ∈ fs) : worst fs ≠ none := by
  simp only [worst, ne_eq, List.find?_eq_none, not_forall, List.contains_iff_mem, not_not]
  rcases h with h | h
  · exact ⟨.permission, by decide, h⟩
  · exact ⟨.moduleDead, by decide, h⟩

/-- A command that meets nothing on the ranges that it writes meets nothing at a line of them. -/
theorem meetLine_of_meet {s : State} {writes : List (Nat × Nat)} (h : meet s [] writes = .fine) {l : Nat} (hl : l ∈ linesOfAll writes) :
    meetLine s true (64 * l) = .fine := by
  have hmem : meetLine s true (64 * l) ∈ (linesOfAll writes).map (fun l => meetLine s true (l * 64)) :=
    List.mem_map.mpr ⟨l, hl, by rw [Nat.mul_comm]⟩
  simp only [meet, show linesOfAll [] = [] from rfl, List.map_nil, List.nil_append, List.any_nil, Bool.false_eq_true, if_false] at h
  split at h
  next => split at h <;> cases h
  next hnone =>
    split at h
    next => cases h
    next hwait =>
      cases hmeet : meetLine s true (64 * l) with
      | fine => rfl
      | wait => exact absurd (List.contains_iff_mem.mpr (hmeet ▸ hmem)) hwait
      | fails st =>
        refine absurd hnone (worst_ne_none ?_)
        rcases meetLine_fails_listed hmeet with rfl | rfl
        · exact .inl (List.mem_filterMap.mpr ⟨_, hmeet ▸ hmem, rfl⟩)
        · exact .inr (List.mem_filterMap.mpr ⟨_, hmeet ▸ hmem, rfl⟩)

theorem meetCells_fine {s : State} {cs : List Host.Cell} (h : ∀ l ∈ cellLines cs, meetLine s true (64 * l) = .fine) :
    meetCells s cs = .fine := by
  have hmeets : (cellLines cs).map (fun l => meetLine s true (64 * l)) = (cellLines cs).map (fun _ => .fine) := List.map_congr_left h
  have hnofail : (cellLines cs).filterMap (fun _ => (none : Option Status)) = [] := List.filterMap_eq_nil_iff.mpr fun _ _ => rfl
  simp only [meetCells, hmeets, List.filterMap_map, Function.comp_def, hnofail]
  simp [worst]

theorem peerPages_eq_nil {s : State} {cs : List Host.Cell} (h : ∀ l ∈ cellLines cs, peerLine s l = false) : peerPages s cs = [] := by
  rw [peerPages_eq, List.filter_eq_nil_iff.mpr fun l hl => by simp [h l hl]]
  rfl

/-- R190, R297: no line of a range that begins in the own carafes and does not leave them is a peer's. -/
theorem peerLine_own {s : State} {a n l : Nat} (hown : ownCarafe s a = true) (hend : gaOff a + n ≤ 2 ^ 39) (hl : l ∈ linesOf a n) :
    peerLine s l = false := by
  obtain ⟨hlow, hhigh⟩ := mem_linesOf hl
  simp only [ownCarafe, Bool.and_eq_true, beq_iff_eq] at hown
  have hmod : gaMod (64 * l) = gaMod a := by
    unfold gaMod
    unfold gaOff at hend
    omega
  simp [peerLine, peerCarafe, hmod, hown.2]

/-! ### Changes to branch records (R121, R238) -/

/-- A change to a branch moves the records, the recurrent state and its poison, and nothing else. -/
theorem applyBr_frame (s : State) (o : BrOp) : ∃ bs m p, applyBr s o = { s with branches := bs, brMem := m, brPoison := p } := by
  cases o <;> exact ⟨_, _, _, rfl⟩

theorem foldl_applyBr_frame (s : State) (ops : List BrOp) :
    ∃ bs m p, ops.foldl applyBr s = { s with branches := bs, brMem := m, brPoison := p } := by
  induction ops generalizing s with
  | nil => exact ⟨_, _, _, rfl⟩
  | cons o ops ih =>
    obtain ⟨bs, m, p, hfirst⟩ := applyBr_frame s o
    obtain ⟨bs', m', p', hrest⟩ := ih (applyBr s o)
    refine ⟨bs', m', p', ?_⟩
    rw [List.foldl_cons, hrest, hfirst]

theorem applyBr_storeCells (s : State) (cs : List Host.Cell) (o : BrOp) : applyBr (storeCells s cs) o = storeCells (applyBr s o) cs := by
  cases o <;> rfl

/-- R238: the bytes of memory that a commit writes and its changes to branches do not touch each other. -/
theorem foldl_applyBr_storeCells (s : State) (cs : List Host.Cell) (ops : List BrOp) :
    ops.foldl applyBr (storeCells s cs) = storeCells (ops.foldl applyBr s) cs := by
  induction ops generalizing s with
  | nil => rfl
  | cons o ops ih => rw [List.foldl_cons, applyBr_storeCells, ih, List.foldl_cons]

/-- R121: a change that clears a branch's state and writes its record leaves every other record. -/
theorem branchOf_clear_put {s t : State} {b : Nat} {r : Branch} (h : t.branches = ([.clear b, .put b r].foldl applyBr s).branches) :
    branchOf t b = some r ∧ ∀ o, o ≠ b → branchOf t o = branchOf s o := by
  have hput : ∀ o, branchOf t o = if o = b then some r else branchOf s o := fun o => by
    rw [branchOf, h]
    exact aget?_aput s.branches b r o
  exact ⟨(hput b).trans (if_pos rfl), fun o ho => (hput o).trans (if_neg ho)⟩

/-- R122: with the branch directory off, a commit mirrors no record. -/
theorem applyBrs_dirOff {s : State} (h : s.regs.branchDirOn = false) (ops : List BrOp) : applyBrs s ops = ops.foldl applyBr s := by
  obtain ⟨bs, m, p, hframe⟩ := foldl_applyBr_frame s ops
  rw [applyBrs, mirror, hframe, if_neg (by simp [h])]

theorem addedStats_congr {s t : State} (h : t.mem = s.mem) (w : Work) : addedStats t w = addedStats s w := by simp only [addedStats, h]

theorem peerPages_congr {s t : State} (h : t.cset = s.cset) (cs : List Host.Cell) : peerPages t cs = peerPages s cs := by
  rw [peerPages_eq, peerPages_eq, peerLine_congr h]

/-- A commit that writes no recurrent state leaves it, and its poison. -/
theorem brWrites_none (u : State) :
    { u with brMem := mapply u.brMem []
             brPoison := u.brPoison.filter (fun b => !(([] : List Host.Cell).any (fun w => w.1 / 2 ^ 21 == b))) } = u := by
  simp [mapply]

/-- R238: with the branch directory off, a commit that writes no recurrent state of its own leaves what it leaves without changes to
branches, in the state with those changes made. -/
theorem makeVisible_branchOps {s : State} {c : Cmd} (ops : List BrOp) (heads : List Nat) (hbr : c.work.brWrites = [])
    (hdir : s.regs.branchDirOn = false) : makeVisible s c ops heads = makeVisible (ops.foldl applyBr s) c [] heads := by
  obtain ⟨bs, m, p, hframe⟩ := foldl_applyBr_frame s ops
  have hstats : addedStats (ops.foldl applyBr s) c.work = addedStats s c.work := addedStats_congr (by rw [hframe]) _
  have hpages := peerPages_congr (s := s) (t := ops.foldl applyBr s) (by rw [hframe])
  have hdir' : (ops.foldl applyBr s).regs.branchDirOn = false := by rw [hframe]; exact hdir
  simp only [makeVisible, hbr, brWrites_none, hstats, hpages]
  rw [applyBrs_dirOff (s := storeCells s _) hdir, applyBrs_dirOff (s := storeCells (ops.foldl applyBr s) _) hdir', foldl_applyBr_storeCells]
  rfl

/-! ### The commit of a command that changes branches -/

/-- R237, R238: what the commit leaves of a command whose checks pass, where its cells meet nothing and lie at no peer and the branch
directory is off: its work is visible in the state with its changes to branches made. -/
theorem branchCommit_leaves {s : State} {n i : Nat} {c : Cmd} {w : Work} {ops : List BrOp} {heads : List Nat} (hdue : commitDue s n i c)
    (hsnap : isSnapshot c.desc = false) (hsignal : isSignal c.desc = false) (hcoll : c.coll = none)
    (hfinal : finalOf s c = .ready s w ops heads) (hbr : w.brWrites = []) (hdir : s.regs.branchDirOn = false)
    (hfine : meetCells s (allCells s w) = .fine) (hlocal : peerPages s (allCells s w) = []) :
    ∃ t, exec (.commandCommit n i) s = .next t ∧ decidedAs t n i (committedStatus w) w.result ∧ workVisible (ops.foldl applyBr s) t w := by
  have ⟨hfind, _⟩ := hdue
  obtain ⟨rfl, rfl⟩ := findCmd_key hfind
  obtain ⟨bs, m, p, hframe⟩ := foldl_applyBr_frame s ops
  have hstep := (commandCommit_ready hdue hsnap hfinal).trans
    ((commitHeld_local (c := { c with work := w }) ops heads s c hfine hlocal).trans (makeVisible_branchOps ops heads hbr hdir))
  have hlocal' : peerPages (ops.foldl applyBr s) (allCells (ops.foldl applyBr s) w) = [] := by
    rw [hframe]
    exact hlocal
  have hfind' : findCmd (ops.foldl applyBr s) c.ctx c.idx = some c := by
    rw [hframe]
    exact hfind
  obtain ⟨hdecided, hvisible, -⟩ := makeVisible_leaves (c := { c with work := w }) heads hfind' hsnap hsignal hcoll hlocal'
  exact ⟨_, congrArg Host.Outcome.next hstep, hdecided, hvisible⟩

/-! ### Transactions (R91) -/

/-- R91: a command that has recorded no generation has none to read again. -/
theorem checkGens_none {c : Cmd} (hgens : c.gens = []) (hlead : c.leadGens = []) : checkGens c = pure () := by
  rw [checkGens, hgens, hlead]
  rfl

theorem txFinal_ready {s : State} {c : Cmd} {k : TxM (Nat × List BrOp)} {r : Nat} {ops : List BrOp} {u : Tx} (hgens : c.gens = [])
    (hlead : c.leadGens = []) (hrun : k.run (txStart s c) = .ok ((r, ops), u)) :
    txFinal s c k = .ready s { c.work with writes := c.work.writes ++ u.w.reverse, result := r } ops u.taken := by
  simp only [txFinal, checkGens_none hgens hlead, pure_bind, hrun]

/-- R91: a transaction that has written bytes at an address. -/
def wrote (u : Tx) (a : Nat) (bs : List Byte) : Tx :=
  { u with mem := mapply u.mem (cellsAt a bs), w := (cellsAt a bs).reverse ++ u.w }

theorem wrote_txStart_writes (s : State) (c : Cmd) (a : Nat) (bs : List Byte) : (wrote (txStart s c) a bs).w.reverse = cellsAt a bs := by
  simp [wrote, txStart]

/-- R192, R194: a write that is permitted and meets nothing joins the writes of the transaction. -/
theorem wr_run {u : Tx} {a : Nat} {bs : List Byte} (hacc : accessible u.base u.ctx true (a, bs.length) = true)
    (hmeet : meet u.base [] [(a, bs.length)] = .fine) :
    (wr a bs).run u = .ok ((), wrote u a bs) := by
  simp [wr, need, onMeet, hacc, hmeet]
  rfl

/-- R91, R237, R238: what the commit leaves of a Sequence Cache command that has issued with no work of its own and no generation to read
again, where its transaction ends well, its writes meet nothing and lie at no peer, and the branch directory is off. -/
theorem branchTx_leaves {s : State} {n i : Nat} {c : Cmd} {k : TxM (Nat × List BrOp)} {r : Nat} {ops : List BrOp} {u : Tx}
    (hdue : commitDue s n i c) (hcls : hClass c.desc = 3) (hcoll : c.coll = none) (hwork : c.work = {}) (hgens : c.gens = [])
    (hlead : c.leadGens = []) (hdir : s.regs.branchDirOn = false) (hfinal : finalOf s c = txFinal s c k)
    (hrun : k.run (txStart s c) = .ok ((r, ops), u))
    (hlines : ∀ l ∈ cellLines u.w.reverse, meetLine s true (64 * l) = .fine ∧ peerLine s l = false) :
    ∃ t, exec (.commandCommit n i) s = .next t ∧ decidedAs t n i .ok r ∧ t.mem = mapply s.mem u.w.reverse
      ∧ t.branches = (ops.foldl applyBr s).branches := by
  have hready : finalOf s c = .ready s { writes := u.w.reverse, result := r } ops u.taken := by
    rw [hfinal, txFinal_ready hgens hlead hrun, hwork]
    rfl
  have hcells : allCells s { writes := u.w.reverse, result := r } = u.w.reverse := List.append_nil _
  obtain ⟨t, hexec, hdecided, hmem, -, -, hbranches, -⟩ := branchCommit_leaves hdue (by simp [isSnapshot, hcls]) (by simp [isSignal, hcls])
    hcoll hready rfl hdir (by rw [hcells]; exact meetCells_fine fun l hl => (hlines l hl).1)
    (by rw [hcells]; exact peerPages_eq_nil fun l hl => (hlines l hl).2)
  obtain ⟨bs, m, p, hframe⟩ := foldl_applyBr_frame s ops
  refine ⟨t, hexec, hdecided, ?_, hbranches⟩
  rw [hmem, hframe]
  exact congrArg (mapply s.mem) hcells

/-! ### PARK (R136) -/

/-- R136: the bytes of a branch's state that its PARK saves. -/
def savedBytes (s : State) (b : Nat) (r : Branch) : List Byte := mread s.brMem (brAddr b 0) (r.granules * 4096)

@[simp] theorem savedBytes_length (s : State) (b : Nat) (r : Branch) : (savedBytes s b r).length = r.granules * 4096 := by
  simp [savedBytes, mread]

theorem savedBytes_getElem {s : State} {b o : Nat} {r : Branch} (h : o < (savedBytes s b r).length) :
    (savedBytes s b r)[o] = mget s.brMem (brAddr b o) := by
  simp [savedBytes, mread, brAddr]

/-- R136: a branch that is PARKED with its state at a save address. -/
def parkedAt (r : Branch) (save : Nat) : Branch := { r with parked := true, saveAddr := w64 save }

/-- R136: the transaction of a PARK of a branch with state that is not poisoned. -/
theorem parkCommit_eq {s : State} {c : Cmd} {r : Branch} (hbranch : branchOf s (pkBranch c.desc) = some r) (hstate : 0 < r.granules)
    (hpoison : pkBranch c.desc ∉ s.brPoison) :
    parkCommit s c = (do
      wr (pkSave c.desc) (savedBytes s (pkBranch c.desc) r)
      pure (0, [.clear (pkBranch c.desc), .put (pkBranch c.desc) (parkedAt r (pkSave c.desc))])) := by
  simp [parkCommit, hbranch, hstate.ne', need, hpoison, savedBytes, parkedAt]

/-- R136: the commit checks of a PARK of a branch with state write the state's bytes at the save address, and mark the record. -/
theorem parkCommit_run {s : State} {c : Cmd} {r : Branch} (hbranch : branchOf s (pkBranch c.desc) = some r) (hstate : 0 < r.granules)
    (hpoison : pkBranch c.desc ∉ s.brPoison) (hacc : accessible s c.ctx true (pkSave c.desc, r.granules * 4096) = true)
    (hmeet : meet s [] [(pkSave c.desc, r.granules * 4096)] = .fine) :
    (parkCommit s c).run (txStart s c)
      = .ok ((0, [.clear (pkBranch c.desc), .put (pkBranch c.desc) (parkedAt r (pkSave c.desc))]),
          wrote (txStart s c) (pkSave c.desc) (savedBytes s (pkBranch c.desc) r)) := by
  have hsave := wr_run (u := txStart s c) (bs := savedBytes s (pkBranch c.desc) r) ((savedBytes_length ..).symm ▸ hacc)
    ((savedBytes_length ..).symm ▸ hmeet)
  rw [parkCommit_eq hbranch hstate hpoison, StateT.run_bind, hsave]
  rfl

/-- R136: what the commit of a PARK of a branch with state leaves. -/
theorem parkCommits (s : State) (n i : Nat) (c : Cmd) (r : Branch) (hwf : s.mem.wf = true) (hdue : commitDue s n i c)
    (hcls : hClass c.desc = 3) (hop : hOp c.desc = 8) (hdir : pkUnpark c.desc = false) (hcoll : c.coll = none) (hwork : c.work = {})
    (hgens : c.gens = []) (hlead : c.leadGens = []) (hbranch : branchOf s (pkBranch c.desc) = some r) (hstate : 0 < r.granules)
    (hpoison : pkBranch c.desc ∉ s.brPoison) (hoff : s.regs.branchDirOn = false) (hown : ownCarafe s (pkSave c.desc) = true)
    (hend : gaOff (pkSave c.desc) + r.granules * 4096 ≤ 2 ^ 39)
    (hacc : accessible s c.ctx true (pkSave c.desc, r.granules * 4096) = true)
    (hmeet : meet s [] [(pkSave c.desc, r.granules * 4096)] = .fine) :
    ∃ t, exec (.commandCommit n i) s = .next t ∧ decidedAs t n i .ok 0
      ∧ (∀ o, o < r.granules * 4096 → mget t.mem (pkSave c.desc + o) = mget s.brMem (brAddr (pkBranch c.desc) o))
      ∧ branchOf t (pkBranch c.desc) = some (parkedAt r (pkSave c.desc)) ∧ ∀ b, b ≠ pkBranch c.desc → branchOf t b = branchOf s b := by
  have hrun := parkCommit_run hbranch hstate hpoison hacc hmeet
  have hwrites := wrote_txStart_writes s c (pkSave c.desc) (savedBytes s (pkBranch c.desc) r)
  have hfinal : finalOf s c = txFinal s c (parkCommit s c) := by
    rw [finalOf, hcls, hop, hdir]
    rfl
  have hlines : ∀ l ∈ cellLines (cellsAt (pkSave c.desc) (savedBytes s (pkBranch c.desc) r)),
      meetLine s true (64 * l) = .fine ∧ peerLine s l = false := fun l hl => by
    have hsaved := cellLines_cellsAt hl
    rw [savedBytes_length] at hsaved
    exact ⟨meetLine_of_meet hmeet (mem_linesOfAll.mpr ⟨_, List.mem_singleton_self _, hsaved⟩), peerLine_own hown hend hsaved⟩
  obtain ⟨t, hexec, hdecided, hmem, hbranches⟩ := branchTx_leaves hdue hcls hcoll hwork hgens hlead hoff hfinal hrun (hwrites ▸ hlines)
  refine ⟨t, hexec, hdecided, fun o ho => ?_, branchOf_clear_put hbranches⟩
  have hin : o < (savedBytes s (pkBranch c.desc) r).length := by rwa [savedBytes_length]
  rw [hmem, hwrites, mget_mapply_cellsAt hwf _ hin, savedBytes_getElem]

/-! ### A root FORK (R126, R132) -/

/-- R121, R132: the record of the trunk that a root FORK without state makes. -/
def trunkOf (c : Cmd) (x : Fk) : Branch :=
  { trunk := true, ctx := c.ctx, tableCount := x.tables, rollout := w32 x.first, forkPos := w32 (Config.amount 2 [c.desc.toNat]),
    tableList := w64 x.list, rngKey := w64 x.key, granules := x.granules, statePos := 0xFFFF }

/-- R132: the commit checks of a root FORK without state write no memory. -/
theorem fkCommit_root_run {s : State} {c : Cmd} (hroot : fkRoot (fkOf c.desc) = true) (hstate : (fkOf c.desc).granules = 0) :
    (fkCommit s c).run (txStart s c) = .ok (((fkOf c.desc).n,
      [.clear (fkOf c.desc).first, .put (fkOf c.desc).first (trunkOf c (fkOf c.desc))]), txStart s c) := by
  simp only [fkCommit, fkClusters, hroot, hstate, if_true, pure_bind, trunkOf]
  rfl

/-- R126, R132: what the commit of a root FORK without state leaves. -/
theorem rootForkCommits (s : State) (n i : Nat) (c : Cmd) (x : Fk) (hdue : commitDue s n i c) (hcls : hClass c.desc = 3)
    (hop : hOp c.desc = 5) (hx : x = fkOf c.desc) (hroot : fkRoot x = true) (hstate : x.granules = 0) (hcoll : c.coll = none)
    (hwork : c.work = {}) (hgens : c.gens = []) (hlead : c.leadGens = []) (hoff : s.regs.branchDirOn = false) :
    ∃ t, exec (.commandCommit n i) s = .next t ∧ decidedAs t n i .ok x.n ∧ branchOf t x.first = some (trunkOf c x)
      ∧ (∀ b, b ≠ x.first → branchOf t b = branchOf s b) ∧ t.mem = s.mem := by
  subst hx
  have hfinal : finalOf s c = txFinal s c (fkCommit s c) := by
    rw [finalOf, hcls, hop]
    rfl
  have hlines : ∀ l ∈ cellLines (txStart s c).w.reverse, meetLine s true (64 * l) = .fine ∧ peerLine s l = false :=
    fun l hl => absurd hl List.not_mem_nil
  obtain ⟨t, hexec, hdecided, hmem, hbranches⟩ :=
    branchTx_leaves hdue hcls hcoll hwork hgens hlead hoff hfinal (fkCommit_root_run hroot hstate) hlines
  obtain ⟨htrunk, hothers⟩ := branchOf_clear_put hbranches
  exact ⟨t, hexec, hdecided, htrunk, hothers, hmem⟩

/-- Settles O38: each clause is its transaction's writes and its one changed record, made visible by the commit. -/
theorem branchCommits : Obligations.BranchCommits := by
  refine ⟨fun s n i c r hwf hdue hcls hop hdir hcoll hwork hgens hlead hbranch hstate hpoison hoff hown _ hend hacc hmeet =>
    parkCommits s n i c r hwf hdue hcls hop hdir hcoll hwork hgens hlead hbranch hstate hpoison hoff hown hend hacc hmeet,
    fun s n i c x hdue hcls hop hx hroot hstate hcoll hwork hgens hlead hoff => ?_⟩
  obtain ⟨t, hexec, hdecided, htrunk, hothers, hmem⟩ := rootForkCommits s n i c x hdue hcls hop hx hroot hstate hcoll hwork hgens hlead hoff
  exact ⟨t, trunkOf c x, hexec, hdecided, htrunk, rfl, rfl, rfl, rfl, rfl, rfl, rfl, rfl, hstate, hothers, hmem⟩

end Sys2Proof.Machine
end

section
/-! PROOFS. The issue of pool operations (O34): a POOL_OP's run moves nothing of its command, so its row ends the issue with the command as it
is; a RETIRE's where every carafe that it touches is admitted. -/

namespace Sys2Proof.Machine

theorem isPool_listed {k : Nat} {d : Desc} (hop : isOp 2 3 d = true) (hk : (poOf d).op = k) : isPool k d = true := by
  have hfld : fld d 16 1 = k := hk
  simp [isPool, hop, hfld]

theorem poRun_fine {s : State} {c : Cmd} (h : (poOf c.desc).op = 6 → retireAdmitted s c = true) : poSpec.run s c = .done c :=
  if_neg fun hwait => by
    obtain ⟨hretire, hnot⟩ := (Bool.and_eq_true _ _).mp hwait
    simp [h (of_decide_eq_true hretire)] at hnot

/-- R436, R437: a pool operation asks the Umpire for nothing where it retires no frame or is admitted. -/
theorem poolStep_admitted {k n i : Nat} {s : State} {c : Cmd} (hfind : findCmd s n i = some c)
    (h : k = 6 → retireAdmitted s c = true) : poolStep k n i s = descStep (isPool k) poSpec n i s := by
  simp only [poolStep, hfind]
  exact if_neg fun ⟨hretire, _, _, hnot⟩ => Bool.false_ne_true (hnot.symm.trans (h hretire))

/-- R196, R210, R237: the row of a pool operation whose issue is due ends it. -/
theorem poolStep_issued {s : State} {n i k : Nat} {c : Cmd} (hdue : issueDue s n i 2 3 c) (hop : (poOf c.desc).op = k)
    (hadmit : k = 6 → retireAdmitted s c = true) : issued s (poolStep k n i s) c c := by
  rw [poolStep_admitted hdue.1 hadmit]
  exact tableRow_issued hdue (isPool_listed (isOp_issueDue hdue) hop) rfl (poRun_fine fun h => hadmit (hop.symm.trans h)) rfl

/-- Settles O34: each row is the end of issue of its operation; the Umpire's admission matters to RETIRE alone. -/
theorem poolRowsIssue : Obligations.PoolRowsIssue := fun s n i c hdue =>
  have hissued : ∀ k, k ≠ 6 → (poOf c.desc).op = k → issued s (poolStep k n i s) c c := fun _ hk hop =>
    poolStep_issued hdue hop fun hretire => absurd hretire hk
  ⟨fun hop => ⟨_, rfl, hissued 1 (by decide) hop⟩, fun hop => ⟨_, rfl, hissued 2 (by decide) hop⟩,
    fun hop => ⟨_, rfl, hissued 3 (by decide) hop⟩, fun hop => ⟨_, rfl, hissued 4 (by decide) hop⟩,
    fun hop => ⟨_, rfl, hissued 5 (by decide) hop⟩, fun hop hadmit => ⟨_, rfl, poolStep_issued hdue hop fun _ => hadmit⟩,
    fun hop => ⟨_, rfl, hissued 7 (by decide) hop⟩⟩

end Sys2Proof.Machine
end

section
/-! PROOFS. The work of PAGE_MOVE and TILE_MOVE (O33): a byte that cells write reads as the one cell of its address; then, for each move,
that its cells lie at different addresses. -/

namespace Sys2Proof.Machine

/-! ### A byte that one cell writes (R238) -/

/-- A byte at an address where every cell that writes it writes the same. -/
theorem mget_mapply_of_mem {m : Memory} {cs : List Host.Cell} {a : Nat} {v : Byte} (hwf : m.wf = true) (hmem : (a, v) ∈ cs)
    (huniq : ∀ x ∈ cs, x.1 = a → x.2 = v) : mget (mapply m cs) a = v := by
  induction cs generalizing m with
  | nil => cases hmem
  | cons x cs ih =>
    have hset : (mset m x.1 x.2).wf = true := mset_wf m x.1 x.2 hwf
    have huniq' : ∀ y ∈ cs, y.1 = a → y.2 = v := fun y hy => huniq y (List.mem_cons_of_mem x hy)
    change mget (mapply (mset m x.1 x.2) cs) a = v
    by_cases hrest : (a, v) ∈ cs
    · exact ih hset hrest huniq'
    · have hlast : ∀ y ∈ cs, y.1 ≠ a := fun y hy ha => hrest (by rw [← huniq' y hy ha, ← ha]; exact hy)
      obtain rfl : (a, v) = x := (List.mem_cons.mp hmem).resolve_right hrest
      rw [mget_mapply_of_not_mem _ _ a hset hlast, mget_mset m a v a hwf, if_pos rfl]

/-! ### Places that strides keep apart -/

/-- Offsets below a stride tell their multiples of it apart. -/
theorem eq_of_stride {w a b k l : Nat} (hk : k < w) (hl : l < w) (h : a * w + k = b * w + l) : a = b ∧ k = l := by
  have hquot : ∀ {c o : Nat}, o < w → (c * w + o) / w = c := fun {c o} ho => by
    rw [Nat.mul_comm, Nat.mul_add_div (Nat.zero_lt_of_lt ho), Nat.div_eq_of_lt ho, Nat.add_zero]
  obtain rfl : a = b := (hquot hk).symm.trans ((congrArg (· / w) h).trans (hquot hl))
  exact ⟨rfl, Nat.add_left_cancel h⟩

/-! ### PAGE_MOVE (R208) -/

theorem mem_cellsAt_iff {a : Nat} {bs : List Byte} {x : Host.Cell} : x ∈ cellsAt a bs ↔ ∃ k, bs[k]? = some x.2 ∧ x.1 = a + k := by
  induction bs generalizing a with
  | nil => simp [cellsAt]
  | cons b bs ih =>
    rw [cellsAt, List.mem_cons, ih]
    constructor
    · rintro (rfl | ⟨k, hk, ha⟩)
      · exact ⟨0, rfl, rfl⟩
      · exact ⟨k + 1, hk, by omega⟩
    · rintro ⟨_ | k, hk, ha⟩
      · exact .inl (Prod.ext ha (Option.some.inj hk).symm)
      · exact .inr ⟨k, hk, by omega⟩

theorem mem_copyCells {m : Memory} {src dst n : Nat} {x : Host.Cell} :
    x ∈ copyCells m src dst n ↔ ∃ k, k < n ∧ x = (dst + k, mget m (src + k)) := by
  rw [copyCells, mem_cellsAt_iff]
  refine exists_congr fun k => ?_
  by_cases hk : k < n <;> simp [mread, hk, Prod.ext_iff, and_comm, eq_comm]

/-- R208: what a PAGE_MOVE writes: every byte of every element, at the same offset. -/
theorem mem_mvWork {m : Memory} {x : Mv} {y : Host.Cell} :
    y ∈ (mvWork m x).writes
      ↔ ∃ e k, e < x.batch ∧ k < x.len ∧ y = (batchAddr x.dst e x.dstBs + k, mget m (batchAddr x.src e x.srcBs + k)) := by
  simp only [mvWork, overBatch, List.mem_flatMap, List.mem_range, mem_copyCells]
  exact ⟨fun ⟨e, he, k, hk, hy⟩ => ⟨e, k, he, hk, hy⟩, fun ⟨e, k, he, hk, hy⟩ => ⟨e, he, k, hk, hy⟩⟩

/-- R43, R208: no two bytes of a PAGE_MOVE's destinations share an address where the elements lie apart. -/
theorem batchAddr_inj {base stride len e f k l : Nat} (hapart : len ≤ stride * 64) (hk : k < len) (hl : l < len)
    (h : batchAddr base e stride + k = batchAddr base f stride + l) : e = f ∧ k = l := by
  refine eq_of_stride (hk.trans_le hapart) (hl.trans_le hapart) ?_
  unfold batchAddr at h
  rw [Nat.mul_assoc, Nat.mul_assoc] at h
  omega

theorem mvRun_fine {s : State} {c : Cmd} (h : meet s (mvUsed (mvOf c.desc)) (mvWrites (mvOf c.desc)) = .fine) :
    mvRun s c = .done { c with work := mvWork (operandMem s (mvUsed (mvOf c.desc))) (mvOf c.desc) } := by
  simp only [mvRun, h]

theorem pageMove_issues {s : State} {n i : Nat} {c : Cmd} (hdue : issueDue s n i 2 1 c)
    (h : meet s (mvUsed (mvOf c.desc)) (mvWrites (mvOf c.desc)) = .fine) :
    ∃ t, exec (.pageMove n i) s = .next t
      ∧ issued s t c { c with work := mvWork (operandMem s (mvUsed (mvOf c.desc))) (mvOf c.desc) } :=
  ⟨_, rfl, tableRow_issued (sp := mvSpec) hdue (isOp_issueDue hdue) rfl (mvRun_fine h) rfl⟩

theorem mvWork_moves {m m' : Memory} {x : Mv} {e k : Nat} (hwf : m.wf = true) (hapart : x.len ≤ x.dstBs * 64) (he : e < x.batch)
    (hk : k < x.len) :
    mget (mapply m (mvWork m' x).writes) (batchAddr x.dst e x.dstBs + k) = mget m' (batchAddr x.src e x.srcBs + k) := by
  refine mget_mapply_of_mem hwf (mem_mvWork.mpr ⟨e, k, he, hk, rfl⟩) fun y hy ha => ?_
  obtain ⟨f, l, -, hl, rfl⟩ := mem_mvWork.mp hy
  obtain ⟨rfl, rfl⟩ := batchAddr_inj hapart hl hk ha
  rfl

theorem mvWork_keeps {m m' : Memory} {x : Mv} {a : Nat} (hwf : m.wf = true)
    (hout : ∀ e, e < x.batch → ¬ (batchAddr x.dst e x.dstBs ≤ a ∧ a < batchAddr x.dst e x.dstBs + x.len)) :
    mget (mapply m (mvWork m' x).writes) a = mget m a := by
  refine mget_mapply_of_not_mem _ _ a hwf fun y hy ha => ?_
  obtain ⟨e, k, he, hk, rfl⟩ := mem_mvWork.mp hy
  exact hout e he ⟨by omega, by omega⟩

/-! ### TILE_MOVE (R209) -/

/-- Where byte j of row r of tile unit t stands in the W8 tile units. -/
def tlTile (x : Tl) (t r j : Nat) : Nat := x.w8 + 32768 * t + tlOffset r j

/-- R209: what a TILE_MOVE writes: every byte of every row, at its place on the other side. -/
theorem mem_tlWork {m : Memory} {x : Tl} {y : Host.Cell} :
    y ∈ (tlWork m x).writes ↔ ∃ t r j, t < x.n ∧ r < 128 ∧ j < 256
      ∧ y = if x.dir = 0 then (tlRow x t r + j, mget m (tlTile x t r j)) else (tlTile x t r j, mget m (tlRow x t r + j)) := by
  simp only [tlWork, List.mem_flatMap, List.mem_map, List.mem_range, tlTile]
  exact ⟨fun ⟨t, ht, r, hr, j, hj, hy⟩ => ⟨t, r, j, ht, hr, hj, hy.symm⟩,
    fun ⟨t, r, j, ht, hr, hj, hy⟩ => ⟨t, ht, r, hr, j, hj, hy.symm⟩⟩

/-- The swizzle of rows is its own inverse on the 128 rows of a tile unit, and stays among them. -/
theorem tlSwizzle_involutive : ∀ r < 128,
    Nat.xor r (r / 16 % 8) < 128 ∧ Nat.xor (Nat.xor r (r / 16 % 8)) (Nat.xor r (r / 16 % 8) / 16 % 8) = r := by decide

theorem tlOffset_lt {r : Nat} (j : Nat) (hr : r < 128) : tlOffset r j < 32768 := by
  have hrow := (tlSwizzle_involutive r hr).1
  unfold tlOffset
  omega

/-- R209: the swizzle keeps the 32,768 bytes of a tile unit apart. -/
theorem tlOffset_inj {r r' j j' : Nat} (hr : r < 128) (hr' : r' < 128) (hj : j < 256) (hj' : j' < 256)
    (h : tlOffset r j = tlOffset r' j') : r = r' ∧ j = j' := by
  unfold tlOffset at h
  have hrow : Nat.xor r (r / 16 % 8) = Nat.xor r' (r' / 16 % 8) := by omega
  obtain rfl : r = r' := by
    rw [← (tlSwizzle_involutive r hr).2, ← (tlSwizzle_involutive r' hr').2, hrow]
  exact ⟨rfl, by omega⟩

theorem tlTile_inj {x : Tl} {t t' r r' j j' : Nat} (hr : r < 128) (hr' : r' < 128) (hj : j < 256) (hj' : j' < 256)
    (h : tlTile x t r j = tlTile x t' r' j') : t = t' ∧ r = r' ∧ j = j' := by
  have hlt := tlOffset_lt j hr
  have hlt' := tlOffset_lt j' hr'
  unfold tlTile at h
  exact ⟨by omega, tlOffset_inj hr hr' hj hj' (by omega)⟩

/-- R209: the rows of the native side lie apart, and so do the tile units. -/
theorem tlRow_inj {x : Tl} {t t' r r' j j' : Nat} (hld : 4 ≤ x.ld) (hstride : 128 * x.ld ≤ x.stride) (hr : r < 128) (hr' : r' < 128)
    (hj : j < 256) (hj' : j' < 256) (h : tlRow x t r + j = tlRow x t' r' + j') : t = t' ∧ r = r' ∧ j = j' := by
  have hrow : ∀ {q i : Nat}, q < 128 → i < 256 → q * (x.ld * 64) + i < x.stride * 64 := fun {q i} hq hi => by
    have : q * (x.ld * 64) ≤ 127 * (x.ld * 64) := Nat.mul_le_mul_right _ (Nat.le_of_lt_succ hq)
    omega
  have hplace : t * (x.stride * 64) + (r * (x.ld * 64) + j) = t' * (x.stride * 64) + (r' * (x.ld * 64) + j') := by
    simp only [tlRow, Nat.mul_assoc] at h
    omega
  obtain ⟨ht, hin⟩ := eq_of_stride (hrow hr hj) (hrow hr' hj') hplace
  exact ⟨ht, eq_of_stride (by omega) (by omega) hin⟩

theorem tlRun_fine {s : State} {c : Cmd} (h : meet s (tlUsed (tlOf c.desc)) (tlWrites (tlOf c.desc)) = .fine) :
    tlRun s c = .done { c with work := tlWork (operandMem s (tlUsed (tlOf c.desc))) (tlOf c.desc) } := by
  simp only [tlRun, h]

theorem tileMove_issues {s : State} {n i : Nat} {c : Cmd} (hdue : issueDue s n i 2 2 c)
    (h : meet s (tlUsed (tlOf c.desc)) (tlWrites (tlOf c.desc)) = .fine) :
    ∃ t, exec (.tileMove n i) s = .next t
      ∧ issued s t c { c with work := tlWork (operandMem s (tlUsed (tlOf c.desc))) (tlOf c.desc) } :=
  ⟨_, rfl, tableRow_issued (sp := tlSpec) hdue (isOp_issueDue hdue) rfl (tlRun_fine h) rfl⟩

/-- R209: a move out of the W8 tile units. -/
theorem tlWork_toNative {m m' : Memory} {x : Tl} {t r j : Nat} (hwf : m.wf = true) (hld : 4 ≤ x.ld) (hstride : 128 * x.ld ≤ x.stride)
    (ht : t < x.n) (hr : r < 128) (hj : j < 256) (hdir : x.dir = 0) :
    mget (mapply m (tlWork m' x).writes) (tlRow x t r + j) = mget m' (tlTile x t r j) := by
  refine mget_mapply_of_mem hwf (mem_tlWork.mpr ⟨t, r, j, ht, hr, hj, (if_pos hdir).symm⟩) fun y hy ha => ?_
  obtain ⟨t', r', j', -, hr', hj', rfl⟩ := mem_tlWork.mp hy
  rw [if_pos hdir] at ha ⊢
  obtain ⟨rfl, rfl, rfl⟩ := tlRow_inj hld hstride hr' hr hj' hj ha
  rfl

/-- R209: a move into the W8 tile units. -/
theorem tlWork_toTiles {m m' : Memory} {x : Tl} {t r j : Nat} (hwf : m.wf = true) (ht : t < x.n) (hr : r < 128) (hj : j < 256)
    (hdir : x.dir ≠ 0) :
    mget (mapply m (tlWork m' x).writes) (tlTile x t r j) = mget m' (tlRow x t r + j) := by
  refine mget_mapply_of_mem hwf (mem_tlWork.mpr ⟨t, r, j, ht, hr, hj, (if_neg hdir).symm⟩) fun y hy ha => ?_
  obtain ⟨t', r', j', -, hr', hj', rfl⟩ := mem_tlWork.mp hy
  rw [if_neg hdir] at ha ⊢
  obtain ⟨rfl, rfl, rfl⟩ := tlTile_inj hr' hr hj' hj ha
  rfl

/-- Settles O33: each move issues with the cells of its work, and no two of them share an address. -/
theorem moveRowsIssue : Obligations.MoveRowsIssue := by
  constructor
  · rintro s n i c x hwf hdue rfl hmeet hapart -
    obtain ⟨t, hexec, hissued⟩ := pageMove_issues hdue hmeet
    exact ⟨t, _, hexec, hissued, fun e k he hk => mvWork_moves hwf hapart he hk, fun a hout => mvWork_keeps hwf hout⟩
  · rintro s n i c x hwf hdue rfl hmeet hld hstride
    obtain ⟨t, hexec, hissued⟩ := tileMove_issues hdue hmeet
    exact ⟨t, _, hexec, hissued, fun e r j he hr hj =>
      ⟨tlWork_toNative hwf hld hstride he hr hj, tlWork_toTiles hwf he hr hj⟩⟩

end Sys2Proof.Machine
end

section
/-! PROOFS. The commit of a pool operation (O37): the pages of an operation move no command; then what its commit leaves where every page
allows it, and where one does not. -/

namespace Sys2Proof.Machine

/-! ### Pool operations and the commands in the hub -/

theorem evictOne_cmds {s t : State} {z : Zone} (h : evictOne s z = some t) : t.cmds = s.cmds := by
  unfold evictOne at h
  split at h
  · split at h <;> cases h
    rfl
  · cases h

theorem freeUp_cmds {s t : State} {z : Zone} (h : freeUp s z = some t) : t.cmds = s.cmds := by
  unfold freeUp at h
  split at h
  · cases h
    rfl
  · exact evictOne_cmds h

theorem placePage_cmds {s t : State} {p k : Nat} {e : Page} {clear : Bool} (h : placePage s p e clear = .done t k) : t.cmds = s.cmds := by
  unfold placePage at h
  split at h
  · split at h <;> cases h
  next s1 hfree =>
    cases h
    refine Eq.trans ?_ (freeUp_cmds hfree)
    cases clear <;> rfl

theorem recallPage_cmds {s t : State} {p k : Nat} {e : Page} (h : recallPage s p e = .done t k) : t.cmds = s.cmds := by
  unfold recallPage at h
  split at h
  · cases h
  · cases h
  · exact placePage_cmds h

/-- R196: what an operation does to one page moves no command. -/
theorem poPage_cmds {op : Nat} {s t : State} {p k : Nat} (h : poPage op s p = .done t k) : t.cmds = s.cmds := by
  unfold poPage at h
  split at h
  case h_1 => exact placePage_cmds h
  case h_2 | h_3 | h_10 => cases h
  case h_4 =>
    split at h <;> cases h
    rfl
  case h_5 =>
    split at h
    · cases h
      rfl
    · split at h
      next s1 _ hrecall =>
        cases h
        exact recallPage_cmds (t := s1) hrecall
      next hnot => exact absurd h (hnot _ _)
    · cases h
  case h_6 =>
    cases h
    rfl
  case h_7 =>
    split at h
    · cases h
    · split at h
      · split at h <;> cases h
        rfl
      · cases h
  case h_8 =>
    dsimp only at h
    split at h <;> cases h
    rfl
  case h_9 =>
    split at h
    · cases h
      rfl
    · exact recallPage_cmds h
    · cases h

theorem poAll_cmds {op : Nat} {ps : List Nat} {s t : State} {n m : Nat} (h : poAll op s n ps = .done t m) : t.cmds = s.cmds := by
  induction ps generalizing s n with
  | nil =>
    cases h
    rfl
  | cons p ps ih =>
    rw [poAll] at h
    split at h
    next s1 k hpage => exact (ih h).trans (poPage_cmds hpage)
    next hnot => exact absurd h (hnot _ _)

theorem logEvent_cmds (s : State) (source severity code unit data : Nat) :
    (logEvent s source severity code unit data).cmds = s.cmds := by
  obtain ⟨_, _, _, _, hlogged⟩ := logEvent_frame s source severity code unit data
  rw [hlogged]

theorem carafeEvent_cmds (s : State) (d : Nat) : (carafeEvent s d).cmds = s.cmds := by
  obtain ⟨⟨_, _, hraised⟩, -⟩ := carafeEvent_raised s d
  rw [hraised]

/-- R222: the report of a RETIRE moves no command. -/
theorem retireReport_cmds (s0 s : State) (ps : List Nat) : (retireReport s0 s ps).cmds = s.cmds := by
  have hkept : ∀ {α : Type} {f : State → α → State}, (∀ s x, (f s x).cmds = s.cmds) → ∀ xs s, (seqAll s xs f).cmds = s.cmds :=
    fun hf => seqAll_rel (R := fun s t => t.cmds = s.cmds) (fun _ => rfl) (fun hst htu => htu.trans hst) hf
  refine (hkept (fun s d => ?_) _ _).trans (hkept (fun s p => logEvent_cmds s ..) _ _)
  split
  · exact carafeEvent_cmds s d
  · rfl

theorem poolCommit_cmds {s t : State} {c : Cmd} {m : Nat} (h : poolCommit s c = .done t m) : t.cmds = s.cmds := by
  unfold poolCommit at h
  dsimp only at h
  split at h
  next s1 n hall =>
    cases h
    split
    · exact (retireReport_cmds _ _ _).trans (poAll_cmds hall)
    · exact poAll_cmds hall
  next hnot => exact absurd h (hnot _ _)

/-! ### The commit -/

theorem finalOf_pool_done {s s1 : State} {c : Cmd} {m : Nat} (hcls : hClass c.desc = 2) (hop : hOp c.desc = 3)
    (h : poolCommit s c = .done s1 m) : finalOf s c = .ready s1 { c.work with result := m } [] [] := by
  simp only [finalOf, hcls, hop, h]

theorem finalOf_pool_fails {s : State} {c : Cmd} {st : Status} (hcls : hClass c.desc = 2) (hop : hOp c.desc = 3)
    (h : poolCommit s c = .fails st) : finalOf s c = .fails st := by
  simp only [finalOf, hcls, hop, h]

/-- R92, R238: a commit that is due and whose checks leave a state of their own, as those of a pool operation do. -/
theorem commandCommit_readyIn {s s1 : State} {n i : Nat} {c : Cmd} {w : Work} {ops : List BrOp} {heads : List Nat}
    (hdue : commitDue s n i c) (hsnap : isSnapshot c.desc = false) (hfinal : finalOf s c = .ready s1 w ops heads) :
    commandCommit n i s = commitHeld s1 { c with work := w } ops heads s c := by
  obtain ⟨hfind, hstage, hpeer, hawaits, htables⟩ := hdue
  have hseal := snapSeal_of_not_snapshot (c := { c with work := w }) s1 hsnap
  simp only [commandCommit, hfind, if_pos hstage, commitIssued, hawaits, htables, hfinal, hseal]
  split
  next st herror => exact absurd (herror.symm.trans hpeer) (Option.some_ne_none st)
  next => rfl

/-- R237: a commit that is due and whose checks fail ends its command, where it is no collective, with their status. -/
theorem commandCommit_fails {s : State} {n i : Nat} {c : Cmd} {st : Status} (hdue : commitDue s n i c) (hcoll : c.coll = none)
    (hfinal : finalOf s c = .fails st) : commandCommit n i s = failCmd s c st 0 0 := by
  obtain ⟨hfind, hstage, hpeer, hawaits, htables⟩ := hdue
  simp only [commandCommit, hfind, if_pos hstage, commitIssued, hpeer, hawaits, htables, hfinal, endCmd, hcoll]
  rfl

theorem markTouched_pinned (ps : List Nat) (k : Nat) (e : Page) : (markTouched ps k e).pinned = e.pinned := by
  unfold markTouched
  split
  · rfl
  · rfl

/-- R197: marking pages as accessed keeps their pins. -/
theorem pinned_touchPages (s : State) (ps : List Nat) (p : Nat) :
    (aget? (touchPages s ps).pool p).map Page.pinned = (aget? s.pool p).map Page.pinned := by
  rw [touchPages_pool, aget?_map, Option.map_map]
  exact congrArg (Option.map · (aget? s.pool p)) (funext (markTouched_pinned ps p))

theorem madeVisible_pinned (s : State) (c : Cmd) (heads : List Nat) (p : Nat) :
    (aget? (madeVisible s c heads).pool p).map Page.pinned = (aget? s.pool p).map Page.pinned := by
  unfold madeVisible
  dsimp only
  obtain ⟨_, htrace⟩ := trace_frame (touchPages _ _) 4 c 0
  rw [htrace]
  exact pinned_touchPages _ _ p

theorem release_pool (s : State) (c : Cmd) : (release s c).pool = s.pool := by
  obtain ⟨_, _, hrelease⟩ := release_frame s c
  rw [hrelease]

/-- R237, R238: a commit as of `makeVisible_leaves` keeps every pin. -/
theorem makeVisible_pinned {s : State} {c : Cmd} (heads : List Nat) (hsnap : isSnapshot c.desc = false)
    (hsignal : isSignal c.desc = false) (hcoll : c.coll = none) (hlocal : peerPages s (allCells s c.work) = []) (p : Nat) :
    (aget? (makeVisible s c [] heads).pool p).map Page.pinned = (aget? s.pool p).map Page.pinned := by
  rw [makeVisible_local heads hsnap hlocal, settle_acked (c := committedCmd c) _ rfl rfl hcoll hsnap hsignal]
  rw [setCmd_pool, unreserve_pool, release_pool, setCmd_pool, madeVisible_pinned]

/-- R196, R237: what the commit of a pool operation leaves where every page allows it. -/
theorem poolCommit_done_leaves (s s1 : State) (n i m : Nat) (c : Cmd) (hdue : commitDue s n i c) (hcls : hClass c.desc = 2)
    (hop : hOp c.desc = 3) (hwork : c.work = {}) (hcoll : c.coll = none) (hdone : poolCommit s c = .done s1 m) :
    ∃ t, exec (.commandCommit n i) s = .next t ∧ decidedAs t n i .ok m ∧ t.mem = s1.mem
      ∧ ∀ p, pageState t p = pageState s1 p ∧ (aget? t.pool p).map Page.pinned = (aget? s1.pool p).map Page.pinned := by
  have ⟨hfind, _⟩ := hdue
  obtain ⟨rfl, rfl⟩ := findCmd_key hfind
  have hsnap : isSnapshot c.desc = false := by simp [isSnapshot, hcls]
  have hsignal : isSignal c.desc = false := by simp [isSignal, hcls]
  have hfinal : finalOf s c = .ready s1 { result := m } [] [] := by rw [finalOf_pool_done hcls hop hdone, hwork]
  have hfind1 : findCmd s1 c.ctx c.idx = some c := by rw [findCmd, poolCommit_cmds hdone, ← findCmd, hfind]
  have hstep := (commandCommit_readyIn hdue hsnap hfinal).trans
    (commitHeld_local (c := { c with work := { result := m } }) [] [] s c rfl rfl)
  obtain ⟨hdecided, ⟨hmem, -, -, -, -, hstates⟩, -⟩ :=
    makeVisible_leaves (c := { c with work := { result := m } }) [] hfind1 hsnap hsignal hcoll rfl
  exact ⟨_, congrArg Host.Outcome.next hstep, hdecided, hmem,
    fun p => ⟨hstates p, makeVisible_pinned (c := { c with work := { result := m } }) [] hsnap hsignal hcoll rfl p⟩⟩

/-- R196, R237: what the commit of a pool operation leaves where a page does not allow it. -/
theorem poolCommit_fails_leaves (s : State) (n i : Nat) (c : Cmd) (st : Status) (hdue : commitDue s n i c) (hcls : hClass c.desc = 2)
    (hop : hOp c.desc = 3) (hcoll : c.coll = none) (hfails : poolCommit s c = .fails st) :
    ∃ t, exec (.commandCommit n i) s = .next t ∧ decidedAs t n i st 0 ∧ t.mem = s.mem ∧ t.pool = s.pool := by
  have ⟨hfind, _⟩ := hdue
  obtain ⟨u, hsame, hfail⟩ := failCmd_leaves s c st 0 0
  have hfindu : findCmd u n i = some c := (hsame.findCmd n i).trans hfind
  obtain ⟨hmem, -, hpool, -⟩ := hsame
  exact ⟨_, congrArg Host.Outcome.next ((commandCommit_fails hdue hcoll (finalOf_pool_fails hcls hop hfails)).trans hfail),
    decidedAs_setCmd hfindu (findCmd_key hfind) st 0 0, hmem, hpool⟩

/-- Settles O37: the operation's own commit checks leave its pages, and the command's commit makes nothing else of them. -/
theorem poolCommits : Obligations.PoolCommits := ⟨poolCommit_done_leaves, poolCommit_fails_leaves⟩

end Sys2Proof.Machine
end

section
/-! PROOFS. Pool pages (O35): the clause about the eviction that the module starts fails on a pool that lists one page twice. -/

namespace Sys2Proof.Machine

/-- A module whose pool lists page 0 twice, which a map with rising keys does not: the entry that a lookup finds is pinned, the one after it
is not. Page 0 lies in a zone of one channel (mode 2) whose 16 frames are retired but for two, and the eviction area has four slots. -/
def pageTwiceListed : State :=
  { phase := .running
    pool := [(0, { pinned := true }), (0, {})]
    carafes := [(0, { retired := List.replicate 14 (2, 5) })]
    cset := { active := [(0x880, 0xB9#8), (0x888, 0x40#8), (0x890, 4#8), (0x8C4, 1#8), (0x8C8, 2#8), (0x8C9, 5#8), (0x8CA, 1#8)] } }

/-- R197: the choice among a zone's pages goes by the entries of the pool, and takes page 0 for its second one. -/
theorem pageTwiceListed_choice : evictChoice pageTwiceListed (0, 2, 5) = some 0 := by decide +kernel

/-- R197: the eviction changes the entry that a lookup finds, which is the pinned one. -/
theorem pageTwiceListed_evicted : pageState (pageEviction 0 2 5 pageTwiceListed) 0 = some .evicted := by decide +kernel

/-- Refutes O35: in a pool that lists one page twice, which no hypothesis of the clause excludes, the eviction that the module starts takes a
page that a lookup finds pinned. -/
theorem not_poolPagesMove : ¬ Obligations.PoolPagesMove := by
  rintro ⟨-, -, heviction, -⟩
  obtain ⟨t, ht, -, -, -, hpinned, -⟩ := heviction pageTwiceListed 0 2 5 0 0 rfl (by decide +kernel) (by decide +kernel) (by decide +kernel)
    pageTwiceListed_choice (by decide +kernel)
  obtain rfl : pageEviction 0 2 5 pageTwiceListed = t := Host.Outcome.next.inj ht
  have hstays : pageState (pageEviction 0 2 5 pageTwiceListed) 0 = some .resident :=
    congrArg (Option.map Page.state) (hpinned 0 { pinned := true } rfl rfl)
  exact absurd (pageTwiceListed_evicted.symm.trans hstays) (by decide)

end Sys2Proof.Machine
end

section
/-! PROOFS. Remote reads (O14): a message that is the next in its order is delivered at once; then what a served READ_REQ sends, and what the
four lines of a READ_REPLY leave where they land. -/

namespace Sys2Proof.Machine

/-! ### A message of the next number (R291, R294) -/

/-- R294: the state that a delivery leaves, with the next number expected. -/
def turnOver (t : State) (f : Flit) : State :=
  { t with links := { t.links with seqIn := aput t.links.seqIn (inKey f) (w32 (f.seq + 1)) } }

/-- A message held back while its turn is looked for. -/
def heldBack (s : State) (m : Msg) : State := { s with links := { s.links with early := s.links.early ++ [m] } }

/-- R294: the next message in order, with none held back, is delivered at once. -/
theorem accept_next {s t : State} {p : Nat} {m : Msg} (hearly : s.links.early = []) (hseq : m.flit.seq = expected s m.flit)
    (hready : (deliver (heldBack s m) p m).isSome = true) (hdeliver : deliver s p m = some t) : accept s p m = turnOver t m.flit := by
  have hinRange : ¬ m.flit.seq % 2 ^ 32 < expected s m.flit := by
    rw [hseq, Nat.mod_eq_of_lt (by unfold expected; omega)]
    exact lt_irrefl _
  have hheld : (heldBack s m).links.early = [m] := by simp [heldBack, hearly]
  have hfound : [m].find? (fun x => x.flit.seq == expected (heldBack s m) x.flit && (deliver (heldBack s m) p x).isSome) = some m :=
    List.find?_cons_of_pos ((Bool.and_eq_true _ _).mpr ⟨beq_iff_eq.mpr hseq, hready⟩)
  have hback : { heldBack s m with links := { (heldBack s m).links with early := [m].erase m } } = s := by
    rw [List.erase_cons_head, ← hearly]
    rfl
  have hnext : deliverNext s p m = some (turnOver t m.flit) := by
    rw [deliverNext, hdeliver, ← hseq]
    rfl
  change (if m.flit.seq % 2 ^ 32 < expected s m.flit then s else drainEarly p (heldBack s m).links.early.length (heldBack s m)) = _
  rw [if_neg hinRange, hheld, List.length_singleton, drainEarly, hheld, hfound]
  dsimp only
  rw [hback, hnext]
  rfl

theorem receive_next {s t : State} {p : Nat} {m : Msg} (hnext : nextInOrder s p m.flit) (htype : 0 < m.mtype ∧ m.mtype < 12)
    (hready : (deliver (heldBack s m) p m).isSome = true) (hdeliver : deliver s p m = some t) : receive p m s = turnOver t m.flit := by
  obtain ⟨⟨hlive, hhub, hport, hup, hself, hearly⟩, hseq⟩ := hnext
  have hknown : ¬ (m.mtype = 0 ∨ 12 < m.mtype) := by omega
  have hpresent : ¬ m.mtype = mtPresent := by unfold mtPresent; omega
  have hport' : ¬ 32 ≤ p := by omega
  simp [receive, hlive, hport', hup, hknown, hself, hhub, hpresent, accept_next hearly hseq hready hdeliver]

/-! ### A READ_REQ served (R193, R296) -/

theorem bringPage_resident {s : State} {p : Nat} {e : Page} (hpage : aget? s.pool p = some e) (hres : e.state = .resident) :
    bringPage s p = .done s 0 := by
  simp only [bringPage, hpage, hres]

/-- R296: the reply to a READ_REQ of a line of an own RESIDENT page. -/
def readAnswered (s : State) (f : Flit) : State :=
  send (touchPages s [pageOf f.address]) 0 mtReadReply f.cls f.src f.epoch f.tag
    (256 * (f.address / 256) + poisonMask s (f.address / 256)) (mread s.mem (256 * (f.address / 256)) 256)

theorem serveRead_resident {s : State} {f : Flit} {e : Page} (hown : ownCarafe s (256 * (f.address / 256)) = true)
    (hcarafe : gaOff f.address < 2 ^ 39) (hpage : aget? s.pool (pageOf f.address) = some e) (hres : e.state = .resident) :
    serveRead s f = some (readAnswered s f) := by
  have hserved : ¬ (!(ownCarafe s (256 * (f.address / 256))) || decide (2 ^ 39 ≤ gaOff f.address)) = true := by
    simpa [hown] using hcarafe
  simp only [serveRead, bringPage_resident hpage hres]
  exact if_neg hserved

/-- R292: a message to a module whose route has a port UP leaves on it. -/
theorem send_leaves {s : State} {dst address o : Nat} (mtype cls epoch tag : Nat) (data : List Byte) (h : leavesBy s dst address o) :
    ∃ q n, send s 0 mtype cls dst epoch tag address data
      = { s with links := { s.links with
          seqOut := q
          out := s.links.out ++ [(o, { mtype := mtype, flit := { cls := cls, dst := dst, src := selfId s, epoch := epoch, seq := n,
                                                                 tag := tag, address := address, data := data } })] } } := by
  unfold send emit
  dsimp only
  split
  next p hp =>
    obtain rfl : o = p := Option.some.inj (h.symm.trans hp)
    exact ⟨_, _, rfl⟩
  next hp => exact absurd (h.symm.trans hp) (Option.some_ne_none o)

theorem readReq_leaves (s : State) (p o : Nat) (f : Flit) (e : Page) (hnext : nextInOrder s p f)
    (hown : ownCarafe s (256 * (f.address / 256)) = true) (hcarafe : gaOff f.address < 2 ^ 39)
    (hpage : aget? s.pool (pageOf f.address) = some e) (hres : e.state = .resident)
    (hroute : leavesBy s f.src (256 * (f.address / 256) + poisonMask s (f.address / 256)) o) :
    ∃ (t : State) (m : Msg), exec (.readReq p f) s = .next t ∧ turnTaken s t f ∧ t.links.out = s.links.out ++ [(o, m)]
      ∧ m.mtype = 2 ∧ m.flit.dst = f.src ∧ m.flit.src = selfId s ∧ m.flit.tag = f.tag ∧ m.flit.cls = f.cls
      ∧ m.flit.data = mread s.mem (256 * (f.address / 256)) 256 ∧ t.mem = s.mem ∧ t.cmds = s.cmds := by
  have hready : (deliver (heldBack s ⟨mtReadReq, f⟩) p ⟨mtReadReq, f⟩).isSome = true :=
    Option.isSome_of_eq_some (serveRead_resident (s := heldBack s ⟨mtReadReq, f⟩) hown hcarafe hpage hres)
  have hstep := receive_next (m := ⟨mtReadReq, f⟩) hnext (by decide : 0 < 1 ∧ 1 < 12) hready (serveRead_resident hown hcarafe hpage hres)
  obtain ⟨q, n, hsent⟩ := send_leaves (s := touchPages s [pageOf f.address]) mtReadReply f.cls f.epoch f.tag
    (mread s.mem (256 * (f.address / 256)) 256) hroute
  obtain ⟨⟨-, -, -, -, -, hearly⟩, -⟩ := hnext
  rw [readAnswered, hsent] at hstep
  exact ⟨_, _, congrArg Host.Outcome.next hstep, ⟨(aget_aput _ _ _ _ _).trans (if_pos rfl), hearly⟩, rfl, rfl, rfl, rfl, rfl, rfl, rfl,
    rfl, rfl⟩

/-! ### The lines of a READ_REPLY (R31, R296) -/

/-- What a reply has left once `k` of its four lines have landed for a command: their bytes stand at the line's address, every other byte is
as before, and the command awaits them no longer. -/
def linesLanded (s t : State) (c : Cmd) (line : Nat) (data : List Byte) (k : Nat) : Prop :=
  t.mem.wf = true ∧ (∀ i, i < 64 * k → mget t.mem (256 * line + i) = data.getD i 0)
    ∧ (∀ a, ¬ (256 * line ≤ a ∧ a < 256 * line + 64 * k) → mget t.mem a = mget s.mem a)
    ∧ findCmd t c.ctx c.idx = some { c with await := c.await.filter (fun l => !decide (4 * line ≤ l ∧ l < 4 * line + k)) }

theorem linesLanded_zero {s : State} {c : Cmd} (line : Nat) (data : List Byte) (hwf : s.mem.wf = true)
    (hfind : findCmd s c.ctx c.idx = some c) : linesLanded s s c line data 0 := by
  refine ⟨hwf, fun i hi => absurd hi (by omega), fun _ _ => rfl, ?_⟩
  have hall : c.await.filter (fun l => !decide (4 * line ≤ l ∧ l < 4 * line + 0)) = c.await :=
    List.filter_eq_self.mpr fun l _ => by simp; omega
  rw [hall, hfind]

theorem countArrivals_frame (s : State) (c : Cmd) (n : Nat) (p : Bool) : ∃ k, countArrivals s c n p = { s with clusters := k } := by
  unfold countArrivals
  split
  · exact ⟨_, rfl⟩
  · exact ⟨_, rfl⟩

/-- R31: lines that land leave the wait of their command. -/
theorem landLines_leaves {s : State} {n i : Nat} {c : Cmd} (ls : List Nat) (p : Bool) (hfind : findCmd s n i = some c) :
    (landLines s c ls p).mem = s.mem
      ∧ findCmd (landLines s c ls p) n i = some { c with await := c.await.filter (fun l => !(ls.contains l)) } := by
  obtain ⟨k, hcount⟩ := countArrivals_frame s c (c.await.filter ls.contains).length p
  unfold landLines
  dsimp only
  rw [hcount]
  obtain ⟨hctx, hidx⟩ := findCmd_key hfind
  exact ⟨rfl, findCmd_setCmd_self (d := c) _ hfind hctx hidx⟩

/-- The 64 bytes of a reply's line `k`. -/
def replyLine (f : Flit) (k : Nat) : List Byte := (f.data.drop (64 * k)).take 64

theorem replyLine_length {f : Flit} {k : Nat} (hlen : f.data.length = 256) (hk : k < 4) : (replyLine f k).length = 64 := by
  rw [replyLine, List.length_take, List.length_drop]
  omega

theorem replyLine_getElem {f : Flit} {k o : Nat} (h : o < (replyLine f k).length) : (replyLine f k)[o] = f.data.getD (64 * k + o) 0 := by
  have hdata : 64 * k + o < f.data.length := by
    rw [replyLine, List.length_take, List.length_drop] at h
    omega
  simp [replyLine, List.getElem_take, List.getElem_drop, List.getElem?_eq_getElem hdata]

theorem mget_seeLine_in {s : State} {bs : List Byte} {l o : Nat} (p : Bool) (hwf : s.mem.wf = true) (ho : o < bs.length) :
    mget (seeLine s l bs p).mem (64 * l + o) = bs[o] := mget_mapply_cellsAt hwf _ ho

theorem mget_seeLine_out {s : State} {bs : List Byte} {l a : Nat} (p : Bool) (hwf : s.mem.wf = true)
    (ha : ¬ (64 * l ≤ a ∧ a < 64 * l + bs.length)) : mget (seeLine s l bs p).mem a = mget s.mem a :=
  mget_mapply_of_not_mem _ _ a hwf fun _ hx he => ha (he ▸ mem_cellsAt hx)

theorem landOne_found {t : State} {f : Flit} {n i line k : Nat} {c : Cmd} (h : findCmd t n i = some c) :
    landOne f n i line t k
      = landLines (seeLine t (4 * line + k) (replyLine f k) (bit f.address k)) c [4 * line + k] (bit f.address k) := by
  have hsame : findCmd (seeLine t (4 * line + k) ((f.data.drop (64 * k)).take 64) (bit f.address k)) n i = some c := h
  simp only [landOne, hsame]
  rfl

/-- R31: a command that awaits the lines of a reply but for the first `k`, once one more has landed. -/
theorem filter_landed_succ (ls : List Nat) (line k : Nat) :
    (ls.filter (fun l => !decide (4 * line ≤ l ∧ l < 4 * line + k))).filter (fun l => !([4 * line + k].contains l))
      = ls.filter (fun l => !decide (4 * line ≤ l ∧ l < 4 * line + (k + 1))) := by
  rw [List.filter_filter]
  refine List.filter_congr fun l _ => ?_
  rw [Bool.eq_iff_iff]
  simp
  omega

/-- R31: one more line of a reply lands. -/
theorem landOne_lands {s t : State} {c : Cmd} {r : ReadOut} {f : Flit} {k : Nat} (hk : k < 4) (hlen : f.data.length = 256)
    (h : linesLanded s t c r.line f.data k) : linesLanded s (landOne f c.ctx c.idx r.line t k) c r.line f.data (k + 1) := by
  obtain ⟨hwf, hin, hout, hfind⟩ := h
  have hline := replyLine_length hlen hk
  obtain ⟨hmem, hcmd⟩ := landLines_leaves (s := seeLine t (4 * r.line + k) (replyLine f k) (bit f.address k)) (n := c.ctx)
    (i := c.idx) [4 * r.line + k] (bit f.address k) hfind
  rw [landOne_found hfind, linesLanded, hmem]
  refine ⟨mapply_wf _ _ hwf, fun i hi => ?_, fun a ha => ?_, ?_⟩
  · by_cases hnew : 64 * k ≤ i
    · obtain ⟨o, rfl⟩ := Nat.exists_eq_add_of_le hnew
      rw [show 256 * r.line + (64 * k + o) = 64 * (4 * r.line + k) + o by omega, mget_seeLine_in _ hwf (by omega), replyLine_getElem]
    · rw [mget_seeLine_out _ hwf (by omega), hin i (by omega)]
  · rw [mget_seeLine_out _ hwf (by omega), hout a (by omega)]
  · rw [hcmd, filter_landed_succ]

/-- R31, R296: the four lines of a reply. -/
theorem reply_lands {s : State} {c : Cmd} {r : ReadOut} {f : Flit} (hwf : s.mem.wf = true) (hlen : f.data.length = 256)
    (hfind : findCmd s c.ctx c.idx = some c) :
    linesLanded s (seqAll s (List.range 4) (landOne f c.ctx c.idx r.line)) c r.line f.data 4 := by
  have hlanded : ∀ k, k ≤ 4 → linesLanded s (seqAll s (List.range k) (landOne f c.ctx c.idx r.line)) c r.line f.data k := by
    intro k
    induction k with
    | zero => exact fun _ => linesLanded_zero r.line f.data hwf hfind
    | succ k ih =>
      intro hk
      rw [List.range_succ, seqAll, List.foldl_append]
      exact landOne_lands hk hlen (ih (Nat.le_of_succ_le hk))
  exact hlanded 4 le_rfl

theorem waiting_placed {c : Cmd} (h : c.stage = .placed) : waiting c = false := by simp [waiting, h]

/-- R296: a reply without error lands for a placed command. -/
theorem landReply_placed {s : State} {c d : Cmd} {r : ReadOut} {f : Flit} (hfine : bits f.address 5 4 = 0)
    (hfind : findCmd (seqAll s (List.range 4) (landOne f c.ctx c.idx r.line)) c.ctx c.idx = some d) (hplaced : d.stage = .placed) :
    landReply s c r f = seqAll s (List.range 4) (landOne f c.ctx c.idx r.line) := by
  simp [landReply, hfine, hfind, waiting_placed hplaced]

/-- R203: what is asked for after a reply touches the links alone. -/
theorem askAll_onlyLinks (s : State) : onlyLinks s (askAll s) :=
  seqAll_rel onlyLinks.refl onlyLinks.trans
    (fun s c => seqAll_rel onlyLinks.refl onlyLinks.trans (askLine_onlyLinks c) (unasked s c) s) s.cmds s

/-- R203: a tracker entry freed. -/
def entryFreed (s : State) (tag : Nat) : State :=
  { s with links := { s.links with reads := s.links.reads.filter (fun x => x.tag != tag) } }

theorem replyDeliver_placed {s : State} {f : Flit} {r : ReadOut} {c : Cmd}
    (hentry : s.links.reads.find? (fun r => r.tag == f.tag && r.module == f.src) = some r) (hfind : findCmd s r.ctx r.idx = some c)
    (hepoch : c.epoch = r.epoch) (hplacement : c.epoch.toNat = f.epoch) (hplaced : c.stage = .placed) :
    replyDeliver s f = askAll (landReply (entryFreed s f.tag) c r f) := by
  have hfind' : findCmd { s with links := { s.links with reads := s.links.reads.filter (fun x => x.tag != f.tag) } } r.ctx r.idx = some c :=
    hfind
  have hcurrent : (c.epoch == r.epoch && c.epoch.toNat == f.epoch && c.stage != .decided) = true := by
    simp [← hepoch, hplacement, hplaced]
  simp only [replyDeliver, hentry, hfind', if_pos hcurrent]
  rfl

/-- R31: the lines that a reply has landed are those of its 256 bytes. -/
theorem filter_landed_four (ls : List Nat) (line : Nat) :
    ls.filter (fun l => !decide (4 * line ≤ l ∧ l < 4 * line + 4)) = ls.filter (fun l => l / 4 != line) := by
  refine List.filter_congr fun l _ => ?_
  rw [Bool.eq_iff_iff]
  simp
  omega

theorem readReply_leaves (s : State) (p : Nat) (f : Flit) (r : ReadOut) (c : Cmd) (hwf : s.mem.wf = true) (hnext : nextInOrder s p f)
    (hlen : f.data.length = 256) (hfine : bits f.address 5 4 = 0)
    (hentry : s.links.reads.find? (fun r => r.tag == f.tag && r.module == f.src) = some r) (hfind : findCmd s r.ctx r.idx = some c)
    (hepoch : c.epoch = r.epoch) (hplacement : c.epoch.toNat = f.epoch) (hplaced : c.stage = .placed) :
    ∃ t k, exec (.readReply p f) s = .next t
      ∧ (∀ i, i < 256 → mget t.mem (256 * r.line + i) = f.data.getD i 0)
      ∧ (∀ a, a / 256 ≠ r.line → mget t.mem a = mget s.mem a)
      ∧ findCmd t r.ctx r.idx = some k ∧ k.await = c.await.filter (fun l => l / 4 != r.line) ∧ k.stage = .placed := by
  obtain ⟨hctx, hidx⟩ := findCmd_key hfind
  obtain ⟨-, hin, hout, hcmd⟩ :=
    reply_lands (s := entryFreed s f.tag) (r := r) hwf hlen (show findCmd s c.ctx c.idx = some c by rw [hctx, hidx, hfind])
  have hstep := receive_next (m := ⟨mtReadReply, f⟩) hnext (by decide : 0 < 2 ∧ 2 < 12) rfl
    (congrArg some (replyDeliver_placed hentry hfind hepoch hplacement hplaced))
  rw [landReply_placed hfine hcmd hplaced] at hstep
  generalize seqAll (entryFreed s f.tag) (List.range 4) (landOne f c.ctx c.idx r.line) = u at hin hout hcmd hstep
  obtain ⟨ls, hasked⟩ := askAll_onlyLinks u
  rw [hasked] at hstep
  rw [filter_landed_four] at hcmd
  rw [← hctx, ← hidx]
  exact ⟨_, _, congrArg Host.Outcome.next hstep, fun i hi => hin i hi, fun a ha => hout a (by omega), hcmd, rfl, hplaced⟩

/-- Settles O14: each message is delivered at its turn; the request's delivery sends the line, the reply's lands its four lines. -/
theorem remoteReads : Obligations.RemoteReads := ⟨readReq_leaves, readReply_leaves⟩

end Sys2Proof.Machine
end

section
/-! PROOFS. Channels, throttle and scrub (O44): an activity that the Umpire lets run at once, what an event, a log record and the listing of
pages leave of the carafes; then each clause of the obligation from these. -/

namespace Sys2Proof.Machine

/-! ### A carafe after a change of one -/

theorem carafeOf_modCarafe (s : State) (d : Nat) (f : Carafe → Carafe) (x : Nat) :
    carafeOf (modCarafe s d f) x = if x = d then f (carafeOf s d) else carafeOf s x := aget_aput _ _ _ _ _

theorem carafeOf_modCarafe_self (s : State) (d : Nat) (f : Carafe → Carafe) : carafeOf (modCarafe s d f) d = f (carafeOf s d) :=
  (carafeOf_modCarafe s d f d).trans (if_pos rfl)

theorem otherCarafes_modCarafe (s : State) (d : Nat) (f : Carafe → Carafe) : otherCarafes s (modCarafe s d f) d :=
  fun x hx => (carafeOf_modCarafe s d f x).trans (if_neg hx)

theorem otherCarafes.trans {s t u : State} {d : Nat} (hst : otherCarafes s t d) (htu : otherCarafes t u d) : otherCarafes s u d :=
  fun x hx => (htu x hx).trans (hst x hx)

/-- What an activity or a report leaves that concerns no carafe and no contents: the carafes, memory, its poison and the pool. -/
def keepsCarafes (s t : State) : Prop := t.carafes = s.carafes ∧ t.mem = s.mem ∧ t.poison = s.poison ∧ t.pool = s.pool

theorem keepsCarafes.refl (s : State) : keepsCarafes s s := ⟨rfl, rfl, rfl, rfl⟩

theorem keepsCarafes.trans {s t u : State} (hst : keepsCarafes s t) (htu : keepsCarafes t u) : keepsCarafes s u := by
  obtain ⟨hcarafes, hmem, hpoison, hpool⟩ := hst
  obtain ⟨hcarafes', hmem', hpoison', hpool'⟩ := htu
  exact ⟨hcarafes'.trans hcarafes, hmem'.trans hmem, hpoison'.trans hpoison, hpool'.trans hpool⟩

theorem keepsCarafes.carafeOf {s t : State} (h : keepsCarafes s t) (d : Nat) : carafeOf t d = carafeOf s d := by
  rw [Machine.carafeOf, h.1, Machine.carafeOf]

theorem keepsCarafes.otherCarafes {s t u : State} {d : Nat} (h : otherCarafes s t d) (hkeeps : keepsCarafes t u) : otherCarafes s u d :=
  fun x hx => (hkeeps.carafeOf x).trans (h x hx)

theorem keepsCarafes.modCarafe {s t : State} (h : keepsCarafes s t) (d : Nat) (f : Carafe → Carafe) :
    keepsCarafes (modCarafe s d f) (modCarafe t d f) := by
  obtain ⟨hcarafes, hmem, hpoison, hpool⟩ := h
  refine ⟨?_, hmem, hpoison, hpool⟩
  rw [Machine.modCarafe, Machine.carafeOf, hcarafes]
  rfl

/-! ### Reports (R212, R223, R422) -/

theorem logEvent_keepsCarafes (s : State) (source severity code unit data : Nat) :
    keepsCarafes s (logEvent s source severity code unit data) := by
  obtain ⟨_, _, _, _, hlogged⟩ := logEvent_frame s source severity code unit data
  rw [hlogged]
  exact ⟨rfl, rfl, rfl, rfl⟩

/-- R422, R437: a log record leaves the Umpire as it is. -/
theorem logEvent_umpire (s : State) (source severity code unit data : Nat) :
    (logEvent s source severity code unit data).mgmt.running = s.mgmt.running
      ∧ (logEvent s source severity code unit data).mgmt.queued = s.mgmt.queued := by
  unfold logEvent
  dsimp only
  split
  · split <;> exact ⟨rfl, rfl⟩
  · split
    · exact ⟨rfl, rfl⟩
    · obtain ⟨⟨_, _, hraised⟩, -⟩ := mgmtEvent_raised s 4
      rw [hraised]
      exact ⟨rfl, rfl⟩

theorem listPage_keepsCarafes (k : Nat) (s : State) (p : Nat) : keepsCarafes s (listPage k s p) := by
  obtain ⟨_, _, _, _, _, hlisted⟩ := listPage_frame k s p
  rw [hlisted]
  exact ⟨rfl, rfl, rfl, rfl⟩

theorem umpEnd_keepsCarafes (s : State) (rank scope : Nat) (info : Nat × Nat) : keepsCarafes s (umpEnd s rank scope info) :=
  ⟨rfl, rfl, rfl, rfl⟩

/-- R223: a carafe with one more event. -/
def eventCounted (k : Carafe) : Carafe := { k with evt := withFlag k.evt 0, evtCnt := k.evtCnt + 1 }

theorem carafeEvent_leaves (s : State) (d : Nat) : keepsCarafes (modCarafe s d eventCounted) (carafeEvent s d) := by
  obtain ⟨⟨_, _, hraised⟩, -⟩ := carafeEvent_raised s d
  rw [hraised]
  exact ⟨rfl, rfl, rfl, rfl⟩

theorem carafeOf_carafeEvent (s : State) (d : Nat) : carafeOf (carafeEvent s d) d = eventCounted (carafeOf s d) := by
  rw [(carafeEvent_leaves s d).carafeOf, carafeOf_modCarafe_self]

theorem otherCarafes_carafeEvent (s : State) (d : Nat) : otherCarafes s (carafeEvent s d) d := fun x hx => by
  rw [(carafeEvent_leaves s d).carafeOf, otherCarafes_modCarafe s d _ x hx]

/-! ### The Umpire (R436, R437) -/

/-- R437: an activity has joined those that run. -/
def admitted (s : State) (rank scope : Nat) (info : Nat × Nat) : State :=
  { s with mgmt := { s.mgmt with
      running := s.mgmt.running ++ [{ rank := rank, scope := scope, since := s.localTime, info := info }] } }

theorem umpRuns_admitted (s : State) (rank scope : Nat) (info : Nat × Nat) : umpRuns (admitted s rank scope info) rank scope info = true := by
  simp [umpRuns, admitted]

/-- R436, R437: an activity that nothing keeps from running runs at once. -/
theorem umpAsk_free {s : State} {rank scope : Nat} {info : Nat × Nat} (h : umpireFree s rank scope info) :
    umpAsk s rank scope info = admitted s rank scope info := by
  obtain ⟨-, hqueued, hfits⟩ := h
  refine if_pos ?_
  rw [hqueued, Bool.and_eq_true]
  exact ⟨List.all_eq_true.mpr hfits, rfl⟩

theorem umpRuns_of_unknown {s : State} {rank scope : Nat} {info : Nat × Nat} (h : umpKnown s rank scope info = false) :
    umpRuns s rank scope info = false := by
  rw [umpKnown, List.any_append, Bool.or_eq_false_iff] at h
  exact h.1

/-! ### A channel activity admitted at once (R215, R437) -/

/-- R215: a carafe's only waiting channel. -/
def channelAsked (s : State) (d c : Nat) (failed : Bool) : State := modCarafe s d (fun k => { k with waiting := [(c, failed)] })

/-- R215: a channel admitted at once: nothing waits any more, and the activity runs. -/
def channelAdmitted (s : State) (d c : Nat) (failed : Bool) : State :=
  modCarafe (admitted (channelAsked s d c failed) rkChannel d (0, 0)) d (fun k => { k with waiting := [] })

theorem carafeOf_channelAsked (s : State) (d c : Nat) (failed : Bool) :
    carafeOf (channelAsked s d c failed) d = { carafeOf s d with waiting := [(c, failed)] } := carafeOf_modCarafe_self _ _ _

theorem carafeOf_channelAdmitted {s : State} {d : Nat} (c : Nat) (failed : Bool) (h : (carafeOf s d).waiting = []) :
    carafeOf (channelAdmitted s d c failed) d = carafeOf s d := by
  have hasked : carafeOf (admitted (channelAsked s d c failed) rkChannel d (0, 0)) d = { carafeOf s d with waiting := [(c, failed)] } :=
    carafeOf_channelAsked s d c failed
  rw [channelAdmitted, carafeOf_modCarafe_self, hasked, ← h]

theorem otherCarafes_channelAdmitted (s : State) (d c : Nat) (failed : Bool) : otherCarafes s (channelAdmitted s d c failed) d :=
  have hasked : otherCarafes s (admitted (channelAsked s d c failed) rkChannel d (0, 0)) d :=
    fun x hx => otherCarafes_modCarafe s d (fun k => { k with waiting := [(c, failed)] }) x hx
  hasked.trans (otherCarafes_modCarafe _ d _)

theorem askChannel_free {s : State} {d c : Nat} {failed : Bool} (hbusy : (carafeOf s d).busy = none)
    (hwaiting : (carafeOf s d).waiting = [(c, failed)]) (hfree : umpireFree s rkChannel d (0, 0)) :
    askChannel s d
      = startWaiting d 1 (startSubst (modCarafe (admitted s rkChannel d (0, 0)) d (fun k => { k with waiting := [] })) d c failed) := by
  have hunknown := hfree.1
  have hbusy' : (carafeOf (admitted s rkChannel d (0, 0)) d).busy = none := hbusy
  have hwaiting' : (carafeOf (admitted s rkChannel d (0, 0)) d).waiting = [(c, failed)] := hwaiting
  simp only [askChannel, hwaiting, hunknown, umpAsk_free hfree, umpRuns_admitted, runChannel, hwaiting', List.length_singleton]
  rw [startWaiting]
  simp only [hbusy', hwaiting']
  rfl

/-- R214: a running activity keeps the waiting channels of its carafe waiting. -/
theorem startWaiting_busy {s : State} {d : Nat} {b : Subst} (n : Nat) (h : (carafeOf s d).busy = some b) : startWaiting d n s = s := by
  cases n with
  | zero => rfl
  | succ n => simp only [startWaiting, h]

theorem startWaiting_none {s : State} {d : Nat} (n : Nat) (hbusy : (carafeOf s d).busy = none) (hwaiting : (carafeOf s d).waiting = []) :
    startWaiting d (n + 1) s = umpEnd s rkChannel d (0, 0) := by
  simp only [startWaiting, hbusy, hwaiting]

theorem channelSubstitution_idle {s : State} {d c : Nat} (k : Nat) (hd : d < 16) (hc : c < 64) (hidle : carafeIdle s d)
    (hremapped : (carafeOf s d).remapped ≠ some c) :
    channelSubstitution d c k s = startWaiting d 1 (startSubst (channelAdmitted s d c (decide (k < 2))) d c (decide (k < 2))) := by
  obtain ⟨hfailed, hbusy, hwaiting, hfree⟩ := hidle
  have hasked : channelSubstitution d c k s = askChannel (channelAsked s d c (decide (k < 2))) d := by
    simp [channelSubstitution, hd, hc, hfailed, hremapped, hbusy, channelAsked, modCarafe, hwaiting, waitChannel]
  have hnow := carafeOf_channelAsked s d c (decide (k < 2))
  rw [hasked]
  exact askChannel_free (by rw [hnow, hbusy]) (by rw [hnow]) hfree

/-! ### Substitution, remap and failure (R214, R217, R219) -/

/-- R214: a substitution that has begun. -/
def substBegun (s : State) (d : Nat) (b : Subst) : State := modCarafe s d (fun k => { k with busy := some b })

theorem startSubst_spare {s : State} {d c i : Nat} (failed : Bool) (h : freeSpare (carafeOf s d) = some i) :
    startSubst s d c failed
      = logEvent (substBegun s d { channel := c, spare := i, phase := .copying, failed := failed }) lsCarafe 1 0x0020 d c := by
  simp only [startSubst, h]
  rfl

theorem startSubst_remaps {s : State} {d c : Nat} (h : freeSpare (carafeOf s d) = none) (hremapped : (carafeOf s d).remapped = none) :
    startSubst s d c true = substBegun s d { channel := c, spare := 2, phase := .remapping, failed := true } := by
  simp [startSubst, h, hremapped, substBegun]

theorem startSubst_fails {s : State} {d c x : Nat} (h : freeSpare (carafeOf s d) = none) (hremapped : (carafeOf s d).remapped = some x) :
    startSubst s d c true = failCarafe s d c := by
  simp [startSubst, h, hremapped]

/-- R214, R217: what a carafe's activity leaves when it begins in a channel that has been admitted. -/
theorem substBegun_leaves {s : State} {d : Nat} (c : Nat) (failed : Bool) (b : Subst) (h : (carafeOf s d).waiting = []) :
    carafeOf (substBegun (channelAdmitted s d c failed) d b) d = { carafeOf s d with busy := some b }
      ∧ otherCarafes s (substBegun (channelAdmitted s d c failed) d b) d := by
  refine ⟨?_, (otherCarafes_channelAdmitted s d c failed).trans (otherCarafes_modCarafe _ d _)⟩
  rw [substBegun, carafeOf_modCarafe_self, carafeOf_channelAdmitted c failed h]

theorem substitution_begins (s : State) (d c k i : Nat) (hd : d < 16) (hc : c < 64) (hidle : carafeIdle s d)
    (hremapped : (carafeOf s d).remapped ≠ some c) (hspare : freeSpare (carafeOf s d) = some i) :
    ∃ t, exec (.channelSubstitution d c k) s = .next t
      ∧ (carafeOf t d).busy = some { channel := c, spare := i, phase := .copying, failed := decide (k < 2) } ∧ (carafeOf t d).waiting = []
      ∧ (carafeOf t d).s0 = (carafeOf s d).s0 ∧ (carafeOf t d).s1 = (carafeOf s d).s1
      ∧ umpireRuns s t rkChannel d (0, 0) ∧ otherCarafes s t d ∧ t.mem = s.mem ∧ t.poison = s.poison ∧ t.pool = s.pool := by
  have hstep := channelSubstitution_idle k hd hc hidle hremapped
  obtain ⟨-, -, hwaiting, -⟩ := hidle
  have hspare' : freeSpare (carafeOf (channelAdmitted s d c (decide (k < 2))) d) = some i := by
    rw [carafeOf_channelAdmitted c _ hwaiting, hspare]
  obtain ⟨hcarafe, hothers⟩ := substBegun_leaves c (decide (k < 2))
    { channel := c, spare := i, phase := .copying, failed := decide (k < 2) } hwaiting
  rw [startSubst_spare _ hspare'] at hstep
  generalize hv : substBegun (channelAdmitted s d c (decide (k < 2))) d _ = v at hstep hcarafe hothers
  have hlogged := logEvent_keepsCarafes v lsCarafe 1 0x0020 d c
  have ⟨_, hmem, hpoison, hpool⟩ := hlogged
  have hlogcarafe := (hlogged.carafeOf d).trans hcarafe
  obtain ⟨hrunning, hqueued⟩ := logEvent_umpire v lsCarafe 1 0x0020 d c
  rw [startWaiting_busy 1 (by rw [hlogcarafe])] at hstep
  refine ⟨_, congrArg Host.Outcome.next hstep, ?_⟩
  rw [hlogcarafe]
  refine ⟨rfl, hwaiting, rfl, rfl, ⟨hrunning.trans ?_, hqueued.trans ?_⟩, hlogged.otherCarafes hothers, hmem.trans ?_,
    hpoison.trans ?_, hpool.trans ?_⟩
  all_goals
    rw [← hv]
    rfl

theorem remap_begins (s : State) (d c k : Nat) (hd : d < 16) (hc : c < 64) (hk : k < 2) (hidle : carafeIdle s d)
    (hremapped : (carafeOf s d).remapped = none) (hspare : freeSpare (carafeOf s d) = none) :
    ∃ t, exec (.channelSubstitution d c k) s = .next t
      ∧ (carafeOf t d).busy = some { channel := c, spare := 2, phase := .remapping, failed := true }
      ∧ umpireRuns s t rkChannel d (0, 0) ∧ otherCarafes s t d ∧ t.mem = s.mem ∧ t.poison = s.poison := by
  have hstep := channelSubstitution_idle k hd hc hidle (by rw [hremapped]; nofun)
  obtain ⟨-, -, hwaiting, -⟩ := hidle
  have hnow := carafeOf_channelAdmitted c true hwaiting
  obtain ⟨hcarafe, hothers⟩ := substBegun_leaves c true { channel := c, spare := 2, phase := .remapping, failed := true } hwaiting
  rw [decide_eq_true hk, startSubst_remaps (by rw [hnow, hspare]) (by rw [hnow, hremapped]),
    startWaiting_busy 1 (by rw [hcarafe])] at hstep
  exact ⟨_, congrArg Host.Outcome.next hstep, by rw [hcarafe], ⟨rfl, rfl⟩, hothers, rfl, rfl⟩

/-- R219: a failed carafe, with nothing running and nothing waiting. -/
def carafeFailed (k : Carafe) : Carafe := { k with failed := true, busy := none, waiting := [] }

/-- R219: a carafe that fails with a channel: the channel's lines are poisoned, and what is reported of it concerns no other carafe. -/
theorem failCarafe_leaves (s : State) (d c : Nat) :
    carafeOf (failCarafe s d c) d = eventCounted (carafeFailed (carafeOf s d)) ∧ otherCarafes s (failCarafe s d c) d
      ∧ (failCarafe s d c).poison = (poisonLines s (channelLines s d c)).poison ∧ (failCarafe s d c).mem = s.mem
      ∧ (failCarafe s d c).pool = s.pool := by
  have hlisted : ∀ ps u, keepsCarafes u (seqAll u ps (listPage 3)) :=
    seqAll_rel keepsCarafes.refl keepsCarafes.trans (listPage_keepsCarafes 3)
  unfold failCarafe
  dsimp only
  generalize hu : poisonLines (modCarafe s d _) (channelLines s d c) = u
  generalize ((u.pool.filter _).map Prod.fst) = ps
  have hfailed : carafeOf u d = carafeFailed (carafeOf s d) := by
    rw [← hu]
    exact carafeOf_modCarafe_self s d carafeFailed
  have hothers : otherCarafes s u d := by
    rw [← hu]
    exact otherCarafes_modCarafe s d carafeFailed
  have hreported : keepsCarafes (modCarafe u d eventCounted) (logEvent (carafeEvent (seqAll u ps (listPage 3)) d) lsCarafe 2 0x0022 d c) :=
    (((hlisted ps u).modCarafe d eventCounted).trans (carafeEvent_leaves _ d)).trans (logEvent_keepsCarafes _ lsCarafe 2 0x0022 d c)
  have ⟨_, hmem, hpoison, hpool⟩ := hreported
  refine ⟨?_, hreported.otherCarafes (hothers.trans (otherCarafes_modCarafe u d _)), hpoison.trans ?_, hmem.trans ?_, hpool.trans ?_⟩
  · rw [hreported.carafeOf, carafeOf_modCarafe_self, hfailed]
  all_goals
    rw [← hu]
    rfl

theorem carafe_fails (s : State) (d c k x : Nat) (hd : d < 16) (hc : c < 64) (hk : k < 2) (hidle : carafeIdle s d)
    (hremapped : (carafeOf s d).remapped = some x) (hother : x ≠ c) (hspare : freeSpare (carafeOf s d) = none) :
    ∃ t, exec (.channelSubstitution d c k) s = .next t ∧ (carafeOf t d).failed = true ∧ (carafeOf t d).busy = none
      ∧ (∀ l, l ∈ t.poison ↔ l ∈ channelLines s d c ∨ l ∈ s.poison) ∧ otherCarafes s t d ∧ t.mem = s.mem ∧ t.pool = s.pool := by
  have hstep := channelSubstitution_idle k hd hc hidle (by rw [hremapped]; exact fun h => hother (Option.some.inj h))
  obtain ⟨-, -, hwaiting, -⟩ := hidle
  have hnow := carafeOf_channelAdmitted c true hwaiting
  obtain ⟨hcarafe, hothers, hpoison, hmem, hpool⟩ := failCarafe_leaves (channelAdmitted s d c true) d c
  have hended := umpEnd_keepsCarafes (failCarafe (channelAdmitted s d c true) d c) rkChannel d (0, 0)
  rw [decide_eq_true hk, startSubst_fails (by rw [hnow, hspare]) (by rw [hnow, hremapped]),
    startWaiting_none 0 (by rw [hcarafe]; rfl) (by rw [hcarafe]; rfl)] at hstep
  refine ⟨_, congrArg Host.Outcome.next hstep, ?_, ?_, fun l => ?_,
    hended.otherCarafes ((otherCarafes_channelAdmitted s d c true).trans hothers), hmem, hpool⟩
  · rw [hended.carafeOf, hcarafe]
    rfl
  · rw [hended.carafeOf, hcarafe]
    rfl
  · rw [show (umpEnd (failCarafe (channelAdmitted s d c true) d c) rkChannel d (0, 0)).poison = _ from hpoison, mem_poisonLines]
    rfl

/-! ### Spares (R214) -/

theorem spareOf_setSpare_self (k : Carafe) (i : Nat) (x : Spare) : spareOf (setSpare k i x) i = x := by
  unfold spareOf setSpare
  split <;> rfl

theorem spareOf_setSpare_ne (k : Carafe) {i j : Nat} (x : Spare) (hi : i < 2) (hj : j < 2) (h : j ≠ i) :
    spareOf (setSpare k i x) j = spareOf k j := by
  obtain ⟨rfl, rfl⟩ | ⟨rfl, rfl⟩ : (i = 0 ∧ j = 1) ∨ (i = 1 ∧ j = 0) := by omega
  · rfl
  · rfl

theorem setSpare_events (k : Carafe) (i : Nat) (x : Spare) :
    (setSpare k i x).evt = k.evt ∧ (setSpare k i x).evtCnt = k.evtCnt ∧ (setSpare k i x).waiting = k.waiting := by
  unfold setSpare
  split <;> exact ⟨rfl, rfl, rfl⟩

/-- R214: a carafe whose spare has taken a channel's number; the channel, or the spare before it, retrains. -/
def switched (b : Subst) (k : Carafe) : Carafe :=
  { setSpare k b.spare (.standsFor b.channel) with busy := some { b with phase := .retraining } }

theorem channelSwitch_copying {s : State} {d : Nat} {b : Subst} (hbusy : (carafeOf s d).busy = some b) (hphase : b.phase = .copying) :
    channelSwitch d s = carafeEvent (modCarafe s d (switched b)) d := by
  simp only [channelSwitch, hbusy, if_pos hphase]
  rfl

theorem channelSwitch_leaves (s : State) (d : Nat) (b : Subst) (hbusy : (carafeOf s d).busy = some b) (hphase : b.phase = .copying) :
    ∃ t, exec (.channelSwitch d) s = .next t ∧ spareOf (carafeOf t d) b.spare = .standsFor b.channel
      ∧ (carafeOf t d).busy = some { b with phase := .retraining } ∧ (carafeOf t d).evt = withFlag (carafeOf s d).evt 0
      ∧ (carafeOf t d).evtCnt = (carafeOf s d).evtCnt + 1 ∧ otherCarafes s t d ∧ t.mem = s.mem := by
  have hstep := channelSwitch_copying hbusy hphase
  have ⟨_, hmem, _⟩ := carafeEvent_leaves (modCarafe s d (switched b)) d
  obtain ⟨hevt, hcnt, -⟩ := setSpare_events (carafeOf s d) b.spare (.standsFor b.channel)
  refine ⟨_, congrArg Host.Outcome.next hstep, ?_⟩
  rw [carafeOf_carafeEvent, carafeOf_modCarafe_self]
  exact ⟨spareOf_setSpare_self (carafeOf s d) b.spare _, rfl, congrArg (withFlag · 0) hevt, congrArg (· + 1) hcnt,
    (otherCarafes_modCarafe s d _).trans (otherCarafes_carafeEvent _ d), hmem⟩

/-! ### The end of an activity (R214, R215, R217) -/

/-- R215: a carafe with nothing running. -/
def ended (k : Carafe) : Carafe := { k with busy := none }

/-- R215: an activity that ends where no channel waits. -/
theorem endSubst_leaves {s : State} {d : Nat} (h : (carafeOf s d).waiting = []) :
    keepsCarafes (modCarafe s d ended) (endSubst s d) := by
  have hwaiting : (carafeOf (umpEnd (modCarafe s d ended) rkChannel d (0, 0)) d).waiting = [] :=
    (congrArg Carafe.waiting (carafeOf_modCarafe_self s d ended)).trans h
  have hend : endSubst s d = umpEnd (modCarafe s d ended) rkChannel d (0, 0) := by
    change askChannel (umpEnd (modCarafe s d ended) rkChannel d (0, 0)) d = _
    exact if_pos (by rw [hwaiting]; rfl)
  rw [hend]
  exact umpEnd_keepsCarafes _ _ _ _

theorem afterRetrain_waiting (k : Carafe) (b : Subst) (ok : Bool) : (afterRetrain k b ok).waiting = k.waiting := by
  unfold afterRetrain
  dsimp only
  split
  · exact (setSpare_events k _ _).2.2
  · split
    · exact (setSpare_events k _ _).2.2
    · rfl

/-- R214: a channel whose own stack has retrained gives its spare back where it passes. -/
theorem afterRetrain_own {k : Carafe} {b : Subst} {ok : Bool} (hspare : b.spare < 2) (hstands : spareOf k b.spare = .standsFor b.channel)
    (hother : spareOf k (1 - b.spare) ≠ .standsFor b.channel) :
    spareOf (afterRetrain k b ok) b.spare = (if ok then .free else .standsFor b.channel)
      ∧ spareOf (afterRetrain k b ok) (1 - b.spare) = spareOf k (1 - b.spare) := by
  unfold afterRetrain
  dsimp only
  rw [if_neg hother]
  cases ok with
  | true => exact ⟨spareOf_setSpare_self k _ _, spareOf_setSpare_ne k _ hspare (by omega) (by omega)⟩
  | false => exact ⟨hstands, rfl⟩

/-- R214: a spare that stood for the channel and has retrained is free where it passes, and retired where it does not. -/
theorem afterRetrain_otherSpare {k : Carafe} {b : Subst} {ok : Bool} (hspare : b.spare < 2)
    (hstands : spareOf k b.spare = .standsFor b.channel) (hother : spareOf k (1 - b.spare) = .standsFor b.channel) :
    spareOf (afterRetrain k b ok) b.spare = .standsFor b.channel
      ∧ spareOf (afterRetrain k b ok) (1 - b.spare) = (if ok then .free else .retired) := by
  unfold afterRetrain
  dsimp only
  rw [if_pos hother]
  exact ⟨(spareOf_setSpare_ne k _ (by omega) hspare (by omega)).trans hstands, spareOf_setSpare_self k _ _⟩

theorem channelRetrainDone_ends {s : State} {d : Nat} {b : Subst} (ok : Bool) (hbusy : (carafeOf s d).busy = some b)
    (hphase : b.phase = .retraining) (hwaiting : (carafeOf s d).waiting = []) :
    ∃ k, (k = id ∨ k = eventCounted)
      ∧ carafeOf (channelRetrainDone d ok s) d = k (ended (afterRetrain (carafeOf s d) b ok))
      ∧ otherCarafes s (channelRetrainDone d ok s) d ∧ (channelRetrainDone d ok s).mem = s.mem := by
  have hretrained := carafeOf_modCarafe_self s d (fun _ => afterRetrain (carafeOf s d) b ok)
  have hends := endSubst_leaves (s := modCarafe s d (fun _ => afterRetrain (carafeOf s d) b ok)) (d := d)
    (by rw [hretrained, afterRetrain_waiting, hwaiting])
  have ⟨_, hmem, _⟩ := hends
  have hothers := hends.otherCarafes ((otherCarafes_modCarafe s d _).trans (otherCarafes_modCarafe _ d ended))
  have hcarafe := (hends.carafeOf d).trans ((carafeOf_modCarafe_self _ d ended).trans (congrArg ended hretrained))
  simp only [channelRetrainDone, hbusy, if_pos hphase]
  split
  · exact ⟨id, .inl rfl, hcarafe, hothers, hmem⟩
  · have ⟨_, hmem', _⟩ := carafeEvent_leaves (endSubst (modCarafe s d (fun _ => afterRetrain (carafeOf s d) b ok)) d) d
    exact ⟨eventCounted, .inr rfl, (carafeOf_carafeEvent _ d).trans (congrArg eventCounted hcarafe),
      hothers.trans (otherCarafes_carafeEvent _ d), hmem'.trans hmem⟩

theorem channelRetrainDone_leaves (s : State) (d : Nat) (b : Subst) (ok : Bool) (hbusy : (carafeOf s d).busy = some b)
    (hphase : b.phase = .retraining) (hspare : b.spare < 2) (hwaiting : (carafeOf s d).waiting = [])
    (hstands : spareOf (carafeOf s d) b.spare = .standsFor b.channel) :
    ∃ t, exec (.channelRetrainDone d ok) s = .next t ∧ (carafeOf t d).busy = none ∧ otherCarafes s t d ∧ t.mem = s.mem
      ∧ (spareOf (carafeOf s d) (1 - b.spare) ≠ .standsFor b.channel →
          spareOf (carafeOf t d) b.spare = (if ok then .free else .standsFor b.channel)
          ∧ spareOf (carafeOf t d) (1 - b.spare) = spareOf (carafeOf s d) (1 - b.spare))
      ∧ (spareOf (carafeOf s d) (1 - b.spare) = .standsFor b.channel →
          spareOf (carafeOf t d) b.spare = .standsFor b.channel
          ∧ spareOf (carafeOf t d) (1 - b.spare) = (if ok then .free else .retired)) := by
  obtain ⟨k, hreport, hcarafe, hothers, hmem⟩ := channelRetrainDone_ends ok hbusy hphase hwaiting
  refine ⟨_, rfl, ?_, hothers, hmem, ?_⟩
  · rw [hcarafe]
    rcases hreport with rfl | rfl <;> rfl
  · rw [hcarafe]
    rcases hreport with rfl | rfl <;> exact ⟨afterRetrain_own hspare hstands, afterRetrain_otherSpare hspare hstands⟩

theorem channelRemap_leaves (s : State) (d : Nat) (b : Subst) (hbusy : (carafeOf s d).busy = some b) (hphase : b.phase = .remapping)
    (hwaiting : (carafeOf s d).waiting = []) :
    ∃ t, exec (.channelRemap d) s = .next t ∧ (carafeOf t d).remapped = some b.channel ∧ (carafeOf t d).busy = none
      ∧ (carafeOf t d).evtCnt = (carafeOf s d).evtCnt + 1 ∧ otherCarafes s t d ∧ t.mem = s.mem := by
  have hremapped := carafeOf_modCarafe_self s d (fun k => { k with remapped := some b.channel })
  have hends := endSubst_leaves (s := modCarafe s d (fun k => { k with remapped := some b.channel })) (d := d)
    (by rw [hremapped, ← hwaiting])
  have hreported := ((hends.modCarafe d eventCounted).trans (carafeEvent_leaves _ d)).trans
    (logEvent_keepsCarafes _ lsCarafe 1 0x0021 d b.channel)
  have ⟨_, hmem, _⟩ := hreported
  have hstep : channelRemap d s = logEvent (carafeEvent (endSubst (modCarafe s d (fun k => { k with remapped := some b.channel })) d) d)
      lsCarafe 1 0x0021 d b.channel := by
    simp only [channelRemap, hbusy, if_pos hphase]
  refine ⟨_, congrArg Host.Outcome.next hstep, ?_⟩
  rw [hreported.carafeOf, carafeOf_modCarafe_self, carafeOf_modCarafe_self, hremapped]
  exact ⟨rfl, rfl, rfl, hreported.otherCarafes (((otherCarafes_modCarafe s d _).trans (otherCarafes_modCarafe _ d _)).trans
    (otherCarafes_modCarafe _ d _)), hmem⟩

/-! ### The throttle (R220) -/

/-- R420: a report of a sensor's reading to the receiver is a message and nothing else. -/
theorem reportCrossing_frame (s : State) (sensor : Nat) (b : BitVec 16) : ∃ o, reportCrossing s sensor b = { s with out := o } := by
  unfold reportCrossing
  split
  · split
    · exact ⟨_, rfl⟩
    · exact ⟨s.out, rfl⟩
  · exact ⟨s.out, rfl⟩

theorem noteTemp_frame (s : State) (sensor r : Nat) : ∃ p o, noteTemp s sensor r = { s with power := p, out := o } := by
  obtain ⟨o, hreported⟩ := reportCrossing_frame s sensor (BitVec.ofNat 16 r)
  simp only [noteTemp, hreported]
  exact ⟨_, _, rfl⟩

theorem noteTemp_temps (s : State) (sensor r : Nat) : aget (noteTemp s sensor r).power.temps sensor 0#16 = BitVec.ofNat 16 r :=
  (aget_aput _ _ _ _ _).trans (if_pos rfl)

/-- R220: a carafe's temperature is its sensors' alone. -/
theorem carafeTemp_modCarafe (s : State) (d : Nat) (f : Carafe → Carafe) (x : Nat) :
    carafeTemp (modCarafe s d f) x = carafeTemp s x := rfl

theorem foldl_max_lt_iff (l : List Nat) (a b : Nat) : l.foldl max a < b ↔ a < b ∧ ∀ x ∈ l, x < b := by
  induction l generalizing a with
  | nil => simp
  | cons x xs ih => simp [ih, and_assoc]

theorem throttleStep_lt_iff (now t b : Nat) :
    throttleStep now t < b ↔ 0 < b ∧ ∀ i, i < 6 → (i = 0 ∨ stepTemp i ≤ t ∨ (i ≤ now ∧ stepTemp i < t + 32)) → i < b := by
  simp [throttleStep, foldl_max_lt_iff, or_assoc]

/-- R220: a carafe is throttled at least by the step whose threshold it has reached. -/
theorem le_throttleStep {i now t : Nat} (hi : i ≤ 5) (h : 16 * (95 + 2 * (i - 1)) ≤ t) : i ≤ throttleStep now t := by
  by_contra hlt
  exact absurd (((throttleStep_lt_iff now t i).mp (by omega)).2 i (by omega) (.inr (.inl h))) (lt_irrefl i)

/-- R220: a step is released 2 °C below its threshold, whatever the step before. -/
theorem throttleStep_lt {i now t : Nat} (hi : 1 ≤ i) (h : t + 32 ≤ 16 * (95 + 2 * (i - 1))) : throttleStep now t < i := by
  refine (throttleStep_lt_iff now t i).mpr ⟨hi, fun j _ hj => ?_⟩
  unfold stepTemp at hj
  omega

theorem carafeThrottle_leaves (s : State) (d l r : Nat) (hd : d < 16) (hl : l < 6) : ∃ t, exec (.carafeThrottle d l r) s = .next t
    ∧ aget t.power.temps (64 + 6 * d + l) 0#16 = BitVec.ofNat 16 r
    ∧ (carafeOf t d).throttle = throttleStep (carafeOf s d).throttle (carafeTemp t d)
    ∧ (∀ i, 1 ≤ i → i ≤ 5 → 16 * (95 + 2 * (i - 1)) ≤ carafeTemp t d → i ≤ (carafeOf t d).throttle)
    ∧ (∀ i, 1 ≤ i → i ≤ 5 → carafeTemp t d + 32 ≤ 16 * (95 + 2 * (i - 1)) → (carafeOf t d).throttle < i)
    ∧ otherCarafes s t d ∧ t = { s with carafes := t.carafes, power := t.power, out := t.out } := by
  have htemps := noteTemp_temps s (64 + 6 * d + l) r
  obtain ⟨p, o, hnoted⟩ := noteTemp_frame s (64 + 6 * d + l) r
  have hstep : carafeThrottle d l r s
      = modCarafe (noteTemp s (64 + 6 * d + l) r) d
          (fun k => { k with throttle := throttleStep k.throttle (carafeTemp (noteTemp s (64 + 6 * d + l) r) d) }) :=
    if_neg (by simp [hd, hl])
  rw [hnoted] at htemps hstep
  have hthrottle := congrArg Carafe.throttle (carafeOf_modCarafe_self { s with power := p, out := o } d
    (fun k => { k with throttle := throttleStep k.throttle (carafeTemp { s with power := p, out := o } d) }))
  refine ⟨_, congrArg Host.Outcome.next hstep, htemps, ?_⟩
  rw [hthrottle, carafeTemp_modCarafe]
  generalize carafeTemp { s with power := p, out := o } d = now
  exact ⟨rfl, fun _ _ hi h => le_throttleStep hi h, fun _ hi _ h => throttleStep_lt hi h,
    fun x hx => otherCarafes_modCarafe { s with power := p, out := o } d _ x hx, rfl⟩

/-! ### Patrol (R401) -/

/-- R401, R437: a slice of patrol that the Umpire admits at once is done at once. -/
theorem patrolScrub_free {s : State} {d c : Nat} (n f : Nat) (e : Bool) (hrunning : s.phase = .running) (hawake : s.standby = none)
    (hd : d < 16) (hc : c < 64) (hfree : umpireFree s rkScrub d (0, 0)) : patrolScrub d c n f e s = scrubSlice s d c n f e := by
  have hunknown := hfree.1
  simp [patrolScrub, asleep, hrunning, hawake, hd, hc, hunknown, umpRuns_of_unknown hunknown, umpAsk_free hfree, umpRuns_admitted]

/-- R401: the period of a channel after a slice. -/
theorem scrubNext_period (p f n : Nat) (e : Bool) :
    (16 * p < 3600 * f → (scrubNext p f n e).1 = max 900 (p / 2))
      ∧ (¬ 16 * p < 3600 * f → e = false → (scrubNext p f n e).1 = p)
      ∧ (¬ 16 * p < 3600 * f → e = true → 3600 * f < 4 * p → (scrubNext p f n e).1 = min 86400 (p * 2)) := by
  refine ⟨fun hmany => ?_, fun hfew hgoes => ?_, fun hfew hends hclean => ?_⟩
  · rw [scrubNext, if_pos hmany]
    rfl
  · rw [scrubNext, if_neg hfew, hgoes]
    rfl
  · rw [scrubNext, if_neg hfew, if_pos hends, if_pos hclean]
    rfl

theorem scrubSlice_period (s : State) (d c n f : Nat) (e : Bool) (x : Nat) :
    aget (carafeOf (scrubSlice s d c n f e) d).scrub x 86400
      = if x = c then (scrubNext (aget (carafeOf s d).scrub c 86400) (aget (carafeOf s d).scrubFound c 0 + f)
          (aget (carafeOf s d).scrubLines c 0 + n) e).1
        else aget (carafeOf s d).scrub x 86400 := by
  rw [scrubSlice, carafeOf_modCarafe_self]
  exact aget_aput _ _ _ _ _

theorem patrolScrub_leaves (s : State) (d c n f : Nat) (e : Bool) (p : Nat) (hrunning : s.phase = .running) (hawake : s.standby = none)
    (hd : d < 16) (hc : c < 64) (hfree : umpireFree s rkScrub d (0, 0)) (hp : p = aget (carafeOf s d).scrub c 86400) :
    ∃ t, exec (.patrolScrub d c n f e) s = .next t
      ∧ (16 * p < 3600 * (aget (carafeOf s d).scrubFound c 0 + f) → aget (carafeOf t d).scrub c 86400 = max 900 (p / 2))
      ∧ (¬ 16 * p < 3600 * (aget (carafeOf s d).scrubFound c 0 + f) → e = false → aget (carafeOf t d).scrub c 86400 = p)
      ∧ (¬ 16 * p < 3600 * (aget (carafeOf s d).scrubFound c 0 + f) → e = true →
          3600 * (aget (carafeOf s d).scrubFound c 0 + f) < 4 * p → aget (carafeOf t d).scrub c 86400 = min 86400 (p * 2))
      ∧ (∀ x, x ≠ c → aget (carafeOf t d).scrub x 86400 = aget (carafeOf s d).scrub x 86400)
      ∧ otherCarafes s t d ∧ t = { s with carafes := t.carafes } := by
  subst hp
  have hperiod := scrubSlice_period s d c n f e
  obtain ⟨hmany, hgoes, hends⟩ := scrubNext_period (aget (carafeOf s d).scrub c 86400) (aget (carafeOf s d).scrubFound c 0 + f)
    (aget (carafeOf s d).scrubLines c 0 + n) e
  rw [← (hperiod c).trans (if_pos rfl)] at hmany hgoes hends
  exact ⟨_, congrArg Host.Outcome.next (patrolScrub_free n f e hrunning hawake hd hc hfree), hmany, hgoes, hends,
    fun x hx => (hperiod x).trans (if_neg hx), otherCarafes_modCarafe s d _, rfl⟩

/-- Settles O44: substitution, retrain, remap and failure of channels, the throttle and the patrol, clause by clause. -/
theorem channels : Obligations.Channels :=
  ⟨substitution_begins, remap_begins, carafe_fails, channelSwitch_leaves, channelRetrainDone_leaves, channelRemap_leaves,
    carafeThrottle_leaves, patrolScrub_leaves⟩

end Sys2Proof.Machine
end

section
/-! PROOFS. The front of the queue (O1), the state after reset (O58), and validation (O57): what the driver's first stage comes to where a
check fails, where a run-time extent is 0 and where every check passes; then each clause of the obligations from these. -/

namespace Sys2Proof.Machine

/-- Settles O1: a step takes the command at the front of a queue that holds one. -/
theorem stepRunsFront : Obligations.StepRunsFront := fun s c q h => by rw [step, h]

/-! ### The state after reset (R256, R257, R364, R407) -/

/-- R268, R364: every cluster group of the default set is unused. -/
theorem grpCtx_defaultSet : ∀ g, g < 16 → grpCtx defaultSet g = 0xFFFF := by decide +kernel

/-- R364: the fields of the default set that the module acts on. -/
theorem defaultSet_fields :
    setFld defaultSet 0x40 2 = 0 ∧ setPort defaultSet = 0 ∧ setFld defaultSet 0x43 1 = 3 ∧ setFld defaultSet 0x44 1 = 2
      ∧ setFld defaultSet 0x45 1 = 16 ∧ zoneAll defaultSet = 186 ∧ zoneReg defaultSet = 0 ∧ agePeriod defaultSet = 1000 := by
  decide +kernel

/-- Settles O58: what reset lists nothing of reads its default, and the default set gives the rest. -/
theorem resetValues : Obligations.ResetValues := by
  obtain ⟨hself, hport, hprofile, hpollMin, hpollMax, hzoneAll, hzoneReg, hage⟩ := defaultSet_fields
  exact ⟨⟨rfl, rfl⟩, rfl, fun _ => rfl, fun _ => rfl, rfl, rfl, rfl, fun _ => ⟨rfl, rfl, rfl⟩, fun _ => rfl, fun _ => rfl,
    fun _ => ⟨rfl, rfl⟩, rfl, rfl, rfl, rfl, rfl, hself, hport, hprofile, hpollMin, hpollMax, grpCtx_defaultSet, hzoneAll, hzoneReg, hage⟩

/-! ### The stage Validate (R237) -/

/-- R237, R239: a fetched command whose validation is due: its context's order lets it, no line is awaited, no peer has answered with an error. -/
def validationDue (s : State) (c : Cmd) : Prop :=
  c.stage = .fetched ∧ mayValidate s c = true ∧ awaits s c = false ∧ c.peerError = none

/-- A command whose validation has read what it needs. -/
def readUp (c : Cmd) : Cmd := { c with await := [], seen := [] }

theorem validate_held {sp : CmdSpec} {s : State} {c : Cmd} (h : mayValidate s c = false) : validate sp s c = s := by
  simp [validate, h]

/-- With nothing to read from a peer or the host, a validation that is due runs its table. -/
theorem validate_due {sp : CmdSpec} {s : State} {c : Cmd} (h : validationDue s c) (hreads : sp.reads s c = []) :
    validate sp s c = validateCmd sp s (readUp c) := by
  obtain ⟨-, hmay, hawaits, hpeer⟩ := h
  have hfar : farLines s [] = [] := rfl
  simp [validate, hmay, hawaits, hpeer, hreads, hfar, readUp]

section
variable {sp : CmdSpec} {s : State} {c : Cmd} (hdue : validationDue s c) (hreads : sp.reads s c = [])
  (hsame : ∀ r, sp.checks { s with trace := r } (readUp c) = sp.checks s c)
include hdue hreads hsame

/-- R237: the first check that fails decides the status. -/
theorem validate_fails {o : Nat} {st : Status} (hfail : firstFail (sp.checks s c) = some (o, st)) :
    ∃ r, validate sp s c = setCmd { s with trace := r } (decided s (readUp c) st o 0) := by
  obtain ⟨r, htrace⟩ := trace_frame s 2 (readUp c) 0
  refine ⟨r, ?_⟩
  rw [validate_due hdue hreads, validateCmd, htrace]
  simp only [hsame, hfail]
  rfl

/-- R241: a command with a run-time extent of 0 ends with E_OK. -/
theorem validate_noop (hpass : firstFail (sp.checks s c) = none) (hnoop : ∀ r, sp.noop { s with trace := r } (readUp c) = true) :
    ∃ r, validate sp s c = setCmd { s with trace := r }
      { decided s (readUp c) .ok 0 0 with validated := true, noop := true, validatedAt := s.localTime } := by
  obtain ⟨r, htrace⟩ := trace_frame s 2 (readUp c) 0
  refine ⟨r, ?_⟩
  rw [validate_due hdue hreads, validateCmd, htrace]
  simp only [hsame, hpass, hnoop, if_true]
  rfl

/-- R68, R126, R237: a command that passes takes its resources and is validated now. -/
theorem validate_passes (hpass : firstFail (sp.checks s c) = none) (hnoop : ∀ r, sp.noop { s with trace := r } (readUp c) = false) :
    ∃ r, validate sp s c = setCmd (sp.take { s with trace := r } (readUp c)).1
      { (sp.take { s with trace := r } (readUp c)).2 with stage := .validated, validated := true, validatedAt := s.localTime } := by
  obtain ⟨r, htrace⟩ := trace_frame s 2 (readUp c) 0
  refine ⟨r, ?_⟩
  rw [validate_due hdue hreads, validateCmd, htrace]
  simp only [hsame, hpass, hnoop]
  rfl
end

/-! ### What a validation takes (R68) -/

theorem takeDraw_frame (s : State) (n : Nat) (b : Option Nat) (k : Nat) :
    ∃ cs bs, (takeDraw s n b k).1 = { s with ctxs := cs, branches := bs } := by
  cases b with
  | none => exact ⟨_, _, rfl⟩
  | some b => exact ⟨_, _, rfl⟩

theorem takeDraws_frame (s : State) (n : Nat) (rs : List (Option Nat × Nat)) :
    ∃ cs bs, (takeDraws s n rs).1 = { s with ctxs := cs, branches := bs } := by
  induction rs generalizing s with
  | nil => exact ⟨_, _, rfl⟩
  | cons r rs ih =>
    obtain ⟨cs, bs, hdraw⟩ := takeDraw_frame s n r.1 r.2
    obtain ⟨cs', bs', hdraws⟩ := ih (takeDraw s n r.1 r.2).1
    exact ⟨cs', bs', by rw [takeDraws, hdraws, hdraw]⟩

/-! ### The checks of FENCE and of headers (R231 to R233, R253) -/

/-- What a control row validates with (R253). -/
def controlSpec (checks : State → Cmd → List Check) : CmdSpec :=
  { checks := checks, noop := fun _ _ => false, take := takeNone, from_ := .validated, run := fun _ _ => .wait }

theorem controlStep_validates {owns : Desc → Bool} {checks : State → Cmd → List Check} {act : State → Cmd → State} {s : State} {n i : Nat}
    {c : Cmd} (hfind : findCmd s n i = some c) (howns : owns c.desc = true) (hfetched : c.stage = .fetched) :
    controlStep owns checks act n i s = validate (controlSpec checks) s c := by
  simp only [controlStep, hfind, howns, hfetched, if_true]
  rfl

theorem isOp_unlisted {cls op : Nat} {d : Desc} (h : opListed (hClass d) (hOp d) = false) : isOp cls op d = true := by simp [isOp, h]

/-- R233, log entry 21: an opcode that is not listed fails the header's check. -/
theorem cvChecks_unlisted {s : State} {c : Cmd} (h : opListed (hClass c.desc) (hOp c.desc) = false) :
    firstFail (cvChecks s c) = some (1, .format) := by
  have hheader : headerListed c.desc = false := by simp [headerListed, h]
  simp [cvChecks, firstFail, headerCheck, hheader]

/-! ### The clauses -/

/-- R239: a descriptor that its context's order holds stays unvalidated, whichever row comes. -/
theorem heldDescriptor_stays (s : State) (n i : Nat) (c : Cmd) (hfind : findCmd s n i = some c) (hfetched : c.stage = .fetched)
    (hheld : mayValidate s c = false) : exec (.convert n i) s = .next s ∧ exec (.fence n i) s = .next s := by
  constructor
  · have hrow : descStep (isOp 1 2) cvSpec n i s = s := by
      by_cases howns : isOp 1 2 c.desc = true
      · rw [descStep_validate _ _ _ _ _ _ hfind howns hfetched, validate_held hheld]
      · simp [descStep, hfind, howns]
    exact congrArg Host.Outcome.next hrow
  · have hrow : controlStep (isOp 5 1) fenceChecks fenceAct n i s = s := by
      by_cases howns : isOp 5 1 c.desc = true
      · rw [controlStep_validates hfind howns hfetched, validate_held hheld]
      · simp [controlStep, hfind, howns]
    exact congrArg Host.Outcome.next hrow

theorem exec_convert_validates {s : State} {n i : Nat} {c : Cmd} (hfind : findCmd s n i = some c) (howns : isOp 1 2 c.desc = true)
    (hdue : validationDue s c) : exec (.convert n i) s = .next (validate cvSpec s c) :=
  congrArg Host.Outcome.next (descStep_validate _ _ _ _ _ _ hfind howns hdue.1)

theorem convert_fails {s : State} {n i o : Nat} {st : Status} {c : Cmd} (hfind : findCmd s n i = some c) (howns : isOp 1 2 c.desc = true)
    (hdue : validationDue s c) (hfail : firstFail (cvChecks s c) = some (o, st)) :
    ∃ t k, exec (.convert n i) s = .next t ∧ findCmd t n i = some k ∧ k.stage = .decided ∧ k.status = st ∧ k.failOrder = o
      ∧ k.validated = c.validated ∧ k.work.result = 0 ∧ t = { s with cmds := t.cmds, trace := t.trace } := by
  obtain ⟨hctx, hidx⟩ := findCmd_key hfind
  obtain ⟨r, hvalidate⟩ := validate_fails (sp := cvSpec) hdue rfl (fun _ => rfl) hfail
  exact ⟨_, _, (exec_convert_validates hfind howns hdue).trans (congrArg _ hvalidate), findCmd_setCmd_self (d := c) _ hfind hctx hidx,
    rfl, rfl, rfl, rfl, rfl, rfl⟩

theorem convert_noop {s : State} {n i : Nat} {c : Cmd} (hfind : findCmd s n i = some c) (howns : isOp 1 2 c.desc = true)
    (hdue : validationDue s c) (hpass : firstFail (cvChecks s c) = none) (hnoop : cvNoop (cvOf c.desc) = true) :
    ∃ t k, exec (.convert n i) s = .next t ∧ findCmd t n i = some k ∧ k.stage = .decided ∧ k.status = .ok
      ∧ k.validated = true ∧ k.noop = true ∧ k.work.result = 0 ∧ k.draws = c.draws ∧ t = { s with cmds := t.cmds, trace := t.trace } := by
  obtain ⟨hctx, hidx⟩ := findCmd_key hfind
  obtain ⟨r, hvalidate⟩ := validate_noop (sp := cvSpec) hdue rfl (fun _ => rfl) hpass (fun _ => hnoop)
  exact ⟨_, _, (exec_convert_validates hfind howns hdue).trans (congrArg _ hvalidate), findCmd_setCmd_self (d := c) _ hfind hctx hidx,
    rfl, rfl, rfl, rfl, rfl, rfl, rfl⟩

theorem convert_passes {s : State} {n i : Nat} {c : Cmd} (hfind : findCmd s n i = some c) (howns : isOp 1 2 c.desc = true)
    (hdue : validationDue s c) (hpass : firstFail (cvChecks s c) = none) (hextent : cvNoop (cvOf c.desc) = false) :
    ∃ t k, exec (.convert n i) s = .next t ∧ findCmd t n i = some k ∧ k.stage = .validated ∧ k.validated = true
      ∧ k.validatedAt = s.localTime ∧ k.desc = c.desc ∧ k.status = c.status
      ∧ t = { s with cmds := t.cmds, trace := t.trace, ctxs := t.ctxs, branches := t.branches } := by
  obtain ⟨hctx, hidx⟩ := findCmd_key hfind
  obtain ⟨r, hvalidate⟩ := validate_passes (sp := cvSpec) hdue rfl (fun _ => rfl) hpass (fun _ => hextent)
  obtain ⟨cs, bs, htake⟩ : ∃ cs bs, (cvSpec.take { s with trace := r } (readUp c)).1 = { s with trace := r, ctxs := cs, branches := bs } :=
    takeDraws_frame _ _ _
  rw [htake] at hvalidate
  exact ⟨_, _, (exec_convert_validates hfind howns hdue).trans (congrArg _ hvalidate), findCmd_setCmd_self (d := c) _ hfind hctx hidx,
    rfl, rfl, rfl, rfl, rfl, rfl⟩

theorem fence_passes (s : State) (n i : Nat) (c : Cmd) (hfind : findCmd s n i = some c) (hcls : hClass c.desc = 5) (hop : hOp c.desc = 1)
    (hdue : validationDue s c) (hpass : firstFail (fenceChecks s c) = none) :
    ∃ t k, exec (.fence n i) s = .next t ∧ findCmd t n i = some k ∧ k.stage = .validated ∧ k.validated = true ∧ k.validatedAt = s.localTime
      ∧ k.desc = c.desc ∧ t = { s with cmds := t.cmds, trace := t.trace } := by
  obtain ⟨hctx, hidx⟩ := findCmd_key hfind
  obtain ⟨r, hvalidate⟩ := validate_passes (sp := controlSpec fenceChecks) hdue rfl (fun _ => rfl) hpass (fun _ => rfl)
  have hrow := (controlStep_validates (act := fenceAct) hfind (isOp_listed hcls hop) hdue.1).trans hvalidate
  exact ⟨_, _, congrArg Host.Outcome.next hrow, findCmd_setCmd_self (d := c) _ hfind hctx hidx, rfl, rfl, rfl, rfl, rfl⟩

theorem unlisted_fails (s : State) (n i : Nat) (c : Cmd) (hfind : findCmd s n i = some c)
    (hlisted : opListed (hClass c.desc) (hOp c.desc) = false) (hdue : validationDue s c) :
    ∃ t, exec (.convert n i) s = .next t ∧ decidedAs t n i .format 0 ∧ t = { s with cmds := t.cmds, trace := t.trace } := by
  obtain ⟨t, k, hexec, hfound, hstage, hstatus, -, -, hresult, hframe⟩ :=
    convert_fails hfind (isOp_unlisted hlisted) hdue (cvChecks_unlisted hlisted)
  exact ⟨t, hexec, ⟨k, hfound, hstage, hstatus, hresult⟩, hframe⟩

/-- Settles O57: a validation is held, fails at its first failing check, ends without work, or passes. -/
theorem validation : Obligations.Validation := by
  refine ⟨heldDescriptor_stays, ?_, ?_, ?_, ?_⟩
  · intro s n i o st c hfind hcls hop hfetched hmay hawaits hpeer hfail
    exact convert_fails hfind (isOp_listed hcls hop) ⟨hfetched, hmay, hawaits, hpeer⟩ hfail
  · intro s n i c hfind hcls hop hfetched hmay hawaits hpeer hpass
    have hdue : validationDue s c := ⟨hfetched, hmay, hawaits, hpeer⟩
    exact ⟨convert_noop hfind (isOp_listed hcls hop) hdue hpass, convert_passes hfind (isOp_listed hcls hop) hdue hpass⟩
  · intro s n i c hfind hcls hop hfetched hmay hawaits hpeer hpass
    exact fence_passes s n i c hfind hcls hop ⟨hfetched, hmay, hawaits, hpeer⟩ hpass
  · intro s n i c hfind hlisted hfetched hmay hawaits hpeer
    exact unlisted_fails s n i c hfind hlisted ⟨hfetched, hmay, hawaits, hpeer⟩

end Sys2Proof.Machine
end

section
/-! PROOFS. FENCE and WAIT (O22, O20): what a command that ends without commit leaves as it is, and what a control row does once its command is
validated; then each clause of the obligations from these. -/

namespace Sys2Proof.Machine

/-! ### A command that ends without commit -/

/-- Nothing but the command, its cluster with its region, what it reserved and its maintenance activities. -/
theorem failCmd_frame (s : State) (c : Cmd) (st : Status) (order result : Nat) :
    ∃ ks rs vs m, failCmd s c st order result
      = setCmd { s with clusters := ks, regions := rs, reserved := vs, mgmt := m } (decided s c st order result) := by
  obtain ⟨ks, rs, hrelease⟩ := release_frame s c
  rw [failCmd, hrelease]
  exact ⟨ks, rs, _, _, rfl⟩

theorem failCmd_decides {s : State} {n i : Nat} {c d : Cmd} (hfind : findCmd s n i = some d) (hkey : c.ctx = n ∧ c.idx = i) (st : Status)
    (order result : Nat) : decidedAs (failCmd s c st order result) n i st result := by
  obtain ⟨ks, rs, vs, m, hfail⟩ := failCmd_frame s c st order result
  rw [hfail]
  exact decidedAs_setCmd hfind hkey st order result

/-! ### Control rows (R248 to R253) -/

theorem controlStep_acts {cls op : Nat} {checks : State → Cmd → List Check} {act : State → Cmd → State} {s : State} {n i : Nat} {c : Cmd}
    (h : validatedAs s n i cls op c) : controlStep (isOp cls op) checks act n i s = act s c := by
  obtain ⟨hfind, hcls, hop, hstage⟩ := h
  simp [controlStep, hfind, isOp_listed hcls hop, hstage]

/-- The bytes of a reserved range that holds 0 hold 0 (R11). -/
theorem fld_byte_of_zero {d : Desc} {o n p : Nat} (h : fld d o n = 0) (hlow : o ≤ p) (hhigh : p < o + n) : fld d p 1 = 0 := by
  obtain ⟨k, rfl⟩ := Nat.exists_eq_add_of_le hlow
  obtain ⟨j, rfl⟩ : ∃ j, n = k + 1 + j := Nat.exists_eq_add_of_le (by omega)
  obtain ⟨q, hq⟩ : 2 ^ (8 * (k + 1 + j)) ∣ d.toNat / 2 ^ (8 * o) := Nat.dvd_of_mod_eq_zero h
  have hsplit : 2 ^ (8 * (k + 1 + j)) * q = 2 ^ (8 * k) * (2 ^ (8 * 1) * (2 ^ (8 * j) * q)) := by
    rw [← Nat.mul_assoc, ← Nat.mul_assoc, ← Nat.pow_add, ← Nat.pow_add]
    congr 2
    omega
  rw [fld, Nat.mul_add, Nat.pow_add, ← Nat.div_div_eq_div_mul, hq, hsplit, Nat.mul_div_cancel_left _ (Nat.two_pow_pos _), Nat.mul_mod_right]

/-- R11, R253: a FENCE with a reserved byte that is not 0 fails with E_FORMAT. -/
theorem fenceChecks_reserved {s : State} {c : Cmd} (h : ∃ o, 16 ≤ o ∧ o < 128 ∧ fld c.desc o 1 ≠ 0) :
    ∃ o, firstFail (fenceChecks s c) = some (o, .format) := by
  obtain ⟨p, hlow, hhigh, hbyte⟩ := h
  have hreserved : resZero c.desc [(16, 112)] = false := by
    simpa [resZero] using fun hzero => hbyte (fld_byte_of_zero hzero hlow hhigh)
  by_cases hheader : headerListed c.desc = true
  · exact ⟨1, by simp [fenceChecks, controlChecks, headerCheck, firstFail, hheader, hreserved]⟩
  · exact ⟨1, by simp [fenceChecks, controlChecks, headerCheck, firstFail, hheader]⟩

/-! ### FENCE (R248) -/

theorem fence_completes (s : State) (n i : Nat) (c : Cmd) (hvalid : validatedAs s n i 5 1 c) (hdone : earlierDone s c = true) :
    ∃ t, exec (.fence n i) s = .next t ∧ decidedAs t n i .ok 0
      ∧ (∀ a b, ¬ (n = a ∧ i = b) → findCmd t a b = findCmd s a b)
      ∧ t.mem = s.mem ∧ t.pool = s.pool ∧ t.ctxs = s.ctxs ∧ t.branches = s.branches ∧ t.links = s.links := by
  have hact : controlStep (isOp 5 1) fenceChecks fenceAct n i s = failCmd s c .ok 0 0 := by
    rw [controlStep_acts hvalid, fenceAct, if_pos hdone]
  obtain ⟨hfind, -⟩ := hvalid
  obtain ⟨rfl, rfl⟩ := findCmd_key hfind
  refine ⟨_, congrArg Host.Outcome.next hact, failCmd_decides hfind ⟨rfl, rfl⟩ .ok 0 0, ?_⟩
  obtain ⟨ks, rs, vs, m, hfail⟩ := failCmd_frame s c .ok 0 0
  rw [hfail]
  exact ⟨fun a b hother => findCmd_setCmd_ne _ hother, rfl, rfl, rfl, rfl, rfl⟩

theorem fence_waits (s : State) (n i : Nat) (c : Cmd) (hvalid : validatedAs s n i 5 1 c) (hdone : earlierDone s c = false) :
    exec (.fence n i) s = .next s := by
  have hact : controlStep (isOp 5 1) fenceChecks fenceAct n i s = s := by
    rw [controlStep_acts hvalid, fenceAct, hdone, if_neg Bool.false_ne_true]
  exact congrArg Host.Outcome.next hact

/-- R248: an incomplete FENCE holds every later descriptor. -/
theorem fence_holdsLater (s : State) (c x : Cmd) (hearlier : x ∈ earlier s c) (hcls : hClass x.desc = 5) (hop : hOp x.desc = 1) :
    mayValidate s c = false := by
  have hholds : holdsLater x.desc = true := by simp [holdsLater, hcls, hop]
  have hblocked : (earlier s c).all (fun x => x.stage != .fetched && !(holdsLater x.desc) &&
      !(isBranchOp x.desc && (touches s x.desc).any (fun b => (names s c.desc).contains b)) &&
      !(promotesAll x.desc && !((names s c.desc).isEmpty))) = false :=
    List.all_eq_false.mpr ⟨x, hearlier, by simp [hholds]⟩
  rw [mayValidate, hblocked, Bool.and_false]

theorem fence_reserved (s : State) (n i : Nat) (c : Cmd) (hfind : findCmd s n i = some c) (hdue : validationDue s c)
    (hcls : hClass c.desc = 5) (hop : hOp c.desc = 1) (hbyte : ∃ o, 16 ≤ o ∧ o < 128 ∧ fld c.desc o 1 ≠ 0) :
    ∃ t, exec (.fence n i) s = .next t ∧ decidedAs t n i .format 0 ∧ t = { s with cmds := t.cmds, trace := t.trace } := by
  obtain ⟨o, hfail⟩ := fenceChecks_reserved (s := s) hbyte
  obtain ⟨r, hvalidate⟩ := validate_fails (sp := controlSpec fenceChecks) hdue rfl (fun _ => rfl) hfail
  have hrow := (controlStep_validates (act := fenceAct) hfind (isOp_listed hcls hop) hdue.1).trans hvalidate
  have hkey := findCmd_key hfind
  exact ⟨_, congrArg Host.Outcome.next hrow, decidedAs_setCmd (c := readUp c) hfind hkey .format o 0, rfl⟩

/-- Settles O22: a FENCE ends once its context's earlier descriptors have, waits before, holds the later ones, and has no body. -/
theorem fenceCompletes : Obligations.FenceCompletes :=
  ⟨fence_completes, fence_waits, fence_holdsLater, fun s n i c hfind hfetched hmay hawaits hpeer hcls hop hbyte =>
    fence_reserved s n i c hfind ⟨hfetched, hmay, hawaits, hpeer⟩ hcls hop hbyte⟩

/-! ### WAIT (R250) -/

theorem waiting_validatedAs {s : State} {n i : Nat} {c : Cmd} (h : validatedAs s n i 5 2 c) : waiting c = true := by
  obtain ⟨-, hcls, hop, hstage⟩ := h
  simp [waiting, hcls, hop, hstage]

/-- R250: a poll reads the word as the row itself does. -/
theorem exec_wait_reads {s : State} {n i : Nat} {c : Cmd} (h : validatedAs s n i 5 2 c) :
    exec (.wait n i) s = .next (waitRead s c) ∧ exec (.waitPoll n i) s = .next (waitRead s c) := by
  have hrow : controlStep (isOp 5 2) waitChecks waitRead n i s = waitRead s c := controlStep_acts h
  have hpoll : waitPoll n i s = waitRead s c := by simp [waitPoll, h.1, waiting_validatedAs h]
  exact ⟨congrArg Host.Outcome.next hrow, congrArg Host.Outcome.next hpoll⟩

/-- R250: the condition of a WAIT on the value of its word. -/
def waitHolds (x : Sg) (v : Nat) : Prop := if x.op = 0 then x.value ≤ v else v = x.value

theorem waitHolds_iff (x : Sg) (v : Nat) : (if x.op = 0 then decide (x.value ≤ v) else v == x.value) = true ↔ waitHolds x v := by
  unfold waitHolds
  split
  · exact decide_eq_true_iff
  · exact beq_iff_eq

theorem waitJudge_holds {s : State} {c : Cmd} (hmeet : meetLine s true (sgOf c.desc).addr = .fine)
    (hsound : s.poison.contains ((sgOf c.desc).addr / 64) = false) (h : waitHolds (sgOf c.desc) (mnat s.mem (sgOf c.desc).addr 8)) :
    waitJudge s c = failCmd s c .ok 0 (mnat s.mem (sgOf c.desc).addr 8) := by
  simp only [waitJudge, hmeet, hsound, Bool.false_eq_true, if_false]
  exact if_pos ((waitHolds_iff _ _).mpr h)

theorem waitJudge_goesOn {s : State} {c : Cmd} (hmeet : meetLine s true (sgOf c.desc).addr = .fine)
    (hsound : s.poison.contains ((sgOf c.desc).addr / 64) = false) (h : ¬ waitHolds (sgOf c.desc) (mnat s.mem (sgOf c.desc).addr 8)) :
    waitJudge s c = setCmd s { c with lastValue := w64 (mnat s.mem (sgOf c.desc).addr 8) } := by
  simp only [waitJudge, hmeet, hsound, Bool.false_eq_true, if_false]
  exact if_neg (fun hc => h ((waitHolds_iff _ _).mp hc))

theorem failCmd_mem (s : State) (c : Cmd) (st : Status) (order result : Nat) : (failCmd s c st order result).mem = s.mem := by
  obtain ⟨ks, rs, vs, m, hfail⟩ := failCmd_frame s c st order result
  rw [hfail]
  rfl

theorem wait_reads (s : State) (n i : Nat) (c : Cmd) (hvalid : validatedAs s n i 5 2 c) (hlocal : peerCarafe s (sgOf c.desc).addr = false)
    (hmeet : meetLine s true (sgOf c.desc).addr = .fine) (hsound : s.poison.contains ((sgOf c.desc).addr / 64) = false) :
    ∀ v, v = mnat s.mem (sgOf c.desc).addr 8 →
    ((if (sgOf c.desc).op = 0 then (sgOf c.desc).value ≤ v else v = (sgOf c.desc).value) →
      (∃ t, exec (.wait n i) s = .next t ∧ decidedAs t n i .ok v ∧ t.mem = s.mem)
      ∧ (∃ t, exec (.waitPoll n i) s = .next t ∧ decidedAs t n i .ok v ∧ t.mem = s.mem))
    ∧ (¬ (if (sgOf c.desc).op = 0 then (sgOf c.desc).value ≤ v else v = (sgOf c.desc).value) →
      (∃ t, exec (.wait n i) s = .next t ∧ findCmd t n i = some { c with lastValue := w64 v } ∧ t = { s with cmds := t.cmds })
      ∧ (∃ t, exec (.waitPoll n i) s = .next t ∧ findCmd t n i = some { c with lastValue := w64 v } ∧ t = { s with cmds := t.cmds })) := by
  rintro v rfl
  have hread : waitRead s c = waitJudge s c := by simp [waitRead, hlocal]
  obtain ⟨hrow, hpoll⟩ := exec_wait_reads hvalid
  rw [hrow, hpoll, hread]
  obtain ⟨hfind, -⟩ := hvalid
  have hkey := findCmd_key hfind
  constructor
  · intro h
    rw [waitJudge_holds hmeet hsound h]
    have hdone := failCmd_decides hfind hkey .ok 0 (mnat s.mem (sgOf c.desc).addr 8)
    exact ⟨⟨_, rfl, hdone, failCmd_mem _ _ _ _ _⟩, ⟨_, rfl, hdone, failCmd_mem _ _ _ _ _⟩⟩
  · intro h
    rw [waitJudge_goesOn hmeet hsound h]
    have hnoted := findCmd_setCmd_self { c with lastValue := w64 (mnat s.mem (sgOf c.desc).addr 8) } hfind hkey.1 hkey.2
    exact ⟨⟨_, rfl, hnoted, rfl⟩, ⟨_, rfl, hnoted, rfl⟩⟩

theorem wait_timesOut (s : State) (n i : Nat) (c : Cmd) (hvalid : validatedAs s n i 5 2 c) (htimed : (sgOf c.desc).timeout ≠ 0)
    (hlate : us (sgOf c.desc).timeout ≤ since s c.validatedAt) :
    ∃ t, exec (.waitTimeout n i) s = .next t ∧ decidedAs t n i .deadline c.lastValue.toNat ∧ t.mem = s.mem := by
  have hrow : waitTimeout n i s = failCmd s c .deadline 0 c.lastValue.toNat := by
    simp [waitTimeout, hvalid.1, waiting_validatedAs hvalid, htimed, hlate]
  exact ⟨_, congrArg Host.Outcome.next hrow, failCmd_decides hvalid.1 (findCmd_key hvalid.1) _ _ _, failCmd_mem _ _ _ _ _⟩

/-- Settles O20: the row and the poll judge the word as it reads, and the timeout ends the command with the value last read. -/
theorem waitReads : Obligations.WaitReads := ⟨wait_reads, wait_timesOut⟩

end Sys2Proof.Machine
end

section
/-! PROOFS. SIGNAL (O21): a number written to memory and read again, what the WAITs that a SIGNAL wakes leave as it is, and the word that it
writes; then each clause of the obligation from these. -/

namespace Sys2Proof.Machine

/-! ### A number in memory (R4) -/

@[simp] theorem leBytes_length (n v : Nat) : (leBytes n v).length = n := by
  induction n generalizing v with
  | zero => rfl
  | succ n ih => simp [leBytes, ih]

theorem leNat_leBytes (n v : Nat) : leNat (leBytes n v) = v % 2 ^ (8 * n) := by
  induction n generalizing v with
  | zero => simp [leBytes, leNat, Nat.mod_one]
  | succ n ih =>
    rw [leBytes, leNat, ih, BitVec.toNat_ofNat, show 8 * (n + 1) = 8 + 8 * n by omega, Nat.pow_add, Nat.mod_mul]

theorem leNat_lt (bs : List Byte) : leNat bs < 2 ^ (8 * bs.length) := by
  induction bs with
  | nil => simp [leNat]
  | cons b bs ih =>
    have hb := b.isLt
    rw [leNat, List.length_cons, show 8 * (bs.length + 1) = 8 * bs.length + 8 by omega, Nat.pow_add]
    omega

theorem mnat_lt (m : Memory) (a n : Nat) : mnat m a n < 2 ^ (8 * n) := by
  have h := leNat_lt (mread m a n)
  rwa [mread, List.length_map, List.length_range] at h

theorem lineNat_lt (f : Flit) (o n : Nat) : lineNat f o n < 2 ^ (8 * n) :=
  (leNat_lt _).trans_le (Nat.pow_le_pow_right (by decide) (Nat.mul_le_mul_left 8 (List.length_take_le _ _)))

/-- Bytes written at an address read back. -/
theorem mread_mapply_cellsAt {m : Memory} (hwf : m.wf = true) (a : Nat) (bs : List Byte) :
    mread (mapply m (cellsAt a bs)) a bs.length = bs := by
  refine List.ext_getElem (by simp [mread]) fun i hi hbs => ?_
  simp [mread, mget_mapply_cellsAt hwf a hbs]

theorem mnat_mapply_cellsNat {m : Memory} (hwf : m.wf = true) (a n v : Nat) :
    mnat (mapply m (cellsNat a n v)) a n = v % 2 ^ (8 * n) := by
  have hread := mread_mapply_cellsAt hwf a (leBytes n v)
  rw [leBytes_length] at hread
  rw [mnat, cellsNat, hread, leNat_leBytes]

/-- The bytes beside a number written are as before. -/
theorem mget_mapply_cellsNat_out {m : Memory} (hwf : m.wf = true) {a n x : Nat} (v : Nat) (h : ¬ (a ≤ x ∧ x < a + n)) :
    mget (mapply m (cellsNat a n v)) x = mget m x :=
  mget_mapply_of_not_mem _ _ _ hwf fun c hc he => h (by simpa [he] using mem_cellsAt hc)

/-! ### Commands that end while others stand (R250) -/

/-- Commands end or note a value, and the hub keeps a descriptor of each context and ring index; the parts that a command's release touches
are free, and nothing else differs. -/
def commandsMove (s t : State) : Prop :=
  (∃ cs ks rs vs m, t = { s with cmds := cs, clusters := ks, regions := rs, reserved := vs, mgmt := m })
    ∧ ∀ n i, (findCmd t n i).isSome = (findCmd s n i).isSome

theorem commandsMove.refl (s : State) : commandsMove s s := ⟨⟨_, _, _, _, _, rfl⟩, fun _ _ => rfl⟩

theorem commandsMove.trans {s t u : State} : commandsMove s t → commandsMove t u → commandsMove s u := by
  rintro ⟨⟨_, _, _, _, _, rfl⟩, hkeys⟩ ⟨⟨cs, ks, rs, vs, m, rfl⟩, hkeys'⟩
  exact ⟨⟨cs, ks, rs, vs, m, rfl⟩, fun n i => (hkeys' n i).trans (hkeys n i)⟩

theorem commandsMove_setCmd (s : State) (c : Cmd) : commandsMove s (setCmd s c) :=
  ⟨⟨_, _, _, _, _, rfl⟩, isSome_findCmd_setCmd s c⟩

theorem commandsMove_failCmd (s : State) (c : Cmd) (st : Status) (order result : Nat) :
    commandsMove s (failCmd s c st order result) := by
  obtain ⟨ks, rs, vs, m, hfail⟩ := failCmd_frame s c st order result
  rw [hfail]
  exact ⟨⟨_, _, _, _, _, rfl⟩, isSome_findCmd_setCmd { s with clusters := ks, regions := rs, reserved := vs, mgmt := m } _⟩

theorem commandsMove_waitJudge (s : State) (c : Cmd) : commandsMove s (waitJudge s c) := by
  cases hmeet : meetLine s true (sgOf c.desc).addr with
  | wait =>
    have hwaits : waitJudge s c = s := by simp only [waitJudge, hmeet]
    rw [hwaits]
    exact commandsMove.refl s
  | fails st =>
    have hfails : waitJudge s c = failCmd s c st 0 0 := by simp only [waitJudge, hmeet]
    rw [hfails]
    exact commandsMove_failCmd s c st 0 0
  | fine =>
    cases hpoison : s.poison.contains ((sgOf c.desc).addr / 64) with
    | true =>
      have hfails : waitJudge s c = failCmd s c .poison 0 0 := by simp only [waitJudge, hmeet, hpoison, if_true]
      rw [hfails]
      exact commandsMove_failCmd s c .poison 0 0
    | false =>
      by_cases hholds : waitHolds (sgOf c.desc) (mnat s.mem (sgOf c.desc).addr 8)
      · rw [waitJudge_holds hmeet hpoison hholds]
        exact commandsMove_failCmd s c .ok 0 _
      · rw [waitJudge_goesOn hmeet hpoison hholds]
        exact commandsMove_setCmd s _

/-- R250: the WAITs on a word read it, and beside them nothing differs. -/
theorem commandsMove_wakeWaits (s : State) (a : Nat) : commandsMove s (wakeWaits s a) :=
  seqAll_rel commandsMove.refl commandsMove.trans commandsMove_waitJudge _ s

theorem commandsMove.found {s t : State} {n i : Nat} {c : Cmd} (h : commandsMove s t) (hfind : findCmd s n i = some c) :
    ∃ d, findCmd t n i = some d :=
  Option.isSome_iff_exists.mp ((h.2 n i).trans (Option.isSome_of_eq_some hfind))

/-! ### The word that a SIGNAL writes (R249) -/

/-- R249: SET writes the value, ADD the sum modulo 2^64. -/
def signalWord (m : Memory) (op a value : Nat) : Nat := if op = 0 then value else (mnat m a 8 + value) % 2 ^ 64

/-- R249, R250: the word written, and read by the WAITs on it. -/
def signalled (s : State) (op a value : Nat) : State := wakeWaits (storeCells s (cellsNat a 8 (signalWord s.mem op a value))) a

theorem applySignal_fine {s : State} {op a : Nat} (value : Nat) (hmeet : meetLine s true a = .fine)
    (hadd : op = 1 → s.poison.contains (a / 64) = false ∧ isHost a = false) :
    applySignal s op a value = .done (signalled s op a value) (if op = 0 then 0 else mnat s.mem a 8) := by
  have hpoison : ¬ (op = 1 && s.poison.contains (a / 64)) = true := by
    simpa using fun hop => by simpa using (hadd hop).1
  have hhost : ¬ (op = 1 && isHost a && !Config.hostAtomics) = true := by
    simpa using fun hop hspace => absurd hspace (by simp [(hadd hop).2])
  simp only [applySignal, hmeet, if_neg hpoison, if_neg hhost]
  rfl

/-- R249: the word reads as written, every other byte is as before, and beside memory and its poison commands alone move. -/
theorem signalled_leaves {s : State} {a value : Nat} (op : Nat) (hwf : s.mem.wf = true) (hvalue : value < 2 ^ 64) :
    mnat (signalled s op a value).mem a 8 = signalWord s.mem op a value
      ∧ (∀ x, ¬ (a ≤ x ∧ x < a + 8) → mget (signalled s op a value).mem x = mget s.mem x)
      ∧ commandsMove (storeCells s (cellsNat a 8 (signalWord s.mem op a value))) (signalled s op a value) := by
  have hword : signalWord s.mem op a value < 2 ^ 64 := by
    unfold signalWord
    split
    · exact hvalue
    · exact Nat.mod_lt _ (by decide)
  have hmove := commandsMove_wakeWaits (storeCells s (cellsNat a 8 (signalWord s.mem op a value))) a
  have hmem : (signalled s op a value).mem = mapply s.mem (cellsNat a 8 (signalWord s.mem op a value)) := by
    obtain ⟨⟨cs, ks, rs, vs, m, hframe⟩, -⟩ := hmove
    rw [signalled, hframe]
    rfl
  rw [hmem]
  exact ⟨(mnat_mapply_cellsNat hwf a 8 _).trans (Nat.mod_eq_of_lt hword), fun x hx => mget_mapply_cellsNat_out hwf _ hx, hmove⟩

/-! ### SIGNAL here (R249) -/

theorem signal_writes (s : State) (n i : Nat) (c : Cmd) (hwf : s.mem.wf = true) (hvalid : validatedAs s n i 5 3 c)
    (hdone : earlierDone s c = true) (hlocal : peerCarafe s (sgOf c.desc).addr = false)
    (hmeet : meetLine s true (sgOf c.desc).addr = .fine)
    (hadd : (sgOf c.desc).op = 1 → s.poison.contains ((sgOf c.desc).addr / 64) = false ∧ isHost (sgOf c.desc).addr = false) :
    ∃ t, exec (.signal n i) s = .next t
      ∧ mnat t.mem (sgOf c.desc).addr 8 = (if (sgOf c.desc).op = 0 then (sgOf c.desc).value
          else (mnat s.mem (sgOf c.desc).addr 8 + (sgOf c.desc).value) % 2 ^ 64)
      ∧ (∀ a, ¬ ((sgOf c.desc).addr ≤ a ∧ a < (sgOf c.desc).addr + 8) → mget t.mem a = mget s.mem a)
      ∧ decidedAs t n i .ok (if (sgOf c.desc).op = 0 then 0 else mnat s.mem (sgOf c.desc).addr 8) := by
  obtain ⟨hword, hrest, hmove⟩ := signalled_leaves (s := s) (a := (sgOf c.desc).addr) (sgOf c.desc).op hwf
    (show (sgOf c.desc).value < 2 ^ 64 from Nat.mod_lt _ (by decide))
  have hact : controlStep (isOp 5 3) signalChecks signalAct n i s
      = failCmd (signalled s (sgOf c.desc).op (sgOf c.desc).addr (sgOf c.desc).value) c .ok 0
          (if (sgOf c.desc).op = 0 then 0 else mnat s.mem (sgOf c.desc).addr 8) := by
    simp only [controlStep_acts hvalid, signalAct, hdone, hlocal, applySignal_fine _ hmeet hadd]
    rfl
  obtain ⟨hfind, -⟩ := hvalid
  obtain ⟨d, hfound⟩ := hmove.found (n := n) (i := i) hfind
  refine ⟨_, congrArg Host.Outcome.next hact, ?_, ?_, failCmd_decides hfound (findCmd_key hfind) _ _ _⟩
  · rw [failCmd_mem]
    exact hword
  · rw [failCmd_mem]
    exact hrest

/-! ### SIGNAL messages (R298) -/

/-- R190: a word of the module's own carafe on a RESIDENT page meets nothing. -/
theorem meetLine_own {s : State} {a : Nat} {e : Page} (hown : ownCarafe s a = true) (hpage : aget? s.pool (pageOf a) = some e)
    (hres : e.state = .resident) : meetLine s true a = .fine := by
  have hstate : pageState s (pageOf a) = some .resident := by rw [pageState, hpage, ← hres]; rfl
  have hself : gaMod a = selfId s := by simp [ownCarafe] at hown; exact hown.2
  have halive : isDead s (gaMod a) = false := by simp [isDead, hself]
  simp [meetLine, halive, hown, hstate]

theorem isHost_carafe {a : Nat} (h : isCarafe a = true) : isHost a = false := by
  simp [isCarafe] at h
  simp [isHost, h]

/-- R298: a SIGNAL message served: its effect, and the word before in the ACK. -/
def signalServed (s : State) (f : Flit) : State :=
  send (signalled s (lineNat f 0 1) f.address (lineNat f 8 8)) 0 mtAck f.cls f.src f.epoch f.tag f.address
    (leBytes 1 (ackCode .ok) ++ leBytes 7 0 ++ leBytes 8 (if lineNat f 0 1 = 0 then 0 else mnat s.mem f.address 8))

theorem deliver_signal_resident {s : State} {p : Nat} {f : Flit} {e : Page} (hown : ownCarafe s f.address = true)
    (hpage : aget? s.pool (pageOf f.address) = some e) (hres : e.state = .resident)
    (hsound : s.poison.contains (f.address / 64) = false) : deliver s p ⟨mtSignal, f⟩ = some (signalServed s f) := by
  have hcarafe : isCarafe f.address = true := by simp [ownCarafe] at hown; exact hown.1
  have hserve : signalDeliver s f = some (signalServed s f) := by
    simp only [signalDeliver, applySignal_fine _ (meetLine_own hown hpage hres) fun _ => ⟨hsound, isHost_carafe hcarafe⟩]
    rfl
  simp only [deliver, mtSignal, hcarafe, bringPage_resident hpage hres, hserve, if_true]

/-- Log entry 43: the result in an ACK's data. -/
theorem lineNat_ackResult (f : Flit) (k r : Nat) (hdata : f.data = leBytes 1 k ++ leBytes 7 0 ++ leBytes 8 r) :
    lineNat f 8 8 = r % 2 ^ 64 := by
  rw [lineNat, hdata, List.drop_left' (by simp), List.take_of_length_le (by simp), leNat_leBytes]

theorem signalMsg_leaves (s : State) (p o : Nat) (f : Flit) (e : Page) (hwf : s.mem.wf = true) (hnext : nextInOrder s p f)
    (hown : ownCarafe s f.address = true) (hpage : aget? s.pool (pageOf f.address) = some e) (hres : e.state = .resident)
    (_hop : lineNat f 0 1 ≤ 1) (hsound : s.poison.contains (f.address / 64) = false) (hroute : leavesBy s f.src f.address o) :
    ∃ t m, exec (.signalMsg p f) s = .next t ∧ turnTaken s t f
      ∧ mnat t.mem f.address 8 = (if lineNat f 0 1 = 0 then lineNat f 8 8 else (mnat s.mem f.address 8 + lineNat f 8 8) % 2 ^ 64)
      ∧ (∀ a, ¬ (f.address ≤ a ∧ a < f.address + 8) → mget t.mem a = mget s.mem a)
      ∧ t.links.out = s.links.out ++ [(o, m)] ∧ m.mtype = 6 ∧ m.flit.tag = f.tag ∧ m.flit.dst = f.src
      ∧ lineNat m.flit 8 8 = (if lineNat f 0 1 = 0 then 0 else mnat s.mem f.address 8) := by
  have hready : (deliver (heldBack s ⟨mtSignal, f⟩) p ⟨mtSignal, f⟩).isSome = true :=
    Option.isSome_of_eq_some (deliver_signal_resident (s := heldBack s ⟨mtSignal, f⟩) hown hpage hres hsound)
  have hstep := receive_next (m := ⟨mtSignal, f⟩) hnext (by decide : 0 < 9 ∧ 9 < 12) hready
    (deliver_signal_resident hown hpage hres hsound)
  obtain ⟨hword, hrest, ⟨cs, ks, rs, vs, mg, hframe⟩, -⟩ := signalled_leaves (a := f.address) (lineNat f 0 1) hwf (lineNat_lt f 8 8)
  have hlinks : (signalled s (lineNat f 0 1) f.address (lineNat f 8 8)).links = s.links := by rw [hframe]; rfl
  have hleaves : leavesBy (signalled s (lineNat f 0 1) f.address (lineNat f 8 8)) f.src f.address o := by rw [hframe]; exact hroute
  obtain ⟨q, k, hsent⟩ := send_leaves mtAck f.cls f.epoch f.tag
    (leBytes 1 (ackCode .ok) ++ leBytes 7 0 ++ leBytes 8 (if lineNat f 0 1 = 0 then 0 else mnat s.mem f.address 8)) hleaves
  have hresult : (if lineNat f 0 1 = 0 then 0 else mnat s.mem f.address 8) < 2 ^ 64 := by
    split
    · decide
    · exact mnat_lt _ _ 8
  obtain ⟨⟨-, -, -, -, -, hearly⟩, -⟩ := hnext
  rw [signalServed, hsent, hlinks] at hstep
  exact ⟨_, _, congrArg Host.Outcome.next hstep, ⟨(aget_aput _ _ _ _ _).trans (if_pos rfl), hearly⟩, hword, hrest, rfl, rfl, rfl, rfl,
    (lineNat_ackResult _ _ _ rfl).trans (Nat.mod_eq_of_lt hresult)⟩

/-- Settles O21: the row and the message write the same word, and each returns the word before. -/
theorem signalWrites : Obligations.SignalWrites := ⟨signal_writes, signalMsg_leaves⟩

end Sys2Proof.Machine
end

section
/-! PROOFS. HUDDLE (O23): what answers to the arrivals of an epoch leave as they are, and that the answer to a HUDDLE's own arrival ends it
whatever the answers before it were; then each clause of the obligation from these. -/

namespace Sys2Proof.Machine

/-! ### Answers to arrivals (R251, R252) -/

/-- Commands move and messages leave, and nothing else differs. -/
def arrivalsAnswered (s t : State) : Prop := ∃ l, commandsMove { s with links := l } t

theorem arrivalsAnswered.refl (s : State) : arrivalsAnswered s s := ⟨s.links, commandsMove.refl s⟩

theorem arrivalsAnswered.trans {s t u : State} : arrivalsAnswered s t → arrivalsAnswered t u → arrivalsAnswered s u := by
  rintro ⟨_, ⟨_, _, _, _, _, rfl⟩, hkeys⟩ ⟨l, ⟨cs, ks, rs, vs, m, rfl⟩, hkeys'⟩
  exact ⟨l, ⟨cs, ks, rs, vs, m, rfl⟩, fun n i => (hkeys' n i).trans (hkeys n i)⟩

/-- R251: an arrival of this module whose HUDDLE still waits ends it; one of another module is answered by a message; any other leaves the
state. -/
theorem huddleEnd_cases (epoch : Nat) (st : Status) (id : Nat) (s : State) (a : HuddleArrival) :
    (∃ c, a.module = selfId s ∧ findTag s a.tag = some c ∧ huddling c = true
        ∧ huddleEnd epoch st id s a = failCmd s c st 0 (if st = .ok then epoch else 0))
      ∨ (∃ l, huddleEnd epoch st id s a = { s with links := l }) := by
  unfold huddleEnd
  split
  next hself =>
    split
    next c htag =>
      by_cases hwaits : huddling c = true
      · exact .inl ⟨c, hself, htag, hwaits, if_pos hwaits⟩
      · exact .inr ⟨s.links, if_neg hwaits⟩
    next => exact .inr ⟨s.links, rfl⟩
  next => exact .inr (send_frame s 0 mtHuddle a.cls a.module 0 a.tag id _)

theorem huddleEnd_answered (epoch : Nat) (st : Status) (id : Nat) (s : State) (a : HuddleArrival) :
    arrivalsAnswered s (huddleEnd epoch st id s a) := by
  obtain ⟨c, -, -, -, hend⟩ | ⟨l, hend⟩ := huddleEnd_cases epoch st id s a
  · rw [hend]
    exact ⟨s.links, commandsMove_failCmd s c st 0 _⟩
  · rw [hend]
    exact ⟨l, commandsMove.refl _⟩

theorem seqAll_huddleEnd_answered (epoch : Nat) (st : Status) (id : Nat) (as : List HuddleArrival) (s : State) :
    arrivalsAnswered s (seqAll s as (huddleEnd epoch st id)) :=
  seqAll_rel arrivalsAnswered.refl arrivalsAnswered.trans (huddleEnd_answered epoch st id) as s

/-! ### The commands of one tag (R287) -/

/-- A command that has ended with a status and a result. -/
def endedAs (st : Status) (result : Nat) (d : Cmd) : Prop := d.stage = .decided ∧ d.status = st ∧ d.work.result = result

theorem decidedAs_of_ended {t : State} {n i result : Nat} {st : Status} {k : Cmd} (hfound : findCmd t n i = some k)
    (h : ∀ d ∈ t.cmds, d.ctx = n → d.idx = i → endedAs st result d) : decidedAs t n i st result := by
  obtain ⟨hctx, hidx⟩ := findCmd_key hfound
  exact ⟨k, hfound, h k (List.mem_of_find?_eq_some hfound) hctx hidx⟩

/-- Every command of a tag is one of those that a predicate names. -/
def tagged (P : Cmd → Prop) (tag : Nat) (s : State) : Prop := ∀ d ∈ s.cmds, cmdTag d = tag → P d

theorem mem_putCmd {l : List Cmd} {c d : Cmd} (h : d ∈ putCmd l c) : d = c ∨ (d ∈ l ∧ ¬ (d.ctx = c.ctx ∧ d.idx = c.idx)) := by
  obtain ⟨x, hx, rfl⟩ := List.mem_map.mp h
  split
  next => exact .inl rfl
  next hkey => exact .inr ⟨hx, hkey⟩

theorem cmdTag_of_key {c d : Cmd} (h : d.ctx = c.ctx ∧ d.idx = c.idx) : cmdTag d = cmdTag c := by
  rw [cmdTag, h.1, h.2, cmdTag]

theorem mem_failCmd_cmds {s : State} {c d : Cmd} {st : Status} {order result : Nat} (h : d ∈ (failCmd s c st order result).cmds) :
    d = decided s c st order result ∨ (d ∈ s.cmds ∧ ¬ (d.ctx = c.ctx ∧ d.idx = c.idx)) := by
  obtain ⟨ks, rs, vs, m, hfail⟩ := failCmd_frame s c st order result
  rw [hfail] at h
  exact mem_putCmd h

/-- R251: an answer with E_OK leaves each command as it is or ended at the epoch. -/
theorem tagged_huddleEnd {P : Cmd → Prop} {epoch tag : Nat} (hends : ∀ d, endedAs .ok epoch d → P d) {s : State} (h : tagged P tag s) (id : Nat)
    (a : HuddleArrival) : tagged P tag (huddleEnd epoch .ok id s a) := by
  obtain ⟨c, -, -, -, hend⟩ | ⟨l, hend⟩ := huddleEnd_cases epoch .ok id s a
  · rw [hend]
    intro d hd htag
    obtain rfl | ⟨hmem, -⟩ := mem_failCmd_cmds hd
    · exact hends _ ⟨rfl, rfl, rfl⟩
    · exact h d hmem htag
  · rw [hend]
    exact h

theorem tagged_seqAll_huddleEnd {P : Cmd → Prop} {epoch tag : Nat} (hends : ∀ d, endedAs .ok epoch d → P d) (id : Nat)
    (as : List HuddleArrival) {s : State} (h : tagged P tag s) : tagged P tag (seqAll s as (huddleEnd epoch .ok id)) := by
  induction as generalizing s with
  | nil => exact h
  | cons a as ih => exact ih (tagged_huddleEnd hends h id a)

theorem findTag_mem {s : State} {tag : Nat} {c : Cmd} (h : findTag s tag = some c) :
    c ∈ s.cmds ∧ cmdTag c = tag ∧ c.stage ≠ .decided := by
  have hfound := List.find?_some h
  simp at hfound
  exact ⟨List.mem_of_find?_eq_some h, hfound.1, hfound.2⟩

theorem decided_of_findTag_none {s : State} {tag : Nat} {d : Cmd} (h : findTag s tag = none) (hmem : d ∈ s.cmds) (htag : cmdTag d = tag) :
    d.stage = .decided := by
  have hnot := List.find?_eq_none.mp h d hmem
  simpa [htag] using hnot

/-- R251: the answer to a HUDDLE's own arrival ends it, unless an answer before it has. -/
theorem ended_huddleEnd_own {epoch : Nat} {c : Cmd} {s : State} (hwaits : huddling c = true)
    (h : tagged (fun d => d = c ∨ endedAs .ok epoch d) (cmdTag c) s) (id cls : Nat) :
    tagged (endedAs .ok epoch) (cmdTag c) (huddleEnd epoch .ok id s { module := selfId s, tag := cmdTag c, cls := cls }) := by
  have hstage : c.stage ≠ .decided := by
    rintro hdecided
    simp [huddling, hdecided] at hwaits
  cases htag : findTag s (cmdTag c) with
  | none =>
    have hend : huddleEnd epoch .ok id s { module := selfId s, tag := cmdTag c, cls := cls } = s := by simp [huddleEnd, htag]
    rw [hend]
    intro d hmem hd
    exact (h d hmem hd).resolve_left (by rintro rfl; exact hstage (decided_of_findTag_none htag hmem hd))
  | some x =>
    obtain ⟨hmem, hxtag, hxstage⟩ := findTag_mem htag
    obtain rfl : x = c := (h x hmem hxtag).resolve_right (fun hended => hxstage hended.1)
    have hend : huddleEnd epoch .ok id s { module := selfId s, tag := cmdTag x, cls := cls } = failCmd s x .ok 0 epoch := by
      simp [huddleEnd, htag, hwaits]
    rw [hend]
    intro d hd htag'
    obtain rfl | ⟨hold, hkey⟩ := mem_failCmd_cmds hd
    · exact ⟨rfl, rfl, rfl⟩
    · exact (h d hold htag').resolve_left (by rintro rfl; exact hkey ⟨rfl, rfl⟩)

/-- R251: of an epoch's arrivals answered with E_OK, the last one is that of a HUDDLE here that waits: it has ended. -/
theorem decidedAs_lastArrival {s : State} {n i epoch : Nat} {c d : Cmd} (hfind : findCmd s n i = some d) (hkey : c.ctx = n ∧ c.idx = i)
    (hwaits : huddling c = true) (honly : tagged (fun d => d = c) (cmdTag c) s) (id cls : Nat) (as : List HuddleArrival) :
    decidedAs (seqAll s (as ++ [{ module := selfId s, tag := cmdTag c, cls := cls }]) (huddleEnd epoch .ok id)) n i .ok epoch := by
  have hbefore : tagged (fun d => d = c ∨ endedAs .ok epoch d) (cmdTag c) (seqAll s as (huddleEnd epoch .ok id)) :=
    tagged_seqAll_huddleEnd (fun _ => .inr) id as (fun d hd htag => .inl (honly d hd htag))
  have hself : selfId (seqAll s as (huddleEnd epoch .ok id)) = selfId s := by
    obtain ⟨l, ⟨cs, ks, rs, vs, m, hframe⟩, -⟩ := seqAll_huddleEnd_answered epoch .ok id as s
    rw [hframe]
    rfl
  have hended := ended_huddleEnd_own hwaits hbefore id cls
  rw [hself] at hended
  obtain ⟨l, hanswered⟩ := seqAll_huddleEnd_answered epoch .ok id (as ++ [{ module := selfId s, tag := cmdTag c, cls := cls }]) s
  obtain ⟨k, hfound⟩ := hanswered.found (n := n) (i := i) hfind
  have hlast : tagged (endedAs .ok epoch) (cmdTag c)
      (seqAll s (as ++ [{ module := selfId s, tag := cmdTag c, cls := cls }]) (huddleEnd epoch .ok id)) := by
    rw [seqAll, List.foldl_append]
    exact hended
  exact decidedAs_of_ended hfound fun d hd hctx hidx =>
    hlast d hd (cmdTag_of_key ⟨hctx.trans hkey.1.symm, hidx.trans hkey.2.symm⟩)

/-! ### Arrivals at the home (R251) -/

theorem huddleOf_setHuddle (s : State) (id : Nat) (h : Huddle) (j : Nat) :
    huddleOf (setHuddle s id h) j = if j = id then h else huddleOf s j := aget_aput _ _ _ _ _

theorem huddleOf_answered {s t : State} (h : arrivalsAnswered s t) (j : Nat) : huddleOf t j = huddleOf s j := by
  obtain ⟨l, ⟨cs, ks, rs, vs, m, rfl⟩, -⟩ := h
  rfl

theorem mem_answered {s t : State} (h : arrivalsAnswered s t) : t.mem = s.mem := by
  obtain ⟨l, ⟨cs, ks, rs, vs, m, rfl⟩, -⟩ := h
  rfl

/-- R251: a counter with one more arrival; the first one names the participants and starts the timeout. -/
def arrivedAt (s : State) (h : Huddle) (a : HuddleArrival) (n timeout : Nat) : Huddle :=
  { h with arrivals := h.arrivals ++ [a], participants := n, timeoutUs := timeout
           since := if h.participants = 0 then s.localTime else h.since }

section
variable {s : State} {id epoch n timeout : Nat} (a : HuddleArrival) (hepoch : (huddleOf s id).epoch.toNat = epoch)
  (hagree : (huddleOf s id).participants = 0 ∨ ((huddleOf s id).participants = n ∧ (huddleOf s id).timeoutUs = timeout))
include hepoch hagree

theorem huddleArrive_counted (hmore : (huddleOf s id).arrivals.length + 1 < n) :
    huddleArrive s id a epoch n timeout = setHuddle s id (arrivedAt s (huddleOf s id) a n timeout) := by
  have hsame : ¬ ((huddleOf s id).participants ≠ 0 ∧ ((huddleOf s id).participants ≠ n ∨ (huddleOf s id).timeoutUs ≠ timeout)) := by omega
  have hcount : ¬ n ≤ (arrivedAt s (huddleOf s id) a n timeout).arrivals.length := by simp [arrivedAt]; omega
  simp only [huddleArrive, hepoch, ne_eq, not_true_eq_false, if_false, if_neg hsame]
  exact if_neg hcount

theorem huddleArrive_last (hall : n ≤ (huddleOf s id).arrivals.length + 1) :
    huddleArrive s id a epoch n timeout
      = seqAll (setHuddle s id (nextEpoch (huddleOf s id))) ((huddleOf s id).arrivals ++ [a]) (huddleEnd epoch .ok id) := by
  have hsame : ¬ ((huddleOf s id).participants ≠ 0 ∧ ((huddleOf s id).participants ≠ n ∨ (huddleOf s id).timeoutUs ≠ timeout)) := by omega
  have hcount : n ≤ (arrivedAt s (huddleOf s id) a n timeout).arrivals.length := by simpa [arrivedAt] using hall
  simp only [huddleArrive, hepoch, ne_eq, not_true_eq_false, if_false, if_neg hsame]
  exact if_pos hcount
end

/-! ### HUDDLE at its own home -/

/-- A HUDDLE whose arrival has gone out. -/
def gone (c : Cmd) : Cmd := { c with arrived := true }

theorem huddle_arrives {s : State} {n i : Nat} {c : Cmd} (hvalid : validatedAs s n i 5 4 c) (hfirst : c.arrived = false)
    (hdone : earlierDone s c = true) (hhome : (hdOf c.desc).home = selfId s) :
    exec (.huddle n i) s = .next (huddleArrive (setCmd s (gone c)) (hdOf c.desc).id
      { module := selfId s, tag := cmdTag c, cls := hSvc c.desc } (hdOf c.desc).epoch (hdOf c.desc).n (hdOf c.desc).timeout) := by
  have halive : isDead s (selfId s) = false := by simp [isDead]
  have hact : controlStep (isOp 5 4) huddleChecks huddleAct n i s = _ := controlStep_acts hvalid
  rw [huddleAct] at hact
  simp only [hfirst, hdone, halive, hhome, Bool.not_true, Bool.or_false, Bool.false_eq_true, if_false, if_true] at hact
  exact congrArg Host.Outcome.next hact

theorem huddle_counts (s : State) (n i : Nat) (c : Cmd) (x : Hd) (hvalid : validatedAs s n i 5 4 c) (hx : x = hdOf c.desc)
    (hfirst : c.arrived = false) (hdone : earlierDone s c = true) (hhome : x.home = selfId s)
    (hepoch : (huddleOf s x.id).epoch.toNat = x.epoch)
    (hagree : (huddleOf s x.id).participants = 0 ∨ ((huddleOf s x.id).participants = x.n ∧ (huddleOf s x.id).timeoutUs = x.timeout)) :
    ((huddleOf s x.id).arrivals.length + 1 < x.n → ∃ t, exec (.huddle n i) s = .next t
      ∧ (huddleOf t x.id).arrivals = (huddleOf s x.id).arrivals ++ [{ module := selfId s, tag := cmdTag c, cls := hSvc c.desc }]
      ∧ (huddleOf t x.id).epoch = (huddleOf s x.id).epoch ∧ findCmd t n i = some { c with arrived := true }
      ∧ t = { s with cmds := t.cmds, huddles := t.huddles })
    ∧ (x.n ≤ (huddleOf s x.id).arrivals.length + 1 → (∀ d ∈ s.cmds, cmdTag d = cmdTag c → d = c) →
      ∃ t, exec (.huddle n i) s = .next t ∧ decidedAs t n i .ok x.epoch ∧ (huddleOf t x.id).arrivals = []
        ∧ (huddleOf t x.id).epoch = (huddleOf s x.id).epoch + 1 ∧ t.mem = s.mem) := by
  subst hx
  rw [huddle_arrives hvalid hfirst hdone hhome]
  obtain ⟨hfind, hcls, hop, hstage⟩ := hvalid
  have hkey := findCmd_key hfind
  have hfound : findCmd (setCmd s (gone c)) n i = some (gone c) := findCmd_setCmd_self (gone c) hfind hkey.1 hkey.2
  constructor
  · intro hmore
    rw [huddleArrive_counted (s := setCmd s (gone c)) _ hepoch hagree hmore]
    refine ⟨_, rfl, ?_, ?_, hfound, rfl⟩
    · rw [huddleOf_setHuddle, if_pos rfl]
      rfl
    · rw [huddleOf_setHuddle, if_pos rfl]
      rfl
  · intro hall honly
    rw [huddleArrive_last (s := setCmd s (gone c)) _ hepoch hagree hall]
    have hwaits : huddling (gone c) = true := by simp [huddling, gone, hcls, hop, hstage]
    have halone : tagged (fun d => d = gone c) (cmdTag (gone c)) (setCmd s (gone c)) := by
      intro d hd htag
      obtain rfl | ⟨hmem, hother⟩ := mem_putCmd hd
      · rfl
      · exact absurd (by rw [honly d hmem htag]; exact ⟨rfl, rfl⟩) hother
    have hdecided := decidedAs_lastArrival (epoch := (hdOf c.desc).epoch) (c := gone c)
      (s := setHuddle (setCmd s (gone c)) (hdOf c.desc).id (nextEpoch (huddleOf s (hdOf c.desc).id)))
      hfound hkey hwaits halone (hdOf c.desc).id (hSvc c.desc) (huddleOf s (hdOf c.desc).id).arrivals
    have hanswered := seqAll_huddleEnd_answered (hdOf c.desc).epoch .ok (hdOf c.desc).id
      ((huddleOf s (hdOf c.desc).id).arrivals ++ [{ module := selfId s, tag := cmdTag c, cls := hSvc c.desc }])
      (setHuddle (setCmd s (gone c)) (hdOf c.desc).id (nextEpoch (huddleOf s (hdOf c.desc).id)))
    have hmem := mem_answered hanswered
    refine ⟨_, rfl, hdecided, ?_, ?_, hmem⟩
    · refine (congrArg Huddle.arrivals (huddleOf_answered hanswered _)).trans ?_
      rw [huddleOf_setHuddle, if_pos rfl]
      rfl
    · refine (congrArg Huddle.epoch (huddleOf_answered hanswered _)).trans ?_
      rw [huddleOf_setHuddle, if_pos rfl]
      rfl

/-! ### HUDDLE messages (R251, R298) -/

theorem exec_huddleMsg_next {s : State} {p : Nat} {f : Flit} (hnext : nextInOrder s p f) :
    exec (.huddleMsg p f) s = .next (turnOver (huddleDeliver s f) f) :=
  congrArg Host.Outcome.next (receive_next (m := ⟨mtHuddle, f⟩) hnext (by decide : 0 < 10 ∧ 10 < 12) rfl rfl)

theorem turnTaken_turnOver {s t : State} {p : Nat} {f : Flit} (hnext : nextInOrder s p f) (hlinks : t.links = s.links) :
    turnTaken s (turnOver t f) f := by
  obtain ⟨⟨-, -, -, -, -, hearly⟩, -⟩ := hnext
  refine ⟨(aget_aput _ _ _ _ _).trans (if_pos rfl), ?_⟩
  rw [← hearly, ← hlinks]
  rfl

theorem huddleMsg_counts (s : State) (p : Nat) (f : Flit) (h : Huddle) (hnext : nextInOrder s p f) (hkind : lineNat f 0 1 = 0)
    (hcounter : h = huddleOf s (f.address % 1024)) (hepoch : h.epoch.toNat = lineNat f 4 4)
    (hagree : h.participants = 0 ∨ (h.participants = lineNat f 8 4 ∧ h.timeoutUs = lineNat f 12 4))
    (hmore : h.arrivals.length + 1 < lineNat f 8 4) :
    ∃ t, exec (.huddleMsg p f) s = .next t ∧ turnTaken s t f
      ∧ (huddleOf t (f.address % 1024)).arrivals = h.arrivals ++ [{ module := f.src, tag := f.tag, cls := f.cls }]
      ∧ (huddleOf t (f.address % 1024)).epoch = h.epoch ∧ t.cmds = s.cmds ∧ t.mem = s.mem := by
  subst hcounter
  have hdeliver : huddleDeliver s f = setHuddle s (f.address % 1024) (arrivedAt s (huddleOf s (f.address % 1024))
      { module := f.src, tag := f.tag, cls := f.cls } (lineNat f 8 4) (lineNat f 12 4)) := by
    simp only [huddleDeliver, hkind, hkArrival, if_true]
    exact huddleArrive_counted _ hepoch hagree hmore
  rw [exec_huddleMsg_next hnext, hdeliver]
  have hcount := huddleOf_setHuddle s (f.address % 1024) (arrivedAt s (huddleOf s (f.address % 1024))
      { module := f.src, tag := f.tag, cls := f.cls } (lineNat f 8 4) (lineNat f 12 4)) (f.address % 1024)
  rw [if_pos rfl] at hcount
  exact ⟨_, rfl, turnTaken_turnOver hnext rfl, congrArg Huddle.arrivals hcount, (congrArg Huddle.epoch hcount).trans rfl, rfl, rfl⟩

theorem findCmd_of_mem {s : State} {c : Cmd} (h : c ∈ s.cmds) : ∃ d, findCmd s c.ctx c.idx = some d := by
  refine Option.isSome_iff_exists.mp (List.find?_isSome.mpr ⟨c, h, ?_⟩)
  simp

theorem huddleMsg_answers (s : State) (p : Nat) (f : Flit) (c : Cmd) (hnext : nextInOrder s p f) (hkind : lineNat f 0 1 = 1)
    (hok : lineNat f 1 1 = 0) (htag : findTag s f.tag = some c) (hwaits : huddling c = true) (hhome : (hdOf c.desc).home = f.src) :
    ∃ t, exec (.huddleMsg p f) s = .next t ∧ turnTaken s t f ∧ decidedAs t c.ctx c.idx .ok (lineNat f 4 4) ∧ t.mem = s.mem := by
  have hdeliver : huddleDeliver s f = failCmd s c .ok 0 (lineNat f 4 4) := by
    simp [huddleDeliver, hkind, hkArrival, hkWithdraw, hok, htag, hwaits, hhome, ackStatus]
  obtain ⟨d, hfind⟩ := findCmd_of_mem (findTag_mem htag).1
  have hdecided := failCmd_decides hfind ⟨rfl, rfl⟩ .ok 0 (lineNat f 4 4)
  have hlinks : (failCmd s c .ok 0 (lineNat f 4 4)).links = s.links := by
    obtain ⟨ks, rs, vs, m, hfail⟩ := failCmd_frame s c .ok 0 (lineNat f 4 4)
    rw [hfail]
    rfl
  have hmem := failCmd_mem s c .ok 0 (lineNat f 4 4)
  rw [exec_huddleMsg_next hnext, hdeliver]
  exact ⟨_, rfl, turnTaken_turnOver hnext hlinks, hdecided, hmem⟩

/-! ### Timeouts (R252) -/

theorem huddleTimeout_aborts (s : State) (id : Nat) (hbegun : (huddleOf s id).participants ≠ 0) (htimed : (huddleOf s id).timeoutUs ≠ 0)
    (hlate : us (huddleOf s id).timeoutUs ≤ since s (huddleOf s id).since) :
    ∃ t, exec (.huddleTimeout id) s = .next t ∧ (huddleOf t id).arrivals = [] ∧ (huddleOf t id).epoch = (huddleOf s id).epoch + 1
      ∧ (∀ j, j ≠ id → huddleOf t j = huddleOf s j) ∧ t.mem = s.mem := by
  have hrow : huddleTimeout id s = huddleAbort s id .deadline none := if_pos ⟨hbegun, htimed, hlate⟩
  have hanswered := seqAll_huddleEnd_answered (huddleOf s id).epoch.toNat .deadline id
    ((huddleOf s id).arrivals.filter (fun a => none != some a.module)) (setHuddle s id (nextEpoch (huddleOf s id)))
  have hcounter := (huddleOf_answered hanswered id).trans ((huddleOf_setHuddle _ _ _ _).trans (if_pos rfl))
  have hmem := mem_answered hanswered
  exact ⟨_, congrArg Host.Outcome.next hrow, congrArg Huddle.arrivals hcounter, congrArg Huddle.epoch hcounter,
    fun j hj => (huddleOf_answered hanswered j).trans ((huddleOf_setHuddle _ _ _ _).trans (if_neg hj)), hmem⟩

/-- Settles O23: arrivals at the home, here and by message, the home's answer, and the timeout. -/
theorem huddles : Obligations.Huddles := ⟨huddle_counts, huddleMsg_counts, huddleMsg_answers, huddleTimeout_aborts⟩

end Sys2Proof.Machine
end

section
/-! PROOFS. Polls, fetch and ring errors (O24, O25): what the front end's shared operations leave of the contexts and touch besides; then each
clause of the obligations from these. -/

namespace Sys2Proof.Machine

/-! ### One context and the others -/

/-- A context has become another, and every other context is as before. -/
def ctxBecomes (s t : State) (n : Nat) (k : Ctx) : Prop := ctxOf t n = k ∧ otherCtxs s t n

theorem ctxBecomes_modCtx (s : State) (n : Nat) (f : Ctx → Ctx) : ctxBecomes s (modCtx s n f) n (f (ctxOf s n)) :=
  ⟨by rw [ctxOf_modCtx, if_pos rfl], fun m hm => by rw [ctxOf_modCtx, if_neg hm]⟩

/-- What leaves the contexts leaves what a context has become. -/
theorem ctxBecomes.keep {s t u : State} {n : Nat} {k : Ctx} (h : ctxBecomes s t n k) (hctxs : u.ctxs = t.ctxs) : ctxBecomes s u n k := by
  obtain ⟨hself, hothers⟩ := h
  have hsame : ∀ m, ctxOf u m = ctxOf t m := fun m => by rw [ctxOf, hctxs, ← ctxOf]
  exact ⟨(hsame n).trans hself, fun m hm => (hsame m).trans (hothers m hm)⟩

theorem ctxBecomes.modCtx {s t : State} {n : Nat} {k : Ctx} (h : ctxBecomes s t n k) (f : Ctx → Ctx) :
    ctxBecomes s (modCtx t n f) n (f k) := by
  obtain ⟨rfl, hothers⟩ := h
  obtain ⟨hself, hothers'⟩ := ctxBecomes_modCtx t n f
  exact ⟨hself, fun m hm => (hothers' m hm).trans (hothers m hm)⟩

/-! ### What the front end's operations touch (R226, R234, R257 to R259) -/

/-- Nothing differs but contexts, memory with its poison, and what has been sent to the host. -/
def frontWrites (s t : State) : Prop := ∃ cs m p o h, t = { s with ctxs := cs, mem := m, poison := p, out := o, hostPorts := h }

theorem frontWrites.refl (s : State) : frontWrites s s := ⟨_, _, _, _, _, rfl⟩

theorem frontWrites.trans {s t u : State} : frontWrites s t → frontWrites t u → frontWrites s u := by
  rintro ⟨_, _, _, _, _, rfl⟩ ⟨cs, m, p, o, h, rfl⟩
  exact ⟨cs, m, p, o, h, rfl⟩

/-- R227: the module half of a doorbell block lies in memory. -/
theorem writeDoorbell_frame (s : State) (n : Nat) : ∃ m p, writeDoorbell s n = { s with mem := m, poison := p } := by
  unfold writeDoorbell
  dsimp only
  split
  · exact ⟨_, _, rfl⟩
  · exact ⟨_, _, rfl⟩

/-- R259: an event sets its flag, is counted, and sends the context's vector. -/
theorem ctxEvent_frame (s : State) (n b : Nat) :
    ∃ o h, ctxEvent s n b
      = { modCtx s n (fun c => { c with evt := withFlag c.evt b, evtCnt := c.evtCnt + 1 }) with out := o, hostPorts := h } :=
  sendVector_frame _ _ _

theorem ctxFlags_frame (s : State) (n mask : Nat) :
    ∃ o h, ctxFlags s n mask
      = { modCtx s n (fun c => { c with evt := c.evt ||| w32 mask, evtCnt := c.evtCnt + 1 }) with out := o, hostPorts := h } :=
  sendVector_frame _ _ _

/-- R257: a context that has stopped at a ring index. -/
def stoppedAt (r : HaltReason) (idx : W32) (k : Ctx) : Ctx :=
  { k with state := .halted, haltReason := r, haltIdx := idx, stopping := false, polling := false }

/-- R259: a context whose event registers have counted one event with several flags. -/
def flagged (mask : Nat) (k : Ctx) : Ctx := { k with evt := k.evt ||| w32 mask, evtCnt := k.evtCnt + 1 }

/-- R257, R258: a halt changes its context, writes the doorbell block and sends a vector. -/
theorem haltCtx_leaves (s : State) (n : Nat) (r : HaltReason) (idx : W32) (mask : Nat) :
    ctxBecomes s (haltCtx s n r idx mask) n (flagged mask (stoppedAt r idx (ctxOf s n)))
      ∧ frontWrites s (haltCtx s n r idx mask) := by
  have hhalt : haltCtx s n r idx mask = writeDoorbell (ctxFlags (modCtx s n (stoppedAt r idx)) n mask) n := rfl
  obtain ⟨o, h, hflags⟩ := ctxFlags_frame (modCtx s n (stoppedAt r idx)) n mask
  obtain ⟨m, p, hdoorbell⟩ := writeDoorbell_frame (ctxFlags (modCtx s n (stoppedAt r idx)) n mask) n
  have hbecomes := (ctxBecomes_modCtx s n (stoppedAt r idx)).modCtx (flagged mask)
  rw [hhalt, hdoorbell, hflags]
  exact ⟨hbecomes.keep rfl, ⟨_, _, _, _, _, rfl⟩⟩

/-! ### Polls (R228, R229) -/

theorem doorbellPoll_starts (s : State) (n : Nat) (hwork : takesWork s = true) (hactive : (ctxOf s n).state = .active)
    (hidle : (ctxOf s n).polling = false) (hup : hostUp s = true) :
    ∃ t, exec (.doorbellPoll n) s = .next t ∧ ctxOf t n = { ctxOf s n with polling := true, lastPoll := s.localTime } ∧ otherCtxs s t n
      ∧ t = { s with ctxs := t.ctxs } := by
  have hrow : doorbellPoll n s = modCtx s n (fun c => { c with polling := true, lastPoll := s.localTime }) := by
    simp [doorbellPoll, hwork, hactive, hidle, hup]
  obtain ⟨hself, hothers⟩ := ctxBecomes_modCtx s n (fun c => { c with polling := true, lastPoll := s.localTime })
  exact ⟨_, congrArg Host.Outcome.next hrow, hself, hothers, rfl⟩

/-- R228, R350: the state once the read of a doorbell block has completed with a cq_head. -/
def polled (s : State) (n cqHead : Nat) : State :=
  modCtx (answered s) n (fun c => { c with polling := false, cqHeadSeen := w32 cqHead })

theorem polled_becomes (s : State) (n cqHead : Nat) :
    ctxBecomes s (polled s n cqHead) n { ctxOf s n with polling := false, cqHeadSeen := w32 cqHead } :=
  ctxBecomes_modCtx (answered s) n _

/-- R266: the kills of borrowed work leave the contexts. -/
theorem killBorrowed_ctxs (s : State) (q : Nat) : (killBorrowed s q).ctxs = s.ctxs := by
  obtain ⟨-, hctxs, -⟩ : borrowedKilled s (killBorrowed s q) :=
    seqAll_rel borrowedKilled.refl borrowedKilled.trans (fun s c => borrowedKilled_kill s c _) _ s
  exact hctxs

theorem seqAll_killBorrowed_ctxs (s : State) (qs : List Nat) : (seqAll s qs killBorrowed).ctxs = s.ctxs :=
  seqAll_rel (R := fun s t => t.ctxs = s.ctxs) (fun _ => rfl) (fun hst htu => htu.trans hst) killBorrowed_ctxs qs s

/-- R229: a tail that has advanced shortens the interval. -/
def tailSeen (s : State) (sqTail : Nat) (k : Ctx) : Ctx :=
  { k with sqTailSeen := w32 sqTail, idlePolls := 0, pollI := max (pollMin s) (k.pollI / 2) }

section
variable {s : State} {n a : Nat} (h : Nat) (hpolls : (ctxOf s n).polling = true)
include hpolls

theorem pollResult_advanced (hring : (w32 a - (ctxOf s n).sqHead).toNat ≤ 2 ^ (ctxOf s n).sqLog2) (hnew : w32 a ≠ (ctxOf s n).sqTailSeen) :
    ∃ qs, pollResult n a h s = seqAll (modCtx (polled s n h) n (tailSeen s a)) qs killBorrowed := by
  have hin : ¬ 2 ^ (ctxOf s n).sqLog2 < (w32 a - (ctxOf s n).sqHead).toNat := Nat.not_lt.mpr hring
  simp only [pollResult, hpolls, Bool.not_true, Bool.false_eq_true, if_false, if_neg hin, if_pos hnew]
  split
  · split
    · exact ⟨_, rfl⟩
    · exact ⟨[], rfl⟩
  · exact ⟨[], rfl⟩

theorem pollResult_unchanged (hring : (w32 a - (ctxOf s n).sqHead).toNat ≤ 2 ^ (ctxOf s n).sqLog2) (hsame : w32 a = (ctxOf s n).sqTailSeen) :
    pollResult n a h s = if (ctxOf s n).idlePolls + 1 ≥ 8
      then modCtx (polled s n h) n (fun c => { c with idlePolls := 0, pollI := min (pollMax s) (2 * c.pollI) })
      else modCtx (polled s n h) n (fun c => { c with idlePolls := c.idlePolls + 1 }) := by
  have hin : ¬ 2 ^ (ctxOf s n).sqLog2 < (w32 a - (ctxOf s n).sqHead).toNat := Nat.not_lt.mpr hring
  simp only [pollResult, hpolls, Bool.not_true, Bool.false_eq_true, if_false, if_neg hin, if_neg (not_not_intro hsame)]
  rfl

theorem pollResult_beyond (hring : 2 ^ (ctxOf s n).sqLog2 < (w32 a - (ctxOf s n).sqHead).toNat) :
    pollResult n a h s = ctxEvent (polled s n h) n 1 := by
  simp only [pollResult, hpolls, Bool.not_true, Bool.false_eq_true, if_false, if_pos hring]
  rfl
end

theorem pollResult_advanced_leaves (s : State) (n a h : Nat) (k : Ctx) (hk : k = ctxOf s n) (hpolls : k.polling = true)
    (hring : (w32 a - k.sqHead).toNat ≤ 2 ^ k.sqLog2) (hnew : w32 a ≠ k.sqTailSeen) :
    ∃ t, exec (.pollResult n a h) s = .next t ∧ otherCtxs s t n
      ∧ ctxOf t n = { k with polling := false, cqHeadSeen := w32 h, sqTailSeen := w32 a, idlePolls := 0, pollI := max (pollMin s) (k.pollI / 2) } := by
  subst hk
  obtain ⟨qs, hrow⟩ := pollResult_advanced h hpolls hring hnew
  obtain ⟨hself, hothers⟩ := ((polled_becomes s n h).modCtx (tailSeen s a)).keep (seqAll_killBorrowed_ctxs _ qs)
  exact ⟨_, congrArg Host.Outcome.next hrow, hothers, hself⟩

theorem pollResult_unchanged_leaves (s : State) (n a h : Nat) (k : Ctx) (hk : k = ctxOf s n) (hpolls : k.polling = true)
    (hring : (w32 a - k.sqHead).toNat ≤ 2 ^ k.sqLog2) (hsame : w32 a = k.sqTailSeen) :
    ∃ t, exec (.pollResult n a h) s = .next t ∧ otherCtxs s t n
      ∧ ctxOf t n = (if k.idlePolls + 1 ≥ 8
          then { k with polling := false, cqHeadSeen := w32 h, idlePolls := 0, pollI := min (pollMax s) (2 * k.pollI) }
          else { k with polling := false, cqHeadSeen := w32 h, idlePolls := k.idlePolls + 1 })
      ∧ t = { s with ctxs := t.ctxs, hostPorts := t.hostPorts } := by
  subst hk
  have hrow := pollResult_unchanged h hpolls hring hsame
  by_cases heighth : (ctxOf s n).idlePolls + 1 ≥ 8
  · rw [if_pos heighth] at hrow
    rw [if_pos heighth]
    obtain ⟨hself, hothers⟩ := (polled_becomes s n h).modCtx
      (fun c => { c with idlePolls := 0, pollI := min (pollMax s) (2 * c.pollI) })
    exact ⟨_, congrArg Host.Outcome.next hrow, hothers, hself, rfl⟩
  · rw [if_neg heighth] at hrow
    rw [if_neg heighth]
    obtain ⟨hself, hothers⟩ := (polled_becomes s n h).modCtx (fun c => { c with idlePolls := c.idlePolls + 1 })
    exact ⟨_, congrArg Host.Outcome.next hrow, hothers, hself, rfl⟩

theorem pollResult_beyond_leaves (s : State) (n a h : Nat) (k : Ctx) (hk : k = ctxOf s n) (hpolls : k.polling = true)
    (hring : 2 ^ k.sqLog2 < (w32 a - k.sqHead).toNat) :
    ∃ t, exec (.pollResult n a h) s = .next t ∧ otherCtxs s t n
      ∧ ctxOf t n = { k with polling := false, cqHeadSeen := w32 h, evt := withFlag k.evt 1, evtCnt := k.evtCnt + 1 } := by
  subst hk
  have hrow := pollResult_beyond h hpolls hring
  obtain ⟨o, hp, hevent⟩ := ctxEvent_frame (polled s n h) n 1
  rw [hevent] at hrow
  obtain ⟨hself, hothers⟩ :=
    (polled_becomes s n h).modCtx (fun c => { c with evt := withFlag c.evt 1, evtCnt := c.evtCnt + 1 })
  exact ⟨_, congrArg Host.Outcome.next hrow, hothers, hself⟩

/-- Settles O24: a poll starts, and its result finds the tail advanced, unchanged, or beyond the ring. -/
theorem polling : Obligations.Polling :=
  ⟨doorbellPoll_starts, pollResult_advanced_leaves, pollResult_unchanged_leaves, pollResult_beyond_leaves⟩

/-! ### Fetch and ring errors (R228, R230, R236) -/

/-- R236: the descriptor at sq_head as the hub takes it. -/
def fetchedCmd (k : Ctx) (n : Nat) (d : Desc) : Cmd := { ctx := n, idx := k.sqHead.toNat, desc := d, prev := k.lastDesc, prevEnd := k.lastEnd }

theorem descriptorFetch_leaves (s : State) (n : Nat) (d : Desc) (hmay : mayFetch s n = true) :
    ∃ t c, exec (.descriptorFetch n d) s = .next t ∧ t.cmds = s.cmds ++ [c]
      ∧ c.ctx = n ∧ c.idx = (ctxOf s n).sqHead.toNat ∧ c.desc = d ∧ c.stage = .fetched ∧ c.validated = false
      ∧ ctxOf t n = { ctxOf s n with sqHead := (ctxOf s n).sqHead + 1, lastDesc := some d, lastEnd := none } ∧ otherCtxs s t n
      ∧ t.pool = s.pool ∧ t.branches = s.branches ∧ t.links = s.links := by
  have hrow : descriptorFetch n d s = writeDoorbell (trace
      (modCtx { answered s with cmds := s.cmds ++ [fetchedCmd (ctxOf s n) n d] } n
        (fun k => { k with sqHead := k.sqHead + 1, lastDesc := some d, lastEnd := none })) 1 (fetchedCmd (ctxOf s n) n d) 0) n :=
    if_pos hmay
  obtain ⟨r, htrace⟩ := trace_frame
    (modCtx { answered s with cmds := s.cmds ++ [fetchedCmd (ctxOf s n) n d] } n
      (fun k => { k with sqHead := k.sqHead + 1, lastDesc := some d, lastEnd := none })) 1 (fetchedCmd (ctxOf s n) n d) 0
  rw [htrace] at hrow
  obtain ⟨m, p, hdoorbell⟩ := writeDoorbell_frame _ n
  rw [hdoorbell] at hrow
  obtain ⟨hself, hothers⟩ := ctxBecomes_modCtx { answered s with cmds := s.cmds ++ [fetchedCmd (ctxOf s n) n d] } n
    (fun k => { k with sqHead := k.sqHead + 1, lastDesc := some d, lastEnd := none })
  exact ⟨_, fetchedCmd (ctxOf s n) n d, congrArg Host.Outcome.next hrow, rfl, rfl, rfl, rfl, rfl, rfl, hself, hothers, rfl, rfl, rfl⟩

theorem ringAccessError_halts (s : State) (n : Nat) (k : Ctx) (hk : k = ctxOf s n) (hactive : k.state = .active) :
    ∃ t, exec (.ringAccessError n) s = .next t ∧ otherCtxs s t n
      ∧ ctxOf t n = { k with state := .halted, haltReason := .ringAccess, haltIdx := k.sqHead, stopping := false, polling := false,
                             evt := k.evt ||| 9#32, evtCnt := k.evtCnt + 1 }
      ∧ t.cmds = s.cmds := by
  subst hk
  have hrow : ringAccessError n s = haltCtx s n .ringAccess (ctxOf s n).sqHead 9 := if_pos hactive
  obtain ⟨⟨hself, hothers⟩, cs, m, p, o, h, hframe⟩ := haltCtx_leaves s n .ringAccess (ctxOf s n).sqHead 9
  exact ⟨_, congrArg Host.Outcome.next hrow, hothers, hself, by rw [hframe]⟩

/-- Settles O25: a fetch adds one descriptor to the hub, and a ring access that fails halts its context. -/
theorem fetchAndRingErrors : Obligations.FetchAndRingErrors := ⟨descriptorFetch_leaves, ringAccessError_halts⟩

end Sys2Proof.Machine
end

section
/-! PROOFS. Completion records and the interrupt holdoff (O26): what the steps around the write of a record leave of the completion ring and of
memory beside the doorbell block; then each clause of the obligation from these. -/

namespace Sys2Proof.Machine

/-! ### Beside a record (R226, R234, R235) -/

/-- What a context's completion ring and doorbell block are named by: the ring's address and length, the block's address, and cq_tail. -/
def ringOf (k : Ctx) : W64 × Nat × W64 × W32 := (k.cqAddr, k.cqLog2, k.dbAddr, k.cqTail)

theorem hostAddr_congr {s t : State} (h : t.cset = s.cset) (a : Nat) : hostAddr t a = hostAddr s a := by
  rw [hostAddr, selfId, h, hostAddr, selfId]

/-- A byte of the module half of a context's doorbell block (R226). -/
def inDoorbell (s : State) (n x : Nat) : Prop :=
  hostAddr s ((ctxOf s n).dbAddr.toNat + 32) ≤ x ∧ x < hostAddr s ((ctxOf s n).dbAddr.toNat + 32) + 32

/-- R226, R227: the module half of a context's doorbell block. -/
def doorbellHalf (s : State) (n : Nat) : List Byte :=
  leBytes 4 (ctxOf s n).sqHead.toNat ++ leBytes 4 (ctxOf s n).cqTail.toNat ++ leBytes 4 (ctxStateCode (ctxState s n))
    ++ leBytes 4 (ctxOf s n).haltIdx.toNat ++ leBytes 16 0

theorem doorbellHalf_length (s : State) (n : Nat) : (doorbellHalf s n).length = 32 := by
  simp [doorbellHalf]

theorem writeDoorbell_stores (s : State) (n : Nat) :
    writeDoorbell s n
      = if hostUp s then storeCells s (cellsAt (hostAddr s ((ctxOf s n).dbAddr.toNat + 32)) (doorbellHalf s n)) else s := by
  unfold writeDoorbell doorbellHalf
  rfl

/-- Pages, branches, the set in force and a context's rings are as before, a command that has left the hub stays away, and of memory the
context's doorbell block alone is written. -/
structure besideRecord (n i : Nat) (s t : State) : Prop where
  pool : t.pool = s.pool
  branches : t.branches = s.branches
  cset : t.cset = s.cset
  ring : ringOf (ctxOf t n) = ringOf (ctxOf s n)
  away : findCmd s n i = none → findCmd t n i = none
  wf : s.mem.wf = true → t.mem.wf = true
  mem : s.mem.wf = true → ∀ x, ¬ inDoorbell s n x → mget t.mem x = mget s.mem x

namespace besideRecord
variable {n i : Nat} {s t u : State}

theorem refl (s : State) : besideRecord n i s s := ⟨rfl, rfl, rfl, rfl, id, id, fun _ _ _ => rfl⟩

theorem inDoorbell_iff (h : besideRecord n i s t) (x : Nat) : inDoorbell t n x ↔ inDoorbell s n x := by
  have hring := h.ring
  simp only [ringOf, Prod.mk.injEq] at hring
  obtain ⟨-, -, hblock, -⟩ := hring
  rw [inDoorbell, hostAddr_congr h.cset, hblock, inDoorbell]

theorem trans (hst : besideRecord n i s t) (htu : besideRecord n i t u) : besideRecord n i s u where
  pool := htu.pool.trans hst.pool
  branches := htu.branches.trans hst.branches
  cset := htu.cset.trans hst.cset
  ring := htu.ring.trans hst.ring
  away h := htu.away (hst.away h)
  wf h := htu.wf (hst.wf h)
  mem h x hx := (htu.mem (hst.wf h) x ((hst.inDoorbell_iff x).not.mpr hx)).trans (hst.mem h x hx)

/-- A step that leaves memory, pages, branches and the set in force. -/
theorem of_same (hpool : t.pool = s.pool) (hbranches : t.branches = s.branches) (hcset : t.cset = s.cset) (hmem : t.mem = s.mem)
    (hring : ringOf (ctxOf t n) = ringOf (ctxOf s n)) (haway : findCmd s n i = none → findCmd t n i = none) : besideRecord n i s t :=
  ⟨hpool, hbranches, hcset, hring, haway, fun h => hmem ▸ h, fun _ x _ => by rw [hmem]⟩

theorem of_modCtx (s : State) (m : Nat) {f : Ctx → Ctx} (hf : ∀ k, ringOf (f k) = ringOf k) : besideRecord n i s (modCtx s m f) := by
  refine of_same rfl rfl rfl rfl ?_ id
  rw [ctxOf_modCtx]
  split
  next h => rw [hf, h]
  next => rfl

theorem of_setCmd (s : State) (c : Cmd) : besideRecord n i s (setCmd s c) := by
  refine of_same rfl rfl rfl rfl rfl fun h => ?_
  have hsome := isSome_findCmd_setCmd s c n i
  rwa [h, Option.isSome_none, Option.isSome_eq_false_iff, Option.isNone_iff_eq_none] at hsome

theorem of_trace (s : State) (k : Nat) (c : Cmd) (st : Nat) : besideRecord n i s (trace s k c st) := by
  obtain ⟨r, htrace⟩ := trace_frame s k c st
  rw [htrace]
  exact of_same rfl rfl rfl rfl rfl id

theorem of_sendVector (s : State) (p v : Nat) : besideRecord n i s (sendVector s p v) := by
  obtain ⟨o, h, hsend⟩ := sendVector_frame s p v
  rw [hsend]
  exact of_same rfl rfl rfl rfl rfl id

theorem of_storeCells (s : State) {cs : List Host.Cell} (h : ∀ c ∈ cs, inDoorbell s n c.1) : besideRecord n i s (storeCells s cs) where
  pool := rfl
  branches := rfl
  cset := rfl
  ring := rfl
  away := id
  wf := mapply_wf _ _
  mem hwf _ hx := mget_mapply_of_not_mem _ _ _ hwf fun c hc he => hx (he ▸ h c hc)

theorem of_writeDoorbell (s : State) : besideRecord n i s (writeDoorbell s n) := by
  rw [writeDoorbell_stores]
  split
  · refine of_storeCells s fun c hc => ?_
    have hin := mem_cellsAt hc
    rwa [doorbellHalf_length] at hin
  · exact refl s

end besideRecord

/-! ### The steps around the write of a record (R230, R234, R235, R244) -/

theorem besideRecord_tellNext {n i : Nat} (s : State) (c : Cmd) : besideRecord n i s (tellNext s c) := by
  unfold tellNext
  dsimp only
  split
  · exact .of_setCmd s _
  · split
    · exact .of_modCtx s _ fun _ => rfl
    · exact .refl s

theorem besideRecord_countLive {n i : Nat} (s : State) (c : Cmd) : besideRecord n i s (countLive s c) := by
  unfold countLive
  split
  · exact .of_modCtx s _ fun _ => rfl
  · exact .refl s

theorem findCmd_filter_none {s : State} {n i : Nat} (p : Cmd → Bool) (h : findCmd s n i = none) :
    findCmd { s with cmds := s.cmds.filter p } n i = none :=
  List.find?_eq_none.mpr fun x hx => List.find?_eq_none.mp h x (List.mem_of_mem_filter hx)

theorem besideRecord_discardUnvalidated {n i : Nat} (s : State) (m : Nat) : besideRecord n i s (discardUnvalidated s m) := by
  unfold discardUnvalidated
  split
  · exact .refl s
  · have hfilter : besideRecord n i s { s with cmds := s.cmds.filter (fun x => !(x.ctx == m && x.stage == .fetched)) } :=
      .of_same rfl rfl rfl rfl rfl (findCmd_filter_none _)
    exact hfilter.trans (.of_modCtx _ m fun _ => rfl)

theorem besideRecord_haltCtx {n i : Nat} (s : State) (r : HaltReason) (idx : W32) (mask : Nat) :
    besideRecord n i s (haltCtx s n r idx mask) :=
  (((besideRecord.of_modCtx s n (f := stoppedAt r idx) fun _ => rfl).trans (.of_modCtx _ n (f := flagged mask) fun _ => rfl)).trans
    (.of_sendVector _ _ _)).trans (.of_writeDoorbell _)

/-- R244: a context whose ring goes on after the descriptor that failed. -/
def resumedAfter (c : Cmd) (k : Ctx) : Ctx := { k with sqHead := w32 (c.idx + 1), lastDesc := some c.desc, lastEnd := some c.status }

theorem besideRecord_stopOnError {i : Nat} (s : State) (c : Cmd) : besideRecord c.ctx i s (stopOnError s c) := by
  unfold stopOnError
  split
  · have hcut : besideRecord c.ctx i s (modCtx (discardUnvalidated s c.ctx) c.ctx (resumedAfter c)) :=
      (besideRecord_discardUnvalidated s c.ctx).trans (.of_modCtx _ c.ctx fun _ => rfl)
    exact hcut.trans (besideRecord_haltCtx _ _ _ _)
  · exact .refl s

/-- R235: a holdoff that begins now. -/
def holdoffBegun (s : State) (k : Ctx) : Ctx := { k with holdoffEnd := s.localTime + w64 (us k.irqHoldoff) }

theorem besideRecord_recordIrq {n i : Nat} (s : State) : besideRecord n i s (recordIrq s n) := by
  unfold recordIrq
  dsimp only
  split
  · exact .of_modCtx s n fun _ => rfl
  · exact (besideRecord.of_modCtx s n (f := holdoffBegun s) fun _ => rfl).trans (.of_sendVector _ _ _)

/-! ### The write of a record -/

/-- R308, R356: a completed command has left the hub and is told of, and its record is not written yet. -/
def completed (s : State) (c : Cmd) : State := countLive (tellNext (trace (dropCmd s c) 5 c (statusCode c.status)) c) c

/-- R235, R244: what follows the write of a record. -/
def recordClosed (s : State) (n : Nat) (c : Cmd) : State :=
  if hIrq c.desc then recordIrq (writeDoorbell (stopOnError s c) n) n else writeDoorbell (stopOnError s c) n

theorem findCmd_dropCmd (s : State) (c : Cmd) : findCmd (dropCmd s c) c.ctx c.idx = none :=
  List.find?_eq_none.mpr fun x hx => by simpa [or_iff_not_imp_left] using (List.mem_filter.mp hx).2

theorem completed_beside {i : Nat} (s : State) (c : Cmd) : besideRecord c.ctx i (dropCmd s c) (completed s c) :=
  ((besideRecord.of_trace _ _ _ _).trans (besideRecord_tellNext _ c)).trans (besideRecord_countLive _ c)

theorem recordClosed_beside {i : Nat} (s : State) (c : Cmd) : besideRecord c.ctx i s (recordClosed s c.ctx c) := by
  have hclosed := (besideRecord_stopOnError (i := i) s c).trans (.of_writeDoorbell _)
  unfold recordClosed
  split
  · exact hclosed.trans (besideRecord_recordIrq _)
  · exact hclosed

theorem recordWrite_writes {s : State} {c : Cmd} (hfind : findCmd s c.ctx c.idx = some c) (hdecided : c.stage = .decided)
    (hup : hostUp s = true) (hring : ¬ ((ctxOf s c.ctx).state = .halted ∧ (ctxOf s c.ctx).haltReason = .ringAccess)) :
    recordWrite c.ctx c.idx s = recordClosed (putRecord (completed s c) c.ctx (recordOf c)) c.ctx c := by
  have hheld : ¬ ((ctxOf s c.ctx).state = .halted && (ctxOf s c.ctx).haltReason == .ringAccess) = true := by simpa using hring
  simp only [recordWrite, hfind, hdecided, hup, if_neg hheld]
  rfl

/-- R235: the phase of a record at a place of the ring. -/
def recordPhase (k : Ctx) : Nat := if k.cqTail.toNat / 2 ^ k.cqLog2 % 2 = 0 then 1 else 0

/-- R234: the slot of cq_tail. -/
def recordSlot (s : State) (k : Ctx) : Nat := hostAddr s (k.cqAddr.toNat + 32 * (k.cqTail.toNat % 2 ^ k.cqLog2))

/-- R234, R235: the bytes of a record in its slot. -/
def recordCells (s : State) (k : Ctx) (r : Record) : List Host.Cell := cellsNat (recordSlot s k) 32 (r.toNat + 2 ^ 56 * recordPhase k)

/-- R235: a context that has written a record. -/
def tailAdvanced (k : Ctx) : Ctx := { k with cqTail := k.cqTail + 1 }

theorem putRecord_stores (s : State) (n : Nat) (r : Record) :
    putRecord s n r = modCtx (storeCells s (recordCells s (ctxOf s n) r)) n tailAdvanced := by
  unfold putRecord recordCells recordSlot recordPhase
  rfl

theorem putRecord_tail (s : State) (n : Nat) (r : Record) : ctxBecomes s (putRecord s n r) n (tailAdvanced (ctxOf s n)) := by
  rw [putRecord_stores]
  generalize recordCells s (ctxOf s n) r = cs
  exact ctxBecomes_modCtx (storeCells s cs) n tailAdvanced

theorem putRecord_leaves (s : State) (n : Nat) (r : Record) :
    (putRecord s n r).mem = mapply s.mem (recordCells s (ctxOf s n) r) ∧ (putRecord s n r).cset = s.cset
      ∧ (putRecord s n r).cmds = s.cmds ∧ (putRecord s n r).pool = s.pool ∧ (putRecord s n r).branches = s.branches := by
  rw [putRecord_stores]
  generalize recordCells s (ctxOf s n) r = cs
  exact ⟨rfl, rfl, rfl, rfl, rfl⟩

theorem mnat_congr {m m' : Memory} {a n : Nat} (h : ∀ x, a ≤ x → x < a + n → mget m x = mget m' x) : mnat m a n = mnat m' a n := by
  have hread : mread m a n = mread m' a n :=
    List.map_congr_left fun k hk => h (a + k) (by omega) (by simpa using List.mem_range.mp hk)
  rw [mnat, hread, mnat]

theorem completionRecordWrite_leaves (s : State) (n i a : Nat) (c : Cmd) (k : Ctx) (hwf : s.mem.wf = true)
    (hfind : findCmd s n i = some c) (hdecided : c.stage = .decided) (hk : k = ctxOf s n) (hup : hostUp s = true)
    (hring : ¬ (k.state = .halted ∧ k.haltReason = .ringAccess))
    (ha : a = hostAddr s (k.cqAddr.toNat + 32 * (k.cqTail.toNat % 2 ^ k.cqLog2)))
    (hapart : a + 32 ≤ hostAddr s (k.dbAddr.toNat + 32) ∨ hostAddr s (k.dbAddr.toNat + 32) + 32 ≤ a) :
    ∃ t, exec (.completionRecordWrite n i) s = .next t
      ∧ mnat t.mem a 32 = ((recordOf c).toNat + 2 ^ 56 * (if k.cqTail.toNat / 2 ^ k.cqLog2 % 2 = 0 then 1 else 0)) % 2 ^ 256
      ∧ (ctxOf t n).cqTail = k.cqTail + 1 ∧ findCmd t n i = none ∧ t.pool = s.pool ∧ t.branches = s.branches := by
  obtain ⟨rfl, rfl⟩ := findCmd_key hfind
  have hbefore := completed_beside (i := c.idx) s c
  have hafter := recordClosed_beside (i := c.idx) (putRecord (completed s c) c.ctx (recordOf c)) c
  obtain ⟨htail, -⟩ := putRecord_tail (completed s c) c.ctx (recordOf c)
  obtain ⟨hmem, hcset, hcmds, hpool, hbranches⟩ := putRecord_leaves (completed s c) c.ctx (recordOf c)
  generalize hwritten : putRecord (completed s c) c.ctx (recordOf c) = u at hafter htail hmem hcset hcmds hpool hbranches
  -- the ring that the record is written to is that of the state before
  have hctx : ringOf (ctxOf (completed s c) c.ctx) = ringOf k := by
    rw [hk]
    exact hbefore.ring
  simp only [ringOf, Prod.mk.injEq] at hctx
  obtain ⟨hcqAddr, hcqLog2, hdbAddr, hcqTail⟩ := hctx
  have hslot : recordSlot (completed s c) (ctxOf (completed s c) c.ctx) = a := by
    rw [recordSlot, hostAddr_congr hbefore.cset, hcqAddr, hcqLog2, hcqTail, ha]
    rfl
  have hphase : recordPhase (ctxOf (completed s c) c.ctx) = if k.cqTail.toNat / 2 ^ k.cqLog2 % 2 = 0 then 1 else 0 := by
    rw [recordPhase, hcqLog2, hcqTail]
  have hwf' : (completed s c).mem.wf = true := hbefore.wf hwf
  have hdoorbell : ∀ x, a ≤ x → x < a + 32 → ¬ inDoorbell u c.ctx x := by
    intro x hlow hhigh
    have hblock : (ctxOf u c.ctx).dbAddr = k.dbAddr := by
      rw [htail]
      exact hdbAddr
    have hself : u.cset = s.cset := hcset.trans hbefore.cset
    rw [inDoorbell, hostAddr_congr hself, hblock]
    omega
  have hwfu : u.mem.wf = true := by
    rw [hmem]
    exact mapply_wf _ _ hwf'
  have hrow := recordWrite_writes hfind hdecided hup (hk ▸ hring)
  rw [hwritten] at hrow
  refine ⟨_, congrArg Host.Outcome.next hrow, ?_, ?_, ?_, ?_, ?_⟩
  · rw [mnat_congr fun x hlow hhigh => hafter.mem hwfu x (hdoorbell x hlow hhigh), hmem, recordCells, hslot, hphase,
      mnat_mapply_cellsNat hwf']
  · have hsame := hafter.ring
    simp only [ringOf, Prod.mk.injEq] at hsame
    obtain ⟨-, -, -, hkept⟩ := hsame
    rw [hkept, htail, tailAdvanced, hcqTail]
  · refine hafter.away ?_
    rw [findCmd, hcmds]
    exact hbefore.away (findCmd_dropCmd s c)
  · exact hafter.pool.trans (hpool.trans hbefore.pool)
  · exact hafter.branches.trans (hbranches.trans hbefore.branches)

/-! ### The holdoff (R235) -/

theorem irqHoldoffExpiry_sends {s : State} {n : Nat} (hpends : (ctxOf s n).irqPending = true)
    (hover : (ctxOf s n).holdoffEnd.toNat ≤ s.localTime.toNat) :
    irqHoldoffExpiry n s
      = sendVector (modCtx (modCtx s n (fun k => { k with irqPending := false })) n (holdoffBegun s)) s.owner (ctxOf s n).msixVector := by
  obtain ⟨hself, -⟩ := ctxBecomes_modCtx s n (fun k => { k with irqPending := false })
  have hended : ¬ s.localTime.toNat < (ctxOf s n).holdoffEnd.toNat := Nat.not_lt.mpr hover
  simp only [irqHoldoffExpiry, hpends, hover, decide_true, Bool.and_self, if_true, recordIrq, hself, modCtx_localTime, if_neg hended]
  rfl

theorem irqHoldoffExpiry_leaves (s : State) (n : Nat) (k : Ctx) (hk : k = ctxOf s n) (hpends : k.irqPending = true)
    (hover : k.holdoffEnd.toNat ≤ s.localTime.toNat) :
    ∃ t, exec (.irqHoldoffExpiry n) s = .next t
      ∧ ctxOf t n = { k with irqPending := false, holdoffEnd := s.localTime + w64 (us k.irqHoldoff) } ∧ otherCtxs s t n
      ∧ (vectorOpen (hostPortOf s s.owner) k.msixVector = true → t.out.msix = s.out.msix ++ [(s.owner, k.msixVector)])
      ∧ (vectorOpen (hostPortOf s s.owner) k.msixVector = false → t.out.msix = s.out.msix
          ∧ k.msixVector ∈ (hostPortOf t s.owner).pba)
      ∧ t = { s with ctxs := t.ctxs, out := t.out, hostPorts := t.hostPorts } := by
  subst hk
  have hrow := irqHoldoffExpiry_sends hpends hover
  have hbecomes := (ctxBecomes_modCtx s n (fun k => { k with irqPending := false })).modCtx (holdoffBegun s)
  generalize hu : modCtx (modCtx s n (fun k => { k with irqPending := false })) n (holdoffBegun s) = u at hrow hbecomes
  have hports : hostPortOf u = hostPortOf s := by rw [← hu]; rfl
  have hframe : u = { s with ctxs := u.ctxs } := by rw [← hu]; rfl
  by_cases hopen : vectorOpen (hostPortOf s s.owner) (ctxOf s n).msixVector = true
  · rw [sendVector, hports, if_pos hopen] at hrow
    obtain ⟨hself, hothers⟩ := hbecomes.keep (u := { u with out := { u.out with msix := u.out.msix ++ [(s.owner, (ctxOf s n).msixVector)] } }) rfl
    refine ⟨_, congrArg Host.Outcome.next hrow, hself, hothers, fun _ => ?_, fun hshut => absurd hopen (by simp [hshut]), ?_⟩
    · rw [hframe]
    · rw [hframe]
  · rw [sendVector, hports, if_neg hopen] at hrow
    obtain ⟨hself, hothers⟩ := hbecomes.keep (u := modHostPort u s.owner (fun h => { h with pba := sins h.pba (ctxOf s n).msixVector })) rfl
    refine ⟨_, congrArg Host.Outcome.next hrow, hself, hothers, fun h => absurd h hopen, fun _ => ⟨?_, ?_⟩, ?_⟩
    · rw [hframe]
      rfl
    · rw [hostPortOf_modHostPort, if_pos rfl]
      exact (mem_sins _ _ _).mpr (.inl rfl)
    · rw [hframe]
      rfl

/-- Settles O26: a record goes to its slot beside the doorbell block, and the end of a holdoff sends one message. -/
theorem completionRecords : Obligations.CompletionRecords := ⟨completionRecordWrite_leaves, irqHoldoffExpiry_leaves⟩

end Sys2Proof.Machine
end

section
/-! PROOFS. CTX_CTL_n (O27): how a register write reaches its context, what becomes of every command when a context's commands are killed, what
a reset clears; then each clause of the obligation from these. -/

namespace Sys2Proof.Machine

/-! ### Register writes that start, stop and reset (R256, R385, R418) -/

theorem ctlWrite_takesWrites {s : State} (h : takesWrites s) (n v : Nat) (f : State → State) : ctlWrite n v f s = f s := by
  have hout : entering s n = false := by rw [entering, h.2]
  rw [ctlWrite, hout, Bool.and_false, Bool.false_and, if_neg Bool.false_ne_true, barWrite_takesWrites h]

theorem endEntry_awake {s : State} (h : s.standby = none) (n : Nat) : endEntry s n = s := by
  rw [endEntry, h]

/-- R256, R385: a context that starts, RESIDENT where that is free. -/
def enabled (s : State) (free : Bool) (k : Ctx) : Ctx :=
  { k with state := .active, haltReason := .none, sqHead := 0, cqTail := 0, sqTailSeen := 0, cqHeadSeen := 0, polling := false,
           pollI := pollMax s, idlePolls := 0, streamKey := k.keyReg, streamCtr := 0, stopping := false,
           res := if free then .resident else .swapped, saveEmpty := true, savedRanges := none, residentAt := s.localTime,
           takeCounts := false, lastDesc := none, lastEnd := none }

theorem enabled_resident (s : State) (free : Bool) (k : Ctx) : (enabled s free k).res = .resident ↔ free = true := by
  cases free <;> simp [enabled]

/-- A context changed and its doorbell block written. -/
theorem modCtx_writeDoorbell_leaves (s : State) (n : Nat) (f : Ctx → Ctx) :
    ctxBecomes s (writeDoorbell (modCtx s n f) n) n (f (ctxOf s n))
      ∧ ∃ cs m p, writeDoorbell (modCtx s n f) n = { s with ctxs := cs, mem := m, poison := p } := by
  obtain ⟨m, p, hdoorbell⟩ := writeDoorbell_frame (modCtx s n f) n
  rw [hdoorbell]
  exact ⟨(ctxBecomes_modCtx s n f).keep rfl, _, m, p, rfl⟩

theorem contextEnable_starts (s : State) (n : Nat) (k : Ctx) (hopen : takesWrites s) (hk : k = ctxOf s n) (hoff : k.state = .disabled)
    (hmay : mayEnable k = true) :
    ∃ t, exec (.contextEnable n) s = .next t ∧ (ctxOf t n).state = .active ∧ (ctxOf t n).sqHead = 0 ∧ (ctxOf t n).cqTail = 0
      ∧ (ctxOf t n).sqTailSeen = 0 ∧ (ctxOf t n).cqHeadSeen = 0 ∧ (ctxOf t n).streamKey = k.keyReg ∧ (ctxOf t n).streamCtr = 0
      ∧ (ctxOf t n).pollI = pollMax s ∧ ((ctxOf t n).res = .resident ↔ nobodyResident s n = true) ∧ (ctxOf t n).acl = k.acl
      ∧ otherCtxs s t n ∧ t = { s with ctxs := t.ctxs, mem := t.mem, poison := t.poison } := by
  subst hk
  have hrow : ctlWrite n 1 (contextEnable n) s = writeDoorbell (modCtx s n (enabled s (nobodyResident s n))) n := by
    rw [ctlWrite_takesWrites hopen, contextEnable, hoff]
    exact if_pos hmay
  obtain ⟨⟨hself, hothers⟩, cs, m, p, hframe⟩ := modCtx_writeDoorbell_leaves s n (enabled s (nobodyResident s n))
  refine ⟨_, congrArg Host.Outcome.next hrow, ?_⟩
  rw [hself]
  exact ⟨rfl, rfl, rfl, rfl, rfl, rfl, rfl, rfl, enabled_resident _ _ _, rfl, hothers, by rw [hframe]⟩

theorem contextEnable_refuses (s : State) (n : Nat) (k : Ctx) (hopen : takesWrites s) (hk : k = ctxOf s n) (hoff : k.state = .disabled)
    (hnot : mayEnable k = false) :
    ∃ t, exec (.contextEnable n) s = .next t ∧ ctxOf t n = { k with evt := withFlag k.evt 2, evtCnt := k.evtCnt + 1 } ∧ otherCtxs s t n
      ∧ t = { s with ctxs := t.ctxs, out := t.out, hostPorts := t.hostPorts } := by
  subst hk
  have hrow : ctlWrite n 1 (contextEnable n) s = ctxEvent s n 2 := by
    rw [ctlWrite_takesWrites hopen, contextEnable, hoff]
    simp [hnot]
  obtain ⟨o, h, hevent⟩ := ctxEvent_frame s n 2
  rw [hevent] at hrow
  obtain ⟨hself, hothers⟩ := ctxBecomes_modCtx s n (fun c => { c with evt := withFlag c.evt 2, evtCnt := c.evtCnt + 1 })
  exact ⟨_, congrArg Host.Outcome.next hrow, hself, hothers, rfl⟩

theorem contextStop_holds (s : State) (n : Nat) (hopen : takesWrites s) (hactive : (ctxOf s n).state = .active) :
    ∃ t, exec (.contextStop n) s = .next t ∧ ctxOf t n = { ctxOf s n with stopping := true } ∧ otherCtxs s t n
      ∧ t = { s with ctxs := t.ctxs } := by
  have hrow : ctlWrite n 2 (contextStop n) s = modCtx s n (fun k => { k with stopping := true }) := by
    rw [ctlWrite_takesWrites hopen, contextStop, if_pos hactive, endEntry_awake hopen.2]
  obtain ⟨hself, hothers⟩ := ctxBecomes_modCtx s n (fun k => { k with stopping := true })
  exact ⟨_, congrArg Host.Outcome.next hrow, hself, hothers, rfl⟩

theorem contextReset_begins (s : State) (n : Nat) (k : Ctx) (hopen : takesWrites s) (hk : k = ctxOf s n) (hon : k.state ≠ .disabled)
    (hgoing : k.state ≠ .resetting) :
    ∃ t, exec (.contextReset n) s = .next t ∧ ctxOf t n = { k with state := .resetting, stopping := true, polling := false }
      ∧ otherCtxs s t n ∧ t = { s with ctxs := t.ctxs, mem := t.mem, poison := t.poison } := by
  subst hk
  have hrow : ctlWrite n 8 (contextReset n) s
      = writeDoorbell (modCtx s n (fun k => { k with state := .resetting, stopping := true, polling := false })) n := by
    rw [ctlWrite_takesWrites hopen, contextReset, endEntry_awake hopen.2]
    simp [hon, hgoing]
  obtain ⟨⟨hself, hothers⟩, cs, m, p, hframe⟩ :=
    modCtx_writeDoorbell_leaves s n (fun k => { k with state := .resetting, stopping := true, polling := false })
  exact ⟨_, congrArg Host.Outcome.next hrow, hself, hothers, by rw [hframe]⟩

/-! ### Records written together (R230, R246) -/

theorem frontWrites_writeDoorbell (s : State) (n : Nat) : frontWrites s (writeDoorbell s n) := by
  obtain ⟨m, p, hdoorbell⟩ := writeDoorbell_frame s n
  rw [hdoorbell]
  exact ⟨_, _, _, _, _, rfl⟩

theorem writeDoorbell_ctxs (s : State) (n : Nat) : (writeDoorbell s n).ctxs = s.ctxs := by
  obtain ⟨m, p, hdoorbell⟩ := writeDoorbell_frame s n
  rw [hdoorbell]

theorem frontWrites_putRecord (s : State) (n : Nat) (r : Record) : frontWrites s (putRecord s n r) := by
  rw [putRecord_stores]
  generalize recordCells s (ctxOf s n) r = cs
  exact ⟨_, _, _, _, _, rfl⟩

/-- A context with a cq_tail. -/
def atTail (q : W32) (k : Ctx) : Ctx := { k with cqTail := q }

theorem ctxBecomes.trans {s t u : State} {n : Nat} {k k' : Ctx} (hst : ctxBecomes s t n k) (htu : ctxBecomes t u n k') :
    ctxBecomes s u n k' :=
  ⟨htu.1, fun m hm => (htu.2 m hm).trans (hst.2 m hm)⟩

theorem atTail_tailAdvanced (k : Ctx) (m : Nat) :
    atTail ((tailAdvanced k).cqTail + w32 m) (tailAdvanced k) = atTail (k.cqTail + w32 (m + 1)) k := by
  have hcount : k.cqTail + 1 + w32 m = k.cqTail + w32 (m + 1) := by
    rw [w32, w32, BitVec.ofNat_add, BitVec.add_assoc, BitVec.add_comm 1]
    rfl
  rw [← hcount]
  rfl

/-- R230: each of several records advances cq_tail by one. -/
theorem putRecords_tail {α : Type} (f : α → Record) (s : State) (n : Nat) (rs : List α) :
    ctxBecomes s (seqAll s rs (fun s r => putRecord s n (f r))) n (atTail ((ctxOf s n).cqTail + w32 rs.length) (ctxOf s n)) := by
  induction rs generalizing s with
  | nil => exact ⟨by simp [seqAll, atTail, w32], fun _ _ => rfl⟩
  | cons r rs ih =>
    have hfirst := putRecord_tail s n (f r)
    have hrest := hfirst.trans (ih (putRecord s n (f r)))
    rw [hfirst.1, atTail_tailAdvanced] at hrest
    rwa [seqAll, List.foldl_cons]

theorem putRecords_writes {α : Type} (f : α → Record) (s : State) (n : Nat) (rs : List α) :
    frontWrites s (seqAll s rs (fun s r => putRecord s n (f r))) :=
  seqAll_rel frontWrites.refl frontWrites.trans (fun s r => frontWrites_putRecord s n (f r)) rs s

/-! ### Resume (R229, R230, R247) -/

/-- R235: a context whose interrupt pends or is held off. -/
def irqState (b : Bool) (e : W64) (k : Ctx) : Ctx := { k with irqPending := b, holdoffEnd := e }

theorem recordIrq_leaves (s : State) (n : Nat) :
    (∃ b e, ctxBecomes s (recordIrq s n) n (irqState b e (ctxOf s n))) ∧ frontWrites s (recordIrq s n) := by
  unfold recordIrq
  dsimp only
  split
  · exact ⟨⟨_, _, ctxBecomes_modCtx s n _⟩, ⟨_, _, _, _, _, rfl⟩⟩
  · obtain ⟨o, h, hsend⟩ := sendVector_frame (modCtx s n (holdoffBegun s)) s.owner (ctxOf s n).msixVector
    have hbegun := (ctxBecomes_modCtx s n (holdoffBegun s)).keep (u := { modCtx s n (holdoffBegun s) with out := o, hostPorts := h }) rfl
    exact ⟨⟨_, _, hsend ▸ hbegun⟩, hsend ▸ ⟨_, _, _, _, _, rfl⟩⟩

/-- R230: a context whose held records have been written. -/
def recordsFlushed (k : Ctx) : Ctx := { k with heldRecords := [], cqTail := k.cqTail + w32 k.heldRecords.length }

theorem recordsFlushed_of_none {k : Ctx} (h : k.heldRecords = []) : recordsFlushed k = k := by
  have htail : k.cqTail + w32 k.heldRecords.length = k.cqTail := by simp [h, w32]
  rw [recordsFlushed, htail, ← h]

theorem flushHeld_down {s : State} (h : hostUp s = false) (n : Nat) : flushHeld s n = s := by
  simp [flushHeld, h]

/-- R230: the held records as they are written. -/
def heldWritten (s : State) (n : Nat) : State :=
  writeDoorbell (seqAll (modCtx s n (fun k => { k with heldRecords := [] })) (ctxOf s n).heldRecords (fun s r => putRecord s n r.1)) n

theorem heldWritten_leaves (s : State) (n : Nat) :
    ctxBecomes s (heldWritten s n) n (recordsFlushed (ctxOf s n)) ∧ frontWrites s (heldWritten s n) := by
  have hemptied := ctxBecomes_modCtx s n (fun k => { k with heldRecords := [] })
  have hput := hemptied.trans (putRecords_tail Prod.fst _ n (ctxOf s n).heldRecords)
  rw [hemptied.1] at hput
  have hmod : frontWrites s (modCtx s n (fun k => { k with heldRecords := [] })) := ⟨_, _, _, _, _, rfl⟩
  exact ⟨hput.keep (writeDoorbell_ctxs _ n), (hmod.trans (putRecords_writes Prod.fst _ n _)).trans (frontWrites_writeDoorbell _ n)⟩

theorem flushHeld_up {s : State} (hup : hostUp s = true) (n : Nat) :
    (∃ b e, ctxBecomes s (flushHeld s n) n (irqState b e (recordsFlushed (ctxOf s n)))) ∧ frontWrites s (flushHeld s n) := by
  by_cases hnone : (ctxOf s n).heldRecords = []
  · have hrow : flushHeld s n = s := by simp [flushHeld, hnone]
    rw [hrow, recordsFlushed_of_none hnone]
    exact ⟨⟨(ctxOf s n).irqPending, (ctxOf s n).holdoffEnd, rfl, fun _ _ => rfl⟩, .refl s⟩
  · have hrow : flushHeld s n = if (ctxOf s n).heldRecords.any Prod.snd then recordIrq (heldWritten s n) n else heldWritten s n := by
      simp only [flushHeld, hup, Bool.not_true, Bool.or_false, List.isEmpty_iff, if_neg hnone]
      rfl
    obtain ⟨hbecomes, hwrites⟩ := heldWritten_leaves s n
    rw [hrow]
    split
    · obtain ⟨⟨b, e, hirq⟩, hmore⟩ := recordIrq_leaves (heldWritten s n) n
      have hflushed := hbecomes.trans hirq
      rw [hbecomes.1] at hflushed
      exact ⟨⟨b, e, hflushed⟩, hwrites.trans hmore⟩
    · exact ⟨⟨_, _, hbecomes⟩, hwrites⟩

/-- R229, R247: a context that goes on, its poll interval at its longest. -/
def resumed (s : State) (k : Ctx) : Ctx := { k with state := .active, haltReason := .none, pollI := pollMax s, idlePolls := 0 }

theorem contextResume_goesOn (s : State) (n : Nat) (k : Ctx) (hopen : takesWrites s) (hk : k = ctxOf s n) (hhalted : k.state = .halted)
    (halive : k.haltReason ≠ .dieReset) :
    ∃ t, exec (.contextResume n) s = .next t ∧ (ctxOf t n).state = .active ∧ (ctxOf t n).haltReason = .none ∧ (ctxOf t n).pollI = pollMax s
      ∧ (ctxOf t n).sqHead = k.sqHead ∧ (hostUp s = true → (ctxOf t n).heldRecords = []
          ∧ (ctxOf t n).cqTail = k.cqTail + w32 k.heldRecords.length) ∧ otherCtxs s t n ∧ t.cmds = s.cmds := by
  subst hk
  have hrow : ctlWrite n 4 (contextResume n) s = writeDoorbell (flushHeld (modCtx s n (resumed s)) n) n := by
    rw [ctlWrite_takesWrites hopen, contextResume, hhalted]
    exact if_pos (by simpa using halive)
  have hresumed := ctxBecomes_modCtx s n (resumed s)
  have hwrites : frontWrites s (modCtx s n (resumed s)) := ⟨_, _, _, _, _, rfl⟩
  have hports : hostUp (modCtx s n (resumed s)) = hostUp s := rfl
  cases hup : hostUp s with
  | true =>
    obtain ⟨⟨b, e, hflushed⟩, hmore⟩ := flushHeld_up (hports.trans hup) n
    have hbecomes := hresumed.trans hflushed
    rw [hresumed.1] at hbecomes
    obtain ⟨hself, hothers⟩ := hbecomes.keep (writeDoorbell_ctxs _ n)
    obtain ⟨cs, m, p, o, h, hframe⟩ := (hwrites.trans hmore).trans (frontWrites_writeDoorbell _ n)
    refine ⟨_, congrArg Host.Outcome.next hrow, ?_⟩
    rw [hself]
    exact ⟨rfl, rfl, rfl, rfl, fun _ => ⟨rfl, rfl⟩, hothers, by rw [hframe]⟩
  | false =>
    rw [flushHeld_down (hports.trans hup)] at hrow
    obtain ⟨hself, hothers⟩ := hresumed.keep (writeDoorbell_ctxs _ n)
    obtain ⟨cs, m, p, o, h, hframe⟩ := hwrites.trans (frontWrites_writeDoorbell _ n)
    refine ⟨_, congrArg Host.Outcome.next hrow, ?_⟩
    rw [hself]
    exact ⟨rfl, rfl, rfl, rfl, fun hup => absurd hup Bool.false_ne_true, hothers, by rw [hframe]⟩

/-! ### What the kill of a command keeps (R50, R245) -/

/-- R50: every context and branch stands as it was, and no standby begins. -/
def ctxsKept (s t : State) : Prop := t.ctxs = s.ctxs ∧ t.branches = s.branches ∧ (s.standby = none → t.standby = none)

theorem ctxsKept.refl (s : State) : ctxsKept s s := ⟨rfl, rfl, id⟩

theorem ctxsKept.trans {s t u : State} (hst : ctxsKept s t) (htu : ctxsKept t u) : ctxsKept s u := by
  obtain ⟨hctxs, hbranches, hawake⟩ := hst
  obtain ⟨hctxs', hbranches', hawake'⟩ := htu
  exact ⟨hctxs'.trans hctxs, hbranches'.trans hbranches, hawake' ∘ hawake⟩

theorem ctxsKept_noteKill (s : State) (c : Cmd) : ctxsKept s (noteKill s c) := by
  obtain ⟨k, r, hnote⟩ := noteKill_frame s c
  rw [hnote]
  exact .refl s

theorem ctxsKept_csetEvent (s : State) (b : Nat) : ctxsKept s (csetEvent s b) := by
  obtain ⟨o, h, hraise⟩ := raiseSource_frame { s with cset := { s.cset with evt := withFlag s.cset.evt b, evtCnt := s.cset.evtCnt + 1 } } 5
  rw [csetEvent, hraise]
  exact ⟨rfl, rfl, id⟩

theorem ctxsKept_requestsWithdrawn (s : State) (c : Cmd) : ctxsKept s (requestsWithdrawn s c) := by
  obtain ⟨l, h, hforget⟩ := huddleWithdraw_frame s c
  have hkept : ctxsKept s (huddleWithdraw s c) := by
    rw [hforget]
    exact .refl s
  unfold requestsWithdrawn
  dsimp only
  split
  · exact hkept.trans (ctxsKept_csetEvent (umpEnd _ _ _ _) 2)
  · exact hkept

/-- R418: a standby that a killed command has been entering ends its entry. -/
def standbyLeft (s : State) (c : Cmd) : State :=
  match s.standby with
  | some b => if b.ctx = c.ctx ∧ b.idx = c.idx ∧ b.stage = .draining then { s with standby := leaveEntry b } else s
  | none => s

theorem withdraw_leavesStandby (s : State) (c : Cmd) : withdraw s c = standbyLeft (requestsWithdrawn s c) c := rfl

theorem ctxsKept_standbyLeft (s : State) (c : Cmd) : ctxsKept s (standbyLeft s c) := by
  unfold standbyLeft
  split
  next b hbegun =>
    split
    · exact ⟨rfl, rfl, fun hawake => absurd (hbegun.symm.trans hawake) (Option.some_ne_none b)⟩
    · exact .refl s
  next => exact .refl s

theorem ctxsKept_failCmd (s : State) (c : Cmd) (st : Status) (order result : Nat) : ctxsKept s (failCmd s c st order result) := by
  obtain ⟨ks, rs, vs, m, hfail⟩ := failCmd_frame s c st order result
  rw [hfail]
  exact .refl s

theorem ctxsKept_modChan (s : State) (n : Nat) (f : Channel → Channel) : ctxsKept s (modChan s n f) := ⟨rfl, rfl, id⟩

theorem ctxsKept_endColl (s : State) (c : Cmd) (st : Status) : ctxsKept s (endColl s c st) := by
  unfold endColl
  split
  · exact (ctxsKept_modChan s _ _).trans (ctxsKept_failCmd _ c st 0 0)
  · exact ctxsKept_failCmd s c st 0 0

theorem ctxsKept_killWith (s : State) (c : Cmd) (st : Status) : ctxsKept s (killWith s c st) := by
  have hwithdrawn : ctxsKept s (withdraw (noteKill s c) c) := by
    rw [withdraw_leavesStandby]
    exact ((ctxsKept_noteKill s c).trans (ctxsKept_requestsWithdrawn _ c)).trans (ctxsKept_standbyLeft _ c)
  unfold killWith
  split
  · exact hwithdrawn.trans (ctxsKept_endColl _ c st)
  · exact hwithdrawn.trans (ctxsKept_failCmd _ c st 0 0)

theorem mem_killWith {s : State} {c d : Cmd} {st : Status} (h : d ∈ (killWith s c st).cmds) :
    (endedAs st 0 d ∧ d.ctx = c.ctx ∧ d.idx = c.idx) ∨ (d ∈ s.cmds ∧ ¬ (d.ctx = c.ctx ∧ d.idx = c.idx)) := by
  obtain ⟨u, ⟨-, -, -, -, -, hcmds⟩, hfails⟩ := killWith_fails s c st
  rw [hfails] at h
  obtain rfl | hother := mem_failCmd_cmds h
  · exact .inl ⟨⟨rfl, rfl, rfl⟩, rfl, rfl⟩
  · exact .inr (hcmds ▸ hother)

theorem isSome_findCmd_killWith (s : State) (c : Cmd) (st : Status) (n i : Nat) :
    (findCmd (killWith s c st) n i).isSome = (findCmd s n i).isSome := by
  obtain ⟨u, hsame, hfails⟩ := killWith_fails s c st
  obtain ⟨v, hsame', hdecides⟩ := failCmd_leaves u c st 0 0
  rw [hfails, hdecides, isSome_findCmd_setCmd, hsame'.findCmd, hsame.findCmd]

/-! ### Every command of a context killed (R245, R246) -/

/-- R245: the kill of a listed command as the hub holds it then. -/
def killFound (st : Status) (s : State) (c : Cmd) : State :=
  match findCmd s c.ctx c.idx with
  | some k => if killable k && !(sleeping s k) then killWith s k st else s
  | none => s

theorem killAll_visits (s : State) (n : Nat) (st : Status) : killAll s n st = seqAll s ((ctxCmds s n).filter killable) (killFound st) := rfl

theorem killFound_cases (st : Status) (s : State) (c : Cmd) :
    killFound st s c = s ∨ ∃ k, findCmd s c.ctx c.idx = some k ∧ killFound st s c = killWith s k st := by
  unfold killFound
  split
  next k hfind =>
    split
    · exact .inr ⟨k, hfind, rfl⟩
    · exact .inl rfl
  next => exact .inl rfl

theorem killFound_kills {st : Status} {s : State} {c k : Cmd} (hfind : findCmd s c.ctx c.idx = some k) (hkill : killable k = true)
    (hawake : s.standby = none) : killFound st s c = killWith s k st := by
  simp [killFound, hfind, hkill, sleeping_awake hawake]

theorem ctxsKept_killFound (st : Status) (s : State) (c : Cmd) : ctxsKept s (killFound st s c) := by
  obtain hstays | ⟨k, -, hkilled⟩ := killFound_cases st s c
  · rw [hstays]
    exact .refl s
  · rw [hkilled]
    exact ctxsKept_killWith s k st

theorem ctxsKept_killAll (s : State) (n : Nat) (st : Status) : ctxsKept s (killAll s n st) :=
  seqAll_rel ctxsKept.refl ctxsKept.trans (ctxsKept_killFound st) _ s

/-- The hub holds a descriptor of the same contexts and ring indices, and each is as it was or has ended. -/
def keptOrEnded (st : Status) (s t : State) : Prop :=
  (∀ n i, (findCmd t n i).isSome = (findCmd s n i).isSome) ∧ ∀ d ∈ t.cmds, d ∈ s.cmds ∨ endedAs st 0 d

theorem keptOrEnded.refl {st : Status} (s : State) : keptOrEnded st s s := ⟨fun _ _ => rfl, fun _ hd => .inl hd⟩

theorem keptOrEnded.trans {st : Status} {s t u : State} (hst : keptOrEnded st s t) (htu : keptOrEnded st t u) : keptOrEnded st s u :=
  ⟨fun n i => (htu.1 n i).trans (hst.1 n i), fun d hd => (htu.2 d hd).elim (hst.2 d) .inr⟩

theorem keptOrEnded_killFound (st : Status) (s : State) (c : Cmd) : keptOrEnded st s (killFound st s c) := by
  obtain hstays | ⟨k, -, hkilled⟩ := killFound_cases st s c
  · rw [hstays]
    exact .refl s
  · rw [hkilled]
    exact ⟨isSome_findCmd_killWith s k st, fun d hd => (mem_killWith hd).elim (fun h => .inr h.1) (fun h => .inl h.1)⟩

theorem keptOrEnded_killAll (s : State) (n : Nat) (st : Status) : keptOrEnded st s (killAll s n st) :=
  seqAll_rel keptOrEnded.refl keptOrEnded.trans (keptOrEnded_killFound st) _ s

/-- Every command of a context and ring index is one of those that a predicate names. -/
def keyed (P : Cmd → Prop) (n i : Nat) (s : State) : Prop := ∀ d ∈ s.cmds, d.ctx = n → d.idx = i → P d

/-- A kill leaves the commands of a context and ring index, or ends each of them. -/
theorem keyed_killFound {P : Cmd → Prop} {n i : Nat} {s : State} (st : Status) (h : keyed P n i s) (c : Cmd) :
    keyed P n i (killFound st s c) ∨ keyed (endedAs st 0) n i (killFound st s c) := by
  obtain hstays | ⟨k, -, hkilled⟩ := killFound_cases st s c
  · rw [hstays]
    exact .inl h
  · rw [hkilled]
    by_cases hkey : k.ctx = n ∧ k.idx = i
    · obtain ⟨rfl, rfl⟩ := hkey
      refine .inr fun d hd hctx hidx => ?_
      obtain ⟨hended, -⟩ | ⟨-, hother⟩ := mem_killWith hd
      · exact hended
      · exact absurd ⟨hctx, hidx⟩ hother
    · refine .inl fun d hd hctx hidx => ?_
      obtain ⟨-, hctx', hidx'⟩ | ⟨hmem, -⟩ := mem_killWith hd
      · exact absurd ⟨hctx'.symm.trans hctx, hidx'.symm.trans hidx⟩ hkey
      · exact h d hmem hctx hidx

theorem ended_killFound {n i : Nat} {s : State} {st : Status} (h : keyed (endedAs st 0) n i s) (c : Cmd) :
    keyed (endedAs st 0) n i (killFound st s c) := (keyed_killFound st h c).elim id id

/-- The turn of a command that is still the only one of its ring index ends it. -/
theorem killFound_ends {s : State} {c : Cmd} {st : Status} (honly : keyed (· = c) c.ctx c.idx s) (hkill : killable c = true)
    (hawake : s.standby = none) : keyed (endedAs st 0) c.ctx c.idx (killFound st s c) := by
  intro d hd hctx hidx
  cases hfind : findCmd s c.ctx c.idx with
  | none =>
    have hnone : killFound st s c = s := by simp [killFound, hfind]
    rw [hnone] at hd
    have hother : d.ctx = c.ctx → ¬ d.idx = c.idx := by simpa using List.find?_eq_none.mp hfind d hd
    exact absurd hidx (hother hctx)
  | some k =>
    obtain ⟨hctx', hidx'⟩ := findCmd_key hfind
    obtain rfl := honly k (List.mem_of_find?_eq_some hfind) hctx' hidx'
    rw [killFound_kills hfind hkill hawake] at hd
    obtain ⟨hended, -⟩ | ⟨-, hother⟩ := mem_killWith hd
    · exact hended
    · exact absurd ⟨hctx, hidx⟩ hother

theorem ended_seqAll {n i : Nat} {st : Status} (cs : List Cmd) {s : State} (h : keyed (endedAs st 0) n i s) :
    keyed (endedAs st 0) n i (seqAll s cs (killFound st)) :=
  List.foldlRecOn cs (killFound st) h fun _ hs c _ => ended_killFound hs c

theorem seqAll_killFound_ends {st : Status} {c : Cmd} (hkill : killable c = true) (cs : List Cmd) (hmem : c ∈ cs) {s : State}
    (hawake : s.standby = none) (honly : keyed (· = c) c.ctx c.idx s) :
    keyed (endedAs st 0) c.ctx c.idx (seqAll s cs (killFound st)) := by
  induction cs generalizing s with
  | nil => cases hmem
  | cons x xs ih =>
    have hawake' : (killFound st s x).standby = none := (ctxsKept_killFound st s x).2.2 hawake
    obtain rfl | hlater := List.mem_cons.mp hmem
    · exact ended_seqAll xs (killFound_ends honly hkill hawake)
    · obtain hstill | hended := keyed_killFound st honly x
      · exact ih hlater hawake' hstill
      · exact ended_seqAll xs hended

/-- R245: each command of the context that may be killed has ended. -/
theorem killAll_ends {s : State} {n : Nat} {c : Cmd} (st : Status) (hkeys : hubKeys s) (hawake : s.standby = none) (hmem : c ∈ s.cmds)
    (hctx : c.ctx = n) (hkill : killable c = true) : keyed (endedAs st 0) c.ctx c.idx (killAll s n st) := by
  rw [killAll_visits]
  refine seqAll_killFound_ends hkill _ ?_ hawake (hkeys c hmem)
  simp [ctxCmds, hmem, hctx, hkill]

/-! ### Stop (R245) -/

theorem mem_discardUnvalidated (s : State) (n : Nat) (d : Cmd) :
    d ∈ (discardUnvalidated s n).cmds ↔ d ∈ s.cmds ∧ ¬ (d.ctx = n ∧ d.stage = .fetched) := by
  unfold discardUnvalidated
  split
  next hnone =>
    refine ⟨fun hd => ⟨hd, fun hfetched => ?_⟩, And.left⟩
    have hwaits : d ∈ unvalidated s n := by simp [unvalidated, ctxCmds, hd, hfetched]
    rw [hnone] at hwaits
    cases hwaits
  next => exact List.mem_filter.trans (and_congr_right fun _ => by simp [imp_iff_not_or])

theorem stage_of_not_killable {d : Cmd} (hkill : killable d ≠ true) (hvalid : d.stage ≠ .fetched) :
    d.stage = .committed ∨ d.stage = .decided := by
  unfold killable at hkill
  cases hstage : d.stage <;> simp_all

/-- R245: what is left of a context's commands when its kills have taken effect. -/
def stopped (s : State) (n : Nat) : State := discardUnvalidated (killAll s n .killed) n

theorem stage_stopped {s : State} {n : Nat} (hkeys : hubKeys s) (hawake : s.standby = none) {d : Cmd} (hd : d ∈ (stopped s n).cmds)
    (hctx : d.ctx = n) : d.stage = .committed ∨ d.stage = .decided := by
  obtain ⟨hmem, hvalid⟩ := (mem_discardUnvalidated _ _ _).mp hd
  by_cases hended : endedAs .killed 0 d
  · exact .inr hended.1
  · have hold := ((keptOrEnded_killAll s n .killed).2 d hmem).resolve_right hended
    refine stage_of_not_killable (fun hkill => hended ?_) fun hfetched => hvalid ⟨hctx, hfetched⟩
    exact killAll_ends .killed hkeys hawake hold hctx hkill d hmem rfl rfl

theorem stopped_kills {s : State} {n : Nat} (hkeys : hubKeys s) (hawake : s.standby = none) {c : Cmd} (hc : c ∈ s.cmds) (hctx : c.ctx = n)
    (hkill : killable c = true) : decidedAs (stopped s n) n c.idx .killed 0 := by
  have hends := killAll_ends .killed hkeys hawake hc hctx hkill
  subst hctx
  -- the hub still holds a descriptor of that ring index, and it has ended
  have hsome : (findCmd (killAll s c.ctx .killed) c.ctx c.idx).isSome = true := by
    obtain ⟨d, hd⟩ := findCmd_of_mem hc
    rw [(keptOrEnded_killAll s c.ctx .killed).1, hd, Option.isSome_some]
  obtain ⟨k, hk⟩ := Option.isSome_iff_exists.mp hsome
  obtain ⟨hkctx, hkidx⟩ := findCmd_key hk
  have hkmem := List.mem_of_find?_eq_some hk
  have hkended := hends k hkmem hkctx hkidx
  have hkstays : k ∈ (stopped s c.ctx).cmds :=
    (mem_discardUnvalidated _ _ _).mpr ⟨hkmem, fun h => by simpa [hkended.1] using h.2⟩
  obtain ⟨e, he⟩ := findCmd_of_mem hkstays
  rw [hkctx, hkidx] at he
  exact decidedAs_of_ended he fun d hd => hends d ((mem_discardUnvalidated _ _ _).mp hd).1

theorem contextStopDone_halts (s : State) (n : Nat) (hkeys : hubKeys s) (hawake : s.standby = none) (hactive : (ctxOf s n).state = .active)
    (hstopping : (ctxOf s n).stopping = true) :
    ∃ t, exec (.contextStopDone n) s = .next t ∧ (ctxOf t n).state = .halted ∧ (ctxOf t n).haltReason = .stop ∧ (ctxOf t n).stopping = false
      ∧ (ctxOf t n).haltIdx = (ctxOf t n).sqHead
      ∧ (∀ d ∈ t.cmds, d.ctx = n → d.stage = .committed ∨ d.stage = .decided)
      ∧ (∀ c ∈ s.cmds, c.ctx = n → killable c = true → decidedAs t n c.idx .killed 0) := by
  have hrow : contextStopDone n s = haltCtx (stopped s n) n .stop (ctxOf (stopped s n) n).sqHead 1 := by
    simp only [contextStopDone, hactive, hstopping]
    rfl
  obtain ⟨⟨hself, -⟩, cs, m, p, o, h, hframe⟩ := haltCtx_leaves (stopped s n) n .stop (ctxOf (stopped s n) n).sqHead 1
  refine ⟨_, congrArg Host.Outcome.next hrow, ?_⟩
  rw [hself]
  refine ⟨rfl, rfl, rfl, rfl, ?_, ?_⟩
  · rw [hframe]
    exact fun d hd hctx => stage_stopped hkeys hawake hd hctx
  · rw [hframe]
    exact fun c hc hctx hkill => stopped_kills hkeys hawake hc hctx hkill

/-! ### Reset (R125, R246) -/

theorem foldl_free_branches {bs : List Nat} {s : State} {e : Nat × Branch} (h : e ∈ ((bs.map BrOp.free).foldl applyBr s).branches) :
    e ∈ s.branches ∧ e.1 ∉ bs := by
  induction bs generalizing s with
  | nil => exact ⟨h, List.not_mem_nil⟩
  | cons b bs ih =>
    obtain ⟨hmem, hother⟩ := ih h
    obtain ⟨hold, hne⟩ := List.mem_filter.mp (show e ∈ adel s.branches b from hmem)
    exact ⟨hold, fun hin => (List.mem_cons.mp hin).elim (by simpa using hne) hother⟩

/-- R125: no branch of the context is left. -/
theorem freeBranches_ctx {s : State} {n : Nat} {e : Nat × Branch} (h : e ∈ (freeBranches s n).branches) : e.2.ctx ≠ n := by
  obtain ⟨m, p, hmirror⟩ := mirror_frame (((ctxBranches s n).map (fun b => BrOp.free b.1)).foldl applyBr s)
    (((ctxBranches s n).map (fun b => BrOp.free b.1)).filterMap brOpNumber)
  rw [freeBranches, applyBrs, hmirror] at h
  have hnumbers : (ctxBranches s n).map (fun b => BrOp.free b.1) = ((ctxBranches s n).map Prod.fst).map BrOp.free := by
    rw [List.map_map]
    rfl
  rw [hnumbers] at h
  obtain ⟨hmem, hnumber⟩ := foldl_free_branches h
  intro hctx
  exact hnumber (List.mem_map_of_mem (List.mem_filter.mpr ⟨hmem, by simpa using hctx⟩))

theorem freeBranches_frame (s : State) (n : Nat) :
    ∃ bs m p bm bp, freeBranches s n = { s with branches := bs, mem := m, poison := p, brMem := bm, brPoison := bp } := by
  obtain ⟨m, p, hmirror⟩ := mirror_frame (((ctxBranches s n).map (fun b => BrOp.free b.1)).foldl applyBr s)
    (((ctxBranches s n).map (fun b => BrOp.free b.1)).filterMap brOpNumber)
  obtain ⟨bs, bm, bp, hfree⟩ := foldl_applyBr_frame s ((ctxBranches s n).map (fun b => BrOp.free b.1))
  rw [freeBranches, applyBrs, hmirror, hfree]
  exact ⟨bs, m, p, bm, bp, rfl⟩

/-- R246: a context as its reset leaves it. -/
def cleared (k : Ctx) : Ctx :=
  { k with state := .disabled, haltReason := .none, stopping := false, heldRecords := [], streamKey := 0, streamCtr := 0,
           res := .resident, marked := false, saveEmpty := true, savedRanges := none, markWait := false, markIndex := none,
           irqPending := false, snapInt := 0, snapDue := false, snapCost := 0, snapMtbf := 0,
           takeCost := none, takeAt := none, takeCounts := false, restoreAt := none, lastDesc := none, lastEnd := none }

/-- R271: the scratch of a context that is there is cleared. -/
def scratchCleared (s : State) (n : Nat) : State :=
  if (ctxOf s n).res = .resident then { s with mem := (scratchRanges s n).foldl (fun m r => mclear m r.1 r.2) s.mem } else s

theorem scratchCleared_frame (s : State) (n : Nat) : ∃ m, scratchCleared s n = { s with mem := m } := by
  unfold scratchCleared
  split
  · exact ⟨_, rfl⟩
  · exact ⟨_, rfl⟩

theorem clearCtx_leaves (s : State) (n : Nat) :
    ctxBecomes s (clearCtx s n) n (cleared (ctxOf s n)) ∧ (clearCtx s n).cmds = s.cmds ∧ ∀ e ∈ (clearCtx s n).branches, e.2.ctx ≠ n := by
  have hclear : clearCtx s n = modCtx (freeBranches (scratchCleared s n) n) n cleared := rfl
  obtain ⟨m, hscratch⟩ := scratchCleared_frame s n
  obtain ⟨bs, m', p, bm, bp, hfree⟩ := freeBranches_frame (scratchCleared s n) n
  have hgone : ∀ e ∈ bs, e.2.ctx ≠ n := fun e he => freeBranches_ctx (s := scratchCleared s n) (by rw [hfree]; exact he)
  rw [hclear, hfree, hscratch]
  have hcleared := ctxBecomes_modCtx { s with branches := bs, mem := m', poison := p, brMem := bm, brPoison := bp } n cleared
  exact ⟨hcleared, rfl, hgone⟩

/-- R246: the killed context, its unvalidated descriptors gone. -/
def resetKilled (s : State) (n : Nat) : State :=
  { killAll s n .killed with cmds := (killAll s n .killed).cmds.filter (fun x => !(x.ctx == n && x.stage == .fetched)) }

/-- R246: the records of the killed commands written, where the host can be reached. -/
def resetRecords (s : State) (n : Nat) : State :=
  seqAll (resetKilled s n) (ctxCmds (resetKilled s n) n) (fun s c => if hostUp s then putRecord s n (recordOf c) else s)

/-- R246: the context's commands gone from the hub. -/
def resetEmptied (s : State) (n : Nat) : State :=
  writeDoorbell { resetRecords s n with cmds := (resetRecords s n).cmds.filter (fun c => c.ctx != n) } n

/-- A context has advanced its cq_tail alone. -/
def tailMoved (n : Nat) (s t : State) : Prop := ∃ q, ctxOf t n = atTail q (ctxOf s n)

theorem resetRecords_tail (s : State) (n : Nat) : tailMoved n (resetKilled s n) (resetRecords s n) := by
  refine seqAll_rel (R := tailMoved n) (fun s => ⟨(ctxOf s n).cqTail, rfl⟩) ?_ (fun s c => ?_) _ _
  · rintro s t u ⟨q, hst⟩ ⟨r, htu⟩
    exact ⟨r, by rw [htu, hst]; rfl⟩
  · split
    · exact ⟨_, (putRecord_tail s n (recordOf c)).1⟩
    · exact ⟨(ctxOf s n).cqTail, rfl⟩

theorem resetEmptied_leaves (s : State) (n : Nat) :
    (∃ q, ctxOf (resetEmptied s n) n = atTail q (ctxOf s n)) ∧ ∀ c ∈ (resetEmptied s n).cmds, c.ctx ≠ n := by
  obtain ⟨q, htail⟩ := resetRecords_tail s n
  obtain ⟨hctxs, -, -⟩ := ctxsKept_killAll s n .killed
  obtain ⟨m, p, hdoorbell⟩ :=
    writeDoorbell_frame { resetRecords s n with cmds := (resetRecords s n).cmds.filter (fun c => c.ctx != n) } n
  have hkilled : ctxOf (resetKilled s n) n = ctxOf s n := congrArg (fun cs : AMap Ctx => aget cs n {}) hctxs
  rw [hkilled] at htail
  rw [resetEmptied, hdoorbell]
  exact ⟨⟨q, htail⟩, fun c hc => by simpa using (List.mem_filter.mp hc).2⟩

theorem contextResetDone_disables (s : State) (n : Nat) (k : Ctx) (hk : k = ctxOf s n) (hresets : k.state = .resetting)
    (hnone : ∀ c ∈ s.cmds, c.ctx = n → c.stage ≠ .committed) :
    ∃ t, exec (.contextResetDone n) s = .next t ∧ (ctxOf t n).state = .disabled ∧ (∀ c ∈ t.cmds, c.ctx ≠ n)
      ∧ (ctxOf t n).acl = k.acl ∧ (ctxOf t n).sqAddr = k.sqAddr ∧ (ctxOf t n).cqAddr = k.cqAddr ∧ (ctxOf t n).evtCnt = k.evtCnt
      ∧ (ctxOf t n).streamKey = 0 ∧ (ctxOf t n).heldRecords = [] ∧ (∀ e ∈ t.branches, e.2.ctx ≠ n) := by
  subst hk
  have hrow : contextResetDone n s = writeDoorbell (clearCtx (resetEmptied s n) n) n := by
    have hcommits : (ctxCmds s n).any (fun c => c.stage == .committed) = false := by
      simpa [ctxCmds] using hnone
    exact if_neg (by simp [hresets, hcommits])
  obtain ⟨⟨q, htail⟩, hgone⟩ := resetEmptied_leaves s n
  obtain ⟨hcleared, hcmds, hbranches⟩ := clearCtx_leaves (resetEmptied s n) n
  obtain ⟨hself, -⟩ := hcleared.keep (writeDoorbell_ctxs _ n)
  rw [htail] at hself
  rw [← hcmds] at hgone
  generalize clearCtx (resetEmptied s n) n = u at hrow hself hgone hbranches
  obtain ⟨m, p, hdoorbell⟩ := writeDoorbell_frame u n
  refine ⟨_, congrArg Host.Outcome.next hrow, ?_⟩
  rw [hself, hdoorbell]
  exact ⟨rfl, hgone, rfl, rfl, rfl, rfl, rfl, rfl, hbranches⟩

/-- Settles O27: each write of CTX_CTL_n changes its context alone; a kill of all a context's commands ends each that may be killed, and a
reset clears what is left. -/
theorem contextControl : Obligations.ContextControl :=
  ⟨contextEnable_starts, contextEnable_refuses, contextStop_holds, contextStopDone_halts, contextResume_goesOn, contextReset_begins,
    contextResetDone_disables⟩

end Sys2Proof.Machine
end

section
/-! PROOFS. Contexts that come and go (O30): a copy of lines reads as its sources where no two of its places share a line; the footprint's lines
rise, so that both the save area and the scratchpad are such places; what the kills of an eviction leave; then each clause of the obligation from
these. -/

namespace Sys2Proof.Machine

/-! ### A byte of memory with addresses left out -/

theorem mget_filter (m : Memory) (q : Nat → Bool) (a : Nat) :
    mget (m.filter fun c => q c.1) a = if q a then mget m a else 0 := by
  induction m with
  | nil => simp [mget]
  | cons c m ih =>
    obtain ⟨x, b⟩ := c
    by_cases hx : x = a
    · subst hx
      by_cases hq : q x = true <;> simp [mget, hq, ih]
    · by_cases hq : q x = true <;> simp [mget, hq, hx, ih]

theorem mget_mclear (m : Memory) (a n x : Nat) : mget (mclear m a n) x = if a ≤ x ∧ x < a + n then 0 else mget m x := by
  refine (mget_filter m (fun y => !decide (a ≤ y ∧ y < a + n)) x).trans ?_
  by_cases hin : a ≤ x ∧ x < a + n <;> simp [hin]

/-- What canonical memory lists: each byte that does not read 0. -/
theorem mem_iff_mget {m : Memory} (hwf : m.wf = true) (c : Host.Cell) : c ∈ m ↔ mget m c.1 = c.2 ∧ c.2 ≠ 0 := by
  induction m with
  | nil => simpa [mget] using fun h : 0 = c.2 => h.symm
  | cons d m ih =>
    obtain ⟨x, b⟩ := d
    have hb : b ≠ 0 := ((wf_iff _).mp hwf).2 (x, b) List.mem_cons_self
    rw [List.mem_cons, ih (wf_tail hwf)]
    by_cases hx : x = c.1
    · have hnone : mget m c.1 = 0 := mget_above (hx ▸ wf_above hwf)
      rw [mget, if_pos hx, hnone]
      constructor
      · rintro (rfl | ⟨hzero, hne⟩)
        · exact ⟨rfl, hb⟩
        · exact absurd hzero.symm hne
      · rintro ⟨hval, -⟩
        exact .inl (Prod.ext hx.symm hval.symm)
    · rw [mget, if_neg hx]
      exact or_iff_right fun h => hx (congrArg Prod.fst h).symm

theorem mem_movedCells {m : Memory} (hwf : m.wf = true) {src dst n : Nat} {x : Host.Cell} :
    x ∈ movedCells m src dst n ↔ ∃ k, k < n ∧ x = (dst + k, mget m (src + k)) ∧ mget m (src + k) ≠ 0 := by
  simp only [movedCells, List.mem_map, List.mem_filter, mem_iff_mget hwf, decide_eq_true_eq]
  constructor
  · rintro ⟨c, ⟨⟨hval, hne⟩, hlo, hhi⟩, rfl⟩
    have hsrc : src + (c.1 - src) = c.1 := by omega
    refine ⟨c.1 - src, by omega, ?_, ?_⟩
    · rw [hsrc, hval, Nat.add_comm]
    · rwa [hsrc, hval]
  · rintro ⟨k, hk, rfl, hne⟩
    refine ⟨(src + k, mget m (src + k)), ⟨⟨rfl, hne⟩, by omega, by omega⟩, ?_⟩
    rw [Nat.add_sub_cancel_left, Nat.add_comm]

/-! ### Lines copied (R211, R275) -/

theorem mget_foldl_mclear {ps : List (Nat × Nat)} {p : Nat × Nat} (hp : p ∈ ps) {j : Nat} (hj : j < 64) (m : Memory) :
    mget (ps.foldl (fun m p => mclear m (64 * p.2) 64) m) (64 * p.2 + j) = 0 := by
  have hclears : ∀ m q, mget m (64 * p.2 + j) = 0 → mget (mclear m (64 * q) 64) (64 * p.2 + j) = 0 := fun m q h => by
    rw [mget_mclear, h, ite_self]
  obtain ⟨before, after, rfl⟩ := List.append_of_mem hp
  rw [List.foldl_append, List.foldl_cons]
  refine List.foldlRecOn (motive := fun m => mget m (64 * p.2 + j) = 0) after _ ?_ fun m h q _ => hclears m q.2 h
  rw [mget_mclear, if_pos (by omega)]

/-- The cells that a copy of lines writes. -/
def copiedCells (m : Memory) (ps : List (Nat × Nat)) : List Host.Cell := ps.flatMap fun p => movedCells m (64 * p.1) (64 * p.2) 64

theorem mem_copiedCells {m : Memory} (hwf : m.wf = true) {ps : List (Nat × Nat)} {x : Host.Cell} :
    x ∈ copiedCells m ps
      ↔ ∃ p ∈ ps, ∃ k, k < 64 ∧ x = (64 * p.2 + k, mget m (64 * p.1 + k)) ∧ mget m (64 * p.1 + k) ≠ 0 := by
  simp only [copiedCells, List.mem_flatMap, mem_movedCells hwf]

theorem copyLines_mem (s : State) (ps : List (Nat × Nat)) :
    (copyLines s ps).mem = mapply (ps.foldl (fun m p => mclear m (64 * p.2) 64) s.mem) (copiedCells s.mem ps) := rfl

/-- A copy reads as its source at a place that no other line is copied to. -/
theorem mget_copyLines {s : State} (hwf : s.mem.wf = true) {ps : List (Nat × Nat)} {p : Nat × Nat} (hp : p ∈ ps)
    (honly : ∀ q ∈ ps, q.2 = p.2 → q = p) {j : Nat} (hj : j < 64) :
    mget (copyLines s ps).mem (64 * p.2 + j) = mget s.mem (64 * p.1 + j) := by
  have hcleared : Memory.wf (ps.foldl (fun m p => mclear m (64 * p.2) 64) s.mem) = true := foldl_place_wf ps s.mem hwf
  have hcells : ∀ x ∈ copiedCells s.mem ps, x.1 = 64 * p.2 + j → x.2 = mget s.mem (64 * p.1 + j) ∧ mget s.mem (64 * p.1 + j) ≠ 0 := by
    intro x hx ha
    obtain ⟨q, hq, k, hk, rfl, hne⟩ := (mem_copiedCells hwf).mp hx
    dsimp only at ha
    obtain rfl := honly q hq (by omega)
    obtain rfl : k = j := by omega
    exact ⟨rfl, hne⟩
  rw [copyLines_mem]
  by_cases hzero : mget s.mem (64 * p.1 + j) = 0
  · rw [mget_mapply_of_not_mem _ _ _ hcleared fun x hx ha => (hcells x hx ha).2 hzero, mget_foldl_mclear hp hj, hzero]
  · exact mget_mapply_of_mem hcleared ((mem_copiedCells hwf).mpr ⟨p, hp, j, hj, rfl, hzero⟩) fun x hx ha => (hcells x hx ha).1

/-! ### The lines of a footprint and their places (R271, R284) -/

theorem sins_sorted {l : List Nat} (h : l.Pairwise (· < ·)) (k : Nat) : (sins l k).Pairwise (· < ·) := by
  induction l with
  | nil => exact List.pairwise_singleton _ _
  | cons a l ih =>
    obtain ⟨habove, htail⟩ := List.pairwise_cons.mp h
    unfold sins
    split
    next hk =>
      refine List.pairwise_cons.mpr ⟨fun x hx => ?_, h⟩
      obtain rfl | hx := List.mem_cons.mp hx
      · exact hk
      · exact hk.trans (habove x hx)
    next hk =>
      split
      · exact h
      next hne =>
        refine List.pairwise_cons.mpr ⟨fun x hx => ?_, ih htail⟩
        obtain rfl | hx := (mem_sins l k x).mp hx
        · omega
        · exact habove x hx

theorem linesOfAll_sorted (rs : List (Nat × Nat)) : (linesOfAll rs).Pairwise (· < ·) :=
  List.foldlRecOn rs _ List.Pairwise.nil fun _ hls r _ => List.foldlRecOn (linesOf r.1 r.2) sins hls fun _ h k _ => sins_sorted h k

theorem footLines_nodup (s : State) (n : Nat) : (footLines s n).Nodup :=
  (linesOfAll_sorted (scratchRanges s n)).imp Nat.ne_of_lt

theorem footLines_inj {s : State} {n i j : Nat} (hi : i < (footLines s n).length) (hj : j < (footLines s n).length)
    (h : (footLines s n).getD i 0 = (footLines s n).getD j 0) : i = j := by
  rw [List.getD_eq_getElem _ _ hi, List.getD_eq_getElem _ _ hj] at h
  exact (footLines_nodup s n).getElem_inj_iff.mp h

/-- The place of a line of the whole footprint in the save area. -/
def savePlace (s : State) (n i : Nat) : Nat × Nat := ((footLines s n).getD i 0, saveBase (ctxOf s n) / 64 + i)

theorem mem_savePlaces {s : State} {n : Nat} {p : Nat × Nat} :
    p ∈ savePlaces s n none ↔ ∃ i, i < (footLines s n).length ∧ savePlace s n i = p := by
  simp only [savePlaces, saveLines, savePlace, List.mem_map, List.mem_range]

/-- R284: a save area begins at a multiple of 64 KiB, and so at a line. -/
theorem saveBase_line (k : Ctx) (i : Nat) : 64 * (saveBase k / 64 + i) = saveBase k + 64 * i := by
  unfold saveBase
  omega

theorem savePlace_only {s : State} {n i : Nat} : ∀ q ∈ savePlaces s n none, q.2 = (savePlace s n i).2 → q = savePlace s n i := by
  intro q hq h
  obtain ⟨j, -, rfl⟩ := mem_savePlaces.mp hq
  obtain rfl : j = i := Nat.add_left_cancel h
  rfl

theorem restorePlace_only {s : State} {n i : Nat} (hi : i < (footLines s n).length) :
    ∀ q ∈ (savePlaces s n none).map Prod.swap, q.2 = (savePlace s n i).swap.2 → q = (savePlace s n i).swap := by
  intro q hq h
  obtain ⟨p, hp, rfl⟩ := List.mem_map.mp hq
  obtain ⟨j, hj, rfl⟩ := mem_savePlaces.mp hp
  obtain rfl := footLines_inj hj hi h
  rfl

/-! ### Save and restore (R275) -/

/-- Nothing differs but memory with its poison, and the state of branches. -/
def bytesMove (s t : State) : Prop := ∃ m p b, t = { s with mem := m, poison := p, brMem := b }

theorem bytesMove.refl (s : State) : bytesMove s s := ⟨_, _, _, rfl⟩

theorem bytesMove.trans {s t u : State} : bytesMove s t → bytesMove t u → bytesMove s u := by
  rintro ⟨_, _, _, rfl⟩ ⟨m, p, b, rfl⟩
  exact ⟨m, p, b, rfl⟩

/-- A context changed after bytes have moved. -/
theorem bytesMove.modCtx_leaves {s t : State} (h : bytesMove s t) (n : Nat) (f : Ctx → Ctx) :
    ctxBecomes s (modCtx t n f) n (f (ctxOf s n)) ∧ (modCtx t n f).cmds = s.cmds ∧ (modCtx t n f).standby = s.standby := by
  obtain ⟨m, p, b, rfl⟩ := h
  exact ⟨ctxBecomes_modCtx { s with mem := m, poison := p, brMem := b } n f, rfl, rfl⟩

theorem standbySave_awake {s : State} (h : s.standby = none) : standbySave s = s := by
  rw [standbySave, h]

theorem copyLines_bytesMove (s : State) (ps : List (Nat × Nat)) : bytesMove s (copyLines s ps) := ⟨_, _, _, rfl⟩

theorem saveCopy_bytesMove (s : State) (n : Nat) (ranges : Option (List (Nat × Nat))) : bytesMove s (saveCopy s n ranges) :=
  (copyLines_bytesMove s _).trans (seqAll_rel bytesMove.refl bytesMove.trans (fun _ _ => ⟨_, _, _, rfl⟩) _ _)

theorem branchPlaces_after {o : Nat} {bs : List (Nat × Branch)} {p : Nat × Nat × Nat} (h : p ∈ branchPlaces o bs) : o ≤ p.1 := by
  induction bs generalizing o with
  | nil => cases h
  | cons b bs ih =>
    obtain rfl | hrest := List.mem_cons.mp h
    · exact Nat.le_refl o
    · exact (Nat.le_add_right _ _).trans (ih hrest)

/-- Memory keeps its form, and each byte below an address. -/
def keptBelow (o : Nat) (m m' : Memory) : Prop := m'.wf = true ∧ ∀ x, x < o → mget m' x = mget m x

/-- A branch's state written from an address onward keeps what stands below it. -/
theorem keptBelow_branch {o a n : Nat} {m m' : Memory} (h : keptBelow o m m') (ha : o ≤ a) (cs : List Host.Cell) :
    keptBelow o m (mapply (mclear m' a n) (cs.map fun c => (a + c.1, c.2))) := by
  obtain ⟨hwf, hkept⟩ := h
  have hcleared := mclear_wf m' a n hwf
  refine ⟨mapply_wf _ _ hcleared, fun x hx => ?_⟩
  rw [mget_mapply_of_not_mem _ _ x hcleared, mget_mclear, if_neg (by omega), hkept x hx]
  intro c hc
  obtain ⟨d, -, rfl⟩ := List.mem_map.mp hc
  dsimp only
  omega

/-- R275: a save leaves the lines in the save area; the branches' state stands after them. -/
theorem mget_saveCopy_below {s : State} (hwf : s.mem.wf = true) {n x : Nat}
    (hx : x < saveBase (ctxOf s n) + 64 * (footLines s n).length) :
    mget (saveCopy s n none).mem x = mget (copyLines s (savePlaces s n none)).mem x := by
  have hcopied : (copyLines s (savePlaces s n none)).mem.wf = true := mapply_wf _ _ (foldl_place_wf _ _ hwf)
  have hkept : keptBelow (saveBase (ctxOf s n) + 64 * (footLines s n).length) (copyLines s (savePlaces s n none)).mem
      (saveCopy s n none).mem :=
    List.foldlRecOn (motive := fun t => keptBelow _ _ (State.mem t)) _ _ ⟨hcopied, fun _ _ => rfl⟩
      fun t ht p hp => keptBelow_branch ht (branchPlaces_after hp) (brState t.brMem p.2.1)
  exact hkept.2 x hx

theorem mget_saveCopy {s : State} (hwf : s.mem.wf = true) {n i j : Nat} (hi : i < (footLines s n).length) (hj : j < 64) :
    mget (saveCopy s n none).mem (saveBase (ctxOf s n) + 64 * i + j) = mget s.mem (64 * (footLines s n).getD i 0 + j) := by
  rw [mget_saveCopy_below hwf (by omega), ← saveBase_line]
  exact mget_copyLines hwf (mem_savePlaces.mpr ⟨i, hi, rfl⟩) savePlace_only hj

/-- R275: the whole footprint comes back in one copy; beside it the branches' state alone is touched. -/
theorem restoreCopy_whole {s : State} {n : Nat} (h : (ctxOf s n).savedRanges = none) :
    ∃ b, restoreCopy s n = { copyLines s ((savePlaces s n none).map Prod.swap) with brMem := b } := by
  unfold restoreCopy
  dsimp only
  rw [h]
  exact seqAll_rel (R := fun s t => ∃ b, t = { s with brMem := b }) (fun s => ⟨s.brMem, rfl⟩)
    (by rintro s t u ⟨_, rfl⟩ ⟨b, rfl⟩; exact ⟨b, rfl⟩) (fun _ _ => ⟨_, rfl⟩) _ _

theorem mget_restoreLines {s : State} (hwf : s.mem.wf = true) {n i j : Nat} (hi : i < (footLines s n).length) (hj : j < 64) :
    mget (copyLines s ((savePlaces s n none).map Prod.swap)).mem (64 * (footLines s n).getD i 0 + j)
      = mget s.mem (saveBase (ctxOf s n) + 64 * i + j) := by
  rw [← saveBase_line]
  exact mget_copyLines hwf (List.mem_map_of_mem (mem_savePlaces.mpr ⟨i, hi, rfl⟩)) (restorePlace_only hi) hj

/-! ### What the kills of an eviction leave (R267, R274) -/

theorem killAgain_ctxs (s : State) (c : Cmd) : (killAgain s c).ctxs = s.ctxs := by
  have hwithdrawn : ctxsKept s (withdraw (noteKill s c) c) := by
    rw [withdraw_leavesStandby]
    exact ((ctxsKept_noteKill s c).trans (ctxsKept_requestsWithdrawn _ c)).trans (ctxsKept_standbyLeft _ c)
  obtain ⟨k, r, hrelease⟩ := release_frame (withdraw (noteKill s c) c) c
  rw [killAgain, hrelease]
  exact hwithdrawn.1

theorem killAgain_mem (s : State) (c : Cmd) : (killAgain s c).mem = s.mem := by
  obtain ⟨u, ⟨hmem, -⟩, hkilled⟩ := killAgain_requeues s c
  rw [hkilled]
  exact hmem

theorem evictKills_ctxs (s : State) (n : Nat) : (evictKills s n).ctxs = s.ctxs :=
  seqAll_rel (R := fun s t => t.ctxs = s.ctxs) (fun _ => rfl) (fun hst htu => htu.trans hst) killAgain_ctxs _ s

theorem evictKills_mem (s : State) (n : Nat) : (evictKills s n).mem = s.mem :=
  seqAll_rel (R := fun s t => t.mem = s.mem) (fun _ => rfl) (fun hst htu => htu.trans hst) killAgain_mem _ s

theorem mem_killAgain {s : State} {c d : Cmd} (h : d ∈ (killAgain s c).cmds) :
    d = requeued c ∨ (d ∈ s.cmds ∧ ¬ (d.ctx = c.ctx ∧ d.idx = c.idx)) := by
  obtain ⟨u, ⟨-, -, -, -, -, hcmds⟩, hkilled⟩ := killAgain_requeues s c
  rw [hkilled] at h
  exact hcmds ▸ mem_putCmd h

/-- After kills of several commands, each command is one of them queued again, or as it was and none of them. -/
theorem mem_seqAll_killAgain {cs : List Cmd} {s : State} {d : Cmd} (h : d ∈ (seqAll s cs killAgain).cmds) :
    (∃ c, d = requeued c) ∨ (d ∈ s.cmds ∧ d ∉ cs) := by
  induction cs generalizing s with
  | nil => exact .inr ⟨h, List.not_mem_nil⟩
  | cons c cs ih =>
    obtain hqueued | ⟨hmem, hnot⟩ := ih (s := killAgain s c) h
    · exact .inl hqueued
    · obtain hqueued | ⟨hold, hother⟩ := mem_killAgain hmem
      · exact .inl ⟨c, hqueued⟩
      · refine .inr ⟨hold, fun hin => (List.mem_cons.mp hin).elim (fun hc => hother ?_) hnot⟩
        rw [hc]
        exact ⟨rfl, rfl⟩

theorem evictKills_stage {s : State} {n : Nat} {d : Cmd} (hd : d ∈ (evictKills s n).cmds) (hctx : d.ctx = n) :
    d.stage ≠ .placed ∧ d.stage ≠ .issued := by
  obtain ⟨c, rfl⟩ | ⟨hmem, hnot⟩ := mem_seqAll_killAgain hd
  · exact ⟨nofun, nofun⟩
  · have hflight : ¬ (d.stage = .placed ∨ d.stage = .issued) := fun h => hnot (by simp [ctxCmds, hmem, hctx, h])
    exact not_or.mp hflight

/-- R272: a context whose save begins. -/
def saveBegun (ranges : Option (List (Nat × Nat))) (k : Ctx) : Ctx :=
  { k with res := .saving, marked := ranges.isSome, evictions := k.evictions + 1, saveEmpty := false, savedRanges := ranges,
           markWait := false, markIndex := none }

theorem beginSave_leaves (s : State) (n : Nat) (ranges : Option (List (Nat × Nat))) :
    ctxOf (beginSave s n ranges) n = saveBegun ranges (ctxOf s n) ∧ (beginSave s n ranges).mem = s.mem
      ∧ ∀ d ∈ (beginSave s n ranges).cmds, d.ctx = n → d.stage ≠ .placed ∧ d.stage ≠ .issued := by
  have hctx : ctxOf (evictKills s n) n = ctxOf s n := by rw [ctxOf, evictKills_ctxs, ← ctxOf]
  have hself := (ctxBecomes_modCtx (evictKills s n) n (saveBegun ranges)).1
  rw [hctx] at hself
  exact ⟨hself, evictKills_mem s n, fun d hd => evictKills_stage hd⟩

/-! ### The clauses -/

theorem contextEvict_begins (s : State) (n r : Nat) (k : Ctx) (hk : k = ctxOf s n) (_ : hubKeys s) (hres : k.res = .resident)
    (hon : k.state ≠ .disabled) (hmark : k.markWait = false) (hrun : runnable s r = true) (hmay : n ∈ evictable s r)
    (hlong : waitedLongest s r = true) (hleast : leastRun s n r = true)
    (hothers : ∀ m ∈ conflicting s r, (ctxOf s m).res ≠ .saving ∧ (ctxOf s m).markWait = false) (hnone : marks s n = none) :
    ∃ t, exec (.contextEvict n r) s = .next t ∧ (ctxOf t n).res = .saving ∧ (ctxOf t n).evictions = k.evictions + 1
      ∧ (ctxOf t n).marked = false ∧ (∀ d ∈ t.cmds, d.ctx = n → d.stage ≠ .placed ∧ d.stage ≠ .issued) ∧ t.mem = s.mem := by
  subst hk
  have hfree : (conflicting s r).all (fun m => (ctxOf s m).res != .saving && !((ctxOf s m).markWait)) = true := by simpa using hothers
  have hrow : contextEvict n r s = beginSave s n none := by
    simp [contextEvict, hres, hon, hmark, hrun, hmay, hlong, hleast, hfree, hnone]
  obtain ⟨hself, hmem, hstages⟩ := beginSave_leaves s n none
  refine ⟨_, congrArg Host.Outcome.next hrow, ?_⟩
  rw [hself]
  exact ⟨rfl, rfl, rfl, hstages, hmem⟩

theorem markWaitTimeout_begins (s : State) (n : Nat) (k : Ctx) (hk : k = ctxOf s n) (hmark : k.markWait = true) (hres : k.res = .resident)
    (hlate : us 100 ≤ since s k.markSince) :
    ∃ t, exec (.markWaitTimeout n) s = .next t ∧ (ctxOf t n).res = .saving ∧ (ctxOf t n).evictions = k.evictions + 1
      ∧ (ctxOf t n).marked = false ∧ (ctxOf t n).markWait = false ∧ t.mem = s.mem := by
  subst hk
  have hrow : markWaitTimeout n s = beginSave s n none := by simp [markWaitTimeout, hmark, hres, hlate]
  obtain ⟨hself, hmem, -⟩ := beginSave_leaves s n none
  refine ⟨_, congrArg Host.Outcome.next hrow, ?_⟩
  rw [hself]
  exact ⟨rfl, rfl, rfl, rfl, hmem⟩

theorem contextSaveDone_saves (s : State) (n : Nat) (k : Ctx) (hwf : s.mem.wf = true) (hawake : s.standby = none) (hk : k = ctxOf s n)
    (hres : k.res = .saving) (hwhole : k.savedRanges = none) :
    ∃ t, exec (.contextSaveDone n) s = .next t ∧ (ctxOf t n).res = .swapped ∧ otherCtxs s t n ∧ t.cmds = s.cmds
      ∧ (∀ i j, i < (footLines s n).length → j < 64 →
          mget t.mem (saveBase k + 64 * i + j) = mget s.mem (64 * (footLines s n).getD i 0 + j)) := by
  subst hk
  obtain ⟨⟨hself, hothers⟩, hcmds, hstandby⟩ := (saveCopy_bytesMove s n none).modCtx_leaves n (fun k => { k with res := .swapped })
  have hrow : contextSaveDone n s = modCtx (saveCopy s n none) n (fun k => { k with res := .swapped }) := by
    simp only [contextSaveDone, hres, hwhole, if_true]
    exact standbySave_awake (hstandby.trans hawake)
  exact ⟨_, congrArg Host.Outcome.next hrow, congrArg Ctx.res hself, hothers, hcmds, fun i j hi hj => mget_saveCopy hwf hi hj⟩

theorem contextRestore_begins (s : State) (n : Nat) (hplacing : placing s = true) (hrun : runnable s n = true)
    (hlong : waitedLongest s n = true) (hback : granulesBack s n = true) (hfree : ∀ m ∈ conflicting s n, (ctxOf s m).res = .swapped) :
    ∃ t, exec (.contextRestore n) s = .next t ∧ ctxOf t n = { ctxOf s n with res := .restoring } ∧ otherCtxs s t n
      ∧ t = { s with ctxs := t.ctxs } := by
  have hrow : contextRestore n s = modCtx s n (fun k => { k with res := .restoring }) := by
    refine if_pos ?_
    simpa [hplacing, hrun, hlong, hback] using hfree
  obtain ⟨hself, hothers⟩ := ctxBecomes_modCtx s n (fun k => { k with res := .restoring })
  exact ⟨_, congrArg Host.Outcome.next hrow, hself, hothers, rfl⟩

theorem contextRestoreDone_restores (s : State) (n : Nat) (k : Ctx) (hwf : s.mem.wf = true) (hawake : s.standby = none) (hk : k = ctxOf s n)
    (hres : k.res = .restoring) (hwhole : k.savedRanges = none) (hsaved : k.saveEmpty = false) :
    ∃ t, exec (.contextRestoreDone n) s = .next t ∧ ctxOf t n = { k with res := .resident, residentAt := s.localTime } ∧ otherCtxs s t n
      ∧ t.cmds = s.cmds
      ∧ (∀ i j, i < (footLines s n).length → j < 64 →
          mget t.mem (64 * (footLines s n).getD i 0 + j) = mget s.mem (saveBase k + 64 * i + j)) := by
  subst hk
  obtain ⟨b, hcopied⟩ := restoreCopy_whole hwhole
  have hmoves : bytesMove s (restoreCopy s n) := hcopied ▸ ⟨_, _, _, rfl⟩
  obtain ⟨⟨hself, hothers⟩, hcmds, hstandby⟩ :=
    hmoves.modCtx_leaves n (fun k => { k with res := .resident, residentAt := s.localTime })
  have hrow : contextRestoreDone n s
      = modCtx (restoreCopy s n) n (fun k => { k with res := .resident, residentAt := s.localTime }) := by
    simp only [contextRestoreDone, hres, hsaved, if_true, Bool.false_eq_true, if_false]
    exact standbySave_awake (hstandby.trans hawake)
  have hmem : (restoreCopy s n).mem = (copyLines s ((savePlaces s n none).map Prod.swap)).mem := by rw [hcopied]
  refine ⟨_, congrArg Host.Outcome.next hrow, hself, hothers, hcmds, fun i j hi hj => ?_⟩
  exact (congrArg (mget · _) hmem).trans (mget_restoreLines hwf hi hj)

/-- Settles O30: a save of the whole footprint copies its lines, which rise, to lines that follow one another, and a restore copies them back;
the kills of an eviction leave no command of its context in flight and no byte changed. -/
theorem residency : Obligations.Residency :=
  ⟨contextEvict_begins, markWaitTimeout_begins, contextSaveDone_saves, contextRestore_begins, contextRestoreDone_restores⟩

end Sys2Proof.Machine
end

section
/-! PROOFS. Ports, routes and transit (O11, O12, O13): what a message that leaves touches, what a change of a port's state leaves of that port and
of the others; then each clause of the three obligations from these. -/

namespace Sys2Proof.Machine

/-! ### Messages that leave (R287, R290, R294) -/

/-- Messages leave, or wait for a port of their route: nothing differs but what is sent, what waits, and the numbers of what is sent. -/
def messagesLeave (s t : State) : Prop :=
  ∃ q o w ws, t = { s with links := { s.links with seqOut := q, out := o, waiting := w, waitSince := ws } }

theorem messagesLeave.refl (s : State) : messagesLeave s s := ⟨_, _, _, _, rfl⟩

theorem messagesLeave.trans {s t u : State} : messagesLeave s t → messagesLeave t u → messagesLeave s u := by
  rintro ⟨_, _, _, _, rfl⟩ ⟨q, o, w, ws, rfl⟩
  exact ⟨q, o, w, ws, rfl⟩

theorem messagesLeave_emit (s : State) (mask : Nat) (m : Msg) : messagesLeave s (emit s mask m) := by
  unfold emit
  split
  · exact ⟨_, _, _, _, rfl⟩
  · exact ⟨_, _, _, _, rfl⟩

theorem messagesLeave_send (s : State) (mask mtype cls dst epoch tag address : Nat) (data : List Byte) :
    messagesLeave s (send s mask mtype cls dst epoch tag address data) :=
  .trans ⟨_, _, _, _, rfl⟩ (messagesLeave_emit _ mask _)

theorem messagesLeave_sendOn (s : State) (p mtype : Nat) (data : List Byte) : messagesLeave s (sendOn s p mtype data) :=
  ⟨_, _, _, _, rfl⟩

theorem messagesLeave_sendPresent (ps : List Nat) (m : Nat) (inc : W32) (s : State) : messagesLeave s (sendPresent ps m inc s) :=
  seqAll_rel messagesLeave.refl messagesLeave.trans (fun s p => messagesLeave_sendOn s p mtPresent _) ps s

theorem messagesLeave_announce (s : State) (p : Nat) : messagesLeave s (announce s p) := by
  unfold announce
  split
  · exact messagesLeave_sendPresent _ _ _ s
  · exact messagesLeave.refl s

/-- R290: traffic that waited leaves, and its destinations may no longer count as dead. -/
theorem retryWaiting_frame (s : State) : ∃ q o w ws u,
    retryWaiting s = { s with links := { s.links with seqOut := q, out := o, waiting := w, waitSince := ws, unreachable := u } } := by
  obtain ⟨q, o, w, ws, hsent⟩ := seqAll_rel messagesLeave.refl messagesLeave.trans
    (fun s (x : Nat × Msg) => messagesLeave_emit s x.1 x.2) s.links.waiting { s with links := { s.links with waiting := [] } }
  unfold retryWaiting
  dsimp only
  rw [hsent]
  exact ⟨_, _, _, _, _, rfl⟩

/-! ### What the links' commands touch -/

theorem linksOnly_of_frame {s t : State}
    (h : ∃ l o hp r q, t = { s with links := l, out := o, hostPorts := hp, mgmt := { s.mgmt with running := r, queued := q } }) :
    linksOnly s t := by
  obtain ⟨_, _, _, _, _, rfl⟩ := h
  rfl

theorem linksOnly.trans {s t u : State} (hst : linksOnly s t) (htu : linksOnly t u) : linksOnly s u := by
  rw [linksOnly] at hst htu
  rw [hst] at htu
  exact linksOnly_of_frame ⟨_, _, _, _, _, htu⟩

theorem messagesLeave.linksOnly {s t : State} : messagesLeave s t → linksOnly s t := by
  rintro ⟨_, _, _, _, rfl⟩
  rfl

theorem raised.linksOnly {s t : State} (h : raised s t) : linksOnly s t := by
  obtain ⟨⟨_, _, rfl⟩, -⟩ := h
  rfl

theorem linksOnly_retryWaiting (s : State) : linksOnly s (retryWaiting s) := by
  obtain ⟨_, _, _, _, _, hretried⟩ := retryWaiting_frame s
  exact linksOnly_of_frame ⟨_, _, _, _, _, hretried⟩

theorem linksOnly_setPortRec (s : State) (p : Nat) (x : Port) : linksOnly s (setPortRec s p x) := rfl

theorem linksOnly_umpEnd (s : State) (rank scope : Nat) (info : Nat × Nat) : linksOnly s (umpEnd s rank scope info) := rfl

theorem linksOnly_admitted (s : State) (rank scope : Nat) (info : Nat × Nat) : linksOnly s (admitted s rank scope info) := rfl

/-! ### The port records (R316) -/

theorem portOf_congr {s t : State} (h : t.links.ports = s.links.ports) (o : Nat) : portOf t o = portOf s o := by
  rw [portOf, h, portOf]

theorem ports_retryWaiting (s : State) : (retryWaiting s).links.ports = s.links.ports := by
  obtain ⟨_, _, _, _, _, hretried⟩ := retryWaiting_frame s
  rw [hretried]

theorem messagesLeave.ports {s t : State} : messagesLeave s t → t.links.ports = s.links.ports := by
  rintro ⟨_, _, _, _, rfl⟩
  rfl

theorem raised.ports {s t : State} (h : raised s t) : t.links.ports = s.links.ports := by
  obtain ⟨⟨_, _, rfl⟩, -⟩ := h
  rfl

theorem portOf_setPortRec_self (s : State) (p : Nat) (x : Port) : portOf (setPortRec s p x) p = x :=
  (aget_aput _ _ _ _ _).trans (if_pos rfl)

theorem portOf_setPortRec_ne (s : State) {p o : Nat} (x : Port) (h : o ≠ p) : portOf (setPortRec s p x) o = portOf s o :=
  (aget_aput _ _ _ _ _).trans (if_neg h)

/-- A port with flags set by one event. -/
def portFlagged (x : Port) (e : W32) : Port := { x with evt := e, evtCnt := x.evtCnt + 1 }

/-- R290: a port that has taken a state now. -/
def atState (s : State) (p : Nat) (g : PortState) : Port := { portOf s p with state := g, since := s.localTime, replays := 0 }

/-- R290, R316: a port takes a state, with the flags of one event. -/
def portMovedWith (s : State) (p : Nat) (g : PortState) (e : W32) : State :=
  raiseSource (setPortRec (setPortRec s p (atState s p g)) p
    (portFlagged (portOf (setPortRec s p (atState s p g)) p) e)) 2

theorem portMovedWith_leaves (s : State) (p : Nat) (g : PortState) (e : W32) :
    portOf (portMovedWith s p g e) p = portFlagged (atState s p g) e
      ∧ (∀ o, o ≠ p → portOf (portMovedWith s p g e) o = portOf s o) ∧ linksOnly s (portMovedWith s p g e) := by
  have hraised := raiseSource_raised (setPortRec (setPortRec s p (atState s p g)) p
    (portFlagged (portOf (setPortRec s p (atState s p g)) p) e)) 2
  refine ⟨?_, fun o ho => ?_, ((linksOnly_setPortRec s p _).trans (linksOnly_setPortRec _ p _)).trans hraised.linksOnly⟩
  · rw [portMovedWith, portOf_congr hraised.ports, portOf_setPortRec_self, portOf_setPortRec_self]
  · rw [portMovedWith, portOf_congr hraised.ports, portOf_setPortRec_ne _ _ ho, portOf_setPortRec_ne _ _ ho]

theorem portTo_other {s : State} {p : Nat} {g : PortState} (h : (portOf s p).state ≠ g) :
    portTo s p g = portMovedWith s p g (withFlag (portOf s p).evt 0) := by
  have hevt : (portOf (setPortRec s p (atState s p g)) p).evt = (portOf s p).evt := by rw [portOf_setPortRec_self]; rfl
  rw [← hevt]
  exact if_neg h

theorem portToWith_moves (s : State) (p : Nat) (g : PortState) (mask : Nat) :
    portToWith s p g mask = portMovedWith s p g ((portOf s p).evt ||| w32 (1 ||| mask)) := by
  have hevt : (portOf (setPortRec s p (atState s p g)) p).evt = (portOf s p).evt := by rw [portOf_setPortRec_self]; rfl
  rw [← hevt]
  rfl

theorem portTo_moves {s : State} {p : Nat} {g : PortState} (h : (portOf s p).state ≠ g) :
    portMoved s (portTo s p g) p g ∧ linksOnly s (portTo s p g) := by
  obtain ⟨hself, hothers, hlinks⟩ := portMovedWith_leaves s p g (withFlag (portOf s p).evt 0)
  rw [portTo_other h]
  refine ⟨?_, hlinks⟩
  rw [portMoved, hself]
  exact ⟨rfl, rfl, rfl, rfl, rfl, rfl, hothers⟩

/-- A port stands in the state it has been given, whether it moved or stood there. -/
theorem portTo_leaves (s : State) (p : Nat) (g : PortState) :
    (portOf (portTo s p g) p).state = g ∧ (portOf (portTo s p g) p).enable = (portOf s p).enable
      ∧ (∀ o, o ≠ p → portOf (portTo s p g) o = portOf s o) ∧ linksOnly s (portTo s p g) := by
  by_cases hstate : (portOf s p).state = g
  · have hstay : portTo s p g = s := if_pos hstate
    rw [hstay]
    exact ⟨hstate, rfl, fun _ _ => rfl, rfl⟩
  · obtain ⟨hself, hothers, hlinks⟩ := portMovedWith_leaves s p g (withFlag (portOf s p).evt 0)
    rw [portTo_other hstate, hself]
    exact ⟨rfl, rfl, hothers, hlinks⟩

/-- A port that has moved, once what leaves the port records as they are has followed. -/
theorem portMoved.congr {s t u : State} {p : Nat} {g : PortState} (h : portMoved s t p g) (hports : u.links.ports = t.links.ports) :
    portMoved s u p g := by
  have hsame := portOf_congr hports
  simpa only [portMoved, hsame] using h

theorem portRuns_of {s : State} {p : Nat} {g : PortState} (hp : p < 32) (hlive : linksLive s = true) (hstate : (portOf s p).state = g) :
    portRuns s p g = true := by
  simp [portRuns, hp, hlive, hstate]

/-! ### Enable (R290, R314) -/

/-- A port's record with enable written. -/
def enableWritten (s : State) (p : Nat) (on : Bool) : State := setPortRec s p { portOf s p with enable := on }

theorem enableWritten_leaves (s : State) (p : Nat) (on : Bool) :
    (portOf (enableWritten s p on) p).enable = on ∧ (portOf (enableWritten s p on) p).state = (portOf s p).state
      ∧ (∀ o, o ≠ p → portOf (enableWritten s p on) o = portOf s o) ∧ linksOnly s (enableWritten s p on) := by
  rw [enableWritten, portOf_setPortRec_self]
  exact ⟨rfl, rfl, fun o ho => portOf_setPortRec_ne s _ ho, rfl⟩

theorem enableWritten_to_leaves (s : State) (p : Nat) (on : Bool) (g : PortState) :
    (portOf (portTo (enableWritten s p on) p g) p).state = g ∧ (portOf (portTo (enableWritten s p on) p g) p).enable = on
      ∧ (∀ o, o ≠ p → portOf (portTo (enableWritten s p on) p g) o = portOf s o)
      ∧ linksOnly s (portTo (enableWritten s p on) p g) := by
  obtain ⟨henable, -, hothers, hlinks⟩ := enableWritten_leaves s p on
  obtain ⟨hstate, hkeeps, hothers', hlinks'⟩ := portTo_leaves (enableWritten s p on) p g
  exact ⟨hstate, hkeeps.trans henable, fun o ho => (hothers' o ho).trans (hothers o ho), hlinks.trans hlinks'⟩

theorem portEnable_off (s : State) (p : Nat) (hp : p < 32) (hopen : takesWrites s) :
    ∃ t, exec (.portEnable p false) s = .next t
      ∧ (portOf t p).state = .disabled ∧ (portOf t p).enable = false ∧ (∀ o, o ≠ p → portOf t o = portOf s o) ∧ linksOnly s t := by
  have hrow : portEnable p false s = umpEnd (portTo (enableWritten s p false) p .disabled) rkLink p (0, 0) := if_neg (by omega)
  obtain ⟨hstate, henable, hothers, hlinks⟩ := enableWritten_to_leaves s p false .disabled
  exact ⟨_, congrArg Host.Outcome.next ((barWrite_takesWrites hopen _ _ _ _).trans hrow), hstate, henable, hothers,
    hlinks.trans (linksOnly_umpEnd _ _ _ _)⟩

theorem portEnable_on (s : State) (p : Nat) (hp : p < 32) (hopen : takesWrites s) (hdisabled : (portOf s p).state = .disabled)
    (hdie : (linkDieOf s (p / 4)).resetting = false) :
    ∃ t, exec (.portEnable p true) s = .next t
      ∧ (portOf t p).state = .training ∧ (portOf t p).enable = true ∧ (∀ o, o ≠ p → portOf t o = portOf s o) ∧ linksOnly s t := by
  obtain ⟨-, hstays, -, -⟩ := enableWritten_leaves s p true
  have hdie' : (linkDieOf (enableWritten s p true) (p / 4)).resetting = false := hdie
  have hrow : portEnable p true s = portTo (enableWritten s p true) p .training := by
    have hstill : ¬ (portOf (enableWritten s p true) p).state ≠ .disabled := not_not.mpr (hstays.trans hdisabled)
    change (if 32 ≤ p then s else if (!true) = true then _ else if (portOf (enableWritten s p true) p).state ≠ .disabled then _
      else if (linkDieOf (enableWritten s p true) (p / 4)).resetting = true then _ else portTo (enableWritten s p true) p .training) = _
    rw [if_neg (by omega), if_neg (by decide), if_neg hstill, hdie', if_neg (by decide)]
  obtain ⟨hstate, henable, hothers, hlinks⟩ := enableWritten_to_leaves s p true .training
  exact ⟨_, congrArg Host.Outcome.next ((barWrite_takesWrites hopen _ _ _ _).trans hrow), hstate, henable, hothers, hlinks⟩

/-! ### Training, replays and recovery (R290, R314) -/

/-- R290, R291: a port that has come UP, with its neighbour. -/
def cameUp (s : State) (p peer : Nat) : State :=
  setPortRec (portTo s p .up) p { portOf (portTo s p .up) p with peer := peer % 16384, peerValid := true }

theorem cameUp_leaves {s : State} {p : Nat} (peer : Nat) (h : (portOf s p).state ≠ .up) :
    portMoved s (cameUp s p peer) p .up ∧ (portOf (cameUp s p peer) p).peer = peer % 16384
      ∧ (portOf (cameUp s p peer) p).peerValid = true ∧ linksOnly s (cameUp s p peer) := by
  obtain ⟨⟨hstate, hsince, hevt, hcnt, henable, hreplay, hothers⟩, hlinks⟩ := portTo_moves h
  have hself : portOf (cameUp s p peer) p = { portOf (portTo s p .up) p with peer := peer % 16384, peerValid := true } :=
    portOf_setPortRec_self _ _ _
  rw [portMoved, hself]
  exact ⟨⟨hstate, hsince, hevt, hcnt, henable, hreplay, fun o ho => (portOf_setPortRec_ne _ _ ho).trans (hothers o ho)⟩, rfl, rfl,
    hlinks.trans (linksOnly_setPortRec _ p _)⟩

theorem portTrained_up (s : State) (p peer : Nat) (hp : p < 32) (hlive : linksLive s = true) (htrains : (portOf s p).state = .training) :
    ∃ t, exec (.portTrained p peer) s = .next t ∧ portMoved s t p .up ∧ (portOf t p).peer = peer % 16384 ∧ (portOf t p).peerValid = true
      ∧ linksOnly s t := by
  have hrow : portTrained p peer s = retryWaiting (announce (cameUp s p peer) p) := if_pos (portRuns_of hp hlive htrains)
  obtain ⟨hmoved, hpeer, hvalid, hlinks⟩ := cameUp_leaves (s := s) (p := p) peer (by rw [htrains]; decide)
  have hannounced := messagesLeave_announce (cameUp s p peer) p
  have hports := (ports_retryWaiting (announce (cameUp s p peer) p)).trans hannounced.ports
  refine ⟨_, congrArg Host.Outcome.next hrow, hmoved.congr hports, ?_, ?_,
    hlinks.trans (hannounced.linksOnly.trans (linksOnly_retryWaiting _))⟩
  · rw [portOf_congr hports, hpeer]
  · rw [portOf_congr hports, hvalid]

theorem portTrainingTimeout_down (s : State) (p : Nat) (hp : p < 32) (hlive : linksLive s = true) (htrains : (portOf s p).state = .training)
    (hlate : us 100000 ≤ since s (portOf s p).since) :
    ∃ t, exec (.portTrainingTimeout p) s = .next t ∧ portMoved s t p .down ∧ linksOnly s t := by
  have hrow : portTrainingTimeout p s = portTo s p .down :=
    if_pos ((Bool.and_eq_true _ _).mpr ⟨portRuns_of hp hlive htrains, decide_eq_true hlate⟩)
  exact ⟨_, congrArg Host.Outcome.next hrow, portTo_moves (by rw [htrains]; decide)⟩

theorem portRetryTimer_trains (s : State) (p : Nat) (hp : p < 32) (hlive : linksLive s = true) (hdown : (portOf s p).state = .down)
    (hlate : us 1000 ≤ since s (portOf s p).since) (henable : (portOf s p).enable = true)
    (hdie : (linkDieOf s (p / 4)).resetting = false) :
    ∃ t, exec (.portRetryTimer p) s = .next t ∧ portMoved s t p .training ∧ linksOnly s t := by
  have hrow : portRetryTimer p s = startTraining s p :=
    if_pos ((Bool.and_eq_true _ _).mpr ⟨portRuns_of hp hlive hdown, decide_eq_true hlate⟩)
  have htrain : startTraining s p = portTo s p .training := if_pos (by simp [henable, hdown, hdie])
  exact ⟨_, congrArg Host.Outcome.next (hrow.trans htrain), portTo_moves (by rw [hdown]; decide)⟩

theorem flitReplay_counts (s : State) (p : Nat) (hp : p < 32) (hup : (portOf s p).state = .up) :
    ∃ t, exec (.flitReplay p) s = .next t
      ∧ (portOf t p).replayCnt = (portOf s p).replayCnt + 1 ∧ (portOf t p).state = .up ∧ (portOf t p).evt = (portOf s p).evt
      ∧ (∀ o, o ≠ p → portOf t o = portOf s o) ∧ t = { s with links := { s.links with ports := t.links.ports } } := by
  have hrow : flitReplay p s = noteReplay s p := if_pos (by simp [portUp, hp, hup])
  refine ⟨_, congrArg Host.Outcome.next hrow, ?_, ?_, ?_, fun o ho => portOf_setPortRec_ne s _ ho, rfl⟩
  · rw [noteReplay, portOf_setPortRec_self]
  · rw [noteReplay, portOf_setPortRec_self]
    exact hup
  · rw [noteReplay, portOf_setPortRec_self]

theorem replayStorm_recovers (s : State) (p : Nat) (hp : p < 32) (hlive : linksLive s = true) (hup : (portOf s p).state = .up)
    (hstorm : 256 < (portOf s p).replays) :
    ∃ t, exec (.replayStorm p) s = .next t ∧ (portOf t p).state = .recovering ∧ (portOf t p).evt = (portOf s p).evt ||| 3#32
      ∧ (portOf t p).evtCnt = (portOf s p).evtCnt + 1 ∧ (∀ o, o ≠ p → portOf t o = portOf s o) ∧ linksOnly s t := by
  have hrow : replayStorm p s = portToWith s p .recovering 2 :=
    if_pos ((Bool.and_eq_true _ _).mpr ⟨portRuns_of hp hlive hup, decide_eq_true hstorm⟩)
  obtain ⟨hself, hothers, hlinks⟩ := portMovedWith_leaves s p .recovering ((portOf s p).evt ||| w32 (1 ||| 2))
  exact ⟨_, congrArg Host.Outcome.next (hrow.trans (portToWith_moves s p .recovering 2)), congrArg Port.state hself,
    congrArg Port.evt hself, congrArg Port.evtCnt hself, hothers, hlinks⟩

theorem portLockLoss_recovers (s : State) (p : Nat) (hp : p < 32) (hlive : linksLive s = true) (hup : (portOf s p).state = .up) :
    ∃ t, exec (.portLockLoss p) s = .next t ∧ portMoved s t p .recovering ∧ linksOnly s t :=
  ⟨_, congrArg Host.Outcome.next (if_pos (portRuns_of hp hlive hup)), portTo_moves (by rw [hup]; decide)⟩

theorem portRetrain_recovers (s : State) (p : Nat) (hp : p < 32) (hopen : takesWrites s) (hlive : linksLive s = true)
    (hup : (portOf s p).state = .up) (hunknown : umpKnown s rkLink p (0, 0) = false) (hqueued : s.mgmt.queued = [])
    (hfits : ∀ a ∈ s.mgmt.running, compatible { rank := rkLink, scope := p, since := s.localTime, info := (0, 0) } a = true) :
    ∃ t, exec (.portRetrain p) s = .next t ∧ portMoved s t p .recovering ∧ linksOnly s t := by
  have hrow : portRetrain p s = portTo (admitted s rkLink p (0, 0)) p .recovering := by
    rw [portRetrain, if_neg (by simp [portRuns_of hp hlive hup, hunknown]), umpAsk_free ⟨hunknown, hqueued, hfits⟩]
    exact if_pos (umpRuns_admitted s rkLink p (0, 0))
  obtain ⟨hmoved, hlinks⟩ := portTo_moves (s := admitted s rkLink p (0, 0)) (p := p) (g := .recovering)
    (show (portOf s p).state ≠ .recovering by rw [hup]; decide)
  exact ⟨_, congrArg Host.Outcome.next ((barWrite_takesWrites hopen _ _ _ _).trans hrow), hmoved, (linksOnly_admitted s _ _ _).trans hlinks⟩

theorem portRecovered_up (s : State) (p : Nat) (hp : p < 32) (hlive : linksLive s = true) (hrecovers : (portOf s p).state = .recovering) :
    ∃ t, exec (.portRecovered p) s = .next t ∧ portMoved s t p .up ∧ linksOnly s t := by
  have hrow : portRecovered p s = retryWaiting (umpEnd (portTo s p .up) rkLink p (0, 0)) := if_pos (portRuns_of hp hlive hrecovers)
  obtain ⟨hmoved, hlinks⟩ := portTo_moves (s := s) (p := p) (g := .up) (by rw [hrecovers]; decide)
  exact ⟨_, congrArg Host.Outcome.next hrow, hmoved.congr (ports_retryWaiting _),
    (hlinks.trans (linksOnly_umpEnd _ _ _ _)).trans (linksOnly_retryWaiting _)⟩

theorem recoveryTimeout_down (s : State) (p : Nat) (hp : p < 32) (hlive : linksLive s = true) (hrecovers : (portOf s p).state = .recovering)
    (hlate : us 2000 ≤ since s (portOf s p).since) :
    ∃ t, exec (.recoveryTimeout p) s = .next t ∧ portMoved s t p .down ∧ linksOnly s t := by
  have hrow : recoveryTimeout p s = umpEnd (portTo s p .down) rkLink p (0, 0) :=
    if_pos ((Bool.and_eq_true _ _).mpr ⟨portRuns_of hp hlive hrecovers, decide_eq_true hlate⟩)
  obtain ⟨hmoved, hlinks⟩ := portTo_moves (s := s) (p := p) (g := .down) (by rw [hrecovers]; decide)
  exact ⟨_, congrArg Host.Outcome.next hrow, hmoved, hlinks.trans (linksOnly_umpEnd _ _ _ _)⟩

/-- Settles O11: each row moves its port by `portTo` or `portToWith`, and what follows the move leaves the port records as they are. -/
theorem portStates : Obligations.PortStates :=
  ⟨portEnable_off, portEnable_on, portTrained_up, portTrainingTimeout_down, portRetryTimer_trains, flitReplay_counts, replayStorm_recovers,
    portLockLoss_recovers, portRetrain_recovers, portRecovered_up, recoveryTimeout_down⟩

/-! ### Routes (R317) -/

/-- R317: the entry that a store writes. -/
def storedRoute (s : State) : Route := { mask := s.regs.routeData0, hop := s.regs.routeData1.zeroExtend 32 }

/-- R317: the table with the data registers stored in one entry. -/
def routeStored (s : State) (i : Nat) : State :=
  { s with regs := { s.regs with routeIdx := BitVec.ofNat 14 i },
           links := { s.links with routes := aput s.links.routes i (storedRoute s) } }

theorem routeOf_routeStored (s : State) (i j : Nat) : routeOf (routeStored s i) j = if j = i then storedRoute s else routeOf s j :=
  aget_aput _ _ _ _ _

theorem routeOf_retryWaiting (s : State) (j : Nat) : routeOf (retryWaiting s) j = routeOf s j := by
  obtain ⟨_, _, _, _, _, hretried⟩ := retryWaiting_frame s
  rw [hretried]
  rfl

theorem routeStore_leaves (s : State) (i : Nat) (hi : i < 16384) (hopen : takesWrites s) :
    ∃ t, exec (.routeStore i) s = .next t
      ∧ (routeOf t i).mask = s.regs.routeData0 ∧ (routeOf t i).hop = s.regs.routeData1.zeroExtend 32
      ∧ (∀ j, j ≠ i → routeOf t j = routeOf s j) ∧ t.regs.routeIdx = BitVec.ofNat 14 i
      ∧ t = { s with links := t.links, regs := { s.regs with routeIdx := t.regs.routeIdx } } := by
  have hrow : routeStore i s = retryWaiting (routeStored s i) := by
    rw [routeStore, Nat.mod_eq_of_lt hi]
    rfl
  have hentry := fun j => (routeOf_retryWaiting (routeStored s i) j).trans (routeOf_routeStored s i j)
  have hself := (hentry i).trans (if_pos rfl)
  refine ⟨_, congrArg Host.Outcome.next ((barWrite_takesWrites hopen _ _ _ _).trans hrow), congrArg Route.mask hself,
    congrArg Route.hop hself, fun j hj => (hentry j).trans (if_neg hj), ?_, ?_⟩
  all_goals
    obtain ⟨_, _, _, _, _, hretried⟩ := retryWaiting_frame (routeStored s i)
    rw [hretried]
    rfl

theorem routeLoad_leaves (s : State) (i : Nat) (hi : i < 16384) (hopen : takesWrites s) :
    ∃ t, exec (.routeLoad i) s = .next t
      ∧ t.regs.routeData0 = (routeOf s i).mask ∧ t.regs.routeData1 = (routeOf s i).hop.truncate 29 ∧ t.regs.routeIdx = BitVec.ofNat 14 i
      ∧ t = { s with regs := t.regs } := by
  have hstep : exec (.routeLoad i) s = .next (routeLoad i s) := congrArg Host.Outcome.next (barWrite_takesWrites hopen _ _ _ _)
  unfold routeLoad at hstep
  dsimp only at hstep
  rw [Nat.mod_eq_of_lt hi] at hstep
  exact ⟨_, hstep, rfl, rfl, rfl, rfl⟩

/-- Settles O12: the retry of waiting traffic after a store leaves the table as stored, and a load changes registers alone. -/
theorem routeTable : Obligations.RouteTable := ⟨routeStore_leaves, routeLoad_leaves⟩

/-! ### Transit (R292) -/

/-- R292: a message to a module whose route has a port UP leaves on it at once. -/
theorem emit_leaves {s : State} {m : Msg} {o : Nat} (h : leavesBy s m.flit.dst m.flit.address o) :
    emit s 0 m = { s with links := { s.links with out := s.links.out ++ [(o, m)] } } := by
  rw [leavesBy] at h
  simp only [emit, h]

theorem receive_transit {s : State} {p : Nat} {m : Msg} (hlive : linksLive s = true) (hp : p < 32) (hup : portUp s p = true)
    (htype : 1 ≤ m.mtype ∧ m.mtype ≤ 12) (hother : m.flit.dst ≠ selfId s) : receive p m s = emit s 0 m := by
  have hport : ¬ 32 ≤ p := by omega
  have hknown : ¬ (m.mtype = 0 ∨ 12 < m.mtype) := by omega
  simp [receive, hlive, hport, hup, hknown, hother, forward]

/-- Settles O13: a known message for another module is forwarded, and its route has a port UP. -/
theorem transitForwards : Obligations.TransitForwards := fun _ _ _ _ _ hlive hp hup hlow hhigh hother hroute =>
  congrArg Host.Outcome.next ((receive_transit hlive hp hup ⟨hlow, hhigh⟩ hother).trans (emit_leaves hroute))

end Sys2Proof.Machine
end

section
/-! PROOFS. Remote writes (O15): what a peer's hold reads after a change of the holds, which pages a COMMIT's data lie on, and what an ACK sends;
then each clause of the obligation from these. -/

namespace Sys2Proof.Machine

/-! ### Holds of peers (R297) -/

theorem holdFor_key (s : State) (src tag : Nat) : (holdFor s src tag).src = src ∧ (holdFor s src tag).tag = tag := by
  cases hfind : s.links.holdsIn.find? (fun h => h.src == src && h.tag == tag) with
  | none => simp [holdFor, hfind]
  | some h =>
    have hkey := List.find?_some hfind
    simpa [holdFor, hfind] using hkey

theorem mem_otherHolds {s : State} {src tag : Nat} {h : PeerHold} :
    h ∈ otherHolds s src tag ↔ h ∈ s.links.holdsIn ∧ ¬ (h.src = src ∧ h.tag = tag) := by
  simp [otherHolds, imp_iff_not_or]

theorem holdFor_putHold (s : State) (h : PeerHold) {src tag : Nat} (hkey : h.src = src ∧ h.tag = tag) :
    holdFor (putHold s h) src tag = h := by
  obtain ⟨rfl, rfl⟩ := hkey
  have hothers : (otherHolds s h.src h.tag).find? (fun x => x.src == h.src && x.tag == h.tag) = none :=
    List.find?_eq_none.mpr fun x hx => by simpa using (mem_otherHolds.mp hx).2
  have hfound : (otherHolds s h.src h.tag ++ [h]).find? (fun x => x.src == h.src && x.tag == h.tag) = some h := by
    rw [List.find?_append, hothers]
    simp
  simp only [holdFor, putHold, hfound, Option.getD_some]

/-! ### ACKs and turns (R294, R297) -/

theorem turnTaken_of_early {s t : State} {f : Flit} (h : t.links.early = []) : turnTaken s (turnOver t f) f :=
  ⟨(aget_aput _ _ _ _ _).trans (if_pos rfl), h⟩

/-- R297: an ACK to a message leaves on the port of its route. -/
theorem ackTo_leaves {s : State} {f : Flit} {o : Nat} (st : Status) (h : leavesBy s f.src f.address o) :
    ∃ q m, ackTo s f st = { s with links := { s.links with seqOut := q, out := s.links.out ++ [(o, m)] } }
      ∧ m.mtype = 6 ∧ m.flit.tag = f.tag ∧ m.flit.dst = f.src ∧ m.flit.data = leBytes 1 (ackCode st) := by
  obtain ⟨q, n, hsent⟩ := send_leaves mtAck f.cls f.epoch f.tag (leBytes 1 (ackCode st)) h
  exact ⟨q, _, hsent, rfl, rfl, rfl, rfl⟩

/-! ### HOLD and WRITE_DATA at the peer (R297) -/

/-- R297, step 1: a hold of one more page. -/
def withPage (h : PeerHold) (page : Nat) : PeerHold := { h with pages := sins h.pages page }

/-- R297, step 2: a hold with more cells that wait for their COMMIT. -/
def withCells (h : PeerHold) (cs : List Host.Cell) : PeerHold := { h with data := h.data ++ cs }

theorem holdDeliver_resident {s : State} {f : Flit} {e : Page} (hown : ownCarafe s f.address = true)
    (hpage : aget? s.pool (pageOf f.address) = some e) (hres : e.state = .resident) :
    holdDeliver s f = some (ackTo (putHold s (withPage (holdFor s f.src f.tag) (pageOf f.address))) f .ok) := by
  simp only [holdDeliver, hown, bringPage_resident hpage hres]
  rfl

theorem hold_answered (s : State) (p o : Nat) (f : Flit) (e : Page) (hnext : nextInOrder s p f) (hown : ownCarafe s f.address = true)
    (hpage : aget? s.pool (pageOf f.address) = some e) (hres : e.state = .resident) (hroute : leavesBy s f.src f.address o) :
    ∃ t m, exec (.hold p f) s = .next t ∧ turnTaken s t f
      ∧ (holdFor t f.src f.tag).pages = sins (holdFor s f.src f.tag).pages (pageOf f.address)
      ∧ t.links.out = s.links.out ++ [(o, m)] ∧ m.mtype = 6 ∧ m.flit.tag = f.tag ∧ m.flit.dst = f.src ∧ m.flit.data = [0]
      ∧ t = { s with links := t.links } := by
  have hready : (deliver (heldBack s ⟨mtHold, f⟩) p ⟨mtHold, f⟩).isSome = true :=
    Option.isSome_of_eq_some (holdDeliver_resident (s := heldBack s ⟨mtHold, f⟩) hown hpage hres)
  have hstep := receive_next (m := ⟨mtHold, f⟩) hnext (by decide : 0 < 4 ∧ 4 < 12) hready (holdDeliver_resident hown hpage hres)
  obtain ⟨q, m, hsent, htype, htag, hdst, hdata⟩ := ackTo_leaves (s := putHold s (withPage (holdFor s f.src f.tag) (pageOf f.address))) .ok hroute
  have hheld := holdFor_putHold s (withPage (holdFor s f.src f.tag) (pageOf f.address)) (holdFor_key s f.src f.tag)
  obtain ⟨⟨-, -, -, -, -, hearly⟩, -⟩ := hnext
  rw [hsent] at hstep
  exact ⟨_, m, congrArg Host.Outcome.next hstep, turnTaken_of_early hearly, congrArg PeerHold.pages hheld, rfl, htype, htag, hdst, hdata, rfl⟩

theorem writeData_held (s : State) (p : Nat) (f : Flit) (hnext : nextInOrder s p f) :
    ∃ t, exec (.writeData p f) s = .next t ∧ turnTaken s t f
      ∧ (holdFor t f.src f.tag).data = (holdFor s f.src f.tag).data ++ writeCells f ∧ t = { s with links := t.links } := by
  have hstep := receive_next (m := ⟨mtWriteData, f⟩) hnext (by decide : 0 < 3 ∧ 3 < 12) rfl rfl
  have hheld := holdFor_putHold s (withCells (holdFor s f.src f.tag) (writeCells f)) (holdFor_key s f.src f.tag)
  obtain ⟨⟨-, -, -, -, -, hearly⟩, -⟩ := hnext
  exact ⟨_, congrArg Host.Outcome.next hstep, turnTaken_of_early hearly, congrArg PeerHold.data hheld, rfl⟩

/-! ### COMMIT at the peer (R297) -/

/-- The cells lie in the module's own carafe, on RESIDENT pages. -/
def cellsReady (s : State) (cs : List Host.Cell) : Prop :=
  ∀ c ∈ cs, ownCarafe s c.1 = true ∧ pageState s (pageOf c.1) = some .resident

theorem pageOf_line (a : Nat) : pageOf (64 * (a / 64)) = pageOf a := by
  unfold pageOf gaOff
  omega

theorem bringAll_resident {s : State} {ps : List Nat} (h : ∀ p ∈ ps, pageState s p = some .resident) : bringAll s ps = some s := by
  induction ps with
  | nil => rfl
  | cons p ps ih =>
    obtain ⟨e, hpage, hres⟩ := Option.map_eq_some_iff.mp (h p (List.mem_cons_self ..))
    simp only [bringAll, bringPage_resident hpage hres]
    exact ih fun q hq => h q (List.mem_cons_of_mem _ hq)

/-- R297: the pages that a COMMIT brings are those of its cells. -/
theorem mem_ownPages {s : State} {cs : List Host.Cell} {p : Nat} (h : p ∈ ownPages s cs) : ∃ c ∈ cs, pageOf c.1 = p := by
  rw [ownPages, ← List.foldl_map (g := sins), mem_foldl_sins] at h
  simp only [List.mem_map, List.mem_filter, mem_cellLines, List.not_mem_nil, or_false] at h
  obtain ⟨-, ⟨⟨c, hc, rfl⟩, -⟩, rfl⟩ := h
  exact ⟨c, hc, (pageOf_line c.1).symm⟩

/-- R297, step 2: the data of a peer's command applied, and its hold ended. -/
def holdApplied (s : State) (src tag : Nat) : State :=
  { touchPages (storeCells s (holdFor s src tag).data) (ownPages s (holdFor s src tag).data) with
    links := { s.links with holdsIn := otherHolds s src tag } }

theorem commitDeliver_ready {s : State} {f : Flit} (h : cellsReady s (holdFor s f.src f.tag).data) :
    commitDeliver s f = some (ackTo (holdApplied s f.src f.tag) f .ok) := by
  have hbring : bringAll s (ownPages s (holdFor s f.src f.tag).data) = some s := bringAll_resident fun p hp => by
    obtain ⟨c, hc, rfl⟩ := mem_ownPages hp
    exact (h c hc).2
  have hall : (holdFor s f.src f.tag).data.filter (fun w => ownCarafe s w.1 && pageState s (pageOf w.1) == some .resident)
      = (holdFor s f.src f.tag).data := List.filter_eq_self.mpr fun c hc => by simp [h c hc]
  simp only [commitDeliver, hbring, hall]
  rfl

theorem commit_applies (s : State) (p o : Nat) (f : Flit) (hnext : nextInOrder s p f)
    (hcells : ∀ c ∈ (holdFor s f.src f.tag).data, ownCarafe s c.1 = true ∧ pageState s (pageOf c.1) = some .resident)
    (hroute : leavesBy s f.src f.address o) :
    ∃ t m, exec (.commit p f) s = .next t ∧ turnTaken s t f ∧ t.mem = mapply s.mem (holdFor s f.src f.tag).data
      ∧ (∀ h ∈ t.links.holdsIn, ¬ (h.src = f.src ∧ h.tag = f.tag)) ∧ t.links.out = s.links.out ++ [(o, m)] ∧ m.mtype = 6
      ∧ m.flit.tag = f.tag ∧ (∀ q, pageState t q = pageState s q) ∧ t.cmds = s.cmds ∧ t.ctxs = s.ctxs := by
  have hready : (deliver (heldBack s ⟨mtCommit, f⟩) p ⟨mtCommit, f⟩).isSome = true :=
    Option.isSome_of_eq_some (commitDeliver_ready (s := heldBack s ⟨mtCommit, f⟩) hcells)
  have hstep := receive_next (m := ⟨mtCommit, f⟩) hnext (by decide : 0 < 5 ∧ 5 < 12) hready (commitDeliver_ready hcells)
  obtain ⟨q, m, hsent, htype, htag, -⟩ := ackTo_leaves (s := holdApplied s f.src f.tag) .ok hroute
  obtain ⟨⟨-, -, -, -, -, hearly⟩, -⟩ := hnext
  rw [hsent] at hstep
  exact ⟨_, m, congrArg Host.Outcome.next hstep, turnTaken_of_early hearly, rfl, fun h hh => (mem_otherHolds.mp hh).2, rfl, htype, htag,
    fun q => pageState_touchPages (storeCells s _) _ q, rfl, rfl⟩

/-! ### Holds that lapse (R297) -/

theorem holdLapse_ends (s : State) (src tag : Nat) (hlate : us 100 ≤ since s (holdFor s src tag).since)
    (hdata : (holdFor s src tag).data = []) :
    ∃ t, exec (.holdLapse src tag) s = .next t ∧ (∀ h ∈ t.links.holdsIn, ¬ (h.src = src ∧ h.tag = tag))
      ∧ (∀ h, ¬ (h.src = src ∧ h.tag = tag) → (h ∈ t.links.holdsIn ↔ h ∈ s.links.holdsIn))
      ∧ t = { s with links := { s.links with holdsIn := t.links.holdsIn } } := by
  have hrow : holdLapse src tag s = { s with links := { s.links with holdsIn := otherHolds s src tag } } := if_pos ⟨hlate, .inl hdata⟩
  exact ⟨_, congrArg Host.Outcome.next hrow, fun h hh => (mem_otherHolds.mp hh).2,
    fun h hkey => ⟨fun hh => (mem_otherHolds.mp hh).1, fun hh => mem_otherHolds.mpr ⟨hh, hkey⟩⟩, rfl⟩

/-! ### The ACK of a HOLD at the writer (R297) -/

/-- R297: a command without the wait for a page's HOLD. -/
def holdMet (c : Cmd) (page : Nat × Nat) : Cmd := { c with holdsDue := c.holdsDue.filter (· != page) }

theorem ackDeliver_hold {s : State} {f : Flit} {c : Cmd} (htag : findTag s f.tag = some c) (hepoch : c.epoch.toNat = f.epoch)
    (hissued : c.stage = .issued) (hdue : (f.src, pageOf f.address) ∈ c.holdsDue) (hdata : f.data = [0]) :
    ackDeliver s f = setCmd s (holdMet c (f.src, pageOf f.address)) := by
  have hok : ackStatus (lineNat f 0 1) = .ok := by simp [lineNat, hdata, leNat, ackStatus]
  have hcmd : ackCmd s c f = setCmd s (holdMet c (f.src, pageOf f.address)) := by
    simp [ackCmd, hissued, hdue, hok, holdMet]
  simp [ackDeliver, hdata, htag, hepoch, hcmd]

theorem ack_endsWait (s : State) (p : Nat) (f : Flit) (c : Cmd) (hnext : nextInOrder s p f) (htag : findTag s f.tag = some c)
    (hepoch : c.epoch.toNat = f.epoch) (hissued : c.stage = .issued) (hdue : (f.src, pageOf f.address) ∈ c.holdsDue)
    (hdata : f.data = [0]) :
    ∃ t k, exec (.ack p f) s = .next t ∧ turnTaken s t f ∧ findCmd t c.ctx c.idx = some k
      ∧ k.holdsDue = c.holdsDue.filter (· != (f.src, pageOf f.address)) ∧ k.stage = .issued ∧ t.mem = s.mem := by
  have hstep := receive_next (m := ⟨mtAck, f⟩) hnext (by decide : 0 < 6 ∧ 6 < 12) rfl
    (congrArg some (ackDeliver_hold htag hepoch hissued hdue hdata))
  obtain ⟨d, hfind⟩ := findCmd_of_mem (findTag_mem htag).1
  exact ⟨_, holdMet c (f.src, pageOf f.address), congrArg Host.Outcome.next hstep, turnTaken_turnOver hnext rfl,
    findCmd_setCmd_self (d := d) _ hfind rfl rfl, rfl, hissued, rfl⟩

/-- Settles O15: the peer's four rows change the holds, and COMMIT memory; the writer's ACK changes one command. -/
theorem remoteWrites : Obligations.RemoteWrites :=
  ⟨⟨hold_answered, writeData_held, commit_applies, holdLapse_ends⟩, ack_endsWait⟩

end Sys2Proof.Machine
end

section
/-! PROOFS. Collectives (O18, O19): what the settling of the other commands leaves of one that has not committed; what the end of a step leaves of
its channel; that contributions enter once and that lines of results do not overlap; then each clause of the two obligations from these. -/

namespace Sys2Proof.Machine

/-! ### What commands and messages touch -/

/-- No byte of memory differs, and of the links only what is sent, what waits, what is asked for and the channels. -/
def onlyTraffic (s t : State) : Prop :=
  t.mem = s.mem ∧ ∃ q o w ws r n c, t.links = { s.links with seqOut := q, out := o, waiting := w, waitSince := ws, reads := r,
                                                              nextTag := n, channels := c }

theorem onlyTraffic.of_same {s t : State} (hmem : t.mem = s.mem) (hlinks : t.links = s.links) : onlyTraffic s t :=
  ⟨hmem, _, _, _, _, _, _, _, hlinks⟩

theorem onlyTraffic.refl (s : State) : onlyTraffic s s := .of_same rfl rfl

theorem onlyTraffic.trans {s t u : State} : onlyTraffic s t → onlyTraffic t u → onlyTraffic s u := by
  rintro ⟨hmem, _, _, _, _, _, _, _, hlinks⟩ ⟨hmem', q, o, w, ws, r, n, c, hlinks'⟩
  rw [hlinks] at hlinks'
  exact ⟨hmem'.trans hmem, q, o, w, ws, r, n, c, hlinks'⟩

theorem onlyTraffic.early {s t : State} (h : onlyTraffic s t) : t.links.early = s.links.early := by
  obtain ⟨-, _, _, _, _, _, _, _, hlinks⟩ := h
  rw [hlinks]

theorem messagesLeave.onlyTraffic {s t : State} : messagesLeave s t → onlyTraffic s t := by
  rintro ⟨_, _, _, _, rfl⟩
  exact ⟨rfl, _, _, _, _, _, _, _, rfl⟩

theorem onlyTraffic_modChan (s : State) (n : Nat) (f : Channel → Channel) : onlyTraffic s (modChan s n f) :=
  ⟨rfl, _, _, _, _, _, _, _, rfl⟩

theorem failCmd_links (s : State) (c : Cmd) (st : Status) (order result : Nat) : (failCmd s c st order result).links = s.links := by
  obtain ⟨ks, rs, vs, m, hfail⟩ := failCmd_frame s c st order result
  rw [hfail]
  rfl

theorem onlyTraffic_failCmd (s : State) (c : Cmd) (st : Status) (order result : Nat) : onlyTraffic s (failCmd s c st order result) :=
  .of_same (failCmd_mem s c st order result) (failCmd_links s c st order result)

/-! ### Commands that settle (R48, R237) -/

theorem snapEnd_frame (s : State) (c : Cmd) : ∃ k, snapEnd s c = { s with ctxs := k } := by
  unfold snapEnd
  split
  · exact ⟨_, rfl⟩
  · exact ⟨_, rfl⟩

theorem closeStep_frame (s : State) (c : Cmd) : ∃ k, closeStep s c = { s with links := { s.links with channels := k } } := by
  unfold closeStep
  split
  · exact ⟨_, rfl⟩
  · exact ⟨_, rfl⟩

/-- R237: a settling leaves the state, or gives a committed command its status. -/
theorem settle_cases (s : State) (c : Cmd) :
    settle s c = s ∨ (c.stage = .committed
      ∧ ∃ u d, onlyTraffic s u ∧ u.cmds = s.cmds ∧ d.ctx = c.ctx ∧ d.idx = c.idx ∧ settle s c = setCmd u d) := by
  unfold settle
  split
  next hsettles =>
    simp only [Bool.and_eq_true, decide_eq_true_eq] at hsettles
    obtain ⟨k, hsnap⟩ := snapEnd_frame s c
    obtain ⟨ch, hclose⟩ := closeStep_frame (snapEnd s c) c
    obtain ⟨ks, rs, hrelease⟩ := release_frame (closeStep (snapEnd s c) c) c
    refine .inr ⟨hsettles.1.1, unreserve (release (closeStep (snapEnd s c) c) c) c, _, ?_, ?_, ?_, ?_, rfl⟩
    · rw [hrelease, hclose, hsnap]
      exact ⟨rfl, _, _, _, _, _, _, _, rfl⟩
    · rw [hrelease, hclose, hsnap]
      rfl
    · rfl
    · rfl
  next => exact .inl rfl

theorem onlyTraffic_settle (s : State) (c : Cmd) : onlyTraffic s (settle s c) := by
  obtain hsame | ⟨-, u, d, htraffic, -, -, -, hset⟩ := settle_cases s c
  · rw [hsame]
    exact .refl s
  · rw [hset]
    exact htraffic.trans (.of_same rfl rfl)

theorem onlyTraffic_settleAll (s : State) : onlyTraffic s (settleAll s) :=
  seqAll_rel onlyTraffic.refl onlyTraffic.trans onlyTraffic_settle s.cmds s

theorem findCmd_settle {s : State} {n i : Nat} {c : Cmd} (h : c.ctx = n → c.idx = i → c.stage ≠ .committed) :
    findCmd (settle s c) n i = findCmd s n i := by
  obtain hsame | ⟨hstage, u, d, -, hcmds, hctx, hidx, hset⟩ := settle_cases s c
  · rw [hsame]
  · rw [hset, findCmd_setCmd_ne d fun hkey => h (hctx ▸ hkey.1) (hidx ▸ hkey.2) hstage, findCmd, hcmds, findCmd]

/-- R237: of a key at which nothing has committed, a settling of all leaves the command as it is. -/
theorem findCmd_settleAll {s : State} {n i : Nat} (h : keyed (fun d => d.stage ≠ .committed) n i s) :
    findCmd (settleAll s) n i = findCmd s n i := by
  have hall : ∀ (cs : List Cmd) (t : State), (∀ d ∈ cs, d.ctx = n → d.idx = i → d.stage ≠ .committed) →
      findCmd (seqAll t cs settle) n i = findCmd t n i := by
    intro cs
    induction cs with
    | nil => exact fun _ _ => rfl
    | cons c cs ih =>
      intro t hcs
      exact (ih (settle t c) fun d hd => hcs d (List.mem_cons_of_mem c hd)).trans (findCmd_settle (hcs c (List.mem_cons_self ..)))
  exact hall s.cmds s h

theorem keyed_setCmd {P : Cmd → Prop} (s : State) {c : Cmd} (h : P c) : keyed P c.ctx c.idx (setCmd s c) := by
  intro d hd hctx hidx
  obtain rfl | ⟨-, hkey⟩ := mem_putCmd hd
  · exact h
  · exact absurd ⟨hctx, hidx⟩ hkey

theorem keyed_failCmd {P : Cmd → Prop} (s : State) (c : Cmd) (st : Status) (order result : Nat) (h : P (decided s c st order result)) :
    keyed P c.ctx c.idx (failCmd s c st order result) := by
  intro d hd hctx hidx
  obtain rfl | ⟨-, hkey⟩ := mem_failCmd_cmds hd
  · exact h
  · exact absurd ⟨hctx, hidx⟩ hkey

/-! ### The end of issue (R304, R305, R307) -/

/-- R237, R304: a collective at the end of its issue. -/
def collDone (s : State) (c : Cmd) (r : CollRun) : Cmd :=
  { c with stage := .issued, counter := none, work := { writes := coCells s.mem (coOf c.desc) r, result := coResultWord c (coOf c.desc) r } }

theorem collStep_issues {owns : Desc → Bool} {s : State} {n i : Nat} {c : Cmd} {r : CollRun} (howns : owns c.desc = true)
    (hfind : findCmd s n i = some c) (hplaced : c.stage = .placed) (hpeer : c.peerError = none) (hcoll : c.coll = some r)
    (hlanded : awaits s c = false) (hstarted : r.started = true) (hall : r.committed.length = r.segments)
    (hfed : fedNow s c (coOf c.desc) = .ready) : collIssued s (collStep owns n i s) c r := by
  obtain ⟨hctx, hidx⟩ := findCmd_key hfind
  have hrow : collStep owns n i s = setCmd s (collDone s c r) := by
    simp [collStep, hfind, howns, hplaced, hpeer, hcoll, hlanded, hstarted, hall, hfed, collDone]
  rw [hrow]
  refine ⟨⟨collDone s c r, findCmd_setCmd_self (d := c) _ ?_ rfl rfl, rfl, rfl, rfl⟩, fun a b hkey => findCmd_setCmd_ne _ hkey, rfl⟩
  rw [hctx, hidx, hfind]

theorem collective_ends (s : State) (n i : Nat) (c : Cmd) (r : CollRun) (hfind : findCmd s n i = some c) (hcls : hClass c.desc = 4)
    (hplaced : c.stage = .placed) (hpeer : c.peerError = none) (hcoll : c.coll = some r) (hlanded : awaits s c = false)
    (hstarted : r.started = true) (hall : r.committed.length = r.segments) (hfed : fedNow s c (coOf c.desc) = .ready) :
    (hOp c.desc = 1 → ∃ t, exec (.reduce n i) s = .next t ∧ collIssued s t c r)
      ∧ (hOp c.desc = 2 → ∃ t, exec (.allReduce n i) s = .next t ∧ collIssued s t c r)
      ∧ (hOp c.desc = 3 → ∃ t, exec (.allGather n i) s = .next t ∧ collIssued s t c r)
      ∧ (hOp c.desc = 4 → ∃ t, exec (.broadcast n i) s = .next t ∧ collIssued s t c r) := by
  have hissues : ∀ op, hOp c.desc = op → collIssued s (collStep (isOp 4 op) n i s) c r := fun op hop =>
    collStep_issues (isOp_listed hcls hop) hfind hplaced hpeer hcoll hlanded hstarted hall hfed
  exact ⟨fun hop => ⟨_, rfl, hissues 1 hop⟩, fun hop => ⟨_, rfl, hissues 2 hop⟩, fun hop => ⟨_, rfl, hissues 3 hop⟩,
    fun hop => ⟨_, rfl, hissues 4 hop⟩⟩

/-! ### A step that ends without commit (R302, R310) -/

theorem chanOf_modChan (s : State) (n : Nat) (f : Channel → Channel) : chanOf (modChan s n f) n = f (chanOf s n) :=
  (aget_aput _ _ _ _ _).trans (if_pos rfl)

theorem messagesLeave.chanOf {s t : State} (n : Nat) : messagesLeave s t → chanOf t n = chanOf s n := by
  rintro ⟨_, _, _, _, rfl⟩
  rfl

theorem messagesLeave.findCmd {s t : State} (n i : Nat) : messagesLeave s t → findCmd t n i = findCmd s n i := by
  rintro ⟨_, _, _, _, rfl⟩
  rfl

/-- R302, R310: a channel without a command, whose step is remembered as ended without success. -/
def stepDropped (c : Cmd) (r : CollRun) (k : Channel) : Channel :=
  { k with queue := k.queue.filter (· != (c.ctx, c.idx))
           held := k.held.filter (fun f => f.tag != r.step)
           lastSteps := (r.step, false, r.members) :: k.lastSteps }

theorem endColl_some {s : State} {c : Cmd} {r : CollRun} (st : Status) (h : c.coll = some r) :
    endColl s c st = failCmd (modChan s r.channel (stepDropped c r)) c st 0 0 := by
  simp only [endColl, h]
  rfl

theorem messagesLeave_sendColl (s : State) (c : Cmd) (r : CollRun) (mtype dstRank address : Nat) (data : List Byte) :
    messagesLeave s (sendColl s c r mtype dstRank address data) := messagesLeave_send _ _ _ _ _ _ _ _ _

theorem abortColl_some {s : State} {c : Cmd} {r : CollRun} (cause : Nat) (st : Status) (h : c.coll = some r) :
    ∃ u, messagesLeave s u ∧ abortColl s c cause st = failCmd (modChan u r.channel (stepDropped c r)) c st 0 0 := by
  simp only [abortColl, h]
  exact ⟨_, seqAll_rel messagesLeave.refl messagesLeave.trans (fun s q => messagesLeave_sendColl s c r mtCollAbort q _ _) _ s,
    endColl_some st h⟩

theorem segmentDeadline_ends (s : State) (n i g : Nat) (c : Cmd) (r : CollRun) (hfind : findCmd s n i = some c) (hcoll : c.coll = some r)
    (hstarted : r.started = true) (hplaced : c.stage = .placed) (hsegment : g < r.segments) (hopen : g ∉ r.committed)
    (hlate : us (coOf c.desc).deadline ≤ since s r.sentAt) :
    ∃ t, exec (.segmentDeadline n i g) s = .next t ∧ decidedAs t n i .deadline 0
      ∧ (chanOf t r.channel).lastSteps = (r.step, false, r.members) :: (chanOf s r.channel).lastSteps
      ∧ (n, i) ∉ (chanOf t r.channel).queue ∧ t.mem = s.mem := by
  have hrow : segmentDeadline n i g s = abortColl s c 0 .deadline := by
    simp [segmentDeadline, hfind, hcoll, hstarted, hplaced, hsegment, hopen, hlate]
  obtain ⟨u, hsent, habort⟩ := abortColl_some (s := s) 0 .deadline hcoll
  have hfound : findCmd (modChan u r.channel (stepDropped c r)) n i = some c := (hsent.findCmd n i).trans hfind
  have hchan : chanOf (failCmd (modChan u r.channel (stepDropped c r)) c .deadline 0 0) r.channel = stepDropped c r (chanOf s r.channel) := by
    rw [chanOf, failCmd_links, ← hsent.chanOf r.channel]
    exact chanOf_modChan u r.channel _
  obtain ⟨hctx, hidx⟩ := findCmd_key hfind
  refine ⟨_, congrArg Host.Outcome.next (hrow.trans habort), failCmd_decides hfound ⟨hctx, hidx⟩ _ _ _, ?_, ?_, ?_⟩
  · rw [hchan, stepDropped]
  · rw [hchan, stepDropped, ← hctx, ← hidx]
    simp
  · exact (failCmd_mem _ _ _ _ _).trans hsent.onlyTraffic.1

/-! ### Lines and aborts received (R302, R310) -/

theorem collDeliver_started {s : State} {f : Flit} {c : Cmd} {r : CollRun} (hcmd : collCmd s (lineChannel f) f.tag = some c)
    (hcoll : c.coll = some r) (hstarted : r.started = true) :
    collDeliver s f = if f.data.length = 1 then abortReceived s c r f else lineStarted s c (coOf c.desc) r f := by
  simp [collDeliver, hcmd, hcoll, hstarted]

theorem findCmd_of_collCmd {s : State} {ch step : Nat} {c : Cmd} (h : collCmd s ch step = some c) : ∃ d, findCmd s c.ctx c.idx = some d :=
  findCmd_of_mem (List.mem_of_find?_eq_some h)

/-- R294, R302: a message of a collective that finds its command, once every other command has settled. -/
theorem collMessage_settled {s t : State} {f : Flit} {n i : Nat} (hearly : s.links.early = []) (htraffic : onlyTraffic s t)
    (hkeyed : keyed (fun d => d.stage ≠ .committed) n i t) :
    turnTaken s (turnOver (settleAll t) f) f ∧ findCmd (turnOver (settleAll t) f) n i = findCmd t n i
      ∧ (turnOver (settleAll t) f).mem = s.mem := by
  have hsettled := htraffic.trans (onlyTraffic_settleAll t)
  exact ⟨turnTaken_of_early (hsettled.early.trans hearly), findCmd_settleAll hkeyed, hsettled.1⟩

/-- R310: what an abort's cause ends the collective with. -/
def abortStatus (f : Flit) : Status := if lineNat f 0 1 = 1 then .state else .deadline

theorem collAbort_ends (s : State) (p : Nat) (f : Flit) (c : Cmd) (r : CollRun) (hnext : nextInOrder s p f)
    (hcmd : collCmd s (lineChannel f) f.tag = some c) (_honly : onlyOne s c) (hplaced : c.stage = .placed) (hcoll : c.coll = some r)
    (_hchannel : r.channel = lineChannel f) (hstarted : r.started = true) (hlen : f.data.length = 1) :
    ∃ t, exec (.collAbort p f) s = .next t ∧ turnTaken s t f
      ∧ decidedAs t c.ctx c.idx (if lineNat f 0 1 = 1 then .state else .deadline) 0 ∧ t.mem = s.mem := by
  have hdeliver : collDeliver s f = failCmd (modChan s r.channel (stepDropped c r)) c (abortStatus f) 0 0 := by
    rw [collDeliver_started hcmd hcoll hstarted, if_pos hlen, abortReceived, if_neg (by rw [hplaced]; decide), endColl_some _ hcoll, abortStatus]
  have hstep := receive_next (m := ⟨mtCollAbort, f⟩) hnext (by decide : 0 < 8 ∧ 8 < 12) rfl rfl
  obtain ⟨⟨-, -, -, -, -, hearly⟩, -⟩ := hnext
  obtain ⟨d, hfind⟩ := findCmd_of_collCmd hcmd
  obtain ⟨k, hfound, hended⟩ := failCmd_decides (s := modChan s r.channel (stepDropped c r)) hfind ⟨rfl, rfl⟩ (abortStatus f) 0 0
  obtain ⟨hturn, hsame, hmem⟩ := collMessage_settled (f := f) (n := c.ctx) (i := c.idx) hearly
    ((onlyTraffic_modChan s r.channel (stepDropped c r)).trans (onlyTraffic_failCmd _ c (abortStatus f) 0 0))
    (keyed_failCmd _ c (abortStatus f) 0 0 (show Stage.decided ≠ Stage.committed by decide))
  rw [← hdeliver] at hturn hsame hmem hfound
  exact ⟨_, congrArg Host.Outcome.next hstep, hturn, ⟨k, hsame.trans hfound, hended⟩, hmem⟩

/-- Settles O18: the row ends its issue, and a deadline or an abort ends the step and the command with it. -/
theorem collectivesEnd : Obligations.CollectivesEnd := ⟨collective_ends, segmentDeadline_ends, collAbort_ends⟩

/-! ### Contributions that enter once (R302, R305, R306, R309) -/

/-- One value entered at its key, where nothing is held there yet and it is not to be skipped. -/
def enterOnce {α : Type} (key : Nat → Nat) (skip : Nat → Bool) (val : Nat → α) (m : AMap α) (t : Nat) : AMap α :=
  if (aget? m (key t)).isSome || skip t then m else aput m (key t) (val t)

theorem aget?_enterOnce {α : Type} {key : Nat → Nat} (hkey : Function.Injective key) (skip : Nat → Bool) (val : Nat → α) (m : AMap α)
    (t e : Nat) :
    aget? (enterOnce key skip val m t) (key e)
      = if e = t ∧ ¬ ((aget? m (key e)).isSome || skip e) = true then some (val e) else aget? m (key e) := by
  unfold enterOnce
  by_cases hsame : e = t
  · subst hsame
    by_cases hheld : ((aget? m (key e)).isSome || skip e) = true
    · rw [if_pos hheld, if_neg fun h => h.2 hheld]
    · rw [if_neg hheld, if_pos ⟨rfl, hheld⟩, aget?_aput, if_pos rfl]
  · rw [if_neg fun h : e = t ∧ _ => hsame h.1, apply_ite (aget? · (key e)), aget?_aput, if_neg fun h => hsame (hkey h), ite_self]

theorem aget?_foldl_enterOnce {α : Type} {key : Nat → Nat} (hkey : Function.Injective key) (skip : Nat → Bool) (val : Nat → α)
    (m : AMap α) (n e : Nat) :
    aget? ((List.range n).foldl (enterOnce key skip val) m) (key e)
      = if e < n ∧ ¬ ((aget? m (key e)).isSome || skip e) = true then some (val e) else aget? m (key e) := by
  induction n with
  | zero => simp
  | succ n ih =>
    rw [List.range_succ, List.foldl_append, List.foldl_cons, List.foldl_nil, aget?_enterOnce hkey, ih]
    by_cases hlast : e = n
    · subst hlast
      simp
    · have hbefore : e < n + 1 ↔ e < n := by omega
      simp [hlast, hbefore]

theorem contribKey_injective (i rank : Nat) : Function.Injective fun t => (i + t) * 16384 + rank := by
  intro a b h
  simp only at h
  omega

/-- R309: each element of a line enters where no contribution of its rank is held and no result is formed. -/
theorem enterContrib_held (x : Co) (r : CollRun) (rank i : Nat) (codes : List Nat) (scale : Nat) {e : Nat} (he : e < codes.length) :
    aget? (enterContrib x r rank i codes scale).contribs ((i + e) * 16384 + rank)
      = if (aget? r.contribs ((i + e) * 16384 + rank)).isSome || (aget? r.results (i + e)).isSome
        then aget? r.contribs ((i + e) * 16384 + rank) else some (widen x (codes.getD e 0) scale) := by
  have hentered := aget?_foldl_enterOnce (contribKey_injective i rank) (fun t => (aget? r.results (i + t)).isSome)
    (fun t => widen x (codes.getD t 0) scale) r.contribs codes.length e
  refine hentered.trans ?_
  split
  next h => rw [if_neg h.2]
  next h => rw [if_pos (by_contra fun hfree => h ⟨he, hfree⟩)]

/-- R302: the collective with a line of contributions entered. -/
def contributed (c : Cmd) (r : CollRun) (f : Flit) : CollRun :=
  enterContrib (coOf c.desc) r (lineRank f) (lineNat f 4 4)
    (lineCodes f 8 ((fmtAt (coOf c.desc).fmtS).width / 8) (min lineElts ((coOf c.desc).count - lineNat f 4 4)))
    (lineNat f (8 + (fmtAt (coOf c.desc).fmtS).width / 8 * min lineElts ((coOf c.desc).count - lineNat f 4 4))
      (if groupSize (coOf c.desc).cfgS = 0 then 0 else scaleBytes (coOf c.desc).cfgS))

theorem lineStarted_contribution {s : State} {f : Flit} {c : Cmd} {r : CollRun} (hreduces : coReduces (coOf c.desc) = true)
    (hmember : memberAt r (lineRank f) = f.src) (hrank : lineRank f < r.members.length) (hline : lineSegment f ≠ descSegment)
    (hgroup : lineNat f 0 4 = r.groupId) (hcontrib : lineNat f 4 4 < 2 ^ 31) :
    lineStarted s c (coOf c.desc) r f = putRun s c (contributed c r f) := by
  have htake : takeLine s c (coOf c.desc) r f = putRun s c (contributed c r f) := by
    simp only [takeLine, hcontrib, hreduces, if_true]
    rfl
  have hknown : ¬ r.members.length ≤ lineRank f := by omega
  simp [lineStarted, hmember, hknown, hline, hgroup, htake]

theorem collLine_enters (s : State) (p : Nat) (f : Flit) (c : Cmd) (r : CollRun) (hnext : nextInOrder s p f)
    (hcmd : collCmd s (lineChannel f) f.tag = some c) (_honly : onlyOne s c) (hplaced : c.stage = .placed) (hcoll : c.coll = some r)
    (hstarted : r.started = true) (hlen : f.data.length ≠ 1) (hreduces : coReduces (coOf c.desc) = true)
    (hmember : memberAt r (lineRank f) = f.src) (hrank : lineRank f < r.members.length) (hline : lineSegment f ≠ descSegment)
    (hgroup : lineNat f 0 4 = r.groupId) (hcontrib : lineNat f 4 4 < 2 ^ 31) :
    ∃ t k r1, exec (.collLine p f) s = .next t ∧ turnTaken s t f ∧ findCmd t c.ctx c.idx = some k ∧ k.coll = some r1
      ∧ r1.results = r.results ∧ r1.committed = r.committed ∧ t.mem = s.mem
      ∧ (∀ e, e < min 32 ((coOf c.desc).count - lineNat f 4 4) →
          aget? r1.contribs ((lineNat f 4 4 + e) * 16384 + lineRank f)
            = if (aget? r.contribs ((lineNat f 4 4 + e) * 16384 + lineRank f)).isSome || (aget? r.results (lineNat f 4 4 + e)).isSome
              then aget? r.contribs ((lineNat f 4 4 + e) * 16384 + lineRank f)
              else some (widen (coOf c.desc) (lineNat f (8 + (fmtAt (coOf c.desc).fmtS).width / 8 * e) ((fmtAt (coOf c.desc).fmtS).width / 8))
                (lineNat f (8 + (fmtAt (coOf c.desc).fmtS).width / 8 * min 32 ((coOf c.desc).count - lineNat f 4 4))
                  (if groupSize (coOf c.desc).cfgS = 0 then 0 else scaleBytes (coOf c.desc).cfgS)))) := by
  have hdeliver : collDeliver s f = putRun s c (contributed c r f) := by
    rw [collDeliver_started hcmd hcoll hstarted, if_neg hlen,
      lineStarted_contribution hreduces hmember hrank hline hgroup hcontrib]
  have hstep := receive_next (m := ⟨mtCollLine, f⟩) hnext (by decide : 0 < 7 ∧ 7 < 12) rfl rfl
  obtain ⟨⟨-, -, -, -, -, hearly⟩, -⟩ := hnext
  obtain ⟨d, hfind⟩ := findCmd_of_collCmd hcmd
  have hfound : findCmd (putRun s c (contributed c r f)) c.ctx c.idx = some { c with coll := some (contributed c r f) } :=
    findCmd_setCmd_self (d := d) _ hfind rfl rfl
  obtain ⟨hturn, hsame, hmem⟩ := collMessage_settled (s := s) (t := putRun s c (contributed c r f)) (f := f) (n := c.ctx) (i := c.idx)
    hearly (.of_same rfl rfl) (keyed_setCmd s (c := { c with coll := some (contributed c r f) }) (by rw [hplaced]; decide))
  rw [← hdeliver] at hturn hsame hmem hfound
  refine ⟨_, _, contributed c r f, congrArg Host.Outcome.next hstep, hturn, hsame.trans hfound, rfl, rfl, rfl, hmem, fun e he => ?_⟩
  have hcodes : ∀ b n, (lineCodes f 8 b n).length = n := fun b n => by simp [lineCodes]
  refine (enterContrib_held _ r _ _ _ _ (by rw [hcodes]; exact he)).trans ?_
  have hcode : (lineCodes f 8 ((fmtAt (coOf c.desc).fmtS).width / 8) (min lineElts ((coOf c.desc).count - lineNat f 4 4))).getD e 0
      = lineNat f (8 + (fmtAt (coOf c.desc).fmtS).width / 8 * e) ((fmtAt (coOf c.desc).fmtS).width / 8) := by
    have he' : e < min lineElts ((coOf c.desc).count - lineNat f 4 4) := he
    simp [lineCodes, he']
  rw [hcode]
  rfl

/-! ### Lines of results (R301, R306, R307) -/

theorem aget?_foldl_aput {α : Type} (i : Nat) (val : Nat → α) (m : AMap α) (n k : Nat) :
    aget? ((List.range n).foldl (fun acc t => aput acc (i + t) (val t)) m) k
      = if i ≤ k ∧ k < i + n then some (val (k - i)) else aget? m k := by
  induction n with
  | zero => rw [if_neg (by omega)]; rfl
  | succ n ih =>
    rw [List.range_succ, List.foldl_append, List.foldl_cons, List.foldl_nil, aget?_aput, ih]
    by_cases hlast : k = i + n
    · rw [if_pos hlast, if_pos (by omega), hlast, Nat.add_sub_cancel_left]
    · have hbefore : (i ≤ k ∧ k < i + (n + 1)) ↔ (i ≤ k ∧ k < i + n) := by omega
      simp [hlast, hbefore]

/-- R306, R307: the element of dst that this member's contributions come to, with the number of ranks added. -/
def formedAt (m : Memory) (x : Co) (r : CollRun) (i : Nat) : W32 × Nat :=
  (w32 (coResult m x i (combineRanks x ((counted r).map (fun q => aget r.contribs (i * 16384 + q) fpZero)))), (counted r).length)

theorem formLine_results (m : Memory) (x : Co) (r : CollRun) (i k : Nat) :
    aget? (formLine m x r i).results k
      = if i ≤ k ∧ k < i + min lineElts (x.count - i) then some (formedAt m x r k) else aget? r.results k := by
  refine (aget?_foldl_aput i (fun t => formedAt m x r (i + t)) r.results (min lineElts (x.count - i)) k).trans ?_
  split
  next h => rw [Nat.add_sub_cancel' h.1]
  next => rfl

theorem foldl_formLine_beside {m : Memory} {x : Co} {k : Nat} (is : List Nat) (r : CollRun)
    (h : ∀ i ∈ is, ¬ (i ≤ k ∧ k < i + lineElts)) : aget? (is.foldl (formLine m x) r).results k = aget? r.results k := by
  induction is generalizing r with
  | nil => rfl
  | cons i is ih =>
    have hbeside := h i (List.mem_cons_self ..)
    have hout : ¬ (i ≤ k ∧ k < i + min lineElts (x.count - i)) := by omega
    rw [List.foldl_cons, ih _ fun j hj => h j (List.mem_cons_of_mem i hj), formLine_results, if_neg hout]

theorem lineStarts_apart {x : Co} {i j k : Nat} (hi : i ∈ lineStarts x) (hj : j ∈ lineStarts x) (hne : j ≠ i)
    (hk : i ≤ k ∧ k < i + lineElts) : ¬ (j ≤ k ∧ k < j + lineElts) := by
  simp only [lineStarts, List.mem_map, lineElts] at hi hj hk ⊢
  obtain ⟨a, -, rfl⟩ := hi
  obtain ⟨b, -, rfl⟩ := hj
  omega

theorem lineStarts_nodup (x : Co) : (lineStarts x).Nodup :=
  List.nodup_range.map fun a b h => by simpa [lineElts] using h

/-- R306, R307: of the lines that wait, the first is formed from the contributions held, whatever lines follow it in its slot. -/
theorem formedFirst {m : Memory} {x : Co} {r : CollRun} {ready : Nat → Bool} {e : Nat} {es : List Nat}
    (hready : (lineStarts x).filter ready = e :: es) (n : Nat) {j : Nat} (hj : j < min lineElts (x.count - e)) :
    aget? (((e :: es).take (max 1 n)).foldl (formLine m x) r).results (e + j) = some (formedAt m x r (e + j)) := by
  obtain ⟨k, hk⟩ : ∃ k, max 1 n = k + 1 := ⟨max 1 n - 1, by omega⟩
  have hnodup : (e :: es).Nodup := hready ▸ (lineStarts_nodup x).filter _
  have hstart : ∀ i ∈ e :: es, i ∈ lineStarts x := fun i hi => List.mem_of_mem_filter (hready ▸ hi)
  have hothers : ∀ i ∈ es.take k, ¬ (i ≤ e + j ∧ e + j < i + lineElts) := fun i hi => by
    have hmem := List.mem_of_mem_take hi
    have hne : i ≠ e := fun h => (List.nodup_cons.mp hnodup).1 (h ▸ hmem)
    exact lineStarts_apart (hstart e (List.mem_cons_self ..)) (hstart i (List.mem_cons_of_mem e hmem)) hne (by omega)
  rw [hk, List.take_succ_cons, List.foldl_cons, foldl_formLine_beside _ _ hothers, formLine_results, if_pos (by omega)]

/-! ### A rally slot (R301) -/

/-- R301: the lines that a slot adds. -/
def slotLines (x : Co) (r : CollRun) : List Nat :=
  ((lineStarts x).filter (lineReady x r)).take (max 1 (slotAddends x / (lineElts * max 1 (counted r).length)))

/-- R301, R307: a slot forms its lines, notes its time, and sends the results where every member receives them. -/
theorem rallySlot_serves {s : State} {ld : Nat} {c : Cmd} {r : CollRun} (hlive : (aget s.linkDies ld {}).resetting = false)
    (honly : slotCandidates s ld = [c]) (hcoll : c.coll = some r) :
    ∃ u r1, messagesLeave (modChan s r.channel (fun k => { k with lastSlot := s.localTime })) u
      ∧ r1.results = ((slotLines (coOf c.desc) r).foldl (formLine s.mem (coOf c.desc)) r).results ∧ rallySlot ld s = putRun u c r1 := by
  have hchoice : slotChoice s (slotCandidates s ld) = some c := by rw [honly]; rfl
  simp only [rallySlot, hlive, hchoice, hcoll, Bool.false_eq_true, if_false]
  split
  · refine ⟨_, _, ?_, ?_, rfl⟩
    · exact seqAll_rel messagesLeave.refl messagesLeave.trans (fun s i => seqAll_rel messagesLeave.refl messagesLeave.trans
        (fun s q => messagesLeave_sendColl s c _ mtCollLine q _ _) _ s) _ _
    · rfl
  · refine ⟨_, _, messagesLeave.refl _, ?_, rfl⟩
    rfl

theorem rallySlot_adds (s : State) (ld n i e : Nat) (c : Cmd) (r : CollRun) (es : List Nat)
    (hlive : (aget s.linkDies ld {}).resetting = false) (hfind : findCmd s n i = some c) (honly : slotCandidates s ld = [c])
    (hcoll : c.coll = some r) (hready : (lineStarts (coOf c.desc)).filter (lineReady (coOf c.desc) r) = e :: es) :
    ∃ t k r1, exec (.rallySlot ld) s = .next t ∧ findCmd t n i = some k ∧ k.coll = some r1 ∧ (chanOf t r.channel).lastSlot = s.localTime
      ∧ (∀ j, j < min 32 ((coOf c.desc).count - e) →
          aget? r1.results (e + j) = some (w32 (coResult s.mem (coOf c.desc) (e + j) (combineRanks (coOf c.desc)
            ((counted r).map (fun q => aget r.contribs ((e + j) * 16384 + q) fpZero)))), (counted r).length))
      ∧ t.mem = s.mem := by
  obtain ⟨u, r1, hsent, hresults, hrow⟩ := rallySlot_serves hlive honly hcoll
  obtain ⟨hctx, hidx⟩ := findCmd_key hfind
  have hfound : findCmd (putRun u c r1) n i = some { c with coll := some r1 } :=
    findCmd_setCmd_self (d := c) _ ((hsent.findCmd n i).trans hfind) hctx hidx
  have hchan : chanOf (putRun u c r1) r.channel = { chanOf s r.channel with lastSlot := s.localTime } :=
    (hsent.chanOf r.channel).trans (chanOf_modChan s r.channel _)
  refine ⟨_, _, r1, congrArg Host.Outcome.next hrow, hfound, rfl, congrArg Channel.lastSlot hchan, fun j hj => ?_, hsent.onlyTraffic.1⟩
  rw [hresults, slotLines, hready]
  exact formedFirst hready _ hj

/-- Settles O19: a line enters its elements once, and a slot's lines do not overlap, so the first reads as it was formed. -/
theorem reductionAdds : Obligations.ReductionAdds := ⟨collLine_enters, rallySlot_adds⟩

end Sys2Proof.Machine
end

section
/-! PROOFS. Deaths and presence (O16): the work of this module that a death changes leaves the records of deaths, presence and order as they are; what
a declaration and a new incarnation write there; then each clause of the obligation from these. -/

namespace Sys2Proof.Machine

/-! ### Traffic that does not wait for a module (R290) -/

/-- R299, R327: traffic leaves the records of deaths and of presence as they are. -/
theorem onlyTraffic.records {s t : State} (h : onlyTraffic s t) :
    t.links.presents = s.links.presents ∧ t.links.dead = s.links.dead ∧ t.links.unreachable = s.links.unreachable
      ∧ t.links.deathLog = s.links.deathLog := by
  obtain ⟨-, _, _, _, _, _, _, _, hlinks⟩ := h
  rw [hlinks]
  exact ⟨rfl, rfl, rfl, rfl⟩

/-- Only traffic moves, and none begins or ends to wait for a module. -/
def quietTo (m : Nat) (s t : State) : Prop := onlyTraffic s t ∧ aget? t.links.waitSince m = aget? s.links.waitSince m

theorem quietTo.refl (m : Nat) (s : State) : quietTo m s s := ⟨.refl s, rfl⟩

theorem quietTo.trans {m : Nat} {s t u : State} (hst : quietTo m s t) (htu : quietTo m t u) : quietTo m s u :=
  ⟨hst.1.trans htu.1, htu.2.trans hst.2⟩

theorem quietTo_failCmd (m : Nat) (s : State) (c : Cmd) (st : Status) (order result : Nat) : quietTo m s (failCmd s c st order result) :=
  ⟨onlyTraffic_failCmd s c st order result, by rw [failCmd_links]⟩

theorem quietTo_send {m dst : Nat} (s : State) (mask mtype cls epoch tag address : Nat) (data : List Byte) (h : dst ≠ m) :
    quietTo m s (send s mask mtype cls dst epoch tag address data) := by
  refine ⟨(messagesLeave_send s mask mtype cls dst epoch tag address data).onlyTraffic, ?_⟩
  unfold send emit
  dsimp only
  split
  · rfl
  · dsimp only
    split
    · rfl
    · rw [aget?_aput, if_neg (Ne.symm h)]

/-- What each action on a list's elements does to the state, all of them in order do. -/
theorem seqAll_rel_mem {α : Type} {R : State → State → Prop} {f : State → α → State} (hrefl : ∀ s, R s s)
    (htrans : ∀ {s t u}, R s t → R t u → R s u) (xs : List α) (hf : ∀ s, ∀ x ∈ xs, R s (f s x)) (s : State) : R s (seqAll s xs f) := by
  induction xs generalizing s with
  | nil => exact hrefl s
  | cons x xs ih =>
    exact htrans (hf s x (List.mem_cons_self ..)) (ih (fun s y hy => hf s y (List.mem_cons_of_mem x hy)) (f s x))

/-! ### Huddles that a death aborts (R252) -/

theorem quietTo_huddleEnd {m : Nat} (epoch : Nat) (st : Status) (id : Nat) (s : State) {a : HuddleArrival} (h : a.module ≠ m) :
    quietTo m s (huddleEnd epoch st id s a) := by
  unfold huddleEnd
  split
  · split
    · split
      · exact quietTo_failCmd m s _ _ _ _
      · exact .refl m s
    · exact .refl m s
  · exact quietTo_send s _ _ _ _ _ _ _ h

theorem quietTo_huddleAbort (m : Nat) (s : State) (id : Nat) (st : Status) : quietTo m s (huddleAbort s id st (some m)) := by
  have hcleared : quietTo m s (setHuddle s id (nextEpoch (huddleOf s id))) := ⟨.of_same rfl rfl, rfl⟩
  refine hcleared.trans (seqAll_rel_mem (quietTo.refl m) quietTo.trans _ (fun t a ha => ?_) _)
  have hother : a.module ≠ m := fun hself => by simp [hself] at ha
  exact quietTo_huddleEnd _ st id t hother

theorem quietTo_huddleDeaths (s : State) (m : Nat) : quietTo m s (huddleDeaths s m) :=
  (seqAll_rel (quietTo.refl m) quietTo.trans (fun s id => quietTo_huddleAbort m s id .moduleDead) _ s).trans
    (seqAll_rel (quietTo.refl m) quietTo.trans (fun s c => quietTo_failCmd m s c .moduleDead 0 0) _ _)

/-! ### Collectives that a death changes (R310, R311) -/

theorem onlyTraffic_endColl (s : State) (c : Cmd) (st : Status) : onlyTraffic s (endColl s c st) := by
  cases hcoll : c.coll with
  | none =>
    have hfails : endColl s c st = failCmd s c st 0 0 := by simp only [endColl, hcoll]
    rw [hfails]
    exact onlyTraffic_failCmd s c st 0 0
  | some r =>
    rw [endColl_some st hcoll]
    exact (onlyTraffic_modChan s _ _).trans (onlyTraffic_failCmd _ c st 0 0)

theorem messagesLeave_sendLine (m : Memory) (c : Cmd) (x : Co) (s : State) (r : CollRun) (i : Nat) :
    messagesLeave s (sendLine m c x s r i).1 := by
  unfold sendLine
  dsimp only
  split
  · split
    · exact .refl s
    · exact messagesLeave_sendColl s c r mtCollLine _ _ _
  · split
    · exact .refl s
    · exact seqAll_rel messagesLeave.refl messagesLeave.trans (fun s q => messagesLeave_sendColl s c r mtCollLine q _ _) _ s

theorem messagesLeave_sendLines (m : Memory) (c : Cmd) (x : Co) (is : List Nat) (s : State) (r : CollRun) :
    messagesLeave s (sendLines m c x s r is).1 := by
  induction is generalizing s r with
  | nil => exact .refl s
  | cons i is ih => exact (messagesLeave_sendLine m c x s r i).trans (ih _ _)

theorem onlyTraffic_putRun (s : State) (c : Cmd) (r : CollRun) : onlyTraffic s (putRun s c r) := .of_same rfl rfl

theorem onlyTraffic_collDeaths (s : State) (c : Cmd) (ds : List Nat) : onlyTraffic s (collDeaths s c ds) := by
  unfold collDeaths
  split
  · exact .refl s
  · dsimp only
    split
    · split
      · exact onlyTraffic_putRun s c _
      · exact .refl s
    · split
      · exact onlyTraffic_endColl s c _
      · exact (messagesLeave_sendLines _ c _ _ s _).onlyTraffic.trans (onlyTraffic_putRun _ c _)

/-! ### Commands that lose a module (R206, R250, R297, R298) -/

theorem onlyTraffic_askLine (c : Cmd) (s : State) (l : Nat) : onlyTraffic s (askLine c s l) := by
  unfold askLine
  split
  · refine onlyTraffic.trans ?_ (messagesLeave_send _ 0 mtReadReq _ _ _ _ _ _).onlyTraffic
    exact ⟨rfl, _, _, _, _, _, _, _, rfl⟩
  · exact .refl s

theorem onlyTraffic_redirect (m : Nat) (s : State) (c : Cmd) : onlyTraffic s (redirect m s c) := by
  unfold redirect
  split
  · exact .trans (.of_same rfl rfl) (seqAll_rel onlyTraffic.refl onlyTraffic.trans (onlyTraffic_askLine _) _ _)
  · exact .refl s

theorem onlyTraffic_cmdLoses (m : Nat) (s : State) (c : Cmd) : onlyTraffic s (cmdLoses m s c) := by
  unfold cmdLoses
  split
  · exact onlyTraffic_failCmd s c _ _ _
  · split
    · split
      · exact onlyTraffic_failCmd s c _ _ _
      · exact .trans (.of_same rfl rfl) (onlyTraffic_settle _ _)
    · split
      · exact .of_same rfl rfl
      · exact onlyTraffic_redirect m s c

theorem onlyTraffic_eachCmd {f : State → Cmd → State} (hf : ∀ s c, onlyTraffic s (f s c)) (s : State) : onlyTraffic s (eachCmd s f) := by
  refine seqAll_rel onlyTraffic.refl onlyTraffic.trans (fun t k => ?_) _ s
  split
  · exact hf t _
  · exact .refl t

/-- R300: what a death does to the work of this module leaves the records of deaths, presence and order. -/
theorem onlyTraffic_loseModule (s : State) (m : Nat) : onlyTraffic s (loseModule s m) := by
  have hfreed : onlyTraffic s { s with links := { s.links with reads := s.links.reads.filter (fun r => r.module != m) } } :=
    ⟨rfl, _, _, _, _, _, _, _, rfl⟩
  refine (((hfreed.trans (onlyTraffic_eachCmd (onlyTraffic_cmdLoses m) _)).trans (quietTo_huddleDeaths _ m).1).trans
    (onlyTraffic_eachCmd (fun s c => onlyTraffic_collDeaths s c [m]) _)).trans (.trans ?_ (onlyTraffic_settleAll _))
  dsimp only
  split
  · exact .of_same rfl rfl
  · exact .refl _

/-! ### Declarations (R299, R319, R327) -/

theorem w32_toNat (v : W32) : w32 v.toNat = v := BitVec.eq_of_toNat_eq (by simp [w32])

/-- R299, R327: the links with a module declared dead and the declaration logged. -/
def declared (s : State) (m : Nat) (inc : W32) (cause : Nat) : State :=
  { s with links :=
    { s.links with dead := aput s.links.dead m inc, lastDead := m
                   deathLog := logDeath s.links.deathLog { module := m, incarnation := inc, cause := cause, time := s.localTime } } }

theorem linkEvent_links (s : State) (b : Nat) : ∃ e k, (linkEvent s b).links = { s.links with evt := e, evtCnt := k } := by
  obtain ⟨⟨_, _, hraised⟩, -⟩ := linkEvent_raised s b
  rw [hraised]
  exact ⟨_, _, rfl⟩

theorem logEvent_links (s : State) (source severity code unit data : Nat) : (logEvent s source severity code unit data).links = s.links := by
  obtain ⟨_, _, _, _, hlogged⟩ := logEvent_frame s source severity code unit data
  rw [hlogged]

/-- R299, R318, R423: a declaration with its event and its log record. -/
def deathNoted (s : State) (m : Nat) (inc : W32) (cause : Nat) : State :=
  logEvent (linkEvent (declared s m inc cause) 0) lsHub 2 0x0040 m inc.toNat

theorem messagesLeave_flood (s : State) (arrived : Option Nat) (m : Nat) (inc : W32) (cause : Nat) :
    messagesLeave s (flood s arrived m inc cause) :=
  seqAll_rel messagesLeave.refl messagesLeave.trans (fun s p => messagesLeave_sendOn s p mtDeath _) _ s

theorem declareDeath_fresh {s : State} {m : Nat} {inc : W32} (arrived : Option Nat) (cause : Nat) (h : deathKnown s m inc = false) :
    declareDeath s arrived m inc cause
      = loseModule (flood (deathNoted s m inc cause) arrived m inc cause) m := by
  simp only [declareDeath, h, Bool.false_and, Bool.false_eq_true, if_false, Bool.not_false, if_true]
  rfl

/-- R299, R327: a first declaration stands in the death map and in the log, and no message is held back by it. -/
theorem declareDeath_leaves {s : State} {m : Nat} {inc : W32} (arrived : Option Nat) (cause : Nat) (h : deathKnown s m inc = false) :
    aget? (declareDeath s arrived m inc cause).links.dead m = some inc ∧ (declareDeath s arrived m inc cause).links.lastDead = m
      ∧ (declareDeath s arrived m inc cause).links.deathLog
        = logDeath s.links.deathLog { module := m, incarnation := inc, cause := cause, time := s.localTime }
      ∧ (declareDeath s arrived m inc cause).links.early = s.links.early := by
  obtain ⟨-, _, _, _, _, _, _, _, hlinks⟩ := (messagesLeave_flood (deathNoted s m inc cause) arrived m inc cause).onlyTraffic.trans
    (onlyTraffic_loseModule (flood (deathNoted s m inc cause) arrived m inc cause) m)
  obtain ⟨_, _, hevent⟩ := linkEvent_links (declared s m inc cause) 0
  rw [declareDeath_fresh arrived cause h, hlinks, deathNoted, logEvent_links, hevent]
  exact ⟨(aget?_aput _ _ _ _).trans (if_pos rfl), rfl, rfl, rfl⟩

theorem deathNotice_declares (s : State) (p m : Nat) (inc : W32) (f : Flit) (hnext : nextInOrder s p f) (hmodule : lineNat f 0 2 = m)
    (hinc : lineNat f 4 4 = inc.toNat) (hm : m < 16384) (hother : m ≠ selfId s)
    (hnewer : (aget s.links.presents m 0#32).toNat ≤ inc.toNat) (hfresh : deathKnown s m inc = false) :
    ∃ t, exec (.deathNotice p f) s = .next t ∧ turnTaken s t f ∧ aget? t.links.dead m = some inc ∧ t.links.lastDead = m
      ∧ t.links.deathLog = logDeath s.links.deathLog { module := m, incarnation := inc, cause := lineNat f 8 1, time := s.localTime } := by
  have hdeliver : deathDeliver s p f = declareDeath s (some p) m inc (lineNat f 8 1) := by
    have hcounts : ¬ (m = selfId s ∨ 16384 ≤ m ∨ inc.toNat < (aget s.links.presents m 0#32).toNat) := by omega
    simp only [deathDeliver, hmodule, hinc, w32_toNat, if_neg hcounts]
  have hstep := receive_next (m := ⟨mtDeath, f⟩) hnext (by decide : 0 < 11 ∧ 11 < 12) rfl (congrArg some hdeliver)
  obtain ⟨hdead, hlast, hlog, hearly⟩ := declareDeath_leaves (some p) (lineNat f 8 1) hfresh
  obtain ⟨⟨-, -, -, -, -, hnone⟩, -⟩ := hnext
  exact ⟨_, congrArg Host.Outcome.next hstep, turnTaken_of_early (hearly.trans hnone), hdead, hlast, hlog⟩

theorem declareDead_declares (s : State) (m : Nat) (hm : m < 16384) (hother : m ≠ selfId s) (hopen : takesWrites s)
    (hfresh : deathKnown s m (aget s.links.presents m 0#32) = false) :
    ∃ t, exec (.declareDead m) s = .next t ∧ aget? t.links.dead m = some (aget s.links.presents m 0#32) ∧ t.links.lastDead = m
      ∧ t.links.deathLog
        = logDeath s.links.deathLog { module := m, incarnation := aget s.links.presents m 0#32, cause := 3, time := s.localTime } := by
  have hrow : declareDead m s = declareDeath s none m (aget s.links.presents m 0#32) 3 := if_pos ⟨hm, hother⟩
  obtain ⟨hdead, hlast, hlog, -⟩ := declareDeath_leaves none 3 hfresh
  exact ⟨_, congrArg Host.Outcome.next ((barWrite_takesWrites hopen _ _ _ _).trans hrow), hdead, hlast, hlog⟩

/-! ### PRESENT (R299) -/

theorem aget?_adel_self {α : Type} (m : AMap α) (k : Nat) : aget? (adel m k) k = none := by
  induction m with
  | nil => rfl
  | cons e m ih =>
    by_cases he : e.1 = k
    · rw [adel, List.filter_cons_of_neg (by simp [he])]
      exact ih
    · rw [adel, List.filter_cons_of_pos (by simpa using he), aget?, if_neg he]
      exact ih

/-- R299: no traffic waits for a module that has been heard, and its incarnation is noted. -/
def heardAs (s : State) (m : Nat) (inc : W32) : State :=
  { s with links := { s.links with unreachable := srem s.links.unreachable m, waitSince := adel s.links.waitSince m,
                                   presents := aput s.links.presents m inc } }

/-- R252, R299: a module heard anew, with the huddles that its old incarnation shared in aborted. -/
def heardAnew (s : State) (m : Nat) (inc : W32) : State := huddleDeaths (heardAs s m inc) m

theorem undead_leaves (s : State) (m : Nat) :
    aget? (undead s m).links.dead m = none ∧ ∃ d e k, (undead s m).links = { s.links with dead := d, evt := e, evtCnt := k } := by
  unfold undead
  split
  next =>
    obtain ⟨_, _, hlinks⟩ := linkEvent_links { s with links := { s.links with dead := adel s.links.dead m } } 1
    rw [hlinks]
    exact ⟨aget?_adel_self s.links.dead m, _, _, _, rfl⟩
  next halive => exact ⟨by simpa using halive, _, _, _, rfl⟩

theorem presentDeliver_new {s : State} {p m : Nat} {inc : W32} {f : Flit} (hmodule : lineNat f 0 2 = m) (hinc : lineNat f 4 4 = inc.toNat)
    (hm : m < 16384) (hother : m ≠ selfId s) (hnew : newPresent s m inc = true) :
    presentDeliver s p f = sendPresent ((upPorts (heardAnew s m inc)).filter (· != p)) m inc (undead (heardAnew s m inc) m) := by
  have hcounts : ¬ (m = selfId s ∨ 16384 ≤ m) := by omega
  simp only [presentDeliver, hmodule, hinc, w32_toNat, if_neg hcounts, hnew, if_true]
  rfl

/-- R299: what a new incarnation ends, and that no message is held back by it. -/
theorem presentDeliver_leaves {s : State} {p m : Nat} {inc : W32} {f : Flit} (hmodule : lineNat f 0 2 = m)
    (hinc : lineNat f 4 4 = inc.toNat) (hm : m < 16384) (hother : m ≠ selfId s) (hnew : newPresent s m inc = true) :
    aget? (presentDeliver s p f).links.presents m = some inc ∧ aget? (presentDeliver s p f).links.dead m = none
      ∧ m ∉ (presentDeliver s p f).links.unreachable ∧ aget? (presentDeliver s p f).links.waitSince m = none
      ∧ (presentDeliver s p f).links.early = s.links.early := by
  have hsent : quietTo m (undead (heardAnew s m inc) m) (presentDeliver s p f) := by
    rw [presentDeliver_new hmodule hinc hm hother hnew]
    exact seqAll_rel (quietTo.refl m) quietTo.trans (fun s q => ⟨(messagesLeave_sendOn s q mtPresent _).onlyTraffic, rfl⟩) _ _
  have haborted : quietTo m (heardAs s m inc) (heardAnew s m inc) := quietTo_huddleDeaths _ m
  obtain ⟨hdead, _, _, _, hundead⟩ := undead_leaves (heardAnew s m inc) m
  obtain ⟨hpresents, hdead', hunreachable, -⟩ := hsent.1.records
  obtain ⟨hpresents', -, hunreachable', -⟩ := haborted.1.records
  rw [hpresents, hdead', hunreachable, hsent.2, hsent.1.early, hdead, hundead]
  dsimp only
  rw [hpresents', hunreachable', haborted.2, haborted.1.early]
  exact ⟨(aget?_aput _ _ _ _).trans (if_pos rfl), rfl, fun hmem => ((mem_srem _ _ _).mp hmem).2 rfl, aget?_adel_self _ _, rfl⟩

/-- R294: the messages of a module that announces itself anew are numbered from its PRESENT. -/
def renumbered (s : State) (f : Flit) : State :=
  { forgetOrder s f.src with
    links := { (forgetOrder s f.src).links with seqIn := aput (forgetOrder s f.src).links.seqIn (inKey f) (w32 f.seq) } }

/-- R294: a PRESENT in order is delivered at once. -/
theorem accept_present {s : State} {f : Flit} (p : Nat) (hearly : s.links.early = []) (hseq : f.seq = expected s f) :
    accept s p ⟨mtPresent, f⟩ = turnOver (presentDeliver s p f) f :=
  accept_next (m := ⟨mtPresent, f⟩) hearly hseq rfl rfl

theorem receive_present {s : State} {p : Nat} {f : Flit} (harrives : arrivesOn s p f) :
    receive p ⟨mtPresent, f⟩ s
      = if lineNat f 0 2 = f.src ∧ newPresent s f.src (w32 (lineNat f 4 4)) = true then accept (renumbered s f) p ⟨mtPresent, f⟩
        else accept s p ⟨mtPresent, f⟩ := by
  obtain ⟨hlive, hhub, hport, hup, hself, -⟩ := harrives
  have hport' : ¬ 32 ≤ p := by omega
  simp [receive, hlive, hport', hup, hself, hhub, mtPresent, renumbered]

theorem present_ofAnother (s : State) (p m : Nat) (inc : W32) (f : Flit) (hnext : nextInOrder s p f) (hsource : f.src ≠ m)
    (hmodule : lineNat f 0 2 = m) (hinc : lineNat f 4 4 = inc.toNat) (hm : m < 16384) (hother : m ≠ selfId s)
    (hnew : newPresent s m inc = true) :
    ∃ t, exec (.present p f) s = .next t ∧ aget? t.links.presents m = some inc ∧ aget? t.links.dead m = none
      ∧ m ∉ t.links.unreachable ∧ aget? t.links.waitSince m = none := by
  obtain ⟨harrives, hseq⟩ := hnext
  have hstep := receive_present harrives
  obtain ⟨-, -, -, -, -, hearly⟩ := harrives
  rw [if_neg fun h => hsource (h.1.symm.trans hmodule), accept_present p hearly hseq] at hstep
  obtain ⟨hpresents, hdead, hreached, hwaits, -⟩ := presentDeliver_leaves (p := p) hmodule hinc hm hother hnew
  exact ⟨_, congrArg Host.Outcome.next hstep, hpresents, hdead, hreached, hwaits⟩

theorem present_ofItself (s : State) (p m : Nat) (inc : W32) (f : Flit) (harrives : arrivesOn s p f) (hsource : f.src = m)
    (hseq : f.seq < 2 ^ 32) (hmodule : lineNat f 0 2 = m) (hinc : lineNat f 4 4 = inc.toNat) (hm : m < 16384) (hother : m ≠ selfId s)
    (hnew : newPresent s m inc = true) :
    ∃ t, exec (.present p f) s = .next t ∧ turnTaken s t f ∧ aget? t.links.presents m = some inc ∧ aget? t.links.dead m = none
      ∧ m ∉ t.links.unreachable ∧ aget? t.links.waitSince m = none := by
  have hannounced : lineNat f 0 2 = f.src ∧ newPresent s f.src (w32 (lineNat f 4 4)) = true := by
    rw [hmodule, hsource, hinc, w32_toNat]
    exact ⟨rfl, hnew⟩
  have hearly : (renumbered s f).links.early = [] := by
    obtain ⟨-, -, -, -, -, hnone⟩ := harrives
    simp [renumbered, forgetOrder, hnone]
  have hturn : f.seq = expected (renumbered s f) f := by
    have hexpected : expected (renumbered s f) f = (w32 f.seq).toNat :=
      congrArg BitVec.toNat ((aget_aput _ _ _ _ _).trans (if_pos rfl))
    rw [hexpected, w32, BitVec.toNat_ofNat, Nat.mod_eq_of_lt hseq]
  have hstep := receive_present harrives
  rw [if_pos hannounced, accept_present p hearly hturn] at hstep
  obtain ⟨hpresents, hdead, hreached, hwaits, hsame⟩ := presentDeliver_leaves (s := renumbered s f) (p := p) hmodule hinc hm hother hnew
  exact ⟨_, congrArg Host.Outcome.next hstep, turnTaken_of_early (hsame.trans hearly), hpresents, hdead, hreached, hwaits⟩

/-! ### Destinations out of reach (R290) -/

theorem unreachableTimeout_counts (s : State) (m : Nat) (w : W64) (hwaits : aget? s.links.waitSince m = some w)
    (hlate : us 10000 < since s w) (hcut : routePorts s m 0 = []) (hreached : m ∉ s.links.unreachable) :
    ∃ t, exec (.unreachableTimeout m) s = .next t ∧ m ∈ t.links.unreachable ∧ t.links.deathLog = s.links.deathLog
      ∧ t.links.dead = s.links.dead := by
  have hrow : unreachableTimeout m s
      = loseModule { s with links := { s.links with unreachable := sins s.links.unreachable m } } m := by
    simp [unreachableTimeout, hwaits, hlate, hcut, hreached]
  obtain ⟨-, hdead, hunreachable, hlog⟩ :=
    (onlyTraffic_loseModule { s with links := { s.links with unreachable := sins s.links.unreachable m } } m).records
  refine ⟨_, congrArg Host.Outcome.next hrow, ?_, hlog, hdead⟩
  rw [hunreachable]
  exact (mem_sins _ _ _).mpr (.inl rfl)

/-- Settles O16: what a notice, a declaration, a PRESENT and a wait write in the records of the links stands, since the work that they change
leaves those records as they are. -/
theorem deathAndPresence : Obligations.DeathAndPresence :=
  ⟨deathNotice_declares, declareDead_declares, present_ofAnother, present_ofItself, unreachableTimeout_counts⟩

end Sys2Proof.Machine
end

section
/-! PROOFS. The watchdogs (O17): what Barista takes over of the hub's records, and what a flood of notices puts on the ports; then each clause
of the obligation from these. -/

namespace Sys2Proof.Machine

/-! ### Holds and restarts (R338, R341) -/

theorem recovEvent_frame (s : State) :
    ∃ o h, recovEvent s
      = { s with recov := { s.recov with evt := withFlag s.recov.evt 0, evtCnt := s.recov.evtCnt + 1 }, out := o, hostPorts := h } :=
  (recovEvent_raised s).1

theorem watchdogTimeout_holdsBarista (s : State) (hreferee : s.recov.refereeHeld = false) (hbarista : s.recov.baristaHeld = false) :
    ∃ t, exec (.watchdogTimeout true) s = .next t
      ∧ t.recov.baristaHeld = true ∧ t.recov.baristaDown = true ∧ t.recov.refereeHeld = false ∧ t.recov.evt = withFlag s.recov.evt 0
      ∧ t.recov.evtCnt = s.recov.evtCnt + 1 ∧ t = { s with recov := t.recov, out := t.out, hostPorts := t.hostPorts } := by
  have hstep : watchdogTimeout true s = recovEvent { s with recov := { s.recov with baristaHeld := true, baristaDown := true } } := by
    simp [watchdogTimeout, hreferee, hbarista]
  obtain ⟨_, _, hevent⟩ := recovEvent_frame { s with recov := { s.recov with baristaHeld := true, baristaDown := true } }
  exact ⟨_, congrArg Host.Outcome.next (hstep.trans hevent), rfl, rfl, hreferee, rfl, rfl, rfl⟩

theorem watchdogTimeout_holdsReferee (s : State) (hreferee : s.recov.refereeHeld = false) (hbarista : s.recov.baristaHeld = false) :
    ∃ t, exec (.watchdogTimeout false) s = .next t
      ∧ t.recov.refereeHeld = true ∧ t.recov.standingIn = true ∧ t.recov.baristaHeld = false ∧ t.recov.evtCnt = s.recov.evtCnt + 1
      ∧ t = { s with recov := t.recov, out := t.out, hostPorts := t.hostPorts } := by
  have hstep : watchdogTimeout false s = recovEvent { s with recov := { s.recov with refereeHeld := true, standingIn := true } } := by
    simp [watchdogTimeout, hreferee, hbarista]
  obtain ⟨_, _, hevent⟩ := recovEvent_frame { s with recov := { s.recov with refereeHeld := true, standingIn := true } }
  exact ⟨_, congrArg Host.Outcome.next (hstep.trans hevent), rfl, rfl, hbarista, rfl, rfl⟩

/-- R422: what Barista takes over of the records that the hub held, whether or not some are dropped. -/
theorem takeHubLog_leaves (s : State) :
    (takeHubLog s).recov = s.recov ∧ (takeHubLog s).mgmt.logHub = []
      ∧ (takeHubLog s).mgmt.logBuffer = (s.mgmt.logBuffer ++ s.mgmt.logHub).take 4096 := by
  unfold takeHubLog
  dsimp only
  split
  case isTrue =>
    obtain ⟨⟨_, _, hevent⟩, -⟩ := mgmtEvent_raised
      { s with mgmt := { s.mgmt with logBuffer := (s.mgmt.logBuffer ++ s.mgmt.logHub).take 4096, logHub := [] } } 4
    rw [hevent]
    exact ⟨rfl, rfl, rfl⟩
  case isFalse => exact ⟨rfl, rfl, rfl⟩

/-- R338: Barista released and counted as restarted now, before it takes over the hub's records. -/
def baristaReleased (s : State) : State :=
  { s with recov :=
    { s.recov with baristaHeld := false, baristaDown := false, restarts := min 255 (s.recov.restarts + 1)
                   restartLog := (s.recov.restartLog ++ [s.localTime]).reverse.take 3 |>.reverse } }

theorem baristaRestart_releases (s : State) (hheld : s.recov.baristaHeld = true) (hrecent : recentRestarts s < 3) :
    ∃ t, exec .baristaRestart s = .next t
      ∧ t.recov.baristaHeld = false ∧ t.recov.baristaDown = false ∧ t.recov.restarts = min 255 (s.recov.restarts + 1)
      ∧ t.recov.evtCnt = s.recov.evtCnt + 1 ∧ t.mgmt.logHub = []
      ∧ t.mgmt.logBuffer = (s.mgmt.logBuffer ++ s.mgmt.logHub).take 4096 := by
  have hstep : baristaRestart s = recovEvent (takeHubLog (baristaReleased s)) := by
    simp [baristaRestart, hheld, hrecent, baristaReleased]
  obtain ⟨hrecov, hhub, hbuffer⟩ := takeHubLog_leaves (baristaReleased s)
  obtain ⟨_, _, hevent⟩ := recovEvent_frame (takeHubLog (baristaReleased s))
  rw [hrecov] at hevent
  exact ⟨_, congrArg Host.Outcome.next (hstep.trans hevent), rfl, rfl, rfl, rfl, hhub, hbuffer⟩

/-! ### The death of the module (R299) -/

/-- The ports and types of the messages sent (R287). -/
def sentKinds (s : State) : List (Nat × Nat) := s.links.out.map (fun m => (m.1, m.2.mtype))

theorem sentKinds_sendOn (s : State) (p mtype : Nat) (data : List Byte) :
    sentKinds (sendOn s p mtype data) = sentKinds s ++ [(p, mtype)] :=
  List.map_append

theorem sentKinds_seqAll_sendOn (mtype : Nat) (data : State → List Byte) (ps : List Nat) (s : State) :
    sentKinds (seqAll s ps (fun s p => sendOn s p mtype (data s))) = sentKinds s ++ ps.map (·, mtype) := by
  induction ps generalizing s with
  | nil => exact (List.append_nil _).symm
  | cons p ps ih =>
    calc sentKinds (seqAll (sendOn s p mtype (data s)) ps (fun s p => sendOn s p mtype (data s)))
        = (sentKinds s ++ [(p, mtype)]) ++ ps.map (·, mtype) := by rw [ih, sentKinds_sendOn]
      _ = sentKinds s ++ (p :: ps).map (·, mtype) := List.append_assoc _ _ _

/-- R299: a notice that starts at this module goes out on every UP port. -/
theorem sentKinds_flood (s : State) (m : Nat) (inc : W32) (cause : Nat) :
    sentKinds (flood s none m inc cause) = sentKinds s ++ (upPorts s).map (·, mtDeath) := by
  have hall : (upPorts s).filter (fun p => (none : Option Nat) != some p) = upPorts s := List.filter_eq_self.mpr fun _ _ => rfl
  rw [flood, hall]
  exact sentKinds_seqAll_sendOn mtDeath (noticeData · m inc cause) (upPorts s) s

theorem hubHeartbeatLoss_signalsDeath (s : State) (hphase : s.phase = .running) :
    ∃ t, exec .hubHeartbeatLoss s = .next t ∧ t.phase = .hubDead
      ∧ t.links.out.map (fun m => (m.1, m.2.mtype)) = s.links.out.map (fun m => (m.1, m.2.mtype)) ++ (upPorts s).map (fun q => (q, 11))
      ∧ t = { s with links := t.links, phase := .hubDead } := by
  have hstep : hubHeartbeatLoss s = { flood s none (selfId s) s.links.incarnation 2 with phase := .hubDead } := if_pos (.inl hphase)
  have hsent := sentKinds_flood s (selfId s) s.links.incarnation 2
  obtain ⟨_, _, _, _, hflood⟩ := messagesLeave_flood s none (selfId s) s.links.incarnation 2
  rw [hflood] at hstep hsent
  exact ⟨_, congrArg Host.Outcome.next hstep, rfl, hsent, rfl⟩

/-- Settles O17: a hold is granted only where none stands, a restart releases it, and the notices of a lost hub go out on the UP ports in
turn. -/
theorem watchdogs : Obligations.Watchdogs :=
  ⟨watchdogTimeout_holdsBarista, watchdogTimeout_holdsReferee, baristaRestart_releases, hubHeartbeatLoss_signalsDeath⟩

end Sys2Proof.Machine
end

section
/-! PROOFS. Snapshots (O41): no operation changes which command it works for, so a turn that ends well ends the issue of its own command; then
what the commit of a VOTE leaves, as the commit of a command that writes its context's registers first. -/

namespace Sys2Proof.Machine

/-! ### The turns of an operation (R325 to R333) -/

/-- An answer that ends a turn well is about the command that took the turn. -/
def keepsKey (c : Cmd) (o : SnapOut) : Prop := ∀ d, o = .done d → d.ctx = c.ctx ∧ d.idx = c.idx

theorem keepsKey_done {c d : Cmd} (hctx : d.ctx = c.ctx) (hidx : d.idx = c.idx) : keepsKey c (.done d)
  | _, rfl => ⟨hctx, hidx⟩

theorem keepsKey_wait (c : Cmd) : keepsKey c .wait := fun _ h => SnapOut.noConfusion h

theorem keepsKey_fails (c : Cmd) (st : Status) : keepsKey c (.fails st) := fun _ h => SnapOut.noConfusion h

theorem keepsKey_read (c : Cmd) (rs : List (Nat × Nat)) : keepsKey c (.read rs) := fun _ h => SnapOut.noConfusion h

theorem keepsKey_request (c : Cmd) : keepsKey c .request := fun _ h => SnapOut.noConfusion h

theorem keepsKey_hold (c : Cmd) (slot bytes : Nat) (d : Cmd) : keepsKey c (.hold slot bytes d) := fun _ h => SnapOut.noConfusion h

theorem keepsKey_ite {c : Cmd} {p : Prop} [Decidable p] {a b : SnapOut} (ha : keepsKey c a) (hb : keepsKey c b) :
    keepsKey c (if p then a else b) := by
  split
  · exact ha
  · exact hb

theorem keepsKey_snapMeet {c : Cmd} (s : State) (used : List (Nat × Nat)) {k : Memory → SnapOut} (hk : ∀ m, keepsKey c (k m)) :
    keepsKey c (snapMeet s used k) := by
  unfold snapMeet
  split
  · exact keepsKey_wait c
  · exact keepsKey_fails c _
  · exact hk _

theorem keepsKey_snapRead {c : Cmd} (s : State) (used writes : List (Nat × Nat)) {k : Memory → SnapOut} (hk : ∀ m, keepsKey c (k m)) :
    keepsKey c (snapRead s c used writes k) := by
  unfold snapRead
  refine keepsKey_ite (keepsKey_fails c _) ?_
  split
  · exact keepsKey_wait c
  · exact keepsKey_fails c _
  · exact hk _

theorem keepsKey_withManifest {c : Cmd} (s : State) (x : Sn) {k : List Ent → SnapOut} (hk : ∀ es, keepsKey c (k es)) :
    keepsKey c (withManifest s x k) :=
  keepsKey_snapMeet s _ fun _ => keepsKey_ite (hk _) (keepsKey_fails c _)

theorem keepsKey_takeStep (s : State) (c : Cmd) (x : Sn) : keepsKey c (takeStep s c x) := by
  unfold takeStep
  exact keepsKey_withManifest s x fun _ => keepsKey_snapMeet s _ fun _ =>
    keepsKey_ite (keepsKey_fails c _) (keepsKey_snapRead s _ _ fun _ => keepsKey_hold c _ _ _)

theorem keepsKey_takeTurn (s : State) (c : Cmd) (x : Sn) (t : Nat) : keepsKey c (takeTurn s c x t) := by
  unfold takeTurn
  split
  · exact keepsKey_request c
  · exact keepsKey_read c _
  · exact keepsKey_takeStep s c x
  · exact keepsKey_ite (keepsKey_done rfl rfl) (keepsKey_wait c)

theorem keepsKey_voteTurn (s : State) (c : Cmd) (x : Sn) (t : Nat) : keepsKey c (voteTurn s c x t) := by
  unfold voteTurn
  split
  · exact keepsKey_read c _
  · exact keepsKey_read c _
  · refine keepsKey_snapRead s _ _ fun _ => ?_
    split
    · exact keepsKey_fails c _
    · exact keepsKey_done rfl rfl

theorem keepsKey_takeIfTurn (s : State) (c : Cmd) (x : Sn) (t : Nat) : keepsKey c (takeIfTurn s c x t) := by
  unfold takeIfTurn
  split
  · exact keepsKey_read c _
  · exact keepsKey_snapRead s _ _ fun _ => keepsKey_ite (keepsKey_takeTurn s c x 0) (keepsKey_done rfl rfl)
  · exact keepsKey_takeTurn s c x _

theorem keepsKey_restoreTurn (s : State) (c : Cmd) (x : Sn) (t : Nat) : keepsKey c (restoreTurn s c x t) := by
  unfold restoreTurn
  split
  · exact keepsKey_read c _
  · refine keepsKey_snapMeet s _ fun _ => ?_
    split
    · exact keepsKey_fails c _
    · refine keepsKey_ite (keepsKey_fails c _) (keepsKey_ite (keepsKey_fails c _) (keepsKey_ite (keepsKey_read c _) ?_))
      exact keepsKey_snapMeet s _ fun _ => keepsKey_ite (keepsKey_fails c _) (keepsKey_snapRead s _ _ fun _ => keepsKey_done rfl rfl)

theorem keepsKey_queryTurn (s : State) (c : Cmd) (x : Sn) (t : Nat) : keepsKey c (queryTurn s c x t) := by
  unfold queryTurn
  split
  · exact keepsKey_read c _
  · exact keepsKey_snapMeet s _ fun _ => keepsKey_snapRead s _ _ fun _ => keepsKey_done rfl rfl

theorem keepsKey_digestTurn (s : State) (c : Cmd) (x : Sn) (t : Nat) : keepsKey c (digestTurn s c x t) := by
  unfold digestTurn
  split
  · exact keepsKey_read c _
  · exact keepsKey_withManifest s x fun _ => keepsKey_snapRead s _ _ fun _ => keepsKey_done rfl rfl

theorem keepsKey_checkTurn (s : State) (c : Cmd) (x : Sn) (t : Nat) : keepsKey c (checkTurn s c x t) := by
  unfold checkTurn
  split
  · exact keepsKey_read c _
  · exact keepsKey_withManifest s x fun _ => keepsKey_read c _
  · exact keepsKey_withManifest s x fun _ => keepsKey_snapRead s _ _ fun _ => keepsKey_snapMeet s _ fun _ =>
      keepsKey_ite (keepsKey_read c _) (keepsKey_snapMeet s _ fun _ => keepsKey_snapRead s _ _ fun _ => keepsKey_done rfl rfl)

theorem keepsKey_snapTurn (s : State) (c : Cmd) : keepsKey c (snapTurn s c) := by
  unfold snapTurn
  dsimp only
  split
  · exact keepsKey_ite (keepsKey_read c _) (keepsKey_takeTurn s c _ _)
  · exact keepsKey_voteTurn s c _ _
  · exact keepsKey_takeIfTurn s c _ _
  · exact keepsKey_restoreTurn s c _ _
  · exact keepsKey_queryTurn s c _ _
  · exact keepsKey_digestTurn s c _ _
  · exact keepsKey_checkTurn s c _ _

/-! ### The end of issue (R237, R321) -/

theorem isSnap_of_op {d : Desc} {k : Nat} (hcls : hClass d = 5) (hop : hOp d = 6) (hsnap : (snOf d).op = k) : isSnap k d = true := by
  have hbyte : fld d 16 1 = k := hsnap
  simp [isSnap, isOp_listed hcls hop, hbyte]

/-- R321: the row of a SNAPSHOT's operation, in a turn that ends well. -/
theorem snapStep_issues {s : State} {n i : Nat} {c d : Cmd} (hvalid : validatedAs s n i 5 6 c) (hearlier : earlierDone s c = true)
    (hawaits : awaits s c = false) (hpeer : c.peerError = none) (hturn : snapTurn s c = .done d) {k : Nat}
    (hsnap : (snOf c.desc).op = k) :
    ∃ t, (.next (snapStep (isSnap k) n i s) : Host.Outcome State Fault Refusal) = .next t
      ∧ findCmd t n i = some { d with stage := .issued } ∧ t = { s with cmds := t.cmds } := by
  obtain ⟨hfind, hcls, hop, hstage⟩ := hvalid
  obtain ⟨hctx, hidx⟩ := findCmd_key hfind
  obtain ⟨hdctx, hdidx⟩ := keepsKey_snapTurn s c d hturn
  have hstep : snapStep (isSnap k) n i s = setCmd s { d with stage := .issued } := by
    simp [snapStep, hfind, isSnap_of_op hcls hop hsnap, hstage, snapAct, hpeer, hearlier, hawaits, hturn]
  exact ⟨_, congrArg Host.Outcome.next hstep, findCmd_setCmd_self _ hfind (hdctx.trans hctx) (hdidx.trans hidx), rfl⟩

/-! ### The commit of a VOTE (R328, R339, R340) -/

/-- R339, R340: a context's registers after the commit of a VOTE. -/
def votedCtx (c : Cmd) (k : Ctx) : Ctx :=
  { k with snapInt := w32 (c.lastValue.toNat % 2 ^ 22), snapDue := c.work.result % 2 == 1
           snapMtbf := w32 (c.lastValue.toNat / 2 ^ 32) }

/-- R339, R340: the state with the registers of a VOTE's context written. -/
def voted (s : State) (c : Cmd) : State := modCtx s c.ctx (votedCtx c)

theorem snapCommit_vote {c : Cmd} (s : State) (hsnap : isSnapshot c.desc = true) (hvote : (snOf c.desc).op = 1) :
    snapCommit s c = voted s c := by
  simp only [snapCommit, hsnap, hvote]
  rfl

theorem taking_vote {c : Cmd} (hvote : (snOf c.desc).op = 1) : taking c = false := by simp [taking, snTakes, hvote]

theorem snapSeal_of_not_taking {c : Cmd} (s : State) (h : taking c = false) : snapSeal s c = c := by simp [snapSeal, h]

theorem snapEnd_of_not_taking {c : Cmd} (s : State) (h : taking c = false) : snapEnd s c = s := by simp [snapEnd, h]

/-- R237, R325: a committed command that waits for no acknowledgement has its status, after what a TAKE records of its cost. -/
theorem settle_committed {c : Cmd} (s : State) (hstage : c.stage = .committed) (hdue : c.acksDue = []) (hcoll : c.coll = none)
    (hsignal : isSignal c.desc = false) :
    settle s c = setCmd (unreserve (release (snapEnd s c) c) c)
      (decided (snapEnd s c) c (committedStatus c.work) 0 c.work.result) := by
  have hsettles : (decide (c.stage = .committed) && acked c && !isSignal c.desc) = true := by
    simp [hstage, acked_of_none_due hdue hcoll, hsignal]
  rw [settle, if_pos hsettles, closeStep_of_no_coll _ hcoll]
  rfl

/-- R92, R238, R325: a commit that is due and whose checks pass goes on with the command sealed. -/
theorem commandCommit_sealed {s s1 : State} {n i : Nat} {c : Cmd} {w : Work} {ops : List BrOp} {heads : List Nat}
    (hdue : commitDue s n i c) (hfinal : finalOf s c = .ready s1 w ops heads) :
    commandCommit n i s = commitHeld s1 (snapSeal s1 { c with work := w }) ops heads s c := by
  obtain ⟨hfind, hstage, hpeer, hawaits, htables⟩ := hdue
  simp only [commandCommit, hfind, if_pos hstage, commitIssued, hpeer, hawaits, htables, hfinal]
  rfl

theorem madeVisible_ctxs (s : State) (c : Cmd) (heads : List Nat) : (madeVisible s c heads).ctxs = s.ctxs := by
  unfold madeVisible
  dsimp only
  obtain ⟨_, htrace⟩ := trace_frame (touchPages _ _) 4 c 0
  rw [htrace]
  rfl

theorem release_ctxs (s : State) (c : Cmd) : (release s c).ctxs = s.ctxs := by
  obtain ⟨_, _, hrelease⟩ := release_frame s c
  rw [hrelease]

/-- R238, R339: the commit of a VOTE that writes at no peer makes its work visible in the state with its context's registers written. -/
theorem makeVisible_vote {s : State} {c : Cmd} (heads : List Nat) (hsnap : isSnapshot c.desc = true) (hvote : (snOf c.desc).op = 1)
    (hlocal : peerPages s (allCells s c.work) = []) :
    makeVisible s c [] heads = settle (setCmd (madeVisible (voted s c) c heads) (committedCmd c)) (committedCmd c) := by
  have hpeers : (cellLines (allCells s c.work)).filter (peerLine (madeVisible (voted s c) c heads)) = [] := by
    rw [peerLine_congr (madeVisible_cset _ c heads)]
    exact peerLines_eq_nil hlocal
  have hmods : ((peerPages s (c.work.writes ++ addedStats s c.work)).map Prod.fst).dedup = [] := by
    rw [show peerPages s (c.work.writes ++ addedStats s c.work) = [] from hlocal]
    rfl
  have hsend := sendCommits_local c hpeers
  simp only [madeVisible, allCells] at hsend
  simp only [makeVisible, applyBrs, List.foldl_nil, List.filterMap_nil, mirror_nil, snapCommit_vote _ hsnap hvote, hmods]
  exact congrArg (fun t => settle (setCmd t (committedCmd c)) (committedCmd c)) hsend

/-- R328, R339, R340: what becomes visible of a VOTE that writes at no peer. -/
theorem makeVisible_vote_leaves {s : State} {c d : Cmd} (heads : List Nat) (hfind : findCmd s c.ctx c.idx = some d)
    (hsnap : isSnapshot c.desc = true) (hsignal : isSignal c.desc = false) (hvote : (snOf c.desc).op = 1) (hcoll : c.coll = none)
    (hlocal : peerPages s (allCells s c.work) = []) :
    decidedAs (makeVisible s c [] heads) c.ctx c.idx (committedStatus c.work) c.work.result
      ∧ workVisible (voted s c) (makeVisible s c [] heads) c.work
      ∧ ctxOf (makeVisible s c [] heads) c.ctx = votedCtx c (ctxOf s c.ctx) := by
  have hmade : findCmd (madeVisible (voted s c) c heads) c.ctx c.idx = some d := by
    rw [findCmd, madeVisible_cmds]
    exact hfind
  have hcommitted := findCmd_setCmd_self (committedCmd c) hmade rfl rfl
  have hvisible : workVisible (voted s c) (setCmd (madeVisible (voted s c) c heads) (committedCmd c)) c.work :=
    madeVisible_workVisible _ c heads
  rw [makeVisible_vote heads hsnap hvote hlocal,
    settle_committed (c := committedCmd c) _ rfl rfl hcoll hsignal, snapEnd_of_not_taking (c := committedCmd c) _ (taking_vote hvote)]
  refine ⟨decidedAs_setCmd (d := committedCmd c) ?_ ⟨rfl, rfl⟩ _ _ _, hvisible.settled (committedCmd c) _, ?_⟩
  · rw [findCmd_unreserve, findCmd_release]
    exact hcommitted
  · rw [ctxOf, setCmd_ctxs, unreserve_ctxs, release_ctxs, setCmd_ctxs, madeVisible_ctxs]
    exact (ctxOf_modCtx s c.ctx (votedCtx c) c.ctx).trans (if_pos rfl)

theorem voteCommit_leaves (s : State) (n i : Nat) (c : Cmd) (w : Work) (hdue : commitDue s n i c) (hcls : hClass c.desc = 5)
    (hop : hOp c.desc = 6) (hvote : (snOf c.desc).op = 1) (hcoll : c.coll = none) (hfinal : finalOf s c = .ready s w [] [])
    (hfine : meetCells s (allCells s w) = .fine) (hlocal : peerPages s (allCells s w) = []) :
    ∃ t, exec (.commandCommit n i) s = .next t ∧ decidedAs t n i (if w.reseq then .resequencedOk else .ok) w.result
      ∧ (ctxOf t c.ctx).snapInt = w32 (c.lastValue.toNat % 2 ^ 22) ∧ (ctxOf t c.ctx).snapMtbf = w32 (c.lastValue.toNat / 2 ^ 32)
      ∧ (ctxOf t c.ctx).snapDue = (w.result % 2 == 1) ∧ t.mem = mapply s.mem (allCells s w) := by
  have ⟨hfind, _⟩ := hdue
  obtain ⟨rfl, rfl⟩ := findCmd_key hfind
  have hseal := snapSeal_of_not_taking (c := { c with work := w }) s (taking_vote hvote)
  have hstep := commandCommit_sealed hdue hfinal
  rw [hseal, commitHeld_local (c := { c with work := w }) [] [] s c hfine hlocal] at hstep
  obtain ⟨hdecided, ⟨hmem, -⟩, hctx⟩ := makeVisible_vote_leaves (c := { c with work := w }) [] hfind
    (by simp [isSnapshot, hcls, hop]) (by simp [isSignal, hop]) hvote hcoll hlocal
  exact ⟨_, congrArg Host.Outcome.next hstep, hdecided, congrArg Ctx.snapInt hctx, congrArg Ctx.snapMtbf hctx,
    congrArg Ctx.snapDue hctx, hmem⟩

/-- Settles O41: a turn that ends well ends the issue of its own command in the row of its operation, and a VOTE's commit writes the registers
that its work leaves alone. -/
theorem snapshots : Obligations.Snapshots := by
  refine ⟨fun s n i c d hvalid hearlier hawaits hpeer hturn => ?_, voteCommit_leaves⟩
  have hrow {k : Nat} := snapStep_issues hvalid hearlier hawaits hpeer hturn (k := k)
  exact ⟨hrow, hrow, hrow, hrow, hrow, hrow, hrow⟩

end Sys2Proof.Machine
end

section
/-! PROOFS. What every command keeps (O2 to O5): which commands answer a next state, and that a command keeps the canonical form of the
memories, the queue and the local time; then each obligation from these. -/

namespace Sys2Proof.Machine

/-! ### What a command answers (R343) -/

/-- Every next state that an outcome gives has a property. -/
def answersIn (P : State → Prop) (o : Host.Outcome State Fault Refusal) : Prop := ∀ t, o = .next t → P t

theorem answersIn.next {P : State → Prop} {t : State} (h : P t) : answersIn P (.next t) := by
  rintro _ ⟨rfl⟩
  exact h

theorem answersIn.window {P : State → Prop} {t : State} {w n : Nat} (h : P t) :
    answersIn P (if w < n then .fault .noSuchAddress else .next t) := by
  split
  · rintro _ ⟨⟩
  · exact .next h

/-- R343: an access is answered within its window and nowhere else. -/
theorem window_answers (w n : Nat) (t : State) :
    (n ≤ w → ∃ u, (if w < n then .fault .noSuchAddress else .next t : Host.Outcome State Fault Refusal) = .next u)
      ∧ (¬ n ≤ w → (if w < n then .fault .noSuchAddress else .next t : Host.Outcome State Fault Refusal) = .fault .noSuchAddress) :=
  ⟨fun h => ⟨t, if_neg (Nat.not_lt.mpr h)⟩, fun h => if_pos (Nat.not_le.mp h)⟩

theorem exec_answers (i : Instr) (s : State) :
    (inWindow i → ∃ t, exec i s = .next t) ∧ (¬ inWindow i → exec i s = .fault .noSuchAddress) := by
  cases i with
  | apertureRead | apertureWrite | apertureAtomic | benchWrite | registerWrite => exact window_answers _ _ _
  | _ => exact ⟨fun _ => ⟨_, rfl⟩, fun h => absurd trivial h⟩

theorem inWindow_of_wf (i : Instr) (h : i.wf = true) : inWindow i := by
  cases i with
  | apertureRead | apertureWrite | apertureAtomic | benchWrite => exact of_decide_eq_true (p := _ ≤ _) h
  | registerWrite => exact of_decide_eq_true (p := _ ≤ _) (Bool.and_eq_true_iff.mp h).2
  | _ => trivial

/-- Settles O5: the accesses of R343 alone can fault, and a well-formed one lies within its window. -/
theorem commandsAnswer : Obligations.CommandsAnswer :=
  ⟨exec_answers, fun i s h => (exec_answers i s).1 (inWindow_of_wf i h)⟩

/-! ### What the drivers of the rows keep (R387; log entries 1, 3 and 5) -/

/-- The canonical form of the memories, the queue and the local time are kept. -/
def keepsForm (s t : State) : Prop := (s.canonical → t.canonical) ∧ t.pending = s.pending ∧ t.localTime = s.localTime

theorem keepsForm.refl (s : State) : keepsForm s s := ⟨id, rfl, rfl⟩

theorem takeStream_keepsForm (perElement batch : Desc → Nat) (s : State) (c : Cmd) : keepsForm s (takeStream perElement batch s c).1 :=
  ⟨takeStream_wf perElement batch s c, takeStream_clock perElement batch s c⟩

theorem descStep_keepsForm {owns : Desc → Bool} {sp : CmdSpec} (n i : Nat) (s : State) (h : ∀ s c, keepsForm s (sp.take s c).1) :
    keepsForm s (descStep owns sp n i s) :=
  ⟨descStep_wf owns sp n i s fun s c hm hb => (h s c).1 ⟨hm, hb⟩, descStep_clock owns sp n i s fun s c => (h s c).2⟩

theorem controlStep_keepsForm {owns : Desc → Bool} {checks : State → Cmd → List Check} {act : State → Cmd → State} (n i : Nat) (s : State)
    (h : ∀ s c, keepsForm s (act s c)) : keepsForm s (controlStep owns checks act n i s) :=
  ⟨controlStep_wf owns checks act n i s fun s c hm hb => (h s c).1 ⟨hm, hb⟩, controlStep_clock owns checks act n i s fun s c => (h s c).2⟩

theorem barWrite_keepsForm {f : State → State} (o n v : Nat) (s : State) (h : ∀ s, keepsForm s (f s)) : keepsForm s (barWrite s o n v f) :=
  ⟨barWrite_wf s o n v f fun s => (h s).1, barWrite_clock s o n v f fun s => (h s).2⟩

theorem ctlWrite_keepsForm {f : State → State} (n v : Nat) (s : State) (h : ∀ s, keepsForm s (f s)) : keepsForm s (ctlWrite n v f s) :=
  ⟨ctlWrite_wf n v f s fun s => (h s).1, ctlWrite_clock n v f s fun s => (h s).2⟩

theorem onEp_keepsForm {f : State → State} (ep : Nat) (s : State) (h : ∀ s, keepsForm s (f s)) : keepsForm s (onEp ep f s) :=
  ⟨onEp_wf ep f s fun s => (h s).1, onEp_clock ep f s fun s => (h s).2⟩

theorem spdmReq_keepsForm {f : State → State} (tr item level : Nat) (s : State) (h : ∀ s, keepsForm s (f s)) :
    keepsForm s (spdmReq tr item level f s) :=
  ⟨spdmReq_wf tr item level f s fun s => (h s).1, spdmReq_clock tr item level f s fun s => (h s).2⟩

/-! ### Every command -/

/-- Every command but a power-on reset keeps the form, the queue and the local time. The rows are taken by their drivers; under each, and
for the rows without one, the laws of their own functions close the case. -/
theorem exec_keepsForm (i : Instr) (s : State) (h : i ≠ .powerOnReset) : answersIn (keepsForm s) (exec i s) := by
  have laws : ∀ {t u : State}, (t.mem.wf = true → t.brMem.wf = true → u.mem.wf = true ∧ u.brMem.wf = true) →
      (u.pending = t.pending ∧ u.localTime = t.localTime) → keepsForm t u := fun hwf hclock => ⟨fun hw => hwf hw.1 hw.2, hclock⟩
  cases i with
  | powerOnReset => exact absurd rfl h
  | matmul | convert | eltwise | scan | window => exact .next (descStep_keepsForm _ _ s fun _ _ => takeStream_keepsForm _ _ _ _)
  | fold | promote | park | unpark | detect | pageMove | tileMove | append | tableUpdate | verify | prefixMatch | prune =>
    exact .next (descStep_keepsForm _ _ s fun s _ => .refl s)
  | attend => exact .next (descStep_keepsForm _ _ s fun s c => ⟨atTake_wf s c, atTake_clock s c⟩)
  | attendBwd => exact .next (descStep_keepsForm _ _ s fun s c => ⟨bwdTake_wf s c, bwdTake_clock s c⟩)
  | fork => exact .next (descStep_keepsForm _ _ s fun s c => ⟨fkTake_wf s c, fkTake_clock s c⟩)
  | fence | wait | signal | huddle | setSwap | standby =>
    exact .next (controlStep_keepsForm _ _ s fun _ _ => laws (fun hm hb => by simp [hm, hb]) (by simp))
  | contextStop | contextResume | contextReset | contextEnable =>
    exact .next (ctlWrite_keepsForm _ _ s fun _ => laws (fun hm hb => by simp [hm, hb]) (by simp))
  | declareDead | retireQueuePop | invAll | branchDirEnable | aclLoad | portEnable | portRetrain | routeStore | routeLoad | msixUnmask
  | traceEnable | benchCheck | benchLoad | swap | logSelect | calendarSet | fwActivate | cancelPending =>
    exact .next (barWrite_keepsForm _ _ _ s fun _ => laws (fun hm hb => by simp [hm, hb]) (by simp))
  | apertureWrite | benchWrite =>
    exact .window (barWrite_keepsForm _ _ _ s fun _ => laws (fun hm hb => by simp [hm, hb]) (by simp))
  | apertureRead | apertureAtomic | registerWrite => exact .window (laws (fun hm hb => by simp [hm, hb]) (by simp))
  | logRead | wake | setEndpointId | getEndpointId | getEndpointUuid | getMctpVersionSupport | getMessageTypeSupport
  | getVendorDefinedMessageSupport | getTid | setTid | getPldmVersion | getPldmTypes | getPldmCommands | getPdrRepositoryInfo | getPdr
  | getSensorReading | setNumericSensorEnable | setEventReceiver | pollForPlatformEventMessage | queryDeviceIdentifiers
  | getFirmwareParameters | requestUpdate | passComponentTable | updateComponent | firmwareData | transferComplete | activateFirmware
  | getStatus | cancelUpdateComponent | cancelUpdate =>
    exact .next (onEp_keepsForm _ s fun _ => laws (fun hm hb => by simp [hm, hb]) (by simp))
  | getCapabilities | negotiateAlgorithms | getDigests | getCertificate | challenge | keyExchange | finish | heartbeat | keyUpdate
  | endSession | report => exact .next (spdmReq_keepsForm _ _ _ s fun _ => laws (fun hm hb => by simp [hm, hb]) (by simp))
  | _ => exact .next (laws (fun hm hb => by simp [hm, hb]) (by simp))

theorem powerOnReset_pending (s : State) : (powerOnReset s).pending = s.pending := by simp [powerOnReset, resetState]

theorem tick_canonical (s : State) (h : s.canonical) : (tick s).canonical := h

/-- Settles O3: but for POWER_ON_RESET every command keeps queue and time, and POWER_ON_RESET keeps the queue. -/
theorem commandsKeepQueueAndTime : Obligations.CommandsKeepQueueAndTime := by
  intro i s t h
  by_cases hpor : i = .powerOnReset
  · subst hpor
    exact answersIn.next (P := fun u => u.pending = s.pending ∧ _) ⟨powerOnReset_pending s, fun hne => absurd rfl hne⟩ t h
  · obtain ⟨-, hpending, htime⟩ := exec_keepsForm i s hpor t h
    exact ⟨hpending, fun _ => htime⟩

/-- Settles O4: an idle step changes no memory, and every command keeps the canonical form. -/
theorem stepKeepsCanonicalMemory : Obligations.StepKeepsCanonicalMemory := by
  intro s t hw h
  cases hq : s.pending with
  | nil =>
    rw [step, hq] at h
    exact answersIn.next (tick_canonical s hw) t h
  | cons i q =>
    rw [stepRunsFront s i q hq] at h
    by_cases hpor : i = .powerOnReset
    · subst hpor
      exact answersIn.next (powerOnReset_wf (s.withQueue q) hw) t h
    · exact (exec_keepsForm i (s.withQueue q) hpor t h).1 hw

/-- Settles O2: with no command in the queue a step is a tick. -/
theorem idleStepIsOneHCycle : Obligations.IdleStepIsOneHCycle := by
  intro s h
  refine ⟨tick s, by rw [step, h], rfl, ?_, rfl⟩
  by_cases hedge : Config.calEdge s.localTime
  · exact .inr (if_pos hedge)
  · exact .inl (if_neg hedge)

/-! ### BAR0 until start-up ends (R408) -/

theorem barOpen_startup {s : State} {r : Bool} (h : s.phase = .startup r) : barOpen s = false := by simp [barOpen, h]

theorem isReduced_startup {s : State} {r : Bool} (h : s.phase = .startup r) : isReduced s s.owner = false := by simp [isReduced, h]

theorem registerWrite_startup {s : State} {r : Bool} (h : s.phase = .startup r) (o n v : Nat) : registerWrite s.owner o n v s = s := by
  unfold registerWrite barWrite
  simp [barOpen_startup h, isReduced_startup h]

/-- Settles O47: before step 8 the function is neither open nor reduced. -/
theorem barReadsZeroUntilReady : Obligations.BarReadsZeroUntilReady := by
  refine ⟨fun s r o h => ?_, fun s r o n v h _ hwindow => ?_, fun s h => ?_⟩
  · simp [regRead, isReduced_startup h, barOpen_startup h]
  · rw [exec_registerWrite s.owner v s hwindow, registerWrite_startup h]
  · simp [regRead, isReduced_owner h, h, readWord, readHub]

end Sys2Proof.Machine
end

section
/-! PROOFS. The clocks of the regions (O52): a list of regions changed and put under their limits; then each clause of the obligation from
these. -/

namespace Sys2Proof.Machine

/-! ### Regions under their limits (R392, R394) -/

/-- R389, R394: the limits rest on the thermal emergency and on the active set alone. -/
theorem levelled_congr {s u : State} (hp : u.power.emergency = s.power.emergency) (hc : u.cset = s.cset) (r : Nat) (x : Region) :
    levelled u r x = levelled s r x := by
  have hreserved : regionReserved u r = regionReserved s r := by simp only [regionReserved, groupOf, hc]
  have hprofile : profile u = profile s := by simp only [profile, hc]
  simp only [levelled, limitMhz, floorMhz, hp, hreserved, hprofile]

/-- A region changed, then under its limits. -/
def relevelled (f : Nat → Region → Region) (s : State) (r : Nat) : State := applyLevels (modRegion s r (f r)) r

theorem relevelled_onlyRegions (f : Nat → Region → Region) (s : State) (r : Nat) : onlyRegions s (relevelled f s r) := ⟨_, rfl⟩

theorem regionOf_relevelled (f : Nat → Region → Region) (s : State) (r j : Nat) :
    regionOf (relevelled f s r) j = if j = r then levelled s r (f r (regionOf s r)) else regionOf s j := by
  simp only [relevelled, applyLevels, regionOf_modRegion, if_true]
  split
  · exact levelled_congr rfl rfl _ _
  · rfl

/-- Regions changed one after the other: each from what it was, whatever the others became. -/
theorem regionOf_seqAll_relevelled (f : Nat → Region → Region) (rs : List Nat) (hrs : rs.Nodup) (s : State) (j : Nat) :
    regionOf (seqAll s rs (relevelled f)) j = if j ∈ rs then levelled s j (f j (regionOf s j)) else regionOf s j := by
  induction rs generalizing s with
  | nil => rfl
  | cons r rs ih =>
    obtain ⟨hr, hrest⟩ := List.nodup_cons.mp hrs
    have hkeeps : ∀ x, levelled (relevelled f s r) j x = levelled s j x := levelled_congr rfl rfl j
    show regionOf (seqAll (relevelled f s r) rs (relevelled f)) j = _
    rw [ih hrest, regionOf_relevelled, hkeeps]
    by_cases hj : j = r
    · simp [hj, hr]
    · simp [hj]

theorem regionOf_allRegions (s : State) (f : Nat → Region → Region) {r : Nat} (h : r < 64) :
    regionOf (allRegions s f) r = levelled s r (f r (regionOf s r)) :=
  (regionOf_seqAll_relevelled f _ List.nodup_range s r).trans (if_pos (List.mem_range.mpr h))

theorem regionOf_dieRegions (s : State) (d : Nat) (f : Nat → Region → Region) (q : Nat) :
    regionOf (dieRegions s d f) q = if q / 4 = d then levelled s q (f q (regionOf s q)) else regionOf s q := by
  have hmem : q ∈ (List.range 4).map (4 * d + ·) ↔ q / 4 = d := by simp [List.range_succ]; omega
  refine (regionOf_seqAll_relevelled f _ (List.nodup_range.map fun a b h => by simpa using h) s q).trans ?_
  simp only [hmem]

theorem allRegions_onlyRegions (s : State) (f : Nat → Region → Region) : onlyRegions s (allRegions s f) :=
  seqAll_rel onlyRegions.refl onlyRegions.trans (relevelled_onlyRegions f) _ s

theorem dieRegions_onlyRegions (s : State) (d : Nat) (f : Nat → Region → Region) : onlyRegions s (dieRegions s d f) :=
  seqAll_rel onlyRegions.refl onlyRegions.trans (relevelled_onlyRegions f) _ s

theorem floorMhz_ge (s : State) (r : Nat) : 900 ≤ floorMhz s r := by
  unfold floorMhz
  split <;> decide

/-- R394: a set clock is within the throttle level, or at the floor. -/
theorem limitMhz_le_throttle (s : State) (r : Nat) (x : Region) : limitMhz s r x ≤ max (floorMhz s r) x.throttle := by
  have hfloor := floorMhz_ge s r
  unfold limitMhz
  split <;> omega

/-- R394: a set clock is within the cap level, or at the floor. -/
theorem limitMhz_le_cap (s : State) (r : Nat) (x : Region) : limitMhz s r x ≤ max (floorMhz s r) x.capLevel := by
  have hfloor := floorMhz_ge s r
  unfold limitMhz
  split <;> omega

theorem floorMhz_of_loose {s : State} {r : Nat} (h : regionReserved s r = false) : floorMhz s r = 900 := by simp [floorMhz, h]

/-! ### The power-cap loop (R396) -/

/-- A period notes the input power and its time. -/
def capNoted (s : State) (w : Nat) : State := { s with power := { s.power with inputW := w % 65536, capAt := s.localTime } }

theorem powerCapPeriod_due {s : State} (w : Nat) (hrun : s.phase = .running) (hdue : us 100 ≤ since s s.power.capAt) :
    powerCapPeriod w s = capAct (capNoted s w) w :=
  if_pos (by simp [hrun, hdue])

theorem looseAbove_of {s : State} {r : Nat} (hr : r < 64) (hloose : regionReserved s r = false) (habove : 900 < (regionOf s r).setMhz) :
    looseAbove s = true :=
  List.any_eq_true.mpr ⟨r, List.mem_range.mpr hr, by simp [hloose, habove]⟩

theorem anyAbove_of {s : State} {r : Nat} (hr : r < 64) (hloose : regionReserved s r = false) (habove : 900 < (regionOf s r).setMhz) :
    anyAbove s = true :=
  List.any_eq_true.mpr ⟨r, List.mem_range.mpr hr, by simp [floorMhz_of_loose hloose, habove]⟩

theorem levelled_capLevel (s : State) (r : Nat) (x : Region) : (levelled s r x).capLevel = x.capLevel := rfl

theorem powerCapPeriod_lowers (s : State) (w r : Nat) (hrun : s.phase = .running) (hdue : us 100 ≤ since s s.power.capAt)
    (hover : budgetW (profile s) < w) (hr : r < 64) (hloose : regionReserved s r = false) (habove : 900 < (regionOf s r).setMhz) :
    ∃ t, exec (.powerCapPeriod w) s = .next t ∧ (regionOf t r).capLevel = max 900 ((regionOf s r).setMhz - 25)
      ∧ (regionOf t r).setMhz ≤ max 900 ((regionOf s r).setMhz - 25)
      ∧ (∀ q, regionReserved s q = true → (regionOf t q).capLevel = (regionOf s q).capLevel)
      ∧ t.power = { s.power with inputW := w % 65536, capAt := s.localTime } ∧ t = { s with power := t.power, regions := t.regions } := by
  let n := capNoted s w
  have hlooseAbove : looseAbove n = true := looseAbove_of (s := n) hr hloose habove
  have hrow : powerCapPeriod w s = capLower n :=
    (powerCapPeriod_due w hrun hdue).trans ((if_pos hover).trans (if_pos (anyAbove_of (s := n) hr hloose habove)))
  have hreserved : regionReserved n = regionReserved s := rfl
  have hregions : regionOf n = regionOf s := rfl
  have hregion : (regionOf (capLower n) r).capLevel = max 900 ((regionOf s r).setMhz - 25)
      ∧ (regionOf (capLower n) r).setMhz ≤ max 900 ((regionOf s r).setMhz - 25) := by
    have hfloor : floorMhz n r = 900 := floorMhz_of_loose (s := n) hloose
    have hbound := limitMhz_le_cap n r { regionOf s r with capLevel := max 900 ((regionOf s r).setMhz - 25) }
    unfold capLower
    rw [regionOf_allRegions n _ hr]
    simp only [hlooseAbove, hreserved, hregions, hloose, hfloor, habove, Bool.not_false, Bool.true_or, decide_true, Bool.and_self, if_true]
    exact ⟨rfl, hbound.trans (by simp [hfloor])⟩
  refine ⟨_, congrArg Host.Outcome.next hrow, hregion.1, hregion.2, fun q hq => ?_, ?_⟩
  · by_cases hq64 : q < 64
    · unfold capLower
      rw [regionOf_allRegions n _ hq64]
      simp [hlooseAbove, hreserved, hregions, hq, levelled_capLevel]
    · unfold capLower allRegions
      exact congrArg Region.capLevel ((regionOf_seqAll_relevelled _ _ List.nodup_range n q).trans (if_neg (by simpa using hq64)))
  · obtain ⟨k, hk⟩ := allRegions_onlyRegions n (fun r x =>
      if (!(regionReserved n r) || !(looseAbove n)) && decide (floorMhz n r < x.setMhz) then { x with capLevel := max (floorMhz n r) (x.setMhz - 25) }
      else x)
    have hk : capLower n = { n with regions := k } := hk
    rw [hk]
    exact ⟨rfl, rfl⟩

theorem powerCapPeriod_between (s : State) (w : Nat) (hrun : s.phase = .running) (hdue : us 100 ≤ since s s.power.capAt)
    (hwithin : w ≤ budgetW (profile s)) (hnear : budgetW (profile s) ≤ w + 100) :
    exec (.powerCapPeriod w) s = .next { s with power := { s.power with inputW := w % 65536, capAt := s.localTime } } :=
  congrArg Host.Outcome.next ((powerCapPeriod_due w hrun hdue).trans
    ((if_neg (Nat.not_lt.mpr hwithin)).trans (if_neg (Nat.not_lt.mpr hnear))))

theorem powerCapPeriod_raises (s : State) (w r : Nat) (hrun : s.phase = .running) (hdue : us 100 ≤ since s s.power.capAt)
    (hwell : w + 100 < budgetW (profile s)) (hduty : dutyLimited s = false) (hr : r < 64) :
    ∃ t, exec (.powerCapPeriod w) s = .next t ∧ (regionOf t r).capLevel = min 1500 ((regionOf s r).capLevel + 25)
      ∧ t.power = { s.power with inputW := w % 65536, capAt := s.localTime } ∧ t = { s with power := t.power, regions := t.regions } := by
  let n := capNoted s w
  let f : Nat → Region → Region := fun _ x => { x with capLevel := min 1500 (x.capLevel + 25) }
  have hnot : ¬ budgetW (profile s) < w := by omega
  have hduty : dutyLimited n = false := hduty
  have hrow : powerCapPeriod w s = allRegions n f :=
    (powerCapPeriod_due w hrun hdue).trans ((if_neg hnot).trans ((if_pos hwell).trans (if_neg (by rw [hduty]; decide))))
  refine ⟨_, congrArg Host.Outcome.next hrow, congrArg Region.capLevel (regionOf_allRegions n f hr), ?_⟩
  obtain ⟨k, hk⟩ := allRegions_onlyRegions n f
  rw [hk]
  exact ⟨rfl, rfl⟩

/-! ### One region (R390, R392, R393, R395) -/

theorem regionOf_modRegion_other (s : State) (r : Nat) (f : Region → Region) (q : Nat) (h : q ≠ r) : regionOf (modRegion s r f) q = regionOf s q :=
  (regionOf_modRegion s r f q).trans (if_neg h)

theorem regionOf_modRegion_self (s : State) (r : Nat) (f : Region → Region) : regionOf (modRegion s r f) r = f (regionOf s r) :=
  (regionOf_modRegion s r f r).trans (if_pos rfl)

/-- R393: where a region may boost, the boost profile is active and there is no emergency. -/
theorem mayBoost_profile {s : State} {r : Nat} (h : mayBoost s r = true) : profile s = 0 ∧ s.power.emergency = false := by
  simp only [mayBoost, Bool.and_eq_true, beq_iff_eq, Bool.not_eq_true'] at h
  obtain ⟨⟨⟨⟨hprofile, _⟩, _⟩, _⟩, hcalm⟩ := h
  exact ⟨hprofile, hcalm⟩

theorem boostStep_raises (s : State) (r : Nat) (hrun : s.phase = .running) (hr : r < 64) (hmay : mayBoost s r = true)
    (hdue : us 100 ≤ since s (regionOf s r).lastBoost) :
    ∃ t, exec (.boostStep r) s = .next t ∧ (regionOf t r).lastBoost = s.localTime ∧ (∀ q, q ≠ r → regionOf t q = regionOf s q)
      ∧ ((regionOf s r).capLevel = 1500 → (regionOf s r).throttle = 1500 → 1250 ≤ (regionOf s r).boost →
          (regionOf t r).setMhz = min 1500 ((regionOf s r).boost + 25) ∧ (regionOf t r).boost = min 1500 ((regionOf s r).boost + 25))
      ∧ t = { s with regions := t.regions } := by
  let f : Nat → Region → Region := fun _ x => { x with boost := min 1500 (x.boost + 25), lastBoost := s.localTime }
  have hrow : boostStep r s = relevelled f s r := if_pos (by simp [hrun, hr, hmay, hdue])
  have hregion : regionOf (relevelled f s r) r = levelled s r (f r (regionOf s r)) := (regionOf_relevelled f s r r).trans (if_pos rfl)
  refine ⟨_, congrArg Host.Outcome.next hrow, congrArg Region.lastBoost hregion,
    fun q hq => (regionOf_relevelled f s r q).trans (if_neg hq), fun hcap hthr hboost => ?_, rfl⟩
  obtain ⟨hprofile, hcalm⟩ := mayBoost_profile hmay
  have hlimit : limitMhz s r (f r (regionOf s r)) = min 1500 ((regionOf s r).boost + 25) := by
    have hfloor : floorMhz s r ≤ 960 := by unfold floorMhz; split <;> decide
    simp only [limitMhz, hcalm, hprofile, f, hcap, hthr, if_true, Bool.false_eq_true, if_false]
    omega
  rw [hregion]
  refine ⟨hlimit, ?_⟩
  simp only [levelled, hlimit, f]
  omega

theorem voltageLoop_moves (s : State) (r : Nat) (low : Bool) (hr : r < 64) : ∃ t, exec (.voltageLoop r low) s = .next t
    ∧ regionOf t r = { regionOf s r with volt := if low then (regionOf s r).volt + 1 else (regionOf s r).volt - 1 }
    ∧ (∀ q, q ≠ r → regionOf t q = regionOf s q) ∧ t = { s with regions := t.regions } :=
  ⟨_, congrArg Host.Outcome.next (if_pos hr), regionOf_modRegion_self s r _, regionOf_modRegion_other s r _, rfl⟩

theorem droopStretch_lowers (s : State) (r : Nat) (hr : r < 64) :
    ∃ t, exec (.droopStretch r) s = .next t ∧ (regionOf t r).stretches = (regionOf s r).stretches + 1
    ∧ (regionOf t r).setMhz = (regionOf s r).setMhz ∧ (regionOf t r).effMhz ≤ (regionOf s r).setMhz
    ∧ ((regionOf s r).gated = false → (regionOf s r).setMhz ≤ (regionOf t r).effMhz + (regionOf s r).setMhz / 16)
    ∧ ((regionOf s r).gated = true → (regionOf t r).effMhz = 0)
    ∧ (∀ q, q ≠ r → regionOf t q = regionOf s q) ∧ t = { s with regions := t.regions } := by
  refine ⟨_, congrArg Host.Outcome.next (if_pos hr), ?_⟩
  rw [regionOf_modRegion_self]
  refine ⟨rfl, rfl, ?_, fun hgated => ?_, fun hgated => if_pos hgated, regionOf_modRegion_other s r _, rfl⟩
  · dsimp only
    split <;> omega
  · have hfall := Nat.mod_lt (Config.amount 6 [r, (regionOf s r).stretches, s.localTime.toNat]) (Nat.add_one_pos ((regionOf s r).setMhz / 16))
    simp only [hgated, Bool.false_eq_true, if_false]
    omega

theorem regionGate_gates (s : State) (r : Nat) (hr : r < 64) (hhold : profile s = 3) (hloose : regionReserved s r = false)
    (hungated : (regionOf s r).gated = false) (hidle : ∀ c ∈ s.cmds, regionUses r c = false) (hdue : us 100 ≤ since s (regionOf s r).idleSince) :
    ∃ t, exec (.regionGate r) s = .next t ∧ regionOf t r = { regionOf s r with gated := true, effMhz := 0 }
      ∧ (∀ q, q ≠ r → regionOf t q = regionOf s q) ∧ t = { s with regions := t.regions } := by
  have hunused : s.cmds.any (regionUses r) = false := by simpa using hidle
  exact ⟨_, congrArg Host.Outcome.next (if_pos (by simp [hr, hhold, hloose, hungated, hunused, hdue])), regionOf_modRegion_self s r _,
    regionOf_modRegion_other s r _, rfl⟩

/-- Settles O52: a region put under its limits rests on its own levels alone, whatever the others became. -/
theorem clocks : Obligations.Clocks :=
  ⟨powerCapPeriod_lowers, powerCapPeriod_between, powerCapPeriod_raises, boostStep_raises, voltageLoop_moves, droopStretch_lowers,
    regionGate_gates⟩

end Sys2Proof.Machine
end

section
/-! PROOFS. The thermal limits (O53): what a sensor's report leaves, then each clause of the obligation. -/

namespace Sys2Proof.Machine

/-! ### A sensor's report (R420), dies and regions -/

/-- Nothing of the power state but the reading and the time since which every sensor has been cool. -/
theorem noteTemp_notes (s : State) (sensor r : Nat) :
    ∃ ts c o, noteTemp s sensor r = { s with power := { s.power with temps := ts, coolSince := c }, out := o } := by
  obtain ⟨o, hreported⟩ := reportCrossing_frame s sensor (BitVec.ofNat 16 r)
  simp only [noteTemp, hreported]
  exact ⟨_, _, _, rfl⟩

theorem reading_noteTemp {s : State} {sensor : Nat} (r : Nat) (h : sensor ∉ s.power.outOfService) :
    reading (noteTemp s sensor r) sensor = tempNat (BitVec.ofNat 16 r) := by
  have htemp := noteTemp_temps s sensor r
  obtain ⟨ts, c, o, hnoted⟩ := noteTemp_notes s sensor r
  rw [hnoted] at htemp ⊢
  simp [reading, h, htemp]

theorem dieOf_setDie_self (s : State) (d : Nat) (x : Die) : dieOf (setDie s d x) d = x :=
  (aget_aput s.dies d x d {}).trans (if_pos rfl)

/-- The regions of a die after a change of the die: each from what it was before, under the limits of before. -/
theorem dieRegions_setDie (s : State) (d : Nat) (x : Die) (f : Nat → Region → Region) (p : Power) (o : Outputs)
    (hemergency : p.emergency = s.power.emergency) :
    let t := dieRegions (setDie { s with power := p, out := o } d x) d f
    dieOf t d = x ∧ (∀ q, q / 4 = d → regionOf t q = levelled s q (f q (regionOf s q))) ∧ (∀ q, q / 4 ≠ d → regionOf t q = regionOf s q)
      ∧ t = { s with dies := t.dies, power := t.power, out := t.out, regions := t.regions } := by
  have hlevelled : ∀ q y, levelled (setDie { s with power := p, out := o } d x) q y = levelled s q y := levelled_congr hemergency rfl
  have hregion := regionOf_dieRegions (setDie { s with power := p, out := o } d x) d f
  obtain ⟨k, hk⟩ := dieRegions_onlyRegions (setDie { s with power := p, out := o } d x) d f
  refine ⟨?_, fun q hq => ?_, fun q hq => (hregion q).trans (if_neg hq), ?_⟩
  · rw [hk]
    exact dieOf_setDie_self _ d x
  · exact (hregion q).trans ((if_pos hq).trans (hlevelled q _))
  · rw [hk]
    rfl

/-! ### The die thermal throttle (R397) -/

theorem dieThrottleStep_begins (s : State) (d r : Nat) (hd : d < 16) (hhot : 1600 ≤ tempNat (BitVec.ofNat 16 r))
    (hcool : (dieOf s d).throttled = false) :
    ∃ t, exec (.dieThrottleStep d r) s = .next t ∧ dieOf t d = { dieOf s d with throttled := true, throttleAt := s.localTime }
      ∧ t.power.evt = withFlag s.power.evt 3 ∧ t.power.evtCnt = s.power.evtCnt + 1 ∧ t.regions = s.regions
      ∧ t = { s with dies := t.dies, power := t.power, out := t.out, hostPorts := t.hostPorts } := by
  let x := { dieOf s d with throttled := true, throttleAt := s.localTime }
  have hrow : dieThrottleStep d r s = powerEvent (setDie (noteTemp s (4 * d) r) d x) 3 :=
    (if_neg (by omega)).trans ((if_neg (by omega)).trans (if_pos (by simp [hcool])))
  obtain ⟨ts, c, o, hnoted⟩ := noteTemp_notes s (4 * d) r
  obtain ⟨⟨o', h', hraised⟩, -⟩ := powerEvent_raised (setDie (noteTemp s (4 * d) r) d x) 3
  rw [hnoted] at hrow hraised
  rw [hraised] at hrow
  exact ⟨_, congrArg Host.Outcome.next hrow, dieOf_setDie_self s d x, rfl, rfl, rfl, rfl⟩

theorem dieThrottleStep_lowers (s : State) (d r : Nat) (hd : d < 16) (hhot : 1600 ≤ tempNat (BitVec.ofNat 16 r))
    (hthrottled : (dieOf s d).throttled = true) (hdue : us 10 ≤ since s (dieOf s d).throttleAt) :
    ∃ t, exec (.dieThrottleStep d r) s = .next t ∧ (dieOf t d).throttleAt = s.localTime
      ∧ (∀ q, q / 4 = d → (regionOf t q).throttle = max (floorMhz s q) (min (regionOf s q).throttle (regionOf s q).setMhz - 25))
      ∧ (∀ q, q / 4 ≠ d → regionOf t q = regionOf s q)
      ∧ t = { s with dies := t.dies, power := t.power, out := t.out, regions := t.regions } := by
  let x := { dieOf s d with throttleAt := s.localTime }
  let f : Nat → Region → Region := fun r x => { x with throttle := max (floorMhz s r) (min x.throttle x.setMhz - 25) }
  have hrow : dieThrottleStep d r s = dieRegions (setDie (noteTemp s (4 * d) r) d x) d f :=
    (if_neg (by omega)).trans ((if_neg (by omega)).trans ((if_neg (by simp [hthrottled])).trans (if_pos (by simpa using hdue))))
  obtain ⟨ts, c, o, hnoted⟩ := noteTemp_notes s (4 * d) r
  rw [hnoted] at hrow
  obtain ⟨hdie, hin, hout, hframe⟩ := dieRegions_setDie s d x f { s.power with temps := ts, coolSince := c } o rfl
  refine ⟨_, congrArg Host.Outcome.next hrow, congrArg Die.throttleAt hdie, fun q hq => congrArg Region.throttle (hin q hq), hout, hframe⟩

theorem dieThrottleRelease_rises (s : State) (d r : Nat) (hd : d < 16) (hcool : dieTemp (noteTemp s (4 * d) r) d < 98 * 16)
    (hdue : us 10 ≤ since s (dieOf s d).throttleAt) :
    ∃ t, exec (.dieThrottleRelease d r) s = .next t ∧ (dieOf t d).throttled = false
      ∧ (∀ q, q / 4 = d → (regionOf t q).throttle = min 1500 ((regionOf s q).throttle + 25))
      ∧ (∀ q, q / 4 ≠ d → regionOf t q = regionOf s q)
      ∧ t = { s with dies := t.dies, power := t.power, out := t.out, regions := t.regions } := by
  let x := { dieOf s d with throttled := false, throttleAt := s.localTime }
  let f : Nat → Region → Region := fun _ x => { x with throttle := min 1500 (x.throttle + 25) }
  have hrow : dieThrottleRelease d r s = dieRegions (setDie (noteTemp s (4 * d) r) d x) d f :=
    (if_neg (by omega)).trans ((if_neg (by omega)).trans (if_pos (by simpa using hdue)))
  obtain ⟨ts, c, o, hnoted⟩ := noteTemp_notes s (4 * d) r
  rw [hnoted] at hrow
  obtain ⟨hdie, hin, hout, hframe⟩ := dieRegions_setDie s d x f { s.power with temps := ts, coolSince := c } o rfl
  refine ⟨_, congrArg Host.Outcome.next hrow, congrArg Die.throttled hdie, fun q hq => congrArg Region.throttle (hin q hq), hout, hframe⟩

/-! ### Thermal emergency (R398) -/

/-- An event of the power block and its record in the log leave the memory, the commands and the regions. -/
theorem powerEvent_logged (s : State) (b source severity code unit data : Nat) :
    let t := logEvent (powerEvent s b) source severity code unit data
    t.power = { s.power with evt := withFlag s.power.evt b, evtCnt := s.power.evtCnt + 1 } ∧ t.regions = s.regions ∧ t.mem = s.mem
      ∧ t.cmds = s.cmds := by
  obtain ⟨⟨o, h, hraised⟩, -⟩ := powerEvent_raised s b
  obtain ⟨m, v, o', h', hlogged⟩ := logEvent_frame (powerEvent s b) source severity code unit data
  dsimp only
  rw [hlogged, hraised]
  exact ⟨rfl, rfl, rfl, rfl⟩

theorem thermalEmergencyEnter_slows (s : State) (x r : Nat) (hx : x < 169) (hpowered : s.phase ≠ .off) (htripped : s.phase ≠ .tripped)
    (hcalm : s.power.emergency = false) (hservice : x ∉ s.power.outOfService) (hhot : emergencyTemp x ≤ tempNat (BitVec.ofNat 16 r)) :
    ∃ t, exec (.thermalEmergencyEnter x r) s = .next t ∧ t.power.emergency = true
      ∧ (∀ q, q < 64 → (regionOf t q).setMhz = 900) ∧ t.power.evt = withFlag s.power.evt 0 ∧ t.mem = s.mem ∧ t.cmds = s.cmds := by
  have hreading := reading_noteTemp r hservice
  let hurried : State :=
    { noteTemp s x r with power := { (noteTemp s x r).power with emergency := true, coolSince := none } }
  let slowed := allRegions hurried (fun _ x => x)
  have hrow : thermalEmergencyEnter x r s = logEvent (powerEvent slowed 0) lsPower 2 0x0030 x 1 :=
    (if_neg (by simp [hpowered, htripped, hx])).trans (if_neg (by simp [hcalm, hreading, hhot]))
  obtain ⟨hpower, hregions, hmem, hcmds⟩ := powerEvent_logged slowed 0 lsPower 2 0x0030 x 1
  obtain ⟨k, hk⟩ := allRegions_onlyRegions hurried (fun _ x => x)
  have hslowed : slowed = { hurried with regions := k } := hk
  obtain ⟨ts, c, o, hnoted⟩ := noteTemp_notes s x r
  refine ⟨_, congrArg Host.Outcome.next hrow, ?_, fun q hq => ?_, ?_, ?_, ?_⟩
  · rw [hpower, hslowed]
  · have hlimit : (regionOf slowed q).setMhz = limitMhz hurried q (regionOf hurried q) :=
      congrArg Region.setMhz (regionOf_allRegions hurried (fun _ x => x) hq)
    rw [regionOf, hregions]
    exact hlimit.trans (if_pos rfl)
  · rw [hpower, hslowed]
    show withFlag (noteTemp s x r).power.evt 0 = _
    rw [hnoted]
  · rw [hmem, hslowed]
    show (noteTemp s x r).mem = _
    rw [hnoted]
  · rw [hcmds, hslowed]
    show (noteTemp s x r).cmds = _
    rw [hnoted]

theorem thermalEmergencyExit_ends (s : State) (t0 : W64) (hemergency : s.power.emergency = true) (hcool : s.power.coolSince = some t0)
    (hdue : us 10000 ≤ since s t0) :
    ∃ t, exec .thermalEmergencyExit s = .next t ∧ t.power.emergency = false ∧ t.power.evt = withFlag s.power.evt 1
      ∧ (∀ q, q < 64 → (regionOf t q).setMhz ≤ max (floorMhz s q) 900) ∧ t.mem = s.mem ∧ t.cmds = s.cmds := by
  let calm : State := { s with power := { s.power with emergency := false, coolSince := none } }
  let f : Nat → Region → Region := fun _ x => { x with throttle := min x.throttle 900 }
  have hrow : thermalEmergencyExit s = logEvent (powerEvent (allRegions calm f) 1) lsPower 1 0x0030 0xFFFF 0 := by
    unfold thermalEmergencyExit
    rw [hcool]
    exact if_pos (by simp [hemergency, hdue])
  obtain ⟨hpower, hregions, hmem, hcmds⟩ := powerEvent_logged (allRegions calm f) 1 lsPower 1 0x0030 0xFFFF 0
  obtain ⟨k, hk⟩ := allRegions_onlyRegions calm f
  refine ⟨_, congrArg Host.Outcome.next hrow, ?_, ?_, fun q hq => ?_, ?_, ?_⟩
  · rw [hpower, hk]
  · rw [hpower, hk]
  · have hlimit : (regionOf (allRegions calm f) q).setMhz = limitMhz calm q (f q (regionOf s q)) :=
      congrArg Region.setMhz (regionOf_allRegions calm f hq)
    have hbound : limitMhz calm q (f q (regionOf s q)) ≤ max (floorMhz s q) (min (regionOf s q).throttle 900) :=
      limitMhz_le_throttle calm q _
    rw [regionOf, hregions]
    exact (hlimit.trans_le hbound).trans (max_le_max_left _ (Nat.min_le_right _ _))
  · rw [hmem, hk]
  · rw [hcmds, hk]

/-! ### Thermal trip (R399) and the coolant (R400) -/

/-- R22: a module that fails signals its death on every port that is UP. -/
theorem failModule_signals (s : State) (cause : Nat) :
    sentKinds (failModule s cause) = sentKinds s ++ (upPorts s).map (·, mtDeath)
      ∧ ∃ l m v o h, failModule s cause = { s with phase := .failed, links := l, mgmt := m, recov := v, out := o, hostPorts := h } := by
  obtain ⟨m, v, o, h, hlogged⟩ := logEvent_frame s (if cause = 1 then lsBarista else lsReferee) 3 0x0011 0xFFFF cause
  let logged : State := { s with mgmt := m, recov := v, out := o, hostPorts := h }
  have hrow : failModule s cause = { flood logged none (selfId s) s.links.incarnation cause with phase := .failed } := by
    unfold failModule
    rw [hlogged]
  obtain ⟨q, o', w, ws, hflood⟩ := messagesLeave_flood logged none (selfId s) s.links.incarnation cause
  rw [hrow]
  refine ⟨sentKinds_flood logged (selfId s) s.links.incarnation cause, ?_⟩
  rw [hflood]
  exact ⟨_, _, _, _, _, rfl⟩

theorem mget_wipeCarafes (s : State) (o : Nat) (ho : o < 2 ^ 39) : mget (wipeCarafes s).mem (2 ^ 50 * selfId s + o) = 0 :=
  (mget_mclear _ _ _ _).trans (if_pos ⟨Nat.le_add_right _ _, Nat.add_lt_add_left ho _⟩)

theorem thermalTrip_ends (s : State) (x r : Nat) (hx : x < 169) (hpowered : s.phase ≠ .off) (htripped : s.phase ≠ .tripped)
    (hhot : tripTemp x ≤ tempNat (BitVec.ofNat 16 r)) :
    ∃ t, exec (.thermalTrip x r) s = .next t ∧ t.phase = .tripped ∧ t.cmds = [] ∧ t.pool = [] ∧ (∀ p, (portOf t p).state = .down)
      ∧ (∀ o, o < 2 ^ 39 → mget t.mem (2 ^ 50 * selfId s + o) = 0)
      ∧ t.links.out.map (fun m => (m.1, m.2.mtype)) = s.links.out.map (fun m => (m.1, m.2.mtype)) ++ (upPorts s).map (fun q => (q, 11)) := by
  let failed := failModule (noteTemp s x r) (failCause s)
  let wiped := wipeCarafes (wipeScratch (unpower failed))
  let ended : State := { wiped with phase := .tripped, pool := [], power := { wiped.power with tripped := true } }
  have hrow : thermalTrip x r s = logEvent ended lsPower 3 0x0031 x r :=
    if_neg (by simp [hpowered, htripped, hx, hhot])
  obtain ⟨hkinds, l, m, v, o, h, hfailed⟩ := failModule_signals (noteTemp s x r) (failCause s)
  obtain ⟨ts, c, o', hnoted⟩ := noteTemp_notes s x r
  obtain ⟨m', v', o'', h', hlogged⟩ := logEvent_frame ended lsPower 3 0x0031 x r
  have hself : selfId (wipeScratch (unpower failed)) = selfId s := by
    rw [show failed = _ from hfailed, hnoted]
    rfl
  refine ⟨_, congrArg Host.Outcome.next hrow, ?_⟩
  rw [hlogged]
  refine ⟨rfl, rfl, rfl, fun p => rfl, fun o ho => hself ▸ mget_wipeCarafes (wipeScratch (unpower failed)) o ho, ?_⟩
  rw [hnoted] at hkinds
  refine Eq.trans ?_ hkinds
  rw [← hnoted]
  rfl

theorem coolantHot_reports (s : State) (r : Nat) : ∃ t, exec (.coolantHot r) s = .next t
    ∧ t.power.coolantHot = decide (65 * 16 ≤ tempNat (BitVec.ofNat 16 r))
    ∧ (t.power.coolantHot = true → s.power.coolantHot = false → t.power.evt = withFlag s.power.evt 4)
    ∧ t = { s with power := t.power, out := t.out, hostPorts := t.hostPorts } := by
  let noted : State :=
    { noteTemp s 170 r with power := { (noteTemp s 170 r).power with coolantHot := decide (65 * 16 ≤ tempNat (BitVec.ofNat 16 r)) } }
  obtain ⟨ts, c, o, hnoted⟩ := noteTemp_notes s 170 r
  by_cases hnew : (decide (65 * 16 ≤ tempNat (BitVec.ofNat 16 r)) && !(s.power.coolantHot)) = true
  · have hrow : coolantHot r s = powerEvent noted 4 := if_pos hnew
    obtain ⟨⟨o', h', hraised⟩, -⟩ := powerEvent_raised noted 4
    refine ⟨_, congrArg Host.Outcome.next hrow, ?_⟩
    rw [hraised]
    dsimp only [noted]
    rw [hnoted]
    exact ⟨rfl, fun _ _ => rfl, rfl⟩
  · have hrow : coolantHot r s = noted := if_neg hnew
    refine ⟨_, congrArg Host.Outcome.next hrow, rfl, fun (hhot : decide (65 * 16 ≤ tempNat (BitVec.ofNat 16 r)) = true) hwas =>
      absurd ?_ hnew, ?_⟩
    · rw [hhot, hwas]
      rfl
    · dsimp only [noted]
      rw [hnoted]

/-- Settles O53: a report changes readings only, so that the clocks fall and rise under the limits of before. -/
theorem thermal : Obligations.Thermal :=
  ⟨dieThrottleStep_begins, dieThrottleStep_lowers, dieThrottleRelease_rises, thermalEmergencyEnter_slows, thermalEmergencyExit_ends,
    thermalTrip_ends, coolantHot_reports⟩

end Sys2Proof.Machine
end

section
/-! PROOFS. The resets, start-up and a loss of power (O6 to O9): what a report leaves, what a reset leaves up to its reports, and the bytes that
a reset clears and keeps; then each obligation from these. -/

namespace Sys2Proof.Machine

/-! ### What reports leave (R422, R438) -/

/-- Nothing differs but what events, records of the log and the calendar's return change: the event registers and buffers of the log, the
messages sent and the pending bits of host ports. -/
def reported (s t : State) : Prop :=
  (∃ e c n lb lh cv cc la r o h, t = { s with
      mgmt := { s.mgmt with evt := e, evtCnt := c, newestSeq := n, logBuffer := lb, logHub := lh, calValid := cv, calCount := cc, lostAt := la }
      recov := r, out := o, hostPorts := h })
    ∧ t.out.host = s.out.host ∧ t.out.mgmt = s.out.mgmt ∧ ∀ q, ∃ b, hostPortOf t q = { hostPortOf s q with pba := b }

theorem reported.refl (s : State) : reported s s := ⟨⟨_, _, _, _, _, _, _, _, _, _, _, rfl⟩, rfl, rfl, fun _ => ⟨_, rfl⟩⟩

theorem reported.trans {s t u : State} (hst : reported s t) (htu : reported t u) : reported s u := by
  obtain ⟨⟨_, _, _, _, _, _, _, _, _, _, _, rfl⟩, hhost, hmgmt, hport⟩ := hst
  obtain ⟨⟨_, _, _, _, _, _, _, _, _, _, _, rfl⟩, hhost', hmgmt', hport'⟩ := htu
  refine ⟨⟨_, _, _, _, _, _, _, _, _, _, _, rfl⟩, hhost'.trans hhost, hmgmt'.trans hmgmt, fun q => ?_⟩
  obtain ⟨b, hb⟩ := hport q
  obtain ⟨b', hb'⟩ := hport' q
  exact ⟨b', by rw [hb', hb]⟩

theorem raised.reported {s t : State} (h : raised s t) : reported s t := by
  obtain ⟨⟨_, _, rfl⟩, hhost, hmgmt, hport⟩ := h
  exact ⟨⟨_, _, _, _, _, _, _, _, _, _, _, rfl⟩, hhost, hmgmt, hport⟩

theorem reported_mgmtEvent (s : State) (b : Nat) : reported s (mgmtEvent s b) :=
  .trans ⟨⟨_, _, _, _, _, _, _, _, _, _, _, rfl⟩, rfl, rfl, fun _ => ⟨_, rfl⟩⟩ (mgmtEvent_raised s b).reported

theorem reported_logEvent (s : State) (source severity code unit data : Nat) : reported s (logEvent s source severity code unit data) := by
  unfold logEvent
  split
  · split
    · exact ⟨⟨_, _, _, _, _, _, _, _, _, _, _, rfl⟩, rfl, rfl, fun _ => ⟨_, rfl⟩⟩
    · exact ⟨⟨_, _, _, _, _, _, _, _, _, _, _, rfl⟩, rfl, rfl, fun _ => ⟨_, rfl⟩⟩
  · split
    · exact ⟨⟨_, _, _, _, _, _, _, _, _, _, _, rfl⟩, rfl, rfl, fun _ => ⟨_, rfl⟩⟩
    · exact reported_mgmtEvent s 4

theorem reported_calendarBack (s : State) : reported s (calendarBack s) := by
  unfold calendarBack
  split
  · dsimp only
    split
    · exact ⟨⟨_, _, _, _, _, _, _, _, _, _, _, rfl⟩, rfl, rfl, fun _ => ⟨_, rfl⟩⟩
    · exact .trans ⟨⟨_, _, _, _, _, _, _, _, _, _, _, rfl⟩, rfl, rfl, fun _ => ⟨_, rfl⟩⟩ (reported_mgmtEvent _ 3)
  · exact .refl s

theorem reported_reportBanks (s : State) : reported s (reportBanks s) := by
  unfold reportBanks
  split
  · exact (reported_mgmtEvent s 2).trans (reported_logEvent _ _ _ _ _ _)
  · exact .refl s

/-! ### What a reset leaves up to its reports (R407, R412) -/

/-- R407, R409: the phase in which a reset ends. -/
def phaseAfter (s : State) (released : Bool) : Phase := if (chooseBank s).isSome then .startup released else .bootFailed

theorem phaseAfter_of_bank {s : State} (released : Bool) (h : chooseBank s ≠ none) : phaseAfter s released = .startup released :=
  if_pos (Option.isSome_iff_ne_none.mpr h)

theorem phaseAfter_of_none {s : State} (released : Bool) (h : chooseBank s = none) : phaseAfter s released = .bootFailed := by
  simp [phaseAfter, h]

theorem reported_startPhase (s0 s : State) (released : Bool) : reported { s with phase := phaseAfter s0 released } (startPhase s0 s released) := by
  unfold startPhase phaseAfter
  split
  · exact reported_reportBanks _
  · exact reported_logEvent _ _ _ _ _ _

theorem reported_resetModule (s : State) (cause : Nat) (released : Bool) :
    reported { resetState s false with phase := phaseAfter s released } (resetModule s cause released) :=
  (reported_startPhase s _ released).trans (reported_logEvent _ _ _ _ _ _)

/-- The state of a power-on reset before its reports. -/
def poweredOn (s : State) : State :=
  { resetState s true with hostPorts := (resetState s true).hostPorts.map (fun h => (h.1, ({ } : HostPort))), phase := phaseAfter s false }

theorem reported_powerOnReset (s : State) : reported (poweredOn s) (powerOnReset s) :=
  ((reported_startPhase s _ false).trans (reported_calendarBack _)).trans (reported_logEvent _ _ _ _ _ _)

theorem clusterOf_resetState (s : State) (por : Bool) (q : Nat) : clusterOf (resetState s por) q = resetCluster (clusterOf s q) :=
  aget_map s.clusters (fun _ k => resetCluster k) q {} rfl

theorem carafeOf_resetState (s : State) (por : Bool) (d : Nat) : carafeOf (resetState s por) d = resetCarafe (carafeOf s d) :=
  aget_map s.carafes (fun _ k => resetCarafe k) d {} rfl

/-- R412: a reset clears a cluster's arrival counters and keeps its retired granules; it keeps what flash holds of a carafe. -/
theorem resetState_keeps (s t : State) (por : Bool) (hclusters : t.clusters = (resetState s por).clusters)
    (hcarafes : t.carafes = (resetState s por).carafes) :
    (∀ q, (clusterOf t q).arrivals = [] ∧ (clusterOf t q).retired = (clusterOf s q).retired)
    ∧ (∀ d, (carafeOf t d).s0 = (carafeOf s d).s0 ∧ (carafeOf t d).s1 = (carafeOf s d).s1
        ∧ (carafeOf t d).remapped = (carafeOf s d).remapped ∧ (carafeOf t d).retired = (carafeOf s d).retired) := by
  have hcluster : ∀ q, clusterOf t q = resetCluster (clusterOf s q) := fun q => by
    rw [← clusterOf_resetState s por, clusterOf, hclusters, clusterOf]
  have hcarafe : ∀ d, carafeOf t d = resetCarafe (carafeOf s d) := fun d => by
    rw [← carafeOf_resetState s por, carafeOf, hcarafes, carafeOf]
  refine ⟨fun q => ?_, fun d => ?_⟩
  · rw [hcluster]
    exact ⟨rfl, rfl⟩
  · rw [hcarafe]
    exact ⟨rfl, rfl, rfl, rfl⟩

/-- Settles O6: up to its reports a power-on reset is the reset state. -/
theorem powerOnResetClears : Obligations.PowerOnResetClears := by
  intro s
  obtain ⟨⟨_, _, _, _, _, _, _, _, _, _, _, hrow⟩, -⟩ := reported_powerOnReset s
  refine ⟨_, congrArg Host.Outcome.next hrow, ?_⟩
  obtain ⟨hclusters, hcarafes⟩ := resetState_keeps s _ true rfl rfl
  exact ⟨rfl, rfl, rfl, rfl, rfl, rfl, rfl, rfl, rfl, rfl, rfl, rfl, hclusters, hcarafes, rfl, phaseAfter_of_bank false, phaseAfter_of_none false⟩

theorem pageKept_resetState (s : State) (p : Nat) :
    pageState (resetState s false) p = pageState s p
      ∧ (aget? (resetState s false).pool p).map Page.pinned = (aget? s.pool p).map Page.pinned := by
  have hpage : aget? (resetState s false).pool p = (aget? s.pool p).map (fun x => { x with touched := false }) :=
    aget?_map s.pool (fun _ x => { x with touched := false }) p
  rw [pageState, hpage, pageState]
  cases aget? s.pool p <;> exact ⟨rfl, rfl⟩

/-- Settles O7: up to its reports a module reset is the reset state. -/
theorem moduleResetKeepsAndClears : Obligations.ModuleResetKeepsAndClears := by
  intro s hopen
  have hreset : moduleReset s = resetModule s mrRegister true := if_pos hopen
  obtain ⟨⟨_, _, _, _, _, _, _, _, _, _, _, hrow⟩, -⟩ := reported_resetModule s mrRegister true
  refine ⟨_, congrArg Host.Outcome.next (hreset.trans hrow), ?_⟩
  obtain ⟨hclusters, hcarafes⟩ := resetState_keeps s _ false rfl rfl
  exact ⟨rfl, rfl, rfl, rfl, rfl, rfl, rfl, hclusters, rfl, rfl, pageKept_resetState s, rfl, rfl, rfl, hcarafes, phaseAfter_of_bank true,
    phaseAfter_of_none true⟩

/-! ### The bytes that a reset clears and keeps (R190, R407) -/

/-- A byte beside the one set reads as before, in canonical form or not. -/
theorem mget_mset_ne {a k : Nat} (m : Memory) (v : Byte) (h : a ≠ k) : mget (mset m k v) a = mget m a := by
  induction m with
  | nil =>
    unfold mset
    split
    · rfl
    · exact if_neg h.symm
  | cons c m ih =>
    obtain ⟨b, w⟩ := c
    unfold mset
    split
    · split
      · rfl
      · exact if_neg h.symm
    · split
      · subst_vars
        split
        · exact (if_neg h.symm).symm
        · exact (if_neg h.symm).trans (if_neg h.symm).symm
      · simp only [mget, ih]

theorem mget_mapply_ne {a : Nat} (cs : List Host.Cell) (m : Memory) (h : ∀ c ∈ cs, c.1 ≠ a) : mget (mapply m cs) a = mget m a := by
  induction cs generalizing m with
  | nil => rfl
  | cons c cs ih =>
    exact (ih (mset m c.1 c.2) fun d hd => h d (List.mem_cons_of_mem c hd)).trans (mget_mset_ne m c.2 (h c List.mem_cons_self).symm)

theorem mem_cellsNat {a n v : Nat} {c : Host.Cell} (h : c ∈ cellsNat a n v) : a ≤ c.1 ∧ c.1 < a + n := by
  have hbounds := mem_cellsAt h
  rwa [leBytes_length] at hbounds

/-- R364: taking the groups out of use leaves the module identifier. -/
theorem imgModule_unuseGroups (m : Memory) : setFld (unuseGroups m) 0x40 2 = setFld m 0x40 2 := by
  unfold unuseGroups
  split
  · rfl
  · refine mnat_congr fun x hlo hhi => ?_
    unfold sealImage
    rw [mget_mapply_ne, mget_mapply_ne]
    · intro c hc
      obtain ⟨g, -, hc⟩ := List.mem_flatMap.mp hc
      rcases List.mem_append.mp hc with hc | hc
      · have hbounds := mem_cellsAt hc
        omega
      · have hbounds := mem_cellsNat hc
        omega
    · intro c hc
      have hbounds := mem_cellsNat hc
      omega

/-- No byte listed at an address: it reads 0. -/
theorem mget_of_forall_ne {m : Memory} {a : Nat} (h : ∀ c ∈ m, c.1 ≠ a) : mget m a = 0 := by
  induction m with
  | nil => rfl
  | cons c m ih => exact (if_neg (h c List.mem_cons_self)).trans (ih fun d hd => h d (List.mem_cons_of_mem c hd))

/-- R190: a byte that is not listed under the old identifier reads 0 under the new one. -/
theorem mget_renumberCells {m : Memory} {old o : Nat} (new : Nat) (ho : o < 2 ^ 50) (h : ∀ c ∈ m, c.1 ≠ 2 ^ 50 * old + o) :
    mget (renumberCells m old new) (2 ^ 50 * new + o) = 0 := by
  unfold renumberCells
  split
  · subst_vars
    exact mget_of_forall_ne h
  · rw [mget_mapply_ne]
    · refine mget_of_forall_ne fun c hc heq => ?_
      have hmod := (List.mem_filter.mp hc).2
      have hnew : gaMod c.1 = new := by rw [gaMod, heq]; omega
      simp [hnew] at hmod
    · intro c hc heq
      obtain ⟨d, hd, rfl⟩ := List.mem_map.mp hc
      obtain ⟨hd, hmod⟩ := List.mem_filter.mp hd
      have hmod : d.1 / 2 ^ 50 = old := by simpa [gaMod] using hmod
      refine h d hd ?_
      dsimp only at heq
      omega

theorem renumberCells_same (m : Memory) (old : Nat) : renumberCells m old old = m := if_pos rfl

theorem not_mem_mclear {m : Memory} {a n : Nat} {c : Host.Cell} (h : c ∈ mclear m a n) : c ∈ m ∧ ¬ (a ≤ c.1 ∧ c.1 < a + n) := by
  obtain ⟨hc, hout⟩ := List.mem_filter.mp h
  exact ⟨hc, of_decide_eq_false ((Bool.not_eq_true' _).mp hout)⟩

theorem powerOnReset_bytes (s : State) (o : Nat) (ho : o < 2 ^ 39 ∨ (2 ^ 46 ≤ o ∧ o < 2 ^ 46 + 2 ^ 32)) :
    mget (resetState s true).mem (2 ^ 50 * selfId (resetState s true) + o) = 0 := by
  refine mget_renumberCells (old := selfId s) _ (by omega) fun c hc heq => ?_
  obtain ⟨hc, hcarafes⟩ := not_mem_mclear (a := 2 ^ 50 * selfId s) (n := 2 ^ 39) hc
  obtain ⟨-, hscratch⟩ := not_mem_mclear (a := 2 ^ 50 * selfId s + 2 ^ 46) (n := 2 ^ 32) hc
  omega

/-- A module reset keeps the module identifier, and clears the scratch windows alone. -/
theorem selfId_resetState (s : State) : selfId (resetState s false) = selfId s := imgModule_unuseGroups s.cset.active

theorem resetState_mem (s : State) : (resetState s false).mem = (wipeScratch s).mem := by
  show renumberCells (wipeScratch s).mem (selfId s) (selfId (resetState s false)) = _
  rw [selfId_resetState, renumberCells_same]

/-- Settles O8: a byte that a reset wipes is listed nowhere, under the old identifier or the new. -/
theorem resetsAndMemory : Obligations.ResetsAndMemory := by
  refine fun s _ => ⟨?_, fun hopen => ?_⟩
  · obtain ⟨⟨_, _, _, _, _, _, _, _, _, _, _, hrow⟩, -⟩ := reported_powerOnReset s
    refine ⟨_, congrArg Host.Outcome.next hrow, fun o ho => powerOnReset_bytes s o (.inl ho), fun o ho => ?_⟩
    have hbyte := powerOnReset_bytes s (2 ^ 46 + o) (.inr ⟨Nat.le_add_right _ _, Nat.add_lt_add_left ho _⟩)
    rwa [← Nat.add_assoc] at hbyte
  · have hreset : moduleReset s = resetModule s mrRegister true := if_pos hopen
    obtain ⟨⟨_, _, _, _, _, _, _, _, _, _, _, hrow⟩, -⟩ := reported_resetModule s mrRegister true
    have hself := selfId_resetState s
    have hwiped := mget_mclear s.mem (2 ^ 50 * selfId s + 2 ^ 46) (2 ^ 32)
    refine ⟨_, congrArg Host.Outcome.next (hreset.trans hrow), fun o ho => ?_, fun o ho => ?_⟩
    · show mget (resetState s false).mem (2 ^ 50 * selfId (resetState s false) + 2 ^ 46 + o) = 0
      rw [hself, resetState_mem]
      exact (hwiped _).trans (if_pos (by omega))
    · show mget (resetState s false).mem (2 ^ 50 * selfId (resetState s false) + o) = _
      rw [hself, resetState_mem]
      exact (hwiped _).trans (if_neg (by omega))

/-! ### PERST and readiness (R353, R354, R448) -/

theorem hostPortOf_modHostPort_self (s : State) (p : Nat) (f : HostPort → HostPort) :
    hostPortOf (modHostPort s p f) p = f (hostPortOf s p) :=
  (hostPortOf_modHostPort s p f p).trans (if_pos rfl)

theorem perst_resets (s : State) (p : Nat) (hp : p = s.owner) (hpower : hasPower s = true) : ∃ t, exec (.perst p) s = .next t
    ∧ t.cmds = [] ∧ t.ctxs = [] ∧ t.owner = s.owner ∧ (hostPortOf t p).perst = true
    ∧ t.links.incarnation = s.links.incarnation + 1 ∧ t.localTime = s.localTime
    ∧ (chooseBank s ≠ none → t.phase = .startup false) := by
  let held := modHostPort s p (fun h => { h with perst := true })
  have hrow : perst p s = modHostPort (resetModule held mrPerst false) p (fun h => { h with perst := true }) :=
    if_pos (by simp [hp, hpower])
  obtain ⟨⟨_, _, _, _, _, _, _, _, _, _, _, hreset⟩, -⟩ := reported_resetModule held mrPerst false
  refine ⟨_, congrArg Host.Outcome.next hrow, ?_⟩
  rw [hostPortOf_modHostPort_self, hreset]
  exact ⟨rfl, rfl, rfl, rfl, rfl, rfl, phaseAfter_of_bank (s := held) false⟩

theorem reducedFunctionReset_resets (s : State) (p : Nat) (hp : p < 2) (hother : p ≠ s.owner) :
    ∃ t, exec (.reducedFunctionReset p) s = .next t
      ∧ (hostPortOf t p).ready = false ∧ (hostPortOf t p).request = false ∧ (hostPortOf t p).msixTable = [] ∧ (hostPortOf t p).pba = []
      ∧ (hostPortOf t p).streams = [] ∧ (∀ o, o ≠ p → hostPortOf t o = hostPortOf s o)
      ∧ t = { s with hostPorts := t.hostPorts } := by
  have hrow : reducedFunctionReset p s = modHostPort s p resetFunction := if_pos (by simp [hp, hother])
  refine ⟨_, congrArg Host.Outcome.next hrow, ?_⟩
  rw [hostPortOf_modHostPort_self]
  exact ⟨rfl, rfl, rfl, rfl, rfl, otherHostPorts_modHostPort s p _, rfl⟩

theorem perstRelease_starts (s : State) (p : Nat) (hp : p < 2) (howner : p = s.owner) (hphase : s.phase = .startup false) :
    ∃ t, exec (.perstRelease p) s = .next t
      ∧ t.phase = .startup true ∧ (hostPortOf t p).perst = false ∧ (∀ o, o ≠ p → hostPortOf t o = hostPortOf s o)
      ∧ t = { s with phase := .startup true, hostPorts := t.hostPorts } := by
  let f : HostPort → HostPort := fun h => { h with perst := false }
  let released := modHostPort s p f
  have hrow : perstRelease p s = { released with phase := .startup true } := by
    unfold perstRelease
    rw [if_neg (by omega), hphase]
    exact if_pos howner
  exact ⟨_, congrArg Host.Outcome.next hrow, rfl, congrArg HostPort.perst (hostPortOf_modHostPort_self s p f),
    otherHostPorts_modHostPort s p f, rfl⟩

theorem functionReady_readies (s : State) (p : Nat) (hp : p < 2) (hnot : (hostPortOf s p).ready = false)
    (hphase : s.phase = .startup true ∨ s.phase = .bootFailed) :
    ∃ t, exec (.functionReady p) s = .next t ∧ (hostPortOf t p).ready = true ∧ (∀ o, o ≠ p → hostPortOf t o = hostPortOf s o)
      ∧ t = { s with hostPorts := t.hostPorts } := by
  have hrow : functionReady p s = makeReady s p := by
    unfold functionReady
    rw [if_neg (by simp [hp, hnot])]
    rcases hphase with hphase | hphase <;> rw [hphase]
  exact ⟨_, congrArg Host.Outcome.next hrow, congrArg HostPort.ready (hostPortOf_modHostPort_self s p _),
    otherHostPorts_modHostPort s p _, rfl⟩

/-! ### The end of start-up (R407, R408, R428) -/

/-- Nothing differs but Barista's state, its reports and whether a bank is valid; Barista answers as before. -/
def baristaMoves (s t : State) : Prop :=
  (∃ m r o h, t = { s with mgmt := m, recov := r, out := o, hostPorts := h }) ∧ t.mgmt.ready = s.mgmt.ready

theorem baristaMoves.refl (s : State) : baristaMoves s s := ⟨⟨_, _, _, _, rfl⟩, rfl⟩

theorem baristaMoves.trans {s t u : State} (hst : baristaMoves s t) (htu : baristaMoves t u) : baristaMoves s u := by
  obtain ⟨⟨_, _, _, _, rfl⟩, hready⟩ := hst
  obtain ⟨⟨_, _, _, _, rfl⟩, hready'⟩ := htu
  exact ⟨⟨_, _, _, _, rfl⟩, hready'.trans hready⟩

theorem reported.baristaMoves {s t : State} (h : reported s t) : baristaMoves s t := by
  obtain ⟨⟨_, _, _, _, _, _, _, _, _, _, _, rfl⟩, -⟩ := h
  exact ⟨⟨_, _, _, _, rfl⟩, rfl⟩

theorem baristaMoves_setBank (s : State) (b : Nat) (x : Bank) : baristaMoves s (setBank s b x) := by
  unfold setBank
  split
  · exact ⟨⟨_, _, _, _, rfl⟩, rfl⟩
  · exact ⟨⟨_, _, _, _, rfl⟩, rfl⟩

theorem baristaMoves_raiseFloor (s : State) : baristaMoves s (raiseFloor s) := by
  have hlogged : ∀ v, baristaMoves s (logEvent { s with mgmt := { s.mgmt with floor := v } } lsBarista 0 0x0051 0xFFFF v) := fun _ =>
    .trans ⟨⟨_, _, _, _, rfl⟩, rfl⟩ (reported_logEvent _ _ _ _ _ _).baristaMoves
  unfold raiseFloor
  dsimp only
  split
  · split
    · exact (hlogged _).trans (baristaMoves_setBank _ _ _)
    · exact hlogged _
  · exact .refl s

theorem baristaMoves_endActivation (s : State) : baristaMoves s (endActivation s) := by
  have hended : baristaMoves s
      { s with mgmt := { s.mgmt with running := s.mgmt.running.filter (fun a => a.rank != rkActivate), activating := none } } :=
    ⟨⟨_, _, _, _, rfl⟩, rfl⟩
  unfold endActivation
  dsimp only
  split
  · exact hended.trans ((reported_mgmtEvent _ 1).trans (reported_logEvent _ _ _ _ _ _)).baristaMoves
  · exact hended

theorem startTraining_leaves (s : State) (p : Nat) :
    linksOnly s (startTraining s p) ∧ (∀ q, q ≠ p → portOf (startTraining s p) q = portOf s q)
      ∧ ((portOf s p).enable = true → (portOf s p).state = .down → (linkDieOf s (p / 4)).resetting = false →
        (portOf (startTraining s p) p).state = .training) := by
  obtain ⟨hstate, -, hothers, hlinks⟩ := portTo_leaves s p .training
  unfold startTraining
  split
  · exact ⟨hlinks, hothers, fun _ _ _ => hstate⟩
  · next hnot => exact ⟨rfl, fun _ _ => rfl, fun henable hdown hdie => absurd (by simp [henable, hdown, hdie]) hnot⟩

theorem linksOnly.linkDieOf {s t : State} (h : linksOnly s t) (d : Nat) : linkDieOf t d = linkDieOf s d := by
  rw [linksOnly] at h
  rw [h]
  rfl

/-- An action on one port leaves every other port, and all that is not the links' own. -/
def actsOnPort (f : State → Nat → State) : Prop := ∀ s p, linksOnly s (f s p) ∧ ∀ q, q ≠ p → portOf (f s p) q = portOf s q

/-- An action on each of several ports, in order: each port becomes what the action makes of it, on links that have changed elsewhere. -/
theorem seqAll_ports {f : State → Nat → State} (hf : actsOnPort f) (ps : List Nat) (hps : ps.Nodup) (s : State) :
    linksOnly s (seqAll s ps f) ∧ (∀ q, q ∉ ps → portOf (seqAll s ps f) q = portOf s q)
      ∧ ∀ p ∈ ps, ∃ u, linksOnly s u ∧ portOf u p = portOf s p ∧ portOf (seqAll s ps f) p = portOf (f u p) p := by
  induction ps generalizing s with
  | nil => exact ⟨rfl, fun _ _ => rfl, fun _ h => absurd h List.not_mem_nil⟩
  | cons r rs ih =>
    obtain ⟨hr, hrest⟩ := List.nodup_cons.mp hps
    obtain ⟨hlinks, hothers⟩ := hf s r
    obtain ⟨hlinks', hothers', heach⟩ := ih hrest (f s r)
    refine ⟨hlinks.trans hlinks', fun q hq => ?_, fun p hp => ?_⟩
    · exact (hothers' q fun h => hq (List.mem_cons_of_mem r h)).trans (hothers q fun h => hq (h ▸ List.mem_cons_self))
    · by_cases hpr : p = r
      · subst hpr
        exact ⟨s, rfl, rfl, hothers' p hr⟩
      · obtain ⟨u, hu, hport, hbecomes⟩ := heach p (List.mem_of_ne_of_mem hpr hp)
        exact ⟨u, hlinks.trans hu, hport.trans (hothers p hpr), hbecomes⟩

theorem startTraining_actsOnPort : actsOnPort startTraining := fun s p => by
  obtain ⟨hlinks, hothers, -⟩ := startTraining_leaves s p
  exact ⟨hlinks, hothers⟩

/-- R299, R407: the state of step 8, with the regions at their set clocks. -/
def startedUp (s : State) : State := { s with phase := .running, regions := startRegions s, mgmt := { s.mgmt with ready := true } }

theorem startupComplete_eq {s : State} (hphase : s.phase = .startup true) :
    let trained := seqAll (startedUp s) (List.range 32) startTraining
    startupComplete s = endActivation (raiseFloor (sendPresent (upPorts trained) (selfId trained) trained.links.incarnation trained)) := by
  unfold startupComplete startedUp
  rw [if_pos hphase]

theorem startupComplete_runs (s : State) (hphase : s.phase = .startup true) : ∃ t, exec .startupComplete s = .next t
    ∧ t.phase = .running ∧ t.mgmt.ready = true
    ∧ (∀ p, p < 32 → (portOf s p).enable = true → (portOf s p).state = .down → (linkDieOf s (p / 4)).resetting = false →
        (portOf t p).state = .training)
    ∧ t.mem = s.mem ∧ t.pool = s.pool ∧ t.ctxs = s.ctxs ∧ t.cmds = s.cmds := by
  have hrow := startupComplete_eq hphase
  obtain ⟨hlinks, -, heach⟩ := seqAll_ports startTraining_actsOnPort (List.range 32) List.nodup_range (startedUp s)
  generalize seqAll (startedUp s) (List.range 32) startTraining = trained at hrow hlinks heach
  obtain ⟨_, _, _, _, hpresent⟩ := messagesLeave_sendPresent (upPorts trained) (selfId trained) trained.links.incarnation trained
  obtain ⟨⟨_, _, _, _, hended⟩, hready⟩ := (baristaMoves_raiseFloor
    (sendPresent (upPorts trained) (selfId trained) trained.links.incarnation trained)).trans (baristaMoves_endActivation _)
  refine ⟨_, congrArg Host.Outcome.next hrow, ?_, ?_, fun p hp henable hdown hdie => ?_, ?_⟩
  · rw [hended, hpresent, hlinks]
    rfl
  · rw [hready, hpresent, hlinks]
    rfl
  · obtain ⟨u, hu, hport, htrains⟩ := heach p (List.mem_range.mpr hp)
    obtain ⟨-, -, hstarts⟩ := startTraining_leaves u p
    rw [hended, hpresent]
    show (portOf trained p).state = .training
    rw [htrains]
    exact hstarts (by rw [hport]; exact henable) (by rw [hport]; exact hdown) (by rw [hu.linkDieOf]; exact hdie)
  · rw [hended, hpresent, hlinks]
    exact ⟨rfl, rfl, rfl, rfl⟩

/-! ### A loss of power (R449) -/

theorem powerLoss_loses (s : State) (hpower : s.phase ≠ .off) : ∃ t, exec .powerLoss s = .next t
    ∧ t.phase = .off ∧ t.cmds = [] ∧ t.ctxs = [] ∧ t.pool = [] ∧ t.mgmt.logBuffer = [] ∧ t.mgmt.logFlash = s.mgmt.logFlash
    ∧ (∀ p, (portOf t p).state = .down) ∧ (s.mgmt.backupPin = true → t.mgmt.lostAt = none)
    ∧ t.mgmt.calCount = s.mgmt.calCount :=
  ⟨_, congrArg Host.Outcome.next (if_neg hpower), rfl, rfl, rfl, rfl, rfl, rfl, fun _ => rfl, fun hpin => if_pos hpin, rfl⟩

/-- Settles O9, from what a reset leaves up to its reports and from the training of each port. -/
theorem startUpAndPower : Obligations.StartUpAndPower :=
  ⟨perst_resets, reducedFunctionReset_resets, perstRelease_starts, functionReady_readies, startupComplete_runs, powerLoss_loses⟩

end Sys2Proof.Machine
end

section
/-! PROOFS. Host links, takeover, handover and IDE streams (O48): an event of a host port, the halt of every active context when the owning
port is lost, and the ownership that a takeover gives; then each clause of the obligation from these. -/

namespace Sys2Proof.Machine

/-! ### An event of a host port (R359) -/

/-- An event changes its port's event registers, and pending bits besides. -/
theorem pciEvent_leaves (s : State) (p b : Nat) :
    (∃ o h, pciEvent s p b = { s with out := o, hostPorts := h })
      ∧ (∃ x, hostPortOf (pciEvent s p b) p
          = { hostPortOf s p with evt := withFlag (hostPortOf s p).evt b, evtCnt := (hostPortOf s p).evtCnt + 1, pba := x })
      ∧ ∀ q, q ≠ p → ∃ x, hostPortOf (pciEvent s p b) q = { hostPortOf s q with pba := x } := by
  obtain ⟨⟨o, h, hrow⟩, -, -, hport⟩ := pciEvent_raised s p b
  refine ⟨⟨o, h, hrow⟩, ?_, fun q hq => ?_⟩
  · obtain ⟨x, hx⟩ := hport p
    rw [hostPortOf_modHostPort_self] at hx
    exact ⟨x, hx⟩
  · obtain ⟨x, hx⟩ := hport q
    rw [hostPortOf_modHostPort, if_neg hq] at hx
    exact ⟨x, hx⟩

/-- A port's change and its event. -/
theorem pciEvent_modHostPort (s : State) (p b : Nat) (f : HostPort → HostPort) :
    (∃ o h, pciEvent (modHostPort s p f) p b = { s with out := o, hostPorts := h })
      ∧ ∃ x, hostPortOf (pciEvent (modHostPort s p f) p b) p
          = { f (hostPortOf s p) with evt := withFlag (f (hostPortOf s p)).evt b, evtCnt := (f (hostPortOf s p)).evtCnt + 1, pba := x } := by
  obtain ⟨⟨o, h, hrow⟩, hport, -⟩ := pciEvent_leaves (modHostPort s p f) p b
  rw [hostPortOf_modHostPort_self] at hport
  exact ⟨⟨o, h, hrow⟩, hport⟩

/-! ### A link's change (R349, R350, R359) -/

theorem pcieLinkChange_down (s : State) (p n w : Nat) (f : Bool) (hp : p < 2) (hpower : s.phase ≠ .off) (hlink : (hostPortOf s p).link ≠ .down) :
    ∃ t, exec (.pcieLinkChange p 0 n w f) s = .next t ∧ (hostPortOf t p).link = .down ∧ (hostPortOf t p).downSince = some s.localTime
      ∧ (hostPortOf t p).evt = withFlag (hostPortOf s p).evt 1 ∧ (hostPortOf t p).evtCnt = (hostPortOf s p).evtCnt + 1
      ∧ t = { s with hostPorts := t.hostPorts, out := t.out } := by
  have hrow : pcieLinkChange p 0 n w f s = pciEvent (modHostPort s p (linkFields s · .down n w f)) p 1 := by
    simp [pcieLinkChange, hostLinkOf, hp, hpower, hlink]
  obtain ⟨⟨o, h, hframe⟩, x, hport⟩ := pciEvent_modHostPort s p 1 (linkFields s · .down n w f)
  refine ⟨_, congrArg Host.Outcome.next hrow, ?_⟩
  rw [hport]
  exact ⟨rfl, rfl, rfl, rfl, by rw [hframe]⟩

theorem retryEarly_of_none {s : State} (h : s.links.early = []) : retryEarly s = s := by
  rw [retryEarly, h]
  rfl

theorem pcieLinkChange_up (s : State) (p n w : Nat) (f : Bool) (hp : p < 2) (hpower : s.phase ≠ .off) (hlink : (hostPortOf s p).link ≠ .up)
    (hearly : s.links.early = []) :
    ∃ t, exec (.pcieLinkChange p 1 n w f) s = .next t ∧ (hostPortOf t p).link = .up ∧ (hostPortOf t p).speed = n % 8
      ∧ (hostPortOf t p).width = w % 32 ∧ (hostPortOf t p).flitMode = f ∧ (hostPortOf t p).lost = false ∧ (hostPortOf t p).timeouts = 0
      ∧ (hostPortOf t p).evt = withFlag (hostPortOf s p).evt 1 ∧ t = { s with hostPorts := t.hostPorts, out := t.out } := by
  let raisedUp := pciEvent (modHostPort s p (linkFields s · .up n w f)) p 1
  obtain ⟨⟨o, h, hframe⟩, x, hport⟩ := pciEvent_modHostPort s p 1 (linkFields s · .up n w f)
  have hframe : raisedUp = { s with out := o, hostPorts := h } := hframe
  have hquiet : (sendPending raisedUp p).links.early = [] := by rw [hframe]; exact hearly
  have hreturns : hostReturns raisedUp p = sendPending raisedUp p := by
    rw [hostReturns, retryEarly_of_none hquiet, ite_self]
  have hrow : pcieLinkChange p 1 n w f s = sendPending raisedUp p := by
    rw [← hreturns]
    simp [pcieLinkChange, hostLinkOf, hp, hpower, hlink, raisedUp]
  refine ⟨_, congrArg Host.Outcome.next hrow, ?_⟩
  rw [hostPortOf_sendPending, hport]
  refine ⟨rfl, rfl, rfl, rfl, ?_, rfl, rfl, by rw [hframe]; rfl⟩
  simp [openSent, linkFields]

/-! ### The loss of the owning port (R230, R350) -/

/-- What ring access errors leave: what the front end writes, no field of a host port but its pending bits, contexts that have halted at their
ring access, and no byte of memory while the host cannot be reached. -/
def ringsLost (s t : State) : Prop :=
  frontWrites s t ∧ (∀ q, ∃ b, hostPortOf t q = { hostPortOf s q with pba := b })
    ∧ (∀ n, ctxOf t n = ctxOf s n ∨ ((ctxOf t n).state = .halted ∧ (ctxOf t n).haltReason = .ringAccess))
    ∧ (hostUp s = false → t.mem = s.mem)

theorem ringsLost.refl (s : State) : ringsLost s s := ⟨.refl s, fun _ => ⟨_, rfl⟩, fun _ => .inl rfl, fun _ => rfl⟩

/-- R349: whether the host can be reached rests on its port, and not on pending bits. -/
theorem hostUp_of_ports {s t : State} (howner : t.owner = s.owner) (h : ∃ b, hostPortOf t s.owner = { hostPortOf s s.owner with pba := b }) :
    hostUp t = hostUp s := by
  obtain ⟨b, hb⟩ := h
  unfold hostUp
  rw [howner]
  show ((hostPortOf t s.owner).link == .up && (hostPortOf t s.owner).busMaster) = _
  rw [hb]
  rfl

theorem ringsLost.trans {s t u : State} (hst : ringsLost s t) (htu : ringsLost t u) : ringsLost s u := by
  obtain ⟨hwrites, hports, hctxs, hmem⟩ := hst
  obtain ⟨hwrites', hports', hctxs', hmem'⟩ := htu
  have howner : t.owner = s.owner := by
    obtain ⟨_, _, _, _, _, rfl⟩ := hwrites
    rfl
  refine ⟨hwrites.trans hwrites', fun q => ?_, fun n => ?_, fun hdown => ?_⟩
  · obtain ⟨b, hb⟩ := hports q
    obtain ⟨b', hb'⟩ := hports' q
    exact ⟨b', by rw [hb', hb]⟩
  · rcases hctxs' n with hsame | hhalted
    · rw [hsame]
      exact hctxs n
    · exact .inr hhalted
  · exact (hmem' ((hostUp_of_ports howner (hports s.owner)).trans hdown)).trans (hmem hdown)

theorem ringsLost_ringAccessError (s : State) (n : Nat) : ringsLost s (ringAccessError n s) := by
  unfold ringAccessError
  dsimp only
  split
  · let flaggedCtx := ctxFlags (modCtx s n (stoppedAt .ringAccess (ctxOf s n).sqHead)) n 9
    have hraised : raised (modCtx (modCtx s n (stoppedAt .ringAccess (ctxOf s n).sqHead)) n (flagged 9)) flaggedCtx :=
      sendVector_raised _ _ _
    obtain ⟨⟨o, h, hflagged⟩, -, -, hports⟩ := hraised
    obtain ⟨⟨hself, hothers⟩, hwrites⟩ := haltCtx_leaves s n .ringAccess (ctxOf s n).sqHead 9
    obtain ⟨m, p, hdoorbell⟩ := writeDoorbell_frame flaggedCtx n
    have hrow : haltCtx s n .ringAccess (ctxOf s n).sqHead 9 = writeDoorbell flaggedCtx n := rfl
    refine ⟨hwrites, fun q => ?_, fun k => ?_, fun hdown => ?_⟩
    · obtain ⟨b, hb⟩ := hports q
      rw [hrow, hdoorbell]
      exact ⟨b, hb⟩
    · by_cases hk : k = n
      · subst hk
        rw [hself]
        exact .inr ⟨rfl, rfl⟩
      · exact .inl (hothers k hk)
    · have hdown' : hostUp flaggedCtx = false :=
        (hostUp_of_ports (s := s) (by rw [hflagged]; rfl) (hports s.owner)).trans hdown
      rw [hrow, show writeDoorbell flaggedCtx n = flaggedCtx from if_neg (by rw [hdown']; decide), hflagged]
      rfl
  · exact .refl s

/-- R350: of several contexts each active one halts at its ring access. -/
theorem ringAccessErrors_halt (ns : List Nat) (s : State) {n : Nat} (hn : n ∈ ns) (hactive : (ctxOf s n).state = .active) :
    (ctxOf (seqAll s ns (fun s n => ringAccessError n s)) n).state = .halted
      ∧ (ctxOf (seqAll s ns (fun s n => ringAccessError n s)) n).haltReason = .ringAccess := by
  induction ns generalizing s with
  | nil => cases hn
  | cons r rs ih =>
    have hfirst : ringsLost s (ringAccessError r s) := ringsLost_ringAccessError s r
    have hrest : ringsLost (ringAccessError r s) (seqAll (ringAccessError r s) rs (fun s n => ringAccessError n s)) :=
      seqAll_rel ringsLost.refl ringsLost.trans ringsLost_ringAccessError rs _
    obtain ⟨-, -, hctxs, -⟩ := hfirst
    obtain ⟨-, -, hctxs', -⟩ := hrest
    rcases hctxs n with hsame | hhalted
    · have hr : n ≠ r := by
        rintro rfl
        obtain ⟨t, hrow, -, hself, -⟩ := ringAccessError_halts s n _ rfl hactive
        injection hrow with hrow
        rw [← hrow] at hself
        rw [hsame] at hself
        rw [hself] at hactive
        cases hactive
      exact ih (ringAccessError r s) (List.mem_of_ne_of_mem hr hn) (by rwa [hsame])
    · rcases hctxs' n with hkept | hhalted'
      · show (ctxOf (seqAll (ringAccessError r s) rs _) n).state = .halted ∧ (ctxOf (seqAll (ringAccessError r s) rs _) n).haltReason = .ringAccess
        rw [hkept]
        exact hhalted
      · exact hhalted'

theorem aget_of_not_key {α : Type} {m : AMap α} {k : Nat} (d : α) (h : k ∉ m.map Prod.fst) : aget m k d = d := by
  induction m with
  | nil => rfl
  | cons e m ih =>
    obtain ⟨a, v⟩ := e
    have hne : a ≠ k := fun heq => h (heq ▸ List.mem_cons_self)
    have hskip : aget ((a, v) :: m) k d = aget m k d := by
      rw [aget, aget?, if_neg hne, aget]
    exact hskip.trans (ih fun hk => h (List.mem_cons_of_mem a hk))

theorem active_mem_keys {s : State} {n : Nat} (h : (ctxOf s n).state = .active) : n ∈ s.ctxs.map Prod.fst := by
  by_contra hnot
  rw [ctxOf, aget_of_not_key _ hnot] at h
  cases h

/-- R350: the owning port, found lost: every active context halts, and while the host cannot be reached no byte changes. -/
theorem loseOwner_loses (s : State) (hlost : (hostPortOf s s.owner).lost = false) :
    ownerLost s (loseOwner s) ∧ (loseOwner s).cmds = s.cmds ∧ (loseOwner s).pool = s.pool ∧ (hostUp s = false → (loseOwner s).mem = s.mem) := by
  let told := pciEvent (modHostPort s s.owner (fun h => { h with lost := true })) s.owner 2
  have hrow : loseOwner s = seqAll told (told.ctxs.map Prod.fst) (fun s n => ringAccessError n s) :=
    if_neg (by rw [hlost]; decide)
  obtain ⟨⟨o, h, htold⟩, x, hport⟩ := pciEvent_modHostPort s s.owner 2 (fun h => { h with lost := true })
  have htold : told = { s with out := o, hostPorts := h } := htold
  have hrings : ringsLost told (loseOwner s) := by
    rw [hrow]
    exact seqAll_rel ringsLost.refl ringsLost.trans ringsLost_ringAccessError _ _
  have hctx : ∀ n, ctxOf told n = ctxOf s n := fun n => by rw [htold]; rfl
  obtain ⟨⟨_, _, _, _, _, hframe⟩, hports, -, hmem⟩ := hrings
  refine ⟨⟨?_, ?_, fun n hactive => ?_⟩, ?_, ?_, fun hdown => ?_⟩
  · obtain ⟨b, hb⟩ := hports s.owner
    rw [hb]
    show (hostPortOf told s.owner).lost = true
    rw [hport]
  · rw [hframe, htold]
  · rw [← hctx] at hactive
    rw [hrow]
    exact ringAccessErrors_halt _ told (active_mem_keys hactive) hactive
  · rw [hframe, htold]
  · rw [hframe, htold]
  · have hdown' : hostUp told = false := by
      unfold hostUp at hdown ⊢
      show ((hostPortOf told told.owner).link == .up && (hostPortOf told told.owner).busMaster) = false
      rw [show told.owner = s.owner by rw [htold], hport]
      exact hdown
    rw [hmem hdown', htold]

theorem completionTimeout_counts (s : State) (hmaster : (hostPortOf s s.owner).busMaster = true)
    (hfew : (hostPortOf s s.owner).timeouts + 1 < 16) :
    ∃ t, exec (.completionTimeout s.owner) s = .next t
      ∧ hostPortOf t s.owner = { hostPortOf s s.owner with timeouts := (hostPortOf s s.owner).timeouts + 1 }
      ∧ otherHostPorts s t s.owner ∧ t = { s with hostPorts := t.hostPorts } := by
  let f : HostPort → HostPort := fun h => { h with timeouts := h.timeouts + 1 }
  have hport := hostPortOf_modHostPort_self s s.owner f
  have hnot : ¬ 16 ≤ (hostPortOf (modHostPort s s.owner f) s.owner).timeouts := by
    rw [hport]
    exact Nat.not_le.mpr hfew
  have hrow : completionTimeout s.owner s = modHostPort s s.owner f := (if_pos (by simp [hmaster])).trans (if_neg hnot)
  exact ⟨_, congrArg Host.Outcome.next hrow, hport, otherHostPorts_modHostPort s s.owner f, rfl⟩

theorem completionTimeout_loses (s : State) (hmaster : (hostPortOf s s.owner).busMaster = true) (hlost : (hostPortOf s s.owner).lost = false)
    (hmany : 16 ≤ (hostPortOf s s.owner).timeouts + 1) :
    ∃ t, exec (.completionTimeout s.owner) s = .next t ∧ ownerLost s t ∧ t.cmds = s.cmds ∧ t.pool = s.pool := by
  let f : HostPort → HostPort := fun h => { h with timeouts := h.timeouts + 1 }
  have hport := hostPortOf_modHostPort_self s s.owner f
  have hsixteen : 16 ≤ (hostPortOf (modHostPort s s.owner f) s.owner).timeouts := by
    rw [hport]
    exact hmany
  have hrow : completionTimeout s.owner s = loseOwner (modHostPort s s.owner f) := (if_pos (by simp [hmaster])).trans (if_pos hsixteen)
  obtain ⟨hloses, hcmds, hpool, -⟩ := loseOwner_loses (modHostPort s s.owner f) ((congrArg HostPort.lost hport).trans hlost)
  exact ⟨_, congrArg Host.Outcome.next hrow, hloses, hcmds, hpool⟩

theorem owningPortLost_loses (s : State) (t0 : W64) (hmaster : (hostPortOf s s.owner).busMaster = true)
    (hlost : (hostPortOf s s.owner).lost = false) (hlink : (hostPortOf s s.owner).link = .down)
    (hsince : (hostPortOf s s.owner).downSince = some t0) (hdue : us 100000 ≤ since s t0) :
    ∃ t, exec .owningPortLost s = .next t ∧ ownerLost s t ∧ t.cmds = s.cmds ∧ t.mem = s.mem ∧ t.pool = s.pool := by
  have hrow : owningPortLost s = loseOwner s := by
    unfold owningPortLost
    dsimp only
    rw [hsince]
    exact if_pos (by simp [hmaster, hlink, hdue])
  have hdown : hostUp s = false := by
    show ((hostPortOf s s.owner).link == .up && (hostPortOf s s.owner).busMaster) = false
    rw [hlink]
    rfl
  obtain ⟨hloses, hcmds, hpool, hmem⟩ := loseOwner_loses s hlost
  exact ⟨_, congrArg Host.Outcome.next hrow, hloses, hcmds, hmem hdown, hpool⟩

/-! ### Takeover and handover (R351, R358, R364) -/

theorem unuseGroups_wf {m : Memory} (h : m.wf = true) : (unuseGroups m).wf = true := by
  unfold unuseGroups
  split
  · exact h
  · exact mapply_wf _ _ (mapply_wf _ _ h)

/-- R364: the image of a takeover names the port that owns now. -/
theorem setPort_setOwner {m : Memory} {p : Nat} (hwf : m.wf = true) (hp : p < 2) : setPort (setOwner m p) = p := by
  unfold setOwner
  split
  · assumption
  · have hnamed : setPort (mapply m (cellsNat 0x42 1 p)) = p % 2 ^ (8 * 1) := mnat_mapply_cellsNat hwf 0x42 1 p
    have hsealed : setPort (sealImage (mapply m (cellsNat 0x42 1 p))) = setPort (mapply m (cellsNat 0x42 1 p)) :=
      mnat_congr fun x hlo hhi => mget_mapply_ne _ _ fun c hc => by
        have hbounds := mem_cellsNat hc
        omega
    rw [hsealed, hnamed]
    omega

theorem takeover_takes (s : State) (p : Nat) (hp : p < 2) (hother : p ≠ s.owner) (hready : (hostPortOf s p).ready = true)
    (hopen : barOpen s = true) (hlost : (hostPortOf s s.owner).lost = true) :
    ∃ t, exec (.takeover p) s = .next t ∧ startedAnew s t ∧ t.owner = p ∧ t.localTime = s.localTime
      ∧ (s.cset.active.wf = true → setPort t.cset.active = p) := by
  have hrow : takeover p s = resetFor s p := if_pos (by simp [hp, hother, hready, hopen, hlost])
  obtain ⟨⟨_, _, _, _, _, _, _, _, _, _, _, hreset⟩, -⟩ := reported_resetModule s mrTakeover true
  unfold resetFor at hrow
  rw [hreset] at hrow
  exact ⟨_, congrArg Host.Outcome.next hrow, ⟨rfl, rfl, rfl, rfl, phaseAfter_of_bank true, phaseAfter_of_none true⟩, rfl, rfl,
    fun hwf => setPort_setOwner (unuseGroups_wf hwf) hp⟩

theorem handoverRequest_asks (s : State) (p : Nat) (hp : p < 2) (hother : p ≠ s.owner) (hready : (hostPortOf s p).ready = true)
    (hnew : (hostPortOf s p).request = false) :
    ∃ t, exec (.handoverRequest p) s = .next t ∧ (hostPortOf t p).request = true
      ∧ (hostPortOf t s.owner).evt = withFlag (hostPortOf s s.owner).evt 3 ∧ t.owner = s.owner
      ∧ t = { s with hostPorts := t.hostPorts, out := t.out } := by
  let asked := modHostPort s p (fun h => { h with request := true })
  have hrow : handoverRequest p s = pciEvent asked s.owner 3 := if_pos (by simp [hp, hother, hready, hnew])
  obtain ⟨⟨o, h, hframe⟩, ⟨x, howner⟩, hothers⟩ := pciEvent_leaves asked s.owner 3
  obtain ⟨y, hport⟩ := hothers p hother
  have hasked : hostPortOf asked s.owner = hostPortOf s s.owner := otherHostPorts_modHostPort s p _ s.owner hother.symm
  refine ⟨_, congrArg Host.Outcome.next hrow, ?_⟩
  rw [hport, howner, hasked, hostPortOf_modHostPort_self, hframe]
  exact ⟨rfl, rfl, rfl, rfl⟩

/-! ### IDE streams (R355, R362) -/

theorem not_mem_disabled (h : HostPort) (x : Nat) : x ∉ (ideApply h x .disable).streams := fun hx => ((mem_srem _ _ _).mp hx).2 rfl

theorem nextEpoch_counts (m : AMap Nat) (x : Nat) : aget (amod m x 0 (· + 1)) x 0 = aget m x 0 + 1 :=
  (aget_amod m x 0 (· + 1) x).trans (if_pos rfl)

/-- R355: new keys for a stream that has keys, and nothing for another. -/
theorem ideApply_refresh (h : HostPort) (x : Nat) : (ideApply h x .refresh).streams = h.streams
    ∧ (x ∈ h.streams → aget (ideApply h x .refresh).keyEpoch x 0 = aget h.keyEpoch x 0 + 1) := by
  by_cases hmem : h.streams.contains x = true
  · rw [ideApply, if_pos hmem]
    exact ⟨rfl, fun _ => nextEpoch_counts h.keyEpoch x⟩
  · rw [ideApply, if_neg hmem]
    exact ⟨rfl, fun hx => absurd (List.contains_iff_mem.mpr hx) hmem⟩

theorem ideKm_applies {s : State} {p x : Nat} (op : IdeKmOp) (hp : p < 2) (hx : x < 2) (hsession : doeSession s p = true) :
    exec (.ideKm p x op) s = .next (modHostPort s p (ideApply · x op))
      ∧ hostPortOf (modHostPort s p (ideApply · x op)) p = ideApply (hostPortOf s p) x op
      ∧ otherHostPorts s (modHostPort s p (ideApply · x op)) p :=
  ⟨congrArg Host.Outcome.next (if_pos (by simp [hp, hx, hsession])), hostPortOf_modHostPort_self s p _, otherHostPorts_modHostPort s p _⟩

theorem ideKm_sets (s : State) (p x : Nat) (hp : p < 2) (hx : x < 2) (hsession : doeSession s p = true) :
    (∃ t, exec (.ideKm p x .program) s = .next t ∧ x ∈ (hostPortOf t p).streams
      ∧ aget (hostPortOf t p).keyEpoch x 0 = aget (hostPortOf s p).keyEpoch x 0 + 1 ∧ otherHostPorts s t p ∧ t = { s with hostPorts := t.hostPorts })
    ∧ (∃ t, exec (.ideKm p x .refresh) s = .next t ∧ (hostPortOf t p).streams = (hostPortOf s p).streams
      ∧ (x ∈ (hostPortOf s p).streams → aget (hostPortOf t p).keyEpoch x 0 = aget (hostPortOf s p).keyEpoch x 0 + 1)
      ∧ otherHostPorts s t p ∧ t = { s with hostPorts := t.hostPorts })
    ∧ (∃ t, exec (.ideKm p x .disable) s = .next t ∧ x ∉ (hostPortOf t p).streams ∧ otherHostPorts s t p ∧ t = { s with hostPorts := t.hostPorts })
    ∧ (∀ b, ∃ t, exec (.ideKm p x (.setRequire b)) s = .next t ∧ hostPortOf t p = { hostPortOf s p with require := b } ∧ otherHostPorts s t p
      ∧ t = { s with hostPorts := t.hostPorts }) := by
  refine ⟨?_, ?_, ?_, fun b => ?_⟩
  · obtain ⟨hrow, hport, hothers⟩ := ideKm_applies .program hp hx hsession
    refine ⟨_, hrow, ?_⟩
    rw [hport]
    exact ⟨(mem_sins _ _ _).mpr (.inl rfl), nextEpoch_counts _ x, hothers, rfl⟩
  · obtain ⟨hrow, hport, hothers⟩ := ideKm_applies .refresh hp hx hsession
    refine ⟨_, hrow, ?_⟩
    obtain ⟨hstreams, hkey⟩ := ideApply_refresh (hostPortOf s p) x
    rw [hport]
    exact ⟨hstreams, hkey, hothers, rfl⟩
  · obtain ⟨hrow, hport, hothers⟩ := ideKm_applies .disable hp hx hsession
    refine ⟨_, hrow, ?_⟩
    rw [hport]
    exact ⟨not_mem_disabled _ x, hothers, rfl⟩
  · obtain ⟨hrow, hport, hothers⟩ := ideKm_applies (.setRequire b) hp hx hsession
    exact ⟨_, hrow, hport, hothers, rfl⟩

theorem ideIntegrityFail_ends (s : State) (p x : Nat) (hp : p < 2) (hx : x ∈ (hostPortOf s p).streams) :
    ∃ t, exec (.ideIntegrityFail p x) s = .next t
      ∧ x ∉ (hostPortOf t p).streams ∧ (hostPortOf t p).evt = withFlag (hostPortOf s p).evt 5
      ∧ t = { s with hostPorts := t.hostPorts, out := t.out } := by
  have hrow : ideIntegrityFail p x s = pciEvent (modHostPort s p (ideApply · x .disable)) p 5 := if_pos (by simp [hp, hx])
  obtain ⟨⟨o, h, hframe⟩, y, hport⟩ := pciEvent_modHostPort s p 5 (ideApply · x .disable)
  refine ⟨_, congrArg Host.Outcome.next hrow, ?_⟩
  rw [hport]
  exact ⟨not_mem_disabled _ x, rfl, by rw [hframe]⟩

/-- Settles O48: each change is an event of its port, and a lost owner halts every context by its ring access. -/
theorem hostLinks : Obligations.HostLinks :=
  ⟨pcieLinkChange_down, pcieLinkChange_up, completionTimeout_counts, completionTimeout_loses, owningPortLost_loses, takeover_takes,
    handoverRequest_asks, ideKm_sets, ideIntegrityFail_ends⟩

end Sys2Proof.Machine
end

section
/-! PROOFS. The carafe aperture (O49): what an access finds of its pages, the pieces of a write and the bytes they leave; then each clause of the
obligation from these. -/

namespace Sys2Proof.Machine

/-! ### The pages of an access (R346) -/

theorem page_of_pageState {s : State} {p : Nat} {g : PageState} (h : pageState s p = some g) : ∃ e, aget? s.pool p = some e ∧ e.state = g :=
  Option.map_eq_some_iff.mp h

theorem bringPage_of_resident {s : State} {p : Nat} (h : pageState s p = some .resident) : bringPage s p = .done s 0 := by
  obtain ⟨e, hpage, hres⟩ := page_of_pageState h
  exact bringPage_resident hpage hres

theorem bringPage_of_free {s : State} {p : Nat} (h : pageState s p = none) : bringPage s p = .fails .permission := by
  have hpage : aget? s.pool p = none := Option.map_eq_none_iff.mp h
  simp only [bringPage, hpage]

theorem bringPage_of_lost {s : State} {p : Nat} (h : pageState s p = some .lost) : bringPage s p = .fails .moduleDead := by
  obtain ⟨e, hpage, hlost⟩ := page_of_pageState h
  simp only [bringPage, hpage, hlost]

theorem apPages_resident {s : State} {ps : List Nat} (h : ∀ p ∈ ps, pageState s p = some .resident) : apPages s ps = .here s := by
  induction ps with
  | nil => rfl
  | cons p ps ih =>
    simp only [apPages, bringPage_of_resident (h p List.mem_cons_self), ih fun q hq => h q (List.mem_cons_of_mem p hq)]

/-- The page of each line of a byte range is the page of one of its bytes. -/
theorem mem_rangePages {a n p : Nat} (h : p ∈ rangePages a n) : ∃ i, i < n ∧ p = pageOf (a + i) := by
  obtain ⟨l, hl, rfl⟩ := List.mem_map.mp (List.mem_dedup.mp h)
  obtain ⟨hlow, hhigh⟩ := mem_linesOf hl
  have hsome : n ≠ 0 := by
    rintro rfl
    cases hl
  refine ⟨max a (64 * l) - a, by omega, ?_⟩
  have hbyte : (a + (max a (64 * l) - a)) / 64 = l := by omega
  rw [← pageOf_line (a + (max a (64 * l) - a)), hbyte]

/-- The pages of a byte range within one line. -/
theorem rangePages_line {a n : Nat} (h0 : 0 < n) (h : n ≤ 64 - a % 64) : rangePages a n = [pageOf a] := by
  have hone : (a + n - 1) / 64 - a / 64 + 1 = 1 := by omega
  have hlines : linesOf a n = [a / 64] := by
    rw [linesOf, if_neg (by omega), hone]
    simp
  rw [rangePages, hlines, List.map_singleton, pageOf_line, List.dedup_eq_self.mpr (List.nodup_singleton _)]

/-! ### Reads (R342, R346) -/

/-- R346: what a read answers by what it finds of its pages. -/
def readReply (s : State) (o n : Nat) : ApFound → State
  | .wait => s
  | .free => hostReply s (.unsupportedRequest o)
  | .lost => hostReply s (.completerAbort o)
  | .here s1 => hostReply s1 (.data o (mread s1.mem (apertureAddr s o) n) ((linesOf (apertureAddr s o) n).any s1.poison.contains))

theorem exec_apertureRead {s : State} {o n : Nat} (hhub : s.phase ≠ .hubDead) (hawake : asleep s = false) (hopen : barOpen s = true)
    (hwithin : o + n ≤ 2 ^ 25) :
    exec (.apertureRead o n) s = .next (readReply s o n (apPages s (rangePages (apertureAddr s o) n))) := by
  refine (if_neg (Nat.not_lt.mpr hwithin)).trans (congrArg Host.Outcome.next ?_)
  unfold apertureRead
  rw [if_neg (by simp [hhub, hawake]), if_neg (by simp [hopen])]
  dsimp only
  cases apPages s (rangePages (apertureAddr s o) n) <;> rfl

theorem apertureRead_returns (s : State) (o n : Nat) (h : apertureOpen s o n) :
    exec (.apertureRead o n) s = .next { s with out := { s.out with host := s.out.host
      ++ [.data o (mread s.mem (apertureAddr s o) n) ((linesOf (apertureAddr s o) n).any s.poison.contains)] } } := by
  obtain ⟨hhub, hawake, hopen, hwithin, hpages⟩ := h
  have hhere : apPages s (rangePages (apertureAddr s o) n) = .here s := apPages_resident fun p hp => by
    obtain ⟨i, hi, rfl⟩ := mem_rangePages hp
    exact hpages i hi
  rw [exec_apertureRead hhub hawake hopen hwithin, hhere]
  rfl

theorem apertureRead_fails (s : State) (o n : Nat) (hhub : s.phase ≠ .hubDead) (hawake : asleep s = false) (hopen : barOpen s = true)
    (h0 : 0 < n) (hline : n ≤ 64 - o % 64) (hwithin : o + n ≤ 2 ^ 25) :
    (pageState s (pageOf (apertureAddr s o)) = none → exec (.apertureRead o n) s = .next (hostReply s (.unsupportedRequest o)))
    ∧ (pageState s (pageOf (apertureAddr s o)) = some .lost → exec (.apertureRead o n) s = .next (hostReply s (.completerAbort o))) := by
  have hoff : apertureAddr s o % 64 = o % 64 := by
    unfold apertureAddr
    omega
  rw [exec_apertureRead hhub hawake hopen hwithin, rangePages_line h0 (by rwa [hoff])]
  refine ⟨fun hfree => ?_, fun hlost => ?_⟩
  · simp only [apPages, bringPage_of_free hfree, readReply]
  · simp only [apPages, bringPage_of_lost hlost, readReply]

/-! ### Writes (R346) -/

/-- Bytes stand at an address, every other byte is as before, and nothing else differs but poison. -/
def wroteAt (s t : State) (a : Nat) (bs : List Byte) : Prop :=
  (∀ i, i < bs.length → mget t.mem (a + i) = bs.getD i 0)
    ∧ (∀ x, x < a ∨ a + bs.length ≤ x → mget t.mem x = mget s.mem x) ∧ t = { s with mem := t.mem, poison := t.poison }

theorem wroteAt_storeCells {s : State} (hwf : s.mem.wf = true) (a : Nat) (bs : List Byte) : wroteAt s (storeCells s (cellsAt a bs)) a bs := by
  refine ⟨fun i hi => ?_, fun x hx => mget_mapply_ne _ _ fun c hc => ?_, rfl⟩
  · rw [List.getD_eq_getElem bs 0 hi]
    exact mget_mapply_cellsAt hwf a hi
  · have hbounds := mem_cellsAt hc
    omega

/-- Bytes written and the rest of them written after are all of them written. -/
theorem wroteAt.append {s t u : State} {a n : Nat} {bs : List Byte} (hst : wroteAt s t a (bs.take n)) (htu : wroteAt t u (a + n) (bs.drop n)) :
    wroteAt s u a bs := by
  obtain ⟨hwritten, hkept, hframe⟩ := hst
  obtain ⟨hwritten', hkept', hframe'⟩ := htu
  rw [List.length_take] at hwritten hkept
  rw [List.length_drop] at hwritten' hkept'
  refine ⟨fun i hi => ?_, fun x hx => ?_, by rw [hframe', hframe]⟩
  · by_cases hfirst : i < n
    · rw [hkept' _ (.inl (by omega)), hwritten i (by omega)]
      simp [List.getD_eq_getElem?_getD, hfirst]
    · have hrest := hwritten' (i - n) (by omega)
      rw [show a + n + (i - n) = a + i by omega] at hrest
      rw [hrest]
      simp [List.getD_eq_getElem?_getD, List.getElem?_drop, show n + (i - n) = i by omega]
  · rw [hkept' x (by omega), hkept x (by omega)]

theorem aperturePieces_writes (k a : Nat) (bs : List Byte) (s : State) (hk : bs.length < k) (hwf : s.mem.wf = true)
    (hpages : ∀ i, i < bs.length → pageState s (pageOf (a + i)) = some .resident) : wroteAt s (aperturePieces k a bs s) a bs := by
  induction k generalizing a bs s with
  | zero => exact absurd hk (Nat.not_lt_zero _)
  | succ k ih =>
    unfold aperturePieces
    split
    · next hempty =>
      rw [List.isEmpty_iff] at hempty
      subst hempty
      exact ⟨fun i hi => absurd hi (Nat.not_lt_zero i), fun _ _ => rfl, rfl⟩
    · next hsome =>
      have hlength : 0 < bs.length := List.length_pos_iff.mpr fun h => hsome (List.isEmpty_iff.mpr h)
      have hpiece : aperturePiece a (bs.take (64 - a % 64)) s = storeCells s (cellsAt a (bs.take (64 - a % 64))) := by
        simp only [aperturePiece, show bringPage s (pageOf a) = .done s 0 from bringPage_of_resident (hpages 0 hlength)]
      dsimp only
      rw [hpiece]
      refine (wroteAt_storeCells hwf a _).append (ih _ _ _ ?_ (mapply_wf _ _ hwf) fun i hi => ?_)
      · rw [List.length_drop]
        omega
      · rw [List.length_drop] at hi
        have hpage := hpages (64 - a % 64 + i) (by omega)
        rwa [← Nat.add_assoc] at hpage

theorem apertureWrite_writes (s : State) (o : Nat) (bs : List Byte) (hwf : s.mem.wf = true) (hawake : s.standby = none)
    (h : apertureOpen s o bs.length) :
    ∃ t, exec (.apertureWrite o bs) s = .next t ∧ (∀ i, i < bs.length → mget t.mem (apertureAddr s o + i) = bs.getD i 0)
      ∧ (∀ a, a < apertureAddr s o ∨ apertureAddr s o + bs.length ≤ a → mget t.mem a = mget s.mem a)
      ∧ t = { s with mem := t.mem, poison := t.poison } := by
  obtain ⟨-, -, hopen, hwithin, hpages⟩ := h
  have hrow : exec (.apertureWrite o bs) s = .next (aperturePieces (bs.length + 1) (apertureAddr s o) bs s) :=
    (if_neg (Nat.not_lt.mpr hwithin)).trans (congrArg Host.Outcome.next (barWrite_takesWrites ⟨hopen, hawake⟩ _ _ _ _))
  exact ⟨_, hrow, aperturePieces_writes _ _ bs s (Nat.lt_succ_self _) hwf hpages⟩

/-! ### AtomicOps (R342) -/

/-- An AtomicOp's value has as many bytes as the access. -/
theorem atomicNew_mod (m : Memory) (a n : Nat) (op : AtomicOp) (x y : Nat) :
    atomicNew n op (mnat m a n) x y % 2 ^ (8 * n) = atomicNew n op (mnat m a n) x y := by
  have hold := mnat_lt m a n
  have hpos : 0 < 2 ^ (8 * n) := Nat.two_pow_pos _
  cases op with
  | fetchAdd => exact Nat.mod_mod _ _
  | swap => exact Nat.mod_mod _ _
  | cas =>
    unfold atomicNew
    dsimp only
    split
    · exact Nat.mod_mod _ _
    · exact Nat.mod_eq_of_lt hold

theorem apertureAtomic_swaps (s : State) (o n x y : Nat) (op : AtomicOp) (hwf : s.mem.wf = true) (h : apertureOpen s o n) (hn : n = 4 ∨ n = 8)
    (haligned : o % n = 0) :
    ∃ t, exec (.apertureAtomic o n op x y) s = .next t
      ∧ mnat t.mem (apertureAddr s o) n = (match op with
          | .fetchAdd => (mnat s.mem (apertureAddr s o) n + x) % 2 ^ (8 * n)
          | .swap => x % 2 ^ (8 * n)
          | .cas => if mnat s.mem (apertureAddr s o) n = y % 2 ^ (8 * n) then x % 2 ^ (8 * n) else mnat s.mem (apertureAddr s o) n)
      ∧ (∀ a, a < apertureAddr s o ∨ apertureAddr s o + n ≤ a → mget t.mem a = mget s.mem a)
      ∧ t.out.host = s.out.host ++ [.data o (leBytes n (mnat s.mem (apertureAddr s o) n)) (s.poison.contains (apertureAddr s o / 64))] := by
  obtain ⟨hhub, hawake, hopen, hwithin, hpages⟩ := h
  have hpage := bringPage_of_resident (hpages 0 (by omega))
  rw [Nat.add_zero] at hpage
  let v := atomicNew n op (mnat s.mem (apertureAddr s o) n) x y
  have hrow : exec (.apertureAtomic o n op x y) s = .next (hostReply (storeCells s (cellsNat (apertureAddr s o) n v))
      (.data o (leBytes n (mnat s.mem (apertureAddr s o) n)) (s.poison.contains (apertureAddr s o / 64)))) := by
    refine (if_neg (Nat.not_lt.mpr hwithin)).trans (congrArg Host.Outcome.next ?_)
    unfold apertureAtomic
    rw [if_neg (by simp [hhub, hawake]), if_neg (by rcases hn with rfl | rfl <;> simp [hopen, haligned])]
    simp only [hpage]
    rfl
  refine ⟨_, hrow, ?_, fun a ha => mget_mapply_ne _ _ fun c hc => ?_, rfl⟩
  · refine ((mnat_mapply_cellsNat hwf (apertureAddr s o) n v).trans (atomicNew_mod s.mem (apertureAddr s o) n op x y)).trans ?_
    cases op <;> rfl
  · have hbounds := mem_cellsNat hc
    omega

/-- Settles O49: every page of an access is the page of one of its bytes, and a write is the sum of its pieces. -/
theorem aperture : Obligations.Aperture := ⟨apertureRead_returns, apertureWrite_writes, apertureAtomic_swaps, apertureRead_fails⟩

end Sys2Proof.Machine
end

section
/-! PROOFS. The bench and the substitution of configuration sets (O50): a result of the bench's checks, a refusal, an admission, and the
exchange at the swap point; then each clause of the obligation from these. -/

namespace Sys2Proof.Machine

/-! ### The bench (R364, R368) -/

/-- The bytes written to empty memory. -/
theorem mget_mwrite_nil (bs : List Byte) (o : Nat) : mget (mwrite [] 0 bs) o = bs.getD o 0 := by
  by_cases ho : o < bs.length
  · have hbyte := mget_mapply_cellsAt (m := []) rfl 0 ho
    rw [Nat.zero_add] at hbyte
    rw [List.getD_eq_getElem bs 0 ho]
    exact hbyte
  · rw [List.getD_eq_default bs 0 (Nat.le_of_not_lt ho), mwrite, mget_mapply_ne]
    · rfl
    · intro c hc
      have hbounds := mem_cellsAt hc
      omega

theorem benchWrite_writes (s : State) (o : Nat) (bs : List Byte) (h : takesWrites s) (hidle : s.cset.pending = none)
    (hwf : s.cset.bench.wf = true) (ho : o % 4 = 0) (hlength : bs.length % 4 = 0) (hwithin : o + bs.length ≤ 65536) :
    ∃ t, exec (.benchWrite o bs) s = .next t
      ∧ (∀ i, i < bs.length → mget t.cset.bench (o + i) = bs.getD i 0)
      ∧ (∀ a, a < o ∨ o + bs.length ≤ a → mget t.cset.bench a = mget s.cset.bench a)
      ∧ t = { s with cset := { s.cset with bench := t.cset.bench, shadowValid := false } } := by
  have hrow : benchWrite o bs s = { s with cset := { s.cset with bench := mwrite s.cset.bench o bs, shadowValid := false } } :=
    (if_neg (by simp [ho, hlength])).trans (if_neg (by simp [hidle]))
  refine ⟨_, (if_neg (Nat.not_lt.mpr hwithin)).trans (congrArg Host.Outcome.next ((barWrite_takesWrites h _ _ _ _).trans hrow)),
    fun i hi => ?_, fun a ha => mget_mapply_ne _ _ fun c hc => ?_, rfl⟩
  · rw [List.getD_eq_getElem bs 0 hi]
    exact mget_mapply_cellsAt hwf o hi
  · have hbounds := mem_cellsAt hc
    omega

/-- R368: the result of a check is an event of the configuration, and nothing else changes. -/
theorem benchResult_reports (s : State) (code : Nat) :
    (benchResult s code).cset = { s.cset with shadowValid := code == 0, checkResult := code, evt := withFlag s.cset.evt 0, evtCnt := s.cset.evtCnt + 1 }
      ∧ benchResult s code = { s with cset := (benchResult s code).cset, out := (benchResult s code).out, hostPorts := (benchResult s code).hostPorts } := by
  obtain ⟨⟨o, h, hraised⟩, -⟩ := csetEvent_raised { s with cset := { s.cset with shadowValid := code == 0, checkResult := code } } 0
  rw [benchResult, hraised]
  exact ⟨rfl, rfl⟩

theorem benchCheck_reports (s : State) (h : takesWrites s) (hidle : s.cset.pending = none) : ∃ t, exec .benchCheck s = .next t
    ∧ t.cset = { s.cset with shadowValid := checkImage s.cset.bench == 0, checkResult := checkImage s.cset.bench,
                             evt := withFlag s.cset.evt 0, evtCnt := s.cset.evtCnt + 1 }
    ∧ t = { s with cset := t.cset, out := t.out, hostPorts := t.hostPorts } := by
  have hrow : benchCheck s = benchResult s (checkImage s.cset.bench) := if_neg (by simp [hidle])
  exact ⟨_, congrArg Host.Outcome.next ((barWrite_takesWrites h _ _ _ _).trans hrow), benchResult_reports s _⟩

/-- R368: a bench filled and checked. -/
theorem benchResult_filled (s : State) (m : Memory) (code : Nat) :
    let t := benchResult { s with cset := { s.cset with bench := m } } code
    t.cset = { s.cset with bench := m, shadowValid := code == 0, checkResult := code, evt := withFlag s.cset.evt 0, evtCnt := s.cset.evtCnt + 1 }
      ∧ t = { s with cset := t.cset, out := t.out, hostPorts := t.hostPorts } :=
  benchResult_reports { s with cset := { s.cset with bench := m } } code

/-- R368: the bytes that a load takes of an image: as many as the image says and the window has. -/
def benchTaken (bs : List Byte) : Memory := mwrite [] 0 (bs.take (min benchSize (imgLength (mwrite [] 0 (bs.take benchSize)))))

theorem mget_benchTaken {bs : List Byte} {o : Nat} (ho : o < min benchSize (imgLength (mwrite [] 0 (bs.take benchSize)))) :
    mget (benchTaken bs) o = bs.getD o 0 := by
  refine (mget_mwrite_nil _ o).trans ?_
  rw [List.getD_eq_getElem?_getD, List.getElem?_take_of_lt ho, ← List.getD_eq_getElem?_getD]

theorem benchLoad_loads (s : State) (bs : List Byte) (h : takesWrites s) (hidle : s.cset.pending = none) (haddr : s.cset.loadAddr.toNat < 2 ^ 46) :
    ∃ t, exec (.benchLoad (some bs)) s = .next t ∧ t.cset.checkResult = checkImage t.cset.bench
      ∧ t.cset.shadowValid = (t.cset.checkResult == 0) ∧ t.cset.active = s.cset.active
      ∧ (∀ o, o < min 65536 (imgLength (mwrite [] 0 (bs.take 65536))) → mget t.cset.bench o = bs.getD o 0)
      ∧ t = { s with cset := t.cset, out := t.out, hostPorts := t.hostPorts } := by
  have hrow : benchLoad (some bs) s = benchResult { s with cset := { s.cset with bench := benchTaken bs } } (checkImage (benchTaken bs)) := by
    unfold benchLoad benchTaken
    rw [if_neg (by simp [hidle]), if_pos haddr]
  have hbytes : ∀ o, o < min 65536 (imgLength (mwrite [] 0 (bs.take 65536))) → mget (benchTaken bs) o = bs.getD o 0 :=
    fun o => mget_benchTaken
  generalize benchTaken bs = m at hrow hbytes
  obtain ⟨hcset, hframe⟩ := benchResult_filled s m (checkImage m)
  refine ⟨_, congrArg Host.Outcome.next ((barWrite_takesWrites h _ _ _ _).trans hrow), ?_, ?_, ?_, ?_, hframe⟩
  · rw [hcset]
  · rw [hcset]
  · rw [hcset]
  · rw [hcset]
    exact hbytes

theorem benchLoad_unreachable (s : State) (h : takesWrites s) (hidle : s.cset.pending = none) : ∃ t, exec (.benchLoad none) s = .next t
    ∧ t.cset.checkResult = 8
    ∧ t.cset.shadowValid = false ∧ t.cset.bench = s.cset.bench ∧ t.cset.active = s.cset.active
    ∧ t = { s with cset := t.cset, out := t.out, hostPorts := t.hostPorts } := by
  have hrow : benchLoad none s = benchResult s 8 := by simp [benchLoad, hidle]
  obtain ⟨hcset, hframe⟩ := benchResult_reports s 8
  refine ⟨_, congrArg Host.Outcome.next ((barWrite_takesWrites h _ _ _ _).trans hrow), ?_⟩
  rw [hcset]
  exact ⟨rfl, rfl, rfl, rfl, by rw [← hcset]; exact hframe⟩

/-! ### Requests and refusals (R369, R370, R372, R374) -/

/-- A substitution requested, with nothing else changed. -/
def swapAsked (s : State) (r : SwapReq) : State := { s with cset := { s.cset with pending := some r } }

/-- R202: what the zones evict rests on each zone's evictions alone. -/
theorem planEvicts_congr {s u : State} (m : Memory) (h : ∀ z, zoneEvicts u m z = zoneEvicts s m z) (zs : List Zone) :
    planEvicts u m zs = planEvicts s m zs := by
  induction zs with
  | nil => rfl
  | cons z zs ih => rw [planEvicts, h, ih, planEvicts]

/-- R370: what keeps a substitution from its admission is not the request itself, nor the Umpire's record of it. -/
theorem swapRefusal_asked (s : State) (r : SwapReq) (rank scope : Nat) (info : Nat × Nat) :
    swapRefusal (admitted (swapAsked s r) rank scope info) r = swapRefusal s r := by
  have hevicts := planEvicts_congr (s := s) (u := admitted (swapAsked s r) rank scope info) s.cset.bench (fun _ => rfl) (zonesIn s s.cset.bench)
  have hplan : swapPlan (admitted (swapAsked s r) rank scope info) s.cset.bench = swapPlan s s.cset.bench := by
    unfold swapPlan
    rw [show planEvicts _ _ (zonesIn (admitted (swapAsked s r) rank scope info) s.cset.bench) = _ from hevicts]
    rfl
  unfold swapRefusal
  dsimp only
  rw [show swapPlan (admitted (swapAsked s r) rank scope info) (admitted (swapAsked s r) rank scope info).cset.bench = _ from hplan]
  rfl

/-- R437: a request that nothing keeps from running is decided at once. -/
theorem requestSwap_free {s : State} {i : Option (Nat × Nat)} {expect : Nat} (h : mayRequest s i) :
    requestSwap s i expect
      = swapAdmitted (admitted (swapAsked s { issuer := i, expect := expect, since := s.localTime }) rkSwap 0 (swapInfo i)) := by
  obtain ⟨-, hfree⟩ := h
  have hask := umpAsk_free (s := swapAsked s { issuer := i, expect := expect, since := s.localTime }) hfree
  have hruns := umpRuns_admitted (swapAsked s { issuer := i, expect := expect, since := s.localTime }) rkSwap 0 (swapInfo i)
  unfold requestSwap
  dsimp only
  rw [show umpAsk { s with cset := { s.cset with pending := some _ } } rkSwap 0 (swapInfo i) = _ from hask, if_pos hruns]

theorem requestSwap_admits {s : State} {i : Option (Nat × Nat)} {expect : Nat} (h : mayRequest s i)
    (hnone : swapRefusal s { issuer := i, expect := expect, since := s.localTime } = 0) :
    swapPends s (requestSwap s i expect) i expect
      ∧ requestSwap s i expect = { s with cset := (requestSwap s i expect).cset
                                          mgmt := { s.mgmt with running := (requestSwap s i expect).mgmt.running } } := by
  have hcode := (swapRefusal_asked s { issuer := i, expect := expect, since := s.localTime } rkSwap 0 (swapInfo i)).trans hnone
  rw [requestSwap_free h]
  have hrow : swapAdmitted (admitted (swapAsked s { issuer := i, expect := expect, since := s.localTime }) rkSwap 0 (swapInfo i))
      = { admitted s rkSwap 0 (swapInfo i) with
            cset := { s.cset with pending := some { issuer := i, expect := expect, admitted := true, since := s.localTime } } } := by
    show (if _ ≠ 0 then _ else _) = _
    rw [if_neg (not_not.mpr hcode)]
    rfl
  rw [hrow]
  exact ⟨rfl, rfl⟩

/-- R370: a refusal is an event of the configuration; the request is gone, and no set changes. -/
theorem refuseSwap_refuses (s : State) (r : SwapReq) (code : Nat) (hissuer : r.issuer = none) :
    swapRefused s (refuseSwap s r code) code ∧ ∃ o h q w, refuseSwap s r code
      = { s with cset := (refuseSwap s r code).cset, out := o, hostPorts := h, mgmt := { s.mgmt with running := q, queued := w } } := by
  obtain ⟨⟨o, h, hraised⟩, -⟩ :=
    csetEvent_raised (umpEnd { s with cset := { s.cset with pending := none, swapResult := code } } rkSwap 0 (swapInfo r.issuer)) 2
  unfold refuseSwap
  rw [hissuer] at hraised ⊢
  dsimp only
  rw [hraised]
  exact ⟨rfl, _, _, _, _, rfl⟩

theorem refuseSwap_fails (s : State) (r : SwapReq) (code : Nat) {n i : Nat} {c : Cmd} (hissuer : r.issuer = some (n, i))
    (hfind : findCmd s n i = some c) :
    swapRefused s (refuseSwap s r code) code ∧ decidedAs (refuseSwap s r code) n i .state 0 ∧ (refuseSwap s r code).mem = s.mem
      ∧ (refuseSwap s r code).pool = s.pool := by
  let told := csetEvent (umpEnd { s with cset := { s.cset with pending := none, swapResult := code } } rkSwap 0 (swapInfo (some (n, i)))) 2
  obtain ⟨⟨o, h, hraised⟩, -⟩ :=
    csetEvent_raised (umpEnd { s with cset := { s.cset with pending := none, swapResult := code } } rkSwap 0 (swapInfo (some (n, i)))) 2
  have htold : told = _ := hraised
  have hfound : findCmd told n i = some c := by
    rw [htold]
    exact hfind
  have hrow : refuseSwap s r code = failCmd told c .state 0 0 := by
    unfold refuseSwap
    rw [hissuer]
    show (match findCmd told n i with | some c => failCmd told c .state 0 0 | none => told) = _
    rw [hfound]
  obtain ⟨ks, rs, vs, m, hfail⟩ := failCmd_frame told c .state 0 0
  have hdecided := failCmd_decides hfound (findCmd_key hfind) .state 0 0
  rw [hrow]
  refine ⟨?_, hdecided, ?_, ?_⟩
  · rw [swapRefused, hfail, htold]
    rfl
  · rw [hfail, htold]
    rfl
  · rw [hfail, htold]
    rfl

theorem requestSwap_refuses {s : State} {i : Option (Nat × Nat)} {expect : Nat} (h : mayRequest s i)
    (hsome : swapRefusal s { issuer := i, expect := expect, since := s.localTime } ≠ 0) :
    requestSwap s i expect
      = refuseSwap (admitted (swapAsked s { issuer := i, expect := expect, since := s.localTime }) rkSwap 0 (swapInfo i))
          { issuer := i, expect := expect, since := s.localTime }
          (swapRefusal s { issuer := i, expect := expect, since := s.localTime }) := by
  have hcode := swapRefusal_asked s { issuer := i, expect := expect, since := s.localTime } rkSwap 0 (swapInfo i)
  rw [requestSwap_free h, ← hcode]
  exact if_pos (by rwa [hcode])

theorem swap_requests (s : State) (r : SwapReq) (h : takesWrites s) (hmay : mayRequest s none)
    (hr : r = { issuer := none, expect := 2 ^ 64 - 1, since := s.localTime }) :
    (swapRefusal s r = 0 → ∃ t, exec .swap s = .next t ∧ swapPends s t none (2 ^ 64 - 1)
      ∧ t = { s with cset := t.cset, mgmt := { s.mgmt with running := t.mgmt.running } })
    ∧ (swapRefusal s r ≠ 0 → ∃ t, exec .swap s = .next t ∧ swapRefused s t (swapRefusal s r) ∧ t.mem = s.mem ∧ t.cmds = s.cmds
      ∧ t.ctxs = s.ctxs) := by
  subst hr
  have hrow : exec .swap s = .next (requestSwap s none (2 ^ 64 - 1)) :=
    congrArg Host.Outcome.next ((barWrite_takesWrites h _ _ _ _).trans (if_neg (by simp [hmay.1])))
  refine ⟨fun hnone => ⟨_, hrow, requestSwap_admits hmay hnone⟩, fun hsome => ⟨_, hrow, ?_⟩⟩
  rw [requestSwap_refuses hmay hsome]
  obtain ⟨hrefused, _, _, _, _, hframe⟩ := refuseSwap_refuses
    (admitted (swapAsked s { issuer := none, expect := 2 ^ 64 - 1, since := s.localTime }) rkSwap 0 (swapInfo none))
    { issuer := none, expect := 2 ^ 64 - 1, since := s.localTime } (swapRefusal s { issuer := none, expect := 2 ^ 64 - 1, since := s.localTime }) rfl
  refine ⟨hrefused, ?_⟩
  rw [hframe]
  exact ⟨rfl, rfl, rfl⟩

theorem swap_second (s : State) (h : takesWrites s) (hpending : s.cset.pending ≠ none) : ∃ t, exec .swap s = .next t
    ∧ t.cset = { s.cset with swapResult := 0x10, evt := withFlag s.cset.evt 2, evtCnt := s.cset.evtCnt + 1 }
    ∧ t = { s with cset := t.cset, out := t.out, hostPorts := t.hostPorts } := by
  have hrow : swapWrite s = refuseSecond s := if_pos (Option.isSome_iff_ne_none.mpr hpending)
  obtain ⟨⟨o, hp, hraised⟩, -⟩ := csetEvent_raised { s with cset := { s.cset with swapResult := 0x10 } } 2
  refine ⟨_, congrArg Host.Outcome.next ((barWrite_takesWrites h _ _ _ _).trans hrow), ?_⟩
  rw [refuseSecond, hraised]
  exact ⟨rfl, rfl⟩

theorem setSwap_requests (s : State) (n i : Nat) (c : Cmd) (r : SwapReq) (hvalid : validatedAs s n i 5 5 c) (hdone : earlierDone s c = true)
    (hmay : mayRequest s (some (n, i))) (hr : r = { issuer := some (n, i), expect := fld c.desc 16 8, since := s.localTime }) :
    (swapRefusal s r = 0 → ∃ t, exec (.setSwap n i) s = .next t ∧ swapPends s t (some (n, i)) (fld c.desc 16 8)
      ∧ t = { s with cset := t.cset, mgmt := { s.mgmt with running := t.mgmt.running } })
    ∧ (swapRefusal s r ≠ 0 → ∃ t, exec (.setSwap n i) s = .next t ∧ swapRefused s t (swapRefusal s r) ∧ decidedAs t n i .state 0
      ∧ t.mem = s.mem ∧ t.pool = s.pool) := by
  subst hr
  obtain ⟨hfind, -⟩ := id hvalid
  obtain ⟨hctx, hidx⟩ := findCmd_key hfind
  have hact : swapAct s c = requestSwap s (some (n, i)) (fld c.desc 16 8) := by
    simp only [swapAct, hdone, hmay.1, hctx, hidx]
    rfl
  have hrow : exec (.setSwap n i) s = .next (requestSwap s (some (n, i)) (fld c.desc 16 8)) :=
    congrArg Host.Outcome.next ((controlStep_acts hvalid).trans hact)
  refine ⟨fun hnone => ⟨_, hrow, requestSwap_admits hmay hnone⟩, fun hsome => ⟨_, hrow, ?_⟩⟩
  rw [requestSwap_refuses hmay hsome]
  exact refuseSwap_fails (c := c) _ _ _ rfl hfind

/-! ### The drain and the swap point (R371 to R373) -/

theorem drainTimeout_refuses (s : State) (r : SwapReq) (hpending : s.cset.pending = some r) (hissuer : r.issuer = none)
    (hadmitted : r.admitted = true) (hdiffers : drainDiffers s.cset.active s.cset.bench = true) (hbusy : drainBusy s = true)
    (hdue : us 50 ≤ since s r.since) :
    ∃ t, exec .drainTimeout s = .next t ∧ swapRefused s t 0x13 ∧ t.mem = s.mem ∧ t.cmds = s.cmds ∧ t.pool = s.pool := by
  have hrow : drainTimeout s = refuseSwap s r 0x13 := by
    unfold drainTimeout
    rw [hpending]
    exact if_pos (by simp [hadmitted, hdiffers, hbusy, hdue])
  obtain ⟨hrefused, _, _, _, _, hframe⟩ := refuseSwap_refuses s r 0x13 hissuer
  refine ⟨_, congrArg Host.Outcome.next hrow, hrefused, ?_⟩
  rw [hframe]
  exact ⟨rfl, rfl, rfl⟩

/-- R371, R373: the sets exchanged, the fields of the boundary clamped, and the Umpire's record ended. -/
def exchanged (s : State) (info : Nat × Nat) : State := umpEnd (boundaryFields s (exchange s)) rkSwap 0 info

/-- R373: at a swap point that changes neither the owning port nor the module's identifier and moves no page, the sets exchange. -/
theorem swapPoint_eq {s : State} {r : SwapReq} (hpending : s.cset.pending = some r) (hissuer : r.issuer = none) (hadmitted : r.admitted = true)
    (hdrained : drainDiffers s.cset.active s.cset.bench = false ∨ drainBusy s = false) (hport : setPort s.cset.bench = s.owner)
    (hmodule : imgModule s.cset.bench = selfId s) (hplan : swapPlan s s.cset.bench = some ([], [])) :
    swapPoint s = csetEvent (allRegions (exchanged s (swapInfo none)) (fun _ x => x)) 1 := by
  have hover : (drainDiffers s.cset.active s.cset.bench && drainBusy s) = false := by
    rcases hdrained with h | h <;> simp [h]
  have hpoint : swapPoint s = swapNow s r ([], []) := by
    unfold swapPoint
    rw [hpending]
    dsimp only
    rw [if_neg (by simp [hadmitted, hover]), hplan]
  rw [hpoint]
  unfold swapNow endSwap
  simp only [hport, hmodule, hissuer, if_true]
  rfl

theorem exchange_mem {s : State} (hself : selfId { s with cset := { s.cset with active := imgTake s.cset.bench } } = selfId s) :
    (exchange s).mem = s.mem := by
  show renumberCells s.mem (selfId s) (selfId { s with cset := { s.cset with active := imgTake s.cset.bench } }) = s.mem
  rw [hself, renumberCells_same]

/-- R371: poll intervals within the bounds of the set in force. -/
def pollsWithin (s : State) : Prop := ∀ k ∈ s.ctxs, pollMin s ≤ k.2.pollI ∧ (pollMin s ≤ pollMax s → k.2.pollI ≤ pollMax s)

theorem pollsWithin_boundaryFields (old s : State) : pollsWithin (boundaryFields old s) := by
  intro k hk
  obtain ⟨x, -, rfl⟩ := List.mem_map.mp hk
  exact ⟨le_max_left _ _, fun hle => max_le hle (min_le_left _ _)⟩

theorem exchanged_leaves (s : State) (info : Nat × Nat) :
    (exchanged s info).cset = { s.cset with active := imgTake s.cset.bench, bench := s.cset.active, shadowValid := true, pending := none, swapResult := 0 }
      ∧ (exchanged s info).mem = (exchange s).mem ∧ (exchanged s info).pool = s.pool ∧ (exchanged s info).owner = s.owner
      ∧ (exchanged s info).branches = s.branches := by
  dsimp only [exchanged, umpEnd, boundaryFields, exchange]
  exact ⟨rfl, rfl, rfl, rfl, rfl⟩

theorem swapPoint_exchanges (s : State) (r : SwapReq) (hpending : s.cset.pending = some r) (hissuer : r.issuer = none) (hadmitted : r.admitted = true)
    (hdrained : drainDiffers s.cset.active s.cset.bench = false ∨ drainBusy s = false) (hport : setPort s.cset.bench = s.owner)
    (hmodule : imgModule s.cset.bench = selfId s) (hself : selfId { s with cset := { s.cset with active := imgTake s.cset.bench } } = selfId s)
    (hplan : swapPlan s s.cset.bench = some ([], [])) :
    ∃ t, exec .swapPoint s = .next t
      ∧ t.cset = { s.cset with active := imgTake s.cset.bench, bench := s.cset.active, shadowValid := true, pending := none, swapResult := 0,
                               evt := withFlag s.cset.evt 1, evtCnt := s.cset.evtCnt + 1 }
      ∧ (∀ k ∈ t.ctxs, pollMin t ≤ k.2.pollI ∧ (pollMin t ≤ pollMax t → k.2.pollI ≤ pollMax t))
      ∧ t.mem = s.mem ∧ t.pool = s.pool ∧ t.owner = s.owner ∧ t.branches = s.branches := by
  have hrow := swapPoint_eq hpending hissuer hadmitted hdrained hport hmodule hplan
  obtain ⟨hcset, hmem, hpool, howner, hbranches⟩ := exchanged_leaves s (swapInfo none)
  have hpolls : pollsWithin (exchanged s (swapInfo none)) := pollsWithin_boundaryFields s (exchange s)
  generalize exchanged s (swapInfo none) = e at hrow hcset hmem hpool howner hbranches hpolls
  obtain ⟨rs, hregions⟩ := allRegions_onlyRegions e (fun _ x => x)
  obtain ⟨⟨o, h, hraised⟩, -⟩ := csetEvent_raised (allRegions e (fun _ x => x)) 1
  rw [hregions] at hrow hraised
  rw [hraised] at hrow
  refine ⟨_, congrArg Host.Outcome.next hrow, ?_, hpolls, hmem.trans (exchange_mem hself), hpool, howner, hbranches⟩
  dsimp only
  rw [hcset]

/-- Settles O50: what refuses a substitution rests on neither the request nor the Umpire, and the exchange moves no byte. -/
theorem substitution : Obligations.Substitution :=
  ⟨benchWrite_writes, benchCheck_reports, benchLoad_loads, benchLoad_unreachable, swap_requests, swap_second, setSwap_requests,
    drainTimeout_refuses, swapPoint_exchanges⟩

end Sys2Proof.Machine
end

section
/-! PROOFS. The Umpire and the recalibration of sensors (O51): which activity is admitted next, and that an activity which has ended is known no
longer; then each clause of the obligation from these. -/

namespace Sys2Proof.Machine

/-! ### Admission (R436, R437) -/

/-- The first of several activities by rank is one of them. -/
theorem firstByRank_mem {as : List Activity} {a : Activity} (h : firstByRank as = some a) : a ∈ as := by
  induction as with
  | nil => cases h
  | cons x xs ih =>
    unfold firstByRank at h
    split at h
    · cases h
      exact List.mem_cons_self
    · next b hrest =>
      split at h
      · cases h
        exact List.mem_cons_of_mem x (ih hrest)
      · cases h
        exact List.mem_cons_self

theorem umpNext_admissible (s : State) (a : Activity) (h : umpNext s = some a) :
    a ∈ s.mgmt.queued ∧ ∀ b ∈ s.mgmt.running, compatible a b = true := by
  have hwaits : a ∈ s.mgmt.queued ∧ umpFits s a = true := by
    unfold umpNext at h
    split at h
    · next b holdest =>
      split at h
      · next hfits =>
        cases h
        exact ⟨List.mem_of_find?_eq_some holdest, hfits⟩
      · cases h
    · exact List.mem_filter.mp (firstByRank_mem h)
  obtain ⟨hqueued, hfits⟩ := hwaits
  exact ⟨hqueued, List.all_eq_true.mp hfits⟩

theorem umpireAdmit_next {s : State} {a : Activity} (h : umpNext s = some a) : umpireAdmit s = startActivity (umpMove s a) a := by
  simp only [umpireAdmit, h]

theorem umpireAdmit_sensor (s : State) (a : Activity) (hnext : umpNext s = some a) (hrank : a.rank = rkSensor) :
    ∃ t, exec .umpireAdmit s = .next t
      ∧ t.mgmt = { s.mgmt with running := s.mgmt.running ++ [a], queued := s.mgmt.queued.erase a } ∧ a.info.1 ∈ t.power.outOfService
      ∧ t = { s with mgmt := t.mgmt, power := { s.power with outOfService := t.power.outOfService } } := by
  have hstart : startActivity (umpMove s a) a = recalibrate (umpMove s a) a.info.1 := by
    unfold startActivity
    rw [hrank]
    rfl
  exact ⟨_, congrArg Host.Outcome.next ((umpireAdmit_next hnext).trans hstart), rfl, (mem_sins _ _ _).mpr (.inl rfl), rfl⟩

theorem umpireAdmit_none (s : State) (h : umpNext s = none) : exec .umpireAdmit s = .next s := by
  refine congrArg Host.Outcome.next ?_
  simp only [umpireAdmit, h]

/-- An activity that has ended neither runs nor waits. -/
theorem umpKnown_umpEnd (s : State) (rank scope : Nat) (info : Nat × Nat) : umpKnown (umpEnd s rank scope info) rank scope info = false := by
  refine List.any_eq_false.mpr fun x hx => ?_
  rw [umpEnd, ← List.filter_append] at hx
  have hkept := (List.mem_filter.mp hx).2
  rw [Bool.not_eq_true'] at hkept
  exact Bool.eq_false_iff.mp hkept

/-! ### Sensors (R437) -/

theorem sensorRecalibration_begins (s : State) (d x : Nat) (hd : d < 16) (hx : sensorOfDie d x = true)
    (hfree : umpireFree s rkSensor d (x, 0)) :
    ∃ t, exec (.sensorRecalibration d x) s = .next t ∧ umpireRuns s t rkSensor d (x, 0)
      ∧ (∀ y, y ∈ t.power.outOfService ↔ y = x ∨ y ∈ s.power.outOfService)
      ∧ t = { s with mgmt := { s.mgmt with running := t.mgmt.running }, power := { s.power with outOfService := t.power.outOfService } } := by
  obtain ⟨hunknown, -⟩ := id hfree
  have hrow : sensorRecalibration d x s = recalibrate (admitted s rkSensor d (x, 0)) x := by
    unfold sensorRecalibration
    rw [if_neg (by simp [hd, hx]), umpRuns_of_unknown hunknown, if_neg Bool.false_ne_true, hunknown, if_neg Bool.false_ne_true,
      umpAsk_free hfree]
    exact if_pos (umpRuns_admitted s rkSensor d (x, 0))
  exact ⟨_, congrArg Host.Outcome.next hrow, ⟨rfl, rfl⟩, fun y => mem_sins s.power.outOfService x y, rfl⟩

theorem sensorRecalibration_ends (s : State) (d x : Nat) (hd : d < 16) (hx : sensorOfDie d x = true)
    (hruns : umpRuns s rkSensor d (x, 0) = true) :
    ∃ t, exec (.sensorRecalibration d x) s = .next t ∧ umpKnown t rkSensor d (x, 0) = false ∧ x ∉ t.power.outOfService
      ∧ t = { s with mgmt := { s.mgmt with running := t.mgmt.running, queued := t.mgmt.queued },
                     power := { s.power with outOfService := t.power.outOfService } } := by
  have hrow : sensorRecalibration d x s
      = umpEnd { s with power := { s.power with outOfService := srem s.power.outOfService x } } rkSensor d (x, 0) :=
    (if_neg (by simp [hd, hx])).trans (if_pos hruns)
  exact ⟨_, congrArg Host.Outcome.next hrow, umpKnown_umpEnd _ _ _ _, fun hmem => ((mem_srem _ _ _).mp hmem).2 rfl, rfl⟩

/-- Settles O51: the activity admitted next waits and fits, and one that has ended is known no longer. -/
theorem umpire : Obligations.Umpire :=
  ⟨umpNext_admissible, umpireAdmit_sensor, umpireAdmit_none, sensorRecalibration_begins, sensorRecalibration_ends⟩

end Sys2Proof.Machine
end

section
/-! PROOFS. The event log's flush, the update of firmware and its activation (O55): what an update's operations leave of the update and of the
banks, and the reset that an activation makes; then each clause of the obligation from these. -/

namespace Sys2Proof.Machine

/-! ### The flush of the log (R422) -/

/-- R422: a ring that is not full takes records at its end. -/
theorem foldl_ringAdd (rs l : List LogRec) (h : l.length + rs.length ≤ 524288) : rs.foldl ringAdd l = l ++ rs := by
  induction rs generalizing l with
  | nil => exact (List.append_nil l).symm
  | cons r rs ih =>
    rw [List.length_cons] at h
    have hadd : ringAdd l r = l ++ [r] := if_pos (by omega)
    rw [List.foldl_cons, hadd, ih _ (by rw [List.length_append, List.length_singleton]; omega), List.append_assoc, List.singleton_append]

theorem logFlush_flushes (s : State) (hup : baristaUp s = true) (hdue : flushDue s = true) (hfree : umpireFree s rkLog 0 (0, 0))
    (hroom : s.mgmt.logFlash.length + s.mgmt.logBuffer.length ≤ 524288) :
    ∃ t, exec .logFlush s = .next t ∧ t.mgmt.logFlash = s.mgmt.logFlash ++ s.mgmt.logBuffer ∧ t.mgmt.logBuffer = []
      ∧ t = { s with mgmt := { s.mgmt with logFlash := t.mgmt.logFlash, logBuffer := [], running := t.mgmt.running } } := by
  obtain ⟨hunknown, hqueued, -⟩ := id hfree
  have hrow : logFlush s = flushLog (admitted s rkLog 0 (0, 0)) := by
    unfold logFlush
    rw [if_neg (by simp [hup, hdue, hunknown]), umpAsk_free hfree]
    exact if_pos (umpRuns_admitted s rkLog 0 (0, 0))
  refine ⟨_, congrArg Host.Outcome.next hrow, foldl_ringAdd _ _ hroom, rfl, ?_⟩
  dsimp only [flushLog, umpEnd, admitted]
  rw [hqueued]
  rfl

/-! ### The state of an update (R427) -/

theorem onEp_answers {s : State} {ep : Nat} (h : epAnswers s ep = true) (f : State → State) : onEp ep f s = f s := if_pos h

theorem updateOf_some {s : State} {ep : Nat} {u : Update} (hu : s.mgmt.update = some u) (hep : u.ep = ep) : updateOf s ep = some u := by
  simp [updateOf, hu, hep]

theorem inUpdate_some {s : State} {ep : Nat} {u : Update} (hu : s.mgmt.update = some u) (hep : u.ep = ep) (f : Update → State → State) :
    inUpdate ep f s = f u s := by
  simp only [inUpdate, updateOf_some hu hep]

theorem setBank_one (s : State) {b : Nat} (x : Bank) (h : b ≠ 0) : setBank s b x = { s with mgmt := { s.mgmt with bank1 := x } } := if_neg h

/-- A bank written changes nothing but the banks. -/
theorem setBank_leaves (s : State) (b : Nat) (x : Bank) :
    ∃ b0 b1, setBank s b x = { s with mgmt := { s.mgmt with bank0 := b0, bank1 := b1 } } := by
  unfold setBank
  split
  · exact ⟨_, _, rfl⟩
  · exact ⟨_, _, rfl⟩

theorem requestUpdate_takes (s : State) (ep : Nat) (hep : epAnswers s ep = true) (hidle : s.mgmt.update = none) :
    ∃ t, exec (.requestUpdate ep) s = .next t
    ∧ t.mgmt.update = some { ep := ep, bank := 1 - s.mgmt.activeBank, lastTime := s.localTime }
    ∧ (s.mgmt.activeBank = 0 → t.mgmt.bank1.valid = false ∧ t.mgmt.bank0 = s.mgmt.bank0)
    ∧ (s.mgmt.activeBank = 1 → t.mgmt.bank0.valid = false ∧ t.mgmt.bank1 = s.mgmt.bank1)
    ∧ t.out.mgmt = s.out.mgmt ++ [.pldm ep 0x510 []] := by
  let b := 1 - s.mgmt.activeBank
  let marked := setBank s b { bankOf s b with valid := false }
  have hrow : requestUpdate ep s = mgmtSend (putUpdate marked { ep := ep, bank := b }) (.pldm ep 0x510 []) := if_neg (by simp [hidle])
  obtain ⟨_, _, hmarked⟩ := setBank_leaves s b { bankOf s b with valid := false }
  have hout : marked.out = s.out ∧ marked.localTime = s.localTime := by
    rw [show marked = _ from hmarked]
    exact ⟨rfl, rfl⟩
  refine ⟨_, congrArg Host.Outcome.next ((onEp_answers hep _).trans hrow), ?_, fun hactive => ?_, fun hactive => ?_, ?_⟩
  · show some ({ ep := ep, bank := b, lastTime := marked.localTime } : Update) = _
    rw [hout.2]
  · show marked.mgmt.bank1.valid = false ∧ marked.mgmt.bank0 = s.mgmt.bank0
    rw [show marked = _ from setBank_one s _ (show b ≠ 0 by omega)]
    exact ⟨rfl, rfl⟩
  · show marked.mgmt.bank0.valid = false ∧ marked.mgmt.bank1 = s.mgmt.bank1
    rw [show marked = _ from if_pos (show b = 0 by omega)]
    exact ⟨rfl, rfl⟩
  · show marked.out.mgmt ++ _ = _
    rw [hout.1]

theorem requestUpdate_refuses (s : State) (ep : Nat) (u : Update) (hep : epAnswers s ep = true) (hu : s.mgmt.update = some u) :
    ∃ t, exec (.requestUpdate ep) s = .next t ∧ answers s t (.alreadyInUpdateMode ep) :=
  ⟨_, congrArg Host.Outcome.next ((onEp_answers hep _).trans (if_pos (by simp [hu]))), rfl⟩

theorem passComponentTable_notes (s : State) (ep : Nat) (u : Update) (hep : epAnswers s ep = true) (hu : s.mgmt.update = some u)
    (hagent : u.ep = ep) (k : Nat) :
    ∃ t, exec (.passComponentTable ep k) s = .next t ∧ t.mgmt.update = some { u with lastTime := s.localTime }
      ∧ t.out.mgmt = s.out.mgmt ++ [.pldm ep 0x513 [k]] :=
  ⟨_, congrArg Host.Outcome.next ((onEp_answers hep _).trans (inUpdate_some hu hagent _)), rfl, rfl⟩

/-- R427: a slice asked for changes nothing but what has been sent. -/
theorem askSlice_sends (s : State) (u : Update) : askSlice s u = { s with out := { s.out with mgmt := s.out.mgmt
    ++ (if u.data.length < u.size then [.requestFirmwareData u.ep u.data.length (min sliceSize (u.size - u.data.length))] else []) } } := by
  unfold askSlice
  split
  · rfl
  · rw [List.append_nil]

theorem updateComponent_asks (s : State) (ep : Nat) (u : Update) (hep : epAnswers s ep = true) (hu : s.mgmt.update = some u)
    (hagent : u.ep = ep) (k n : Nat) (hk : k = 1 ∨ k = 2) (hn : n ≤ 2 ^ 25) :
    ∃ t, exec (.updateComponent ep k n) s = .next t
      ∧ t.mgmt.update = some { u with component := some k, size := n, data := [], slice := none, verified := none, lastTime := s.localTime }
      ∧ t.out.mgmt = s.out.mgmt ++ [.pldm ep 0x514 []] ++ (if 0 < n then [.requestFirmwareData ep 0 (min 1048576 n)] else []) := by
  subst hagent
  let v : Update := { u with component := some k, size := n, data := [], slice := none, verified := none }
  have hrow : updateComponent u.ep k n s = askSlice (mgmtSend (putUpdate s v) (.pldm u.ep 0x514 [])) v :=
    (inUpdate_some hu rfl _).trans (if_pos ⟨hk, hn⟩)
  rw [askSlice_sends] at hrow
  exact ⟨_, congrArg Host.Outcome.next ((onEp_answers hep _).trans hrow), rfl, rfl⟩

/-- R427: the slice that the Umpire has admitted joins the data. -/
theorem writeSlice_writes {s : State} {u : Update} {bs : List Byte} (hu : s.mgmt.update = some u) (hslice : u.slice = some bs) :
    (writeSlice s).mgmt.update = some { u with data := (u.data ++ bs).take u.size, slice := none, lastTime := s.localTime } := by
  simp only [writeSlice, hu, hslice, askSlice_sends]
  rfl

theorem firmwareData_stages (s : State) (ep : Nat) (u : Update) (hep : epAnswers s ep = true) (hu : s.mgmt.update = some u) (hagent : u.ep = ep)
    (bs : List Byte) (hcomponent : u.component ≠ none) (hslice : u.slice = none) (hroom : u.data.length < u.size)
    (hfree : umpireFree s rkStaging 0 (0, 0)) :
    ∃ t v, exec (.firmwareData ep bs) s = .next t ∧ t.mgmt.update = some v
      ∧ v.data = u.data ++ bs.take (min 1048576 (u.size - u.data.length)) ∧ v.slice = none ∧ v.lastTime = s.localTime := by
  let slice := bs.take (min sliceSize (u.size - u.data.length))
  let held := putUpdate s { u with slice := some slice }
  have hask : umpAsk held rkStaging 0 (0, 0) = admitted held rkStaging 0 (0, 0) := umpAsk_free (s := held) hfree
  have hrow : firmwareData ep bs s = writeSlice (admitted held rkStaging 0 (0, 0)) := by
    unfold firmwareData
    rw [updateOf_some hu hagent]
    dsimp only
    rw [if_neg (by simp [hcomponent, hslice, hroom]), show umpAsk (putUpdate s _) rkStaging 0 (0, 0) = _ from hask]
    exact if_pos (umpRuns_admitted held rkStaging 0 (0, 0))
  have hwritten := writeSlice_writes (s := admitted held rkStaging 0 (0, 0)) (u := { u with slice := some slice, lastTime := s.localTime })
    (bs := slice) rfl rfl
  refine ⟨_, _, congrArg Host.Outcome.next ((onEp_answers hep _).trans hrow), hwritten, ?_, rfl, rfl⟩
  have hslices : slice.length ≤ u.size - u.data.length := (List.length_take_le _ _).trans (Nat.min_le_right _ _)
  refine List.take_of_length_le ?_
  show (u.data ++ slice).length ≤ u.size
  rw [List.length_append]
  omega

/-! ### The end of a transfer (R425, R426) -/

/-- R427, step 3: the outcome of a transfer changes the update and what has been sent. -/
theorem endTransfer_sends (s : State) (u : Update) (ok : Bool) : ∃ v, endTransfer s u ok
    = { s with mgmt := { s.mgmt with update := some v }
               out := { s.out with mgmt := s.out.mgmt
                 ++ (if ok = true then [.verifyComplete u.ep true, .applyComplete u.ep] else [.verifyComplete u.ep false]) } } := by
  cases ok with
  | false => exact ⟨_, rfl⟩
  | true =>
    refine ⟨{ u with component := none, data := [], verified := some true, lastTime := s.localTime }, ?_⟩
    simp [endTransfer, mgmtSend, putUpdate]

/-- Reports leave the banks and what Barista has sent. -/
theorem reported.banks {s t : State} (h : reported s t) :
    t.mgmt.bank0 = s.mgmt.bank0 ∧ t.mgmt.bank1 = s.mgmt.bank1 ∧ t.out.mgmt = s.out.mgmt := by
  obtain ⟨⟨_, _, _, _, _, _, _, _, _, _, _, rfl⟩, -, hsent, -⟩ := h
  exact ⟨rfl, rfl, hsent⟩

theorem transferComplete_judges (s : State) (ep : Nat) (u : Update) (hep : epAnswers s ep = true) (hu : s.mgmt.update = some u)
    (hagent : u.ep = ep) (himage : u.component = some 1) :
    ∃ t, exec (.transferComplete ep) s = .next t
      ∧ (u.bank = 0 → t.mgmt.bank0.valid = ((imageBank s.mgmt.ownerKey s.mgmt.floor u.data).valid && u.data.length == u.size))
      ∧ (u.bank = 1 → t.mgmt.bank1.valid = ((imageBank s.mgmt.ownerKey s.mgmt.floor u.data).valid && u.data.length == u.size))
      ∧ t.out.mgmt = s.out.mgmt ++ (if ((imageBank s.mgmt.ownerKey s.mgmt.floor u.data).valid && u.data.length == u.size) = true
          then [.verifyComplete ep true, .applyComplete ep] else [.verifyComplete ep false]) := by
  subst hagent
  have hrow : transferComplete u.ep s
      = (let b := imageBank s.mgmt.ownerKey s.mgmt.floor u.data
         let ok := b.valid && u.data.length == u.size
         let s1 := setBank s u.bank { b with valid := ok }
         endTransfer (if ok then logEvent (mgmtEvent s1 0) lsBarista 0 0x0050 0xFFFF u.bank else s1) u ok) := by
    refine (inUpdate_some hu rfl _).trans ?_
    simp only [himage]
  generalize imageBank s.mgmt.ownerKey s.mgmt.floor u.data = b at hrow ⊢
  dsimp only at hrow
  generalize (b.valid && u.data.length == u.size) = ok at hrow ⊢
  let banked := setBank s u.bank { b with valid := ok }
  have htold : reported banked (if ok then logEvent (mgmtEvent banked 0) lsBarista 0 0x0050 0xFFFF u.bank else banked) := by
    split
    · exact (reported_mgmtEvent banked 0).trans (reported_logEvent _ _ _ _ _ _)
    · exact .refl banked
  obtain ⟨h0, h1, hsent⟩ := htold.banks
  obtain ⟨v, hended⟩ := endTransfer_sends (if ok then logEvent (mgmtEvent banked 0) lsBarista 0 0x0050 0xFFFF u.bank else banked) u ok
  rw [hended] at hrow
  refine ⟨_, congrArg Host.Outcome.next ((onEp_answers hep _).trans hrow), fun hbank => ?_, fun hbank => ?_, ?_⟩
  · dsimp only
    rw [h0, show banked = _ from if_pos hbank]
  · dsimp only
    rw [h1, show banked = _ from setBank_one s _ (by omega)]
  · obtain ⟨_, _, hbanked⟩ := setBank_leaves s u.bank { b with valid := ok }
    dsimp only
    rw [hsent, show banked = _ from hbanked]

/-! ### The end of an update (R427) -/

/-- R437: what the Umpire knows rests on what runs and what waits. -/
theorem umpKnown_congr {s t : State} (hruns : t.mgmt.running = s.mgmt.running) (hwaits : t.mgmt.queued = s.mgmt.queued) (rank scope : Nat)
    (info : Nat × Nat) : umpKnown t rank scope info = umpKnown s rank scope info := by
  rw [umpKnown, hruns, hwaits, umpKnown]

theorem umpKnown_mgmtSend (s : State) (m : MgmtOut) (rank scope : Nat) (info : Nat × Nat) :
    umpKnown (mgmtSend s m) rank scope info = umpKnown s rank scope info := umpKnown_congr rfl rfl rank scope info

theorem umpKnown_putUpdate (s : State) (u : Update) (rank scope : Nat) (info : Nat × Nat) :
    umpKnown (putUpdate s u) rank scope info = umpKnown s rank scope info := umpKnown_congr rfl rfl rank scope info

theorem cancelUpdateComponent_ends (s : State) (ep : Nat) (u : Update) (hep : epAnswers s ep = true) (hu : s.mgmt.update = some u)
    (hagent : u.ep = ep) :
    ∃ t, exec (.cancelUpdateComponent ep) s = .next t
      ∧ t.mgmt.update = some { u with component := none, data := [], slice := none, lastTime := s.localTime }
      ∧ t.out.mgmt = s.out.mgmt ++ [.pldm ep 0x51C []] ∧ umpKnown t rkStaging 0 (0, 0) = false :=
  ⟨_, congrArg Host.Outcome.next ((onEp_answers hep _).trans (inUpdate_some hu hagent _)), rfl, rfl,
    (umpKnown_mgmtSend _ _ _ _ _).trans ((umpKnown_putUpdate _ _ _ _ _).trans (umpKnown_umpEnd s _ _ _))⟩

theorem cancelUpdate_ends (s : State) (ep : Nat) (u : Update) (hep : epAnswers s ep = true) (hu : s.mgmt.update = some u) (hagent : u.ep = ep) :
    ∃ t, exec (.cancelUpdate ep) s = .next t ∧ t.mgmt.update = none ∧ t.out.mgmt = s.out.mgmt ++ [.pldm ep 0x51D []]
      ∧ umpKnown t rkStaging 0 (0, 0) = false :=
  ⟨_, congrArg Host.Outcome.next ((onEp_answers hep _).trans (inUpdate_some hu hagent _)), rfl, rfl,
    (umpKnown_mgmtSend _ _ _ _ _).trans (umpKnown_umpEnd _ _ _ _)⟩

theorem updateTimeout_ends (s : State) (u : Update) (hu : s.mgmt.update = some u) (hdue : us 60000000 ≤ since s u.lastTime) :
    ∃ t, exec .updateTimeout s = .next t ∧ t.mgmt.update = none ∧ t.out = s.out ∧ t.phase = s.phase := by
  have hrow : updateTimeout s = dropStaging { s with mgmt := { s.mgmt with update := none } } := by
    simp only [updateTimeout, hu]
    exact if_pos (decide_eq_true hdue)
  exact ⟨_, congrArg Host.Outcome.next hrow, rfl, rfl, rfl⟩

/-! ### Activation (R428, R440) -/

theorem activateFirmware_pends (s : State) (ep : Nat) (hep : epAnswers s ep = true) (hvalid : (bankOf s (1 - s.mgmt.activeBank)).valid = true) :
    exec (.activateFirmware ep false) s
      = .next { s with mgmt := { s.mgmt with update := none, pendingBank := some (1 - s.mgmt.activeBank) },
                       out := { s.out with mgmt := s.out.mgmt ++ [.pldm ep 0x51A []] } } := by
  have hstaged : (bankOf s (stagedBank s)).valid = true := hvalid
  exact congrArg Host.Outcome.next ((onEp_answers hep _).trans (if_neg (by simp [hstaged])))

/-- R428: a start-up after an activation tries the staged bank first. -/
def activationOf (s : State) : State := { s with mgmt := { s.mgmt with activating := some (stagedBank s) } }

theorem chooseBank_activationOf {s : State} (hverifies : bankVerifies (bankOf s (1 - s.mgmt.activeBank)) (nextOwnerKey s) s.mgmt.floor = true) :
    chooseBank (activationOf s) = some (1 - s.mgmt.activeBank) :=
  if_pos hverifies

/-- R428: an activation that nothing keeps from running resets the module, which starts up from the staged bank. -/
theorem requestActivation_resets {s : State} (hvalid : (bankOf s (1 - s.mgmt.activeBank)).valid = true)
    (hfree : umpireFree s rkActivate 0 (0, 0))
    (hverifies : bankVerifies (bankOf s (1 - s.mgmt.activeBank)) (nextOwnerKey s) s.mgmt.floor = true) :
    (requestActivation s).phase = .startup true ∧ (requestActivation s).mgmt.activeBank = 1 - s.mgmt.activeBank
      ∧ (requestActivation s).cmds = [] := by
  obtain ⟨hunknown, -⟩ := id hfree
  have hstaged : (bankOf s (stagedBank s)).valid = true := hvalid
  let chosen := activationOf (admitted s rkActivate 0 (0, 0))
  have hrow : requestActivation s = resetModule chosen mrActivation true := by
    unfold requestActivation
    rw [if_neg (by simp [hstaged, hunknown]), umpAsk_free hfree]
    exact if_pos (umpRuns_admitted s rkActivate 0 (0, 0))
  have hbank : chooseBank chosen = some (1 - s.mgmt.activeBank) := chooseBank_activationOf (s := admitted s rkActivate 0 (0, 0)) hverifies
  obtain ⟨⟨_, _, _, _, _, _, _, _, _, _, _, hreset⟩, -⟩ := reported_resetModule chosen mrActivation true
  rw [hrow, hreset]
  refine ⟨phaseAfter_of_bank true (by rw [hbank]; exact Option.some_ne_none _), ?_, rfl⟩
  show (chooseBank chosen).getD s.mgmt.activeBank = _
  rw [hbank]
  rfl

theorem activate_resets (s : State) (ep : Nat) (hep : epAnswers s ep = true) (hvalid : (bankOf s (1 - s.mgmt.activeBank)).valid = true)
    (hfree : umpireFree s rkActivate 0 (0, 0))
    (hverifies : bankVerifies (bankOf s (1 - s.mgmt.activeBank)) (nextOwnerKey s) s.mgmt.floor = true) :
    (∃ t, exec (.activateFirmware ep true) s = .next t ∧ t.phase = .startup true ∧ t.mgmt.activeBank = 1 - s.mgmt.activeBank ∧ t.cmds = [])
    ∧ (takesWrites s → ∃ t, exec .fwActivate s = .next t ∧ t.phase = .startup true ∧ t.mgmt.activeBank = 1 - s.mgmt.activeBank ∧ t.cmds = []) := by
  let told := mgmtSend { s with mgmt := { s.mgmt with update := none } } (.pldm ep 0x51A [])
  have hstaged : (bankOf s (stagedBank s)).valid = true := hvalid
  have hrow : activateFirmware ep true s = requestActivation told := (if_neg (by simp [hstaged])).trans (if_pos rfl)
  exact ⟨⟨_, congrArg Host.Outcome.next ((onEp_answers hep _).trans hrow), requestActivation_resets (s := told) hvalid hfree hverifies⟩,
    fun htakes => ⟨_, congrArg Host.Outcome.next (barWrite_takesWrites htakes _ _ _ _), requestActivation_resets hvalid hfree hverifies⟩⟩

/-- Settles O55, from what each operation leaves of the update and from the reset that an activation makes. -/
theorem firmwareUpdate : Obligations.FirmwareUpdate :=
  ⟨logFlush_flushes, requestUpdate_takes, requestUpdate_refuses,
    fun s ep u hep hu hagent => ⟨passComponentTable_notes s ep u hep hu hagent, updateComponent_asks s ep u hep hu hagent,
      firmwareData_stages s ep u hep hu hagent, transferComplete_judges s ep u hep hu hagent, cancelUpdateComponent_ends s ep u hep hu hagent,
      cancelUpdate_ends s ep u hep hu hagent⟩,
    updateTimeout_ends, activateFirmware_pends, fun s ep hep hvalid hfree _ => activate_resets s ep hep hvalid hfree⟩

end Sys2Proof.Machine
end

section
/-! PROOFS. Standby (O10): the entry and its refusal, the saves that a kill does not undo, the power-off that keeps the carafes, and the wake;
then each clause of the obligation from these. -/

namespace Sys2Proof.Machine

/-! ### The entry (R413, R414) -/

theorem standby_enters (s : State) (n i : Nat) (c : Cmd) (hvalid : validatedAs s n i 5 7 c) (hdone : earlierDone s c = true)
    (hawake : s.standby = none) :
    exec (.standby n i) s
      = .next { s with standby := some { ctx := n, idx := i, stage := .draining, wakeMs := fld c.desc 16 4, enteredAt := s.localTime } } := by
  obtain ⟨hfind, -⟩ := id hvalid
  obtain ⟨hctx, hidx⟩ := findCmd_key hfind
  have hact : standbyAct s c
      = { s with standby := some { ctx := c.ctx, idx := c.idx, stage := .draining, wakeMs := fld c.desc 16 4, enteredAt := s.localTime } } :=
    if_pos (by simp [hdone, hawake])
  rw [hctx, hidx] at hact
  exact congrArg Host.Outcome.next ((controlStep_acts hvalid).trans hact)

/-- R418: a standby that holds no write ends with nothing applied. -/
theorem endStandby_of_none {s : State} {b : Standby} (h : b.held = []) : endStandby s b = { s with standby := none } := by
  rw [endStandby, h]
  rfl

theorem decideStandby_fails {s : State} {b : Standby} {c : Cmd} (hfind : findCmd s b.ctx b.idx = some c) (hstage : c.stage = .validated)
    (st : Status) (result : Nat) : decideStandby s b st result = failCmd s c st 0 result := by
  simp only [decideStandby, hfind]
  exact if_pos hstage

/-- R414: the entry's checks are made once everything else has drained, or 1 ms has passed. -/
theorem standbyQuiesced_due {s : State} {b : Standby} (hat : standbyAt s b .draining) (hrun : s.phase = .running)
    (hdue : (othersFly s b.ctx = false ∧ channelsBusy s = false) ∨ us 1000 ≤ since s b.enteredAt) :
    standbyQuiesced s = if standbyRefused s b.ctx then endStandby (decideStandby s b .state 0) b
      else standbySave { s with standby := some { b with stage := .saving } } := by
  obtain ⟨hstandby, hstage, -⟩ := hat
  have hover : ((othersFly s b.ctx || channelsBusy s) && decide (since s b.enteredAt < us 1000)) = false := by
    rcases hdue with ⟨hothers, hchannels⟩ | hlong
    · simp [hothers, hchannels]
    · simp [Nat.not_lt.mpr hlong]
  unfold standbyQuiesced
  simp only [hstandby]
  rw [if_neg (by simp [hstage, hrun]), hover, if_neg Bool.false_ne_true]

/-! ### The saves begin (R267, R414, R418) -/

/-- A standby that has passed its checks is kept. -/
def keepsEntry (s t : State) : Prop := ∀ b, s.standby = some b → b.stage ≠ .draining → t.standby = some b

theorem requestsWithdrawn_standby (s : State) (c : Cmd) : (requestsWithdrawn s c).standby = s.standby := by
  obtain ⟨_, _, hhuddle⟩ := huddleWithdraw_frame s c
  unfold requestsWithdrawn
  rw [hhuddle]
  dsimp only
  split
  · obtain ⟨⟨_, _, hraised⟩, -⟩ := csetEvent_raised _ _
    rw [hraised]
    rfl
  · rfl

theorem killAgain_keepsEntry (s : State) (c : Cmd) : keepsEntry s (killAgain s c) := by
  intro b hbegun hstage
  obtain ⟨_, _, hnoted⟩ := noteKill_frame s c
  obtain ⟨_, _, hreleased⟩ := release_frame (withdraw (noteKill s c) c) c
  have hwithdrawn : (requestsWithdrawn (noteKill s c) c).standby = some b := by
    rw [requestsWithdrawn_standby, hnoted]
    exact hbegun
  have hleft : (withdraw (noteKill s c) c).standby = some b := by
    simp only [withdraw_leavesStandby, standbyLeft, hwithdrawn]
    rw [if_neg fun ⟨_, _, hdraining⟩ => hstage hdraining]
    exact hwithdrawn
  rw [killAgain, hreleased]
  exact hleft

theorem beginSave_keepsEntry (s : State) (n : Nat) (ranges : Option (List (Nat × Nat))) : keepsEntry s (beginSave s n ranges) :=
  seqAll_rel (R := keepsEntry) (fun _ _ h _ => h) (fun hst htu b h hb => htu b (hst b h hb) hb) killAgain_keepsEntry _ s

theorem standbySave_keepsEntry (s : State) : keepsEntry s (standbySave s) := by
  unfold standbySave
  split
  · split
    · split
      · exact beginSave_keepsEntry s _ none
      · exact fun _ h _ => h
    · exact fun _ h _ => h
  · exact fun _ h _ => h

theorem standbyQuiesced_checks (s : State) (b : Standby) (hat : standbyAt s b .draining) (hrun : s.phase = .running)
    (hdue : (othersFly s b.ctx = false ∧ channelsBusy s = false) ∨ us 1000 ≤ since s b.enteredAt) :
    (standbyRefused s b.ctx = true → (∃ c, findCmd s b.ctx b.idx = some c ∧ c.stage = .validated) →
      ∃ t, exec .standbyQuiesced s = .next t ∧ t.standby = none ∧ decidedAs t b.ctx b.idx .state 0 ∧ t.mem = s.mem ∧ t.pool = s.pool)
    ∧ (standbyRefused s b.ctx = false → ∃ t, exec .standbyQuiesced s = .next t ∧ t.standby = some { b with stage := .saving }) := by
  have hrow := standbyQuiesced_due hat hrun hdue
  obtain ⟨-, -, hheld⟩ := hat
  refine ⟨fun hrefused ⟨c, hfind, hstage⟩ => ?_, fun hfine => ?_⟩
  · rw [if_pos hrefused, endStandby_of_none hheld, decideStandby_fails hfind hstage] at hrow
    have hdecided : decidedAs (failCmd s c .state 0 0) b.ctx b.idx .state 0 := failCmd_decides hfind (findCmd_key hfind) .state 0 0
    obtain ⟨_, _, _, _, hfailed⟩ := failCmd_frame s c .state 0 0
    refine ⟨_, congrArg Host.Outcome.next hrow, rfl, hdecided, ?_, ?_⟩
    · rw [hfailed]
      rfl
    · rw [hfailed]
      rfl
  · rw [if_neg (by simp [hfine])] at hrow
    refine ⟨_, congrArg Host.Outcome.next hrow, standbySave_keepsEntry _ _ rfl ?_⟩
    exact fun h => by cases h

/-! ### The power-off (R414, R415) -/

/-- No byte of a carafe changes, and nothing else but memory and its poison. -/
def keepsCarafeBytes (s t : State) : Prop :=
  (∀ a, isCarafe a = true → mget t.mem a = mget s.mem a) ∧ ∃ m p, t = { s with mem := m, poison := p }

theorem keepsCarafeBytes.refl (s : State) : keepsCarafeBytes s s := ⟨fun _ _ => rfl, _, _, rfl⟩

theorem keepsCarafeBytes.trans {s t u : State} (hst : keepsCarafeBytes s t) (htu : keepsCarafeBytes t u) : keepsCarafeBytes s u := by
  obtain ⟨hbytes, _, _, rfl⟩ := hst
  obtain ⟨hbytes', _, _, rfl⟩ := htu
  exact ⟨fun a ha => (hbytes' a ha).trans (hbytes a ha), _, _, rfl⟩

/-- R191, R192: a scratch range ends within its module's scratch space, so that it holds no byte of a carafe. -/
theorem scratchRanges_apart {s : State} {n : Nat} {r : Nat × Nat} (hr : r ∈ scratchRanges s n) {a : Nat} (ha : isCarafe a = true) :
    ¬ (r.1 ≤ a ∧ a < r.1 + r.2) := by
  obtain ⟨e, he, rfl⟩ := List.mem_map.mp hr
  have hscratch := (List.mem_filter.mp he).2
  rw [Bool.and_eq_true] at hscratch
  have hbase : e.base / 2 ^ 46 % 16 = 1 := beq_iff_eq.mp hscratch.2
  have hcarafe : a / 2 ^ 46 % 16 = 0 := beq_iff_eq.mp ha
  dsimp only [gaOff]
  omega

theorem loseScratch_keepsCarafeBytes (s : State) : keepsCarafeBytes s (loseScratch s) := by
  refine seqAll_rel keepsCarafeBytes.refl keepsCarafeBytes.trans (fun s n => ?_) _ s
  refine seqAll_rel_mem keepsCarafeBytes.refl keepsCarafeBytes.trans _ (fun t r hr => ?_) s
  exact ⟨fun a ha => (mget_mclear _ _ _ _).trans (if_neg (scratchRanges_apart hr ha)), _, _, rfl⟩

/-- Host ports keep their links, and the owning role its port. -/
def hostLinksKept (s t : State) : Prop := t.owner = s.owner ∧ ∀ q, (hostPortOf t q).link = (hostPortOf s q).link

theorem portTo_hostLinks (s : State) (p : Nat) (g : PortState) : hostLinksKept s (portTo s p g) := by
  by_cases hstate : (portOf s p).state = g
  · rw [portTo, if_pos hstate]
    exact ⟨rfl, fun _ => rfl⟩
  · rw [portTo_other hstate, portMovedWith]
    obtain ⟨⟨_, _, hraised⟩, -, -, hports⟩ := raiseSource_raised (setPortRec (setPortRec s p (atState s p g)) p
      (portFlagged (portOf (setPortRec s p (atState s p g)) p) (withFlag (portOf s p).evt 0))) 2
    refine ⟨by rw [hraised]; rfl, fun q => ?_⟩
    obtain ⟨b, hb⟩ := hports q
    rw [hb]
    rfl

theorem portTo_actsOnPort (g : PortState) : actsOnPort (fun s p => portTo s p g) := fun s p => by
  obtain ⟨-, -, hothers, hlinks⟩ := portTo_leaves s p g
  exact ⟨hlinks, hothers⟩

/-- Every port brought to a state. -/
def allPortsTo (s : State) (g : PortState) : State := seqAll s (List.range 32) (fun s p => portTo s p g)

theorem allPortsTo_leaves (s : State) (g : PortState) :
    linksOnly s (allPortsTo s g) ∧ hostLinksKept s (allPortsTo s g) ∧ ∀ p, p < 32 → (portOf (allPortsTo s g) p).state = g := by
  obtain ⟨hlinks, -, heach⟩ := seqAll_ports (portTo_actsOnPort g) (List.range 32) List.nodup_range s
  refine ⟨hlinks, ?_, fun p hp => ?_⟩
  · exact seqAll_rel (R := hostLinksKept) (fun _ => ⟨rfl, fun _ => rfl⟩)
      (fun hst htu => ⟨htu.1.trans hst.1, fun q => (htu.2 q).trans (hst.2 q)⟩) (fun s p => portTo_hostLinks s p g) _ s
  · obtain ⟨u, -, -, hbecomes⟩ := heach p (List.mem_range.mpr hp)
    obtain ⟨hstate, -⟩ := portTo_leaves u p g
    exact (congrArg Port.state hbecomes).trans hstate

/-- The owning link's change touches its host port alone. -/
theorem ownLink_leaves (s : State) (old new : HostLink) :
    (∃ h, ownLink s old new = { s with hostPorts := h }) ∧ ((hostPortOf s s.owner).link = old → (hostPortOf (ownLink s old new) s.owner).link = new) := by
  unfold ownLink
  split
  · exact ⟨⟨_, rfl⟩, fun _ => congrArg HostPort.link (hostPortOf_modHostPort_self s s.owner _)⟩
  · next hnot => exact ⟨⟨_, rfl⟩, fun h => absurd h hnot⟩

/-- R414, step 5: a state with the standby asleep from now on. -/
def asleepNow (s : State) (b : Standby) (u : State) : State :=
  { u with standby := some { b with stage := .asleep, enteredAt := s.localTime, wakeAt := s.localTime } }

theorem standbyPowerOff_eq {s : State} {b : Standby} (hat : standbyAt s b .saving) (hsaved : ∀ k ∈ s.ctxs, k.2.res ≠ .saving ∧ k.2.res ≠ .restoring) :
    standbyPowerOff s = ownLink (asleepNow s b (allPortsTo (loseScratch s) .down)) .up .lowPower := by
  obtain ⟨hstandby, hstage, -⟩ := hat
  have hall : s.ctxs.all (fun k => k.2.res != .saving && k.2.res != .restoring) = true :=
    List.all_eq_true.mpr fun k hk => by
      obtain ⟨hsaving, hrestoring⟩ := hsaved k hk
      simp [hsaving, hrestoring]
  unfold standbyPowerOff
  simp only [hstandby]
  rw [if_pos ⟨hstage, hall⟩]
  rfl

theorem standbyPowerOff_sleeps (s : State) (b : Standby) (hat : standbyAt s b .saving)
    (hsaved : ∀ k ∈ s.ctxs, k.2.res ≠ .saving ∧ k.2.res ≠ .restoring) :
    ∃ t, exec .standbyPowerOff s = .next t
      ∧ t.standby = some { b with stage := .asleep, enteredAt := s.localTime, wakeAt := s.localTime }
      ∧ (∀ p, p < 32 → (portOf t p).state = .down)
      ∧ (∀ a, isCarafe a = true → a < 2 ^ 64 → mget t.mem a = mget s.mem a)
      ∧ ((hostPortOf s s.owner).link = .up → (hostPortOf t t.owner).link = .lowPower) := by
  have hrow := standbyPowerOff_eq hat hsaved
  obtain ⟨hbytes, _, _, hlost⟩ := loseScratch_keepsCarafeBytes s
  obtain ⟨hlinks, ⟨howner, hhost⟩, hdown⟩ := allPortsTo_leaves (loseScratch s) .down
  generalize allPortsTo (loseScratch s) .down = u at hrow hlinks howner hhost hdown
  obtain ⟨⟨h, hown⟩, hlow⟩ := ownLink_leaves (asleepNow s b u) .up .lowPower
  have hmem : u.mem = (loseScratch s).mem := by rw [hlinks]
  have howner : u.owner = s.owner := howner.trans (by rw [hlost])
  have hhost : ∀ q, (hostPortOf u q).link = (hostPortOf s q).link := fun q => (hhost q).trans (by rw [hlost]; rfl)
  refine ⟨_, congrArg Host.Outcome.next hrow, ?_, fun p hp => ?_, fun a ha _ => ?_, fun hlink => ?_⟩
  · rw [hown]
    rfl
  · rw [hown]
    exact hdown p hp
  · rw [hown]
    exact (congrArg (mget · a) hmem).trans (hbytes a ha)
  · have hself : (ownLink (asleepNow s b u) .up .lowPower).owner = u.owner := by
      rw [hown]
      rfl
    rw [hself]
    exact hlow ((hhost u.owner).trans (by rw [howner]; exact hlink))

/-! ### The wake (R416, R417) -/

theorem wakeTimer_wakes (s : State) (b : Standby) (hstandby : s.standby = some b) (hstage : b.stage = .asleep) (hcause : b.cause = none)
    (hms : b.wakeMs ≠ 0) (hdue : us (1000 * b.wakeMs) ≤ since s b.enteredAt) :
    exec .wakeTimer s = .next { s with standby := some { b with cause := some 1, wakeAt := s.localTime } } := by
  have hmark : markWake s b 1 = { b with cause := some 1, wakeAt := s.localTime } := if_neg (by simp [hcause])
  refine congrArg Host.Outcome.next ?_
  unfold wakeTimer
  simp only [hstandby]
  rw [if_pos ⟨hstage, hms, hdue⟩, hmark]

/-- R417: a port of a module that wakes trains where it is enabled, and is DISABLED else. -/
def wakePort (s : State) (p : Nat) : State := if (portOf s p).enable then startTraining s p else portTo s p .disabled

theorem wakePort_actsOnPort : actsOnPort wakePort := fun s p => by
  unfold wakePort
  split
  · exact startTraining_actsOnPort s p
  · exact portTo_actsOnPort .disabled s p

/-- R417: the dies powered again, before their ports train. -/
def powered (s : State) (b : Standby) : State :=
  { wipeScratch s with
    regions := s.regions.map (fun r => (r.1, { r.2 with gated := false, idleSince := s.localTime }))
    clusters := s.clusters.map (fun k => (k.1, { k.2 with arrivals := [], rowOwner := none }))
    links := { s.links with reads := [] }
    ageAt := s.ageAt + (s.localTime - b.enteredAt) }

theorem wakeDies_eq (s : State) (b : Standby) : wakeDies s b = seqAll (powered s b) (List.range 32) wakePort := by
  unfold wakeDies powered wakePort
  rfl

theorem clusterOf_powered (s : State) (b : Standby) (q : Nat) : (clusterOf (powered s b) q).arrivals = [] :=
  congrArg Cluster.arrivals (aget_map s.clusters (fun _ k => { k with arrivals := [], rowOwner := none }) q {} rfl)

/-- R417: what the wake of the dies leaves of ports, commands and clusters. -/
theorem wakeDies_leaves (s : State) (b : Standby) :
    (wakeDies s b).cmds = s.cmds ∧ (∀ q, (clusterOf (wakeDies s b) q).arrivals = [])
      ∧ ∀ p, p < 32 → (portOf s p).enable = true → (portOf s p).state = .down → (linkDieOf s (p / 4)).resetting = false →
        (portOf (wakeDies s b) p).state = .training := by
  obtain ⟨hlinks, -, heach⟩ := seqAll_ports wakePort_actsOnPort (List.range 32) List.nodup_range (powered s b)
  rw [← wakeDies_eq] at hlinks heach
  generalize wakeDies s b = t at hlinks heach
  rw [linksOnly] at hlinks
  refine ⟨by rw [hlinks]; rfl, fun q => ?_, fun p hp henable hdown hdie => ?_⟩
  · rw [hlinks]
    exact clusterOf_powered s b q
  · obtain ⟨u, hu, hport, hbecomes⟩ := heach p (List.mem_range.mpr hp)
    obtain ⟨-, -, htrains⟩ := startTraining_leaves u p
    have hsame : portOf u p = portOf s p := hport
    have hwakes : wakePort u p = startTraining u p := if_pos (by rw [hsame]; exact henable)
    rw [hbecomes, hwakes]
    exact htrains (by rw [hsame]; exact henable) (by rw [hsame]; exact hdown) (by rw [hu.linkDieOf]; exact hdie)

/-- A command that ends leaves clear arrival counters clear. -/
theorem failCmd_arrivals {s : State} {q : Nat} (h : (clusterOf s q).arrivals = []) (c : Cmd) (st : Status) (order result : Nat) :
    (clusterOf (failCmd s c st order result) q).arrivals = [] := by
  show (clusterOf (release s c) q).arrivals = []
  rw [clusterOf_release]
  split
  · rw [freeCluster, h]
    rfl
  · exact h

/-- The state of a wake before its STANDBY completes. -/
def awakened (s : State) (b : Standby) : State := resumePolls (wakeDies (ownLink { s with standby := none } .lowPower .up) b)

theorem awakened_leaves (s : State) (b : Standby) :
    (awakened s b).cmds = s.cmds ∧ (∀ q, (clusterOf (awakened s b) q).arrivals = [])
      ∧ ∀ p, p < 32 → (portOf s p).enable = true → (portOf s p).state = .down → (linkDieOf s (p / 4)).resetting = false →
        (portOf (awakened s b) p).state = .training := by
  obtain ⟨hcmds, harrivals, htrains⟩ := wakeDies_leaves (ownLink { s with standby := none } .lowPower .up) b
  obtain ⟨⟨h, hown⟩, -⟩ := ownLink_leaves { s with standby := none } .lowPower .up
  unfold awakened
  generalize wakeDies (ownLink { s with standby := none } .lowPower .up) b = t at hcmds harrivals htrains
  refine ⟨hcmds.trans (by rw [hown]), harrivals, fun p hp henable hdown hdie => ?_⟩
  refine htrains p hp ?_ ?_ ?_
  all_goals rw [hown]
  · exact henable
  · exact hdown
  · exact hdie

theorem standbyResume_completes (s : State) (b : Standby) (k : Nat) (hat : standbyAt s b .asleep) (hcause : b.cause = some k)
    (hdue : us 1500 ≤ since s b.wakeAt) (hissuer : ∃ c, findCmd s b.ctx b.idx = some c ∧ c.stage = .validated) :
    ∃ t, exec .standbyResume s = .next t ∧ t.standby = none
      ∧ decidedAs t b.ctx b.idx .ok (k + 2 ^ 32 * min (2 ^ 32 - 1) ((b.wakeAt - b.enteredAt).toNat / us 1000))
      ∧ (∀ p, p < 32 → (portOf s p).enable = true → (portOf s p).state = .down → (linkDieOf s (p / 4)).resetting = false →
          (portOf t p).state = .training)
      ∧ (∀ q, (clusterOf t q).arrivals = []) := by
  obtain ⟨hstandby, hstage, hheld⟩ := hat
  obtain ⟨c, hfind, hvalidated⟩ := hissuer
  obtain ⟨hcmds, harrivals, htrains⟩ := awakened_leaves s b
  have hfound : findCmd (awakened s b) b.ctx b.idx = some c := by
    rw [findCmd, hcmds]
    exact hfind
  have hrow : standbyResume s = { failCmd (awakened s b) c .ok 0 (standbyResult b k) with standby := none } := by
    rw [← decideStandby_fails hfound hvalidated, ← endStandby_of_none hheld]
    unfold standbyResume
    simp only [hstandby, hcause]
    rw [if_neg (by rw [hstage]; decide), if_pos ⟨hstage, hdue⟩]
    rfl
  have hdecided := failCmd_decides hfound (findCmd_key hfound) .ok 0 (standbyResult b k)
  refine ⟨_, congrArg Host.Outcome.next hrow, rfl, hdecided, fun p hp henable hdown hdie => ?_,
    fun q => failCmd_arrivals (harrivals q) c .ok 0 (standbyResult b k)⟩
  show (portOf (failCmd (awakened s b) c .ok 0 (standbyResult b k)) p).state = .training
  rw [portOf_congr (congrArg Links.ports (failCmd_links (awakened s b) c .ok 0 (standbyResult b k)))]
  exact htrains p hp henable hdown hdie

/-- Settles O10: kills do not undo an entry that has passed its checks, and scratch lies apart from the carafes. -/
theorem standbyStages : Obligations.StandbyStages :=
  ⟨standby_enters, standbyQuiesced_checks, standbyPowerOff_sleeps, wakeTimer_wakes, standbyResume_completes⟩

end Sys2Proof.Machine
end
